-- ==== Sys2Proof/Word.lean ====
section
/-! DEFINITION. The word types of the machine and nothing else: bytes, 32-bit lane words, 64-bit scalars. -/

namespace Sys2Proof

/-- A byte of memory (00 R6). -/
abbrev Byte := BitVec 8

/-- The 32 bits that a vector register holds per lane (01 R22). -/
abbrev W32 := BitVec 32

/-- A 64-bit scalar register, address or system register (01 R24, R34). -/
abbrev W64 := BitVec 64

/-- A 1,024-bit image of one 128-byte coherence granule, byte 0 in bits 7 to 0 (15, preamble). -/
abbrev Granule := BitVec 1024

end Sys2Proof
end

