-- ==== Sys2Proof/Config.lean ====
section
/-! DEFINITION. The free values: constants with no body, for everything the manual leaves open. Nothing in Lean can
evaluate them, so a claim proved here holds whatever they are. Each is named in the assumption log. -/

namespace Sys2Proof.Config

/-- The source of every free choice: which ready work goes next, how many cycles pass, which of two allowed values is
seen. It is applied to State.fresh, a counter that the step advances (assumption log 2). -/
opaque free : Nat → Nat

/-- Candidate results of the approximated functions, by operation number and operand bits (06 R144): 0 frcp, 1 frsq,
2 fexp2, 3 flog2, 4 fsin, 5 fcos. A candidate outside its bound is not used (assumption log 4). -/
opaque approx : Nat → BitVec 32 → BitVec 32

/-- The size in 512-byte units of the compressed image of a 64 KiB page (13 R298; assumption log 7). -/
opaque compressedUnits : List Byte → Nat

/-- The bytes of the compressed image of a page (13 R298; assumption log 7). -/
opaque compressedBytes : List Byte → List Byte

/-- The firmware image that the flash holds verifies against the fused root key (18 R399; assumption log 8). -/
opaque signatureGood : List Byte → Bool

/-- The version that a firmware image carries (18 R399; assumption log 8). -/
opaque imageVersion : List Byte → BitVec 32

/-- The flash can be read at this reset (18 R399; assumption log 8). -/
opaque flashReadable : Nat → Bool

/-- The fused minimum firmware version (18 R399; assumption log 8). -/
opaque minVersion : BitVec 32

/-- The module serial number, 16 bytes (18 R402; assumption log 8). -/
opaque serialNumber : List Byte

/-- The 512 signature bytes of an attestation reply over its first 256 bytes (18 R402; assumption log 8). -/
opaque attestSignature : List Byte → List Byte

/-- The identity key's certificate, as the management window shows it (18 R402; assumption log 8). -/
opaque identityCertificate : List Byte

/-- The combining routines registered with the fabric manager, by context and routine number (18 R391, R392; assumption log 2). -/
opaque routine : Nat → BitVec 16 → List (BitVec 32)

/-- The stored checksum or coding of a page image fails its check when it is expanded (13 R297; assumption log 7). -/
opaque imageCheckFails : Nat → Bool

/-- The DPA on a peer to which the peer translates VA[61:0] of a route-01 access (18 R382, R383; assumption log 2). -/
opaque peerDpa : Nat → Nat

/-- How a peer answers an access that this module's own units make (18 R382; assumption log 2). -/
opaque peerAnswer : Nat → Nat

/-- DSTAT.CORE and DSTAT.SUBC of the Shepherd core of a paddock, which has no core index (01 R36; assumption log 5). -/
opaque shepherdPlace : Nat → BitVec 8

end Sys2Proof.Config
end

