-- ==== Sys2Proof/Machine/Num.lean ====
section
/-! DEFINITION. Exact binary numbers, the IEEE formats and the one rounding of the device (02 R41-R46). -/

namespace Sys2Proof.Machine

/-- The exact number m × 2^e. -/
structure Dy where
  m : Int
  e : Int
  deriving DecidableEq, Repr

/-- The exact sum. -/
def Dy.add (a b : Dy) : Dy :=
  let e := min a.e b.e
  ⟨a.m * 2 ^ (a.e - e).toNat + b.m * 2 ^ (b.e - e).toNat, e⟩

/-- The exact negation, difference and product. -/
def Dy.neg (a : Dy) : Dy := ⟨-a.m, a.e⟩
def Dy.sub (a b : Dy) : Dy := a.add b.neg
def Dy.mul (a b : Dy) : Dy := ⟨a.m * b.m, a.e + b.e⟩

/-- The exact zero. -/
def Dy.zero : Dy := ⟨0, 0⟩

/-- Exact order. -/
def Dy.lt (a b : Dy) : Bool := decide ((a.sub b).m < 0)
def Dy.eq (a b : Dy) : Bool := decide ((a.sub b).m = 0)

/-- ⌊log2 |a|⌋ of a nonzero number. -/
def Dy.log (a : Dy) : Int := (Nat.log2 a.m.natAbs : Int) + a.e

/-- An IEEE binary format: precision with the hidden bit, and exponent bits (02 R41). -/
structure Fmt where
  p  : Nat
  ew : Nat
  deriving DecidableEq, Repr

def f32 : Fmt := ⟨24, 8⟩
def f16 : Fmt := ⟨11, 5⟩
def bf16 : Fmt := ⟨8, 8⟩
def f64 : Fmt := ⟨53, 11⟩

/-- Bias, smallest normal exponent and width of a format (02 R41). -/
def Fmt.bias (f : Fmt) : Nat := 2 ^ (f.ew - 1) - 1
def Fmt.emin (f : Fmt) : Int := 1 - (f.bias : Int)
def Fmt.width (f : Fmt) : Nat := f.p + f.ew

/-- Exponent of the subnormal grid: s = 2^sexp (02 R41). -/
def Fmt.sexp (f : Fmt) : Int := f.emin - ((f.p : Int) - 1)

/-- A floating-point operand (02 R42). A NaN keeps its fraction left-aligned in 52 bits, its quiet bit in bit 51. -/
inductive FV where
  | fin (neg : Bool) (m : Nat) (e : Int)
  | inf (neg : Bool)
  | nan (neg : Bool) (frac : Nat)
  deriving DecidableEq, Repr

/-- The fraction and exponent fields of an encoding. -/
def Fmt.frac (f : Fmt) (w : Nat) : Nat := w % 2 ^ (f.p - 1)
def Fmt.expo (f : Fmt) (w : Nat) : Nat := w / 2 ^ (f.p - 1) % 2 ^ f.ew
def Fmt.sign (f : Fmt) (w : Nat) : Bool := decide (w / 2 ^ (f.p - 1 + f.ew) % 2 = 1)

/-- The value of an encoding (02 R42). Under FTZ a subnormal reads as the zero of its sign (02 R44). -/
def Fmt.read (f : Fmt) (ftz : Bool) (w : Nat) : FV :=
  let s := f.sign w
  let x := f.frac w
  let e := f.expo w
  if e = 2 ^ f.ew - 1 then if x = 0 then .inf s else .nan s (x * 2 ^ (53 - f.p))
  else if e = 0 then .fin s (if ftz then 0 else x) f.sexp
  else .fin s (2 ^ (f.p - 1) + x) ((e : Int) - f.bias - (f.p - 1))

/-- The sign bit of a format. -/
def Fmt.signBit (f : Fmt) (neg : Bool) : Nat := if neg then 2 ^ (f.p - 1 + f.ew) else 0

/-- The encodings of zero, infinity, the largest finite value and a NaN (02 R41, R43). -/
def Fmt.zero (f : Fmt) (neg : Bool) : Nat := f.signBit neg
def Fmt.infinity (f : Fmt) (neg : Bool) : Nat := f.signBit neg + (2 ^ f.ew - 1) * 2 ^ (f.p - 1)
def Fmt.largest (f : Fmt) (neg : Bool) : Nat := f.infinity neg - 1
def Fmt.nan (f : Fmt) (neg : Bool) (frac : Nat) : Nat := f.infinity neg + frac / 2 ^ (53 - f.p)
def Fmt.canonical (f : Fmt) : Nat := f.infinity false + 2 ^ (f.p - 2)

/-- The flags of one operation, as FLAGS holds them (01 R35). -/
abbrev Fl := BitVec 5
def flNV : Fl := 1
def flDZ : Fl := 2
def flOF : Fl := 4
def flUF : Fl := 8
def flNX : Fl := 16

/-- A result: its encoding and its flags. -/
abbrev Res := Nat × Fl

/-- Whether a magnitude n + rem / d is rounded up to n + 1 (02 R45): 0 RNE, 1 RZ, 2 RU, 3 RD, 4 RNA. -/
def roundsUp (rm : Nat) (neg : Bool) (n rem d : Nat) : Bool :=
  match rm with
  | 0 => decide (d < 2 * rem) || (decide (2 * rem = d) && decide (n % 2 = 1))
  | 1 => false
  | 2 => !neg && decide (0 < rem)
  | 3 => neg && decide (0 < rem)
  | _ => decide (d ≤ 2 * rem)

/-- The overflow result of a mode (02 R45). -/
def Fmt.overflow (f : Fmt) (rm : Nat) (neg : Bool) : Nat :=
  if rm = 0 ∨ rm = 4 ∨ (rm = 2 ∧ !neg) ∨ (rm = 3 ∧ neg) then f.infinity neg else f.largest neg

/-- ROUNDING a nonzero magnitude m × 2^e of sign `neg` (02 R44-R46). -/
def Fmt.roundMag (f : Fmt) (rm : Nat) (ftz neg : Bool) (m : Nat) (e : Int) : Res :=
  let k : Int := (Nat.log2 m : Int) + e
  let tiny := decide (k < f.emin)
  if tiny && ftz then (f.zero neg, flUF ||| flNX)
  else
    let q := max (k - ((f.p : Int) - 1)) f.sexp
    let sh := (q - e).toNat
    let m := m * 2 ^ (e - q).toNat
    let n := m / 2 ^ sh
    let rem := m % 2 ^ sh
    let n := if roundsUp rm neg n rem (2 ^ sh) then n + 1 else n
    let (n, q) := if n = 2 ^ f.p then (2 ^ (f.p - 1), q + 1) else (n, q)
    if n ≥ 2 ^ (f.p - 1) ∧ (f.bias : Int) < q + (f.p - 1) then (f.overflow rm neg, flOF ||| flNX)
    else
      let fl := if rem = 0 then 0 else if tiny then flUF ||| flNX else flNX
      if n < 2 ^ (f.p - 1) then (f.signBit neg + n, fl)
      else (f.signBit neg + (q + (f.p - 1) + f.bias).toNat * 2 ^ (f.p - 1) + (n - 2 ^ (f.p - 1)), fl)

/-- The rounding of an exact number; an exact zero takes sign `zneg`. -/
def Fmt.round (f : Fmt) (rm : Nat) (ftz zneg : Bool) (x : Dy) : Res :=
  if x.m = 0 then (f.zero zneg, 0) else f.roundMag rm ftz (decide (x.m < 0)) x.m.natAbs x.e

/-- The exact value of a finite operand. -/
def FV.dy : FV → Dy
  | .fin neg m e => ⟨if neg then -(m : Int) else m, e⟩
  | _ => .zero

/-- The sign of an operand. -/
def FV.neg : FV → Bool
  | .fin n _ _ => n
  | .inf n => n
  | .nan n _ => n

def FV.isNan : FV → Bool
  | .nan _ _ => true
  | _ => false

/-- A signalling NaN (02 R42). -/
def FV.isSnan : FV → Bool
  | .nan _ x => decide (x / 2 ^ 51 % 2 = 0)
  | _ => false

def FV.isInf : FV → Bool
  | .inf _ => true
  | _ => false

def FV.isZero : FV → Bool
  | .fin _ m _ => m == 0
  | _ => false

/-- Finite or zero. -/
def FV.isFin : FV → Bool
  | .fin _ _ _ => true
  | _ => false

/-- The environment of an operation: result format and the fields of MODE that it reads (01 R31). -/
structure Fenv where
  f    : Fmt
  rm   : Nat
  ftz  : Bool
  cnan : Bool
  deriving DecidableEq, Repr

/-- A NaN result (02 R43): canonical under CNAN or when no source is a NaN, else the first NaN source, quieted. -/
def nanOut (c : Fenv) (srcs : List FV) (invalid : Bool) : Res :=
  let fl := if invalid || srcs.any (·.isSnan) then flNV else 0
  let w := if c.cnan then c.f.canonical
    else match srcs.find? (·.isNan) with
      | some (.nan neg x) => c.f.nan neg (x % 2 ^ 51 + 2 ^ 51)
      | _ => c.f.canonical
  (w, fl)

/-- round(± a × b ± d) (06 R139): `np` negates the product, `nd` the addend. NaN order is `srcs`. -/
def fmaWith (c : Fenv) (srcs : List FV) (np nd : Bool) (a b d : FV) : Res :=
  let bad := (a.isInf && b.isZero) || (a.isZero && b.isInf)
  if bad || a.isNan || b.isNan || d.isNan then nanOut c srcs bad
  else
    let sp := (a.neg != b.neg) != np
    let sd := d.neg != nd
    if a.isInf || b.isInf then
      if d.isInf && sp != sd then nanOut c srcs true else (c.f.infinity sp, 0)
    else if d.isInf then (c.f.infinity sd, 0)
    else
      let p := a.dy.mul b.dy
      let x := (if np then p.neg else p).add (if nd then d.dy.neg else d.dy)
      c.f.round c.rm c.ftz (if sp == sd then sp else c.rm == 3) x

/-- The number 1. -/
def FV.one : FV := .fin false 1 0

/-- The six arithmetic forms (06 R139). -/
def fpAdd (c : Fenv) (a b : FV) : Res := fmaWith c [a, b] false false a .one b
def fpSub (c : Fenv) (a b : FV) : Res := fmaWith c [a, b] false true a .one b
def fpMul (c : Fenv) (a b : FV) : Res := fmaWith c [a, b] false false a b (.fin (a.neg != b.neg) 0 0)
def fpFma (c : Fenv) (np nd : Bool) (a b d : FV) : Res := fmaWith c [a, b, d] np nd a b d

/-- IEEE order on operands that are not NaNs; with `z`, −0 lies below +0 (06 R140, R142). -/
def fpLt (z : Bool) (a b : FV) : Bool :=
  match a, b with
  | .inf na, .inf nb => na && !nb
  | .inf na, _ => na
  | _, .inf nb => !nb
  | _, _ => a.dy.lt b.dy || (z && a.isZero && b.isZero && a.neg && !b.neg)

def fpEq (a b : FV) : Bool :=
  match a, b with
  | .inf na, .inf nb => na == nb
  | .fin _ _ _, .fin _ _ _ => a.dy.eq b.dy
  | _, _ => false

/-- The encoding of an operand that was read: a flushed subnormal is the zero of its sign. -/
def FV.word (f : Fmt) (w : Nat) : FV → Nat
  | .fin neg m _ => if m = 0 then f.zero neg else w
  | _ => w

/-- `fmin` and `fmax` on two encodings (06 R140). -/
def fpMinMax (c : Fenv) (isMax : Bool) (x y : Nat) : Res :=
  let a := c.f.read c.ftz x
  let b := c.f.read c.ftz y
  let nv := if a.isSnan || b.isSnan then flNV else 0
  if a.isNan && b.isNan then nanOut c [a, b] false
  else if a.isNan then (b.word c.f y, nv)
  else if b.isNan then (a.word c.f x, nv)
  else if (if isMax then fpLt true a b else fpLt true b a) then (b.word c.f y, nv) else (a.word c.f x, nv)

/-- The integer square root, by `k` + 1 binary digits from the top. -/
def isqrtFrom (n : Nat) : Nat → Nat → Nat
  | 0, r => if (r + 1) * (r + 1) ≤ n then r + 1 else r
  | k + 1, r => isqrtFrom n k (if (r + 2 ^ (k + 1)) * (r + 2 ^ (k + 1)) ≤ n then r + 2 ^ (k + 1) else r)

/-- ⌊√n⌋. -/
def isqrt (n : Nat) : Nat := isqrtFrom n (Nat.log2 n / 2 + 1) 0

/-- √(m × 2^e) to at least `g` bits, the last of them set when the root is inexact. -/
def sqrtApprox (g m : Nat) (e : Int) : Nat × Int :=
  let t := g + 1 + (e % 2).toNat
  let t := if (e - t) % 2 = 0 then t else t + 1
  let t2 := t + 2 * g
  let n := m * 2 ^ t2
  let r := isqrt n
  (2 * r + (if r * r = n then 0 else 1), (e - t2) / 2 - 1)

/-- round(√a) (06 R143). -/
def fpSqrt (c : Fenv) (a : FV) : Res :=
  match a with
  | .nan _ _ => nanOut c [a] false
  | .inf neg => if neg then nanOut c [a] true else (c.f.infinity false, 0)
  | .fin neg m e =>
    if m = 0 then (c.f.zero neg, 0)
    else if neg then nanOut c [a] true
    else
      let (n, q) := sqrtApprox 32 m e
      c.f.roundMag c.rm c.ftz false n q

/-- A nonzero magnitude rounded to an integer (06 R146, R150). -/
def roundInt (rm : Nat) (neg : Bool) (m : Nat) (e : Int) : Nat × Bool :=
  let m := m * 2 ^ e.toNat
  let d := 2 ^ (-e).toNat
  let n := m / d
  let rem := m % d
  (if roundsUp rm neg n rem d then n + 1 else n, rem != 0)

/-- `fround` (06 R146). -/
def fpRound (c : Fenv) (w : Nat) : Res :=
  let a := c.f.read c.ftz w
  match a with
  | .nan _ _ => if a.isSnan then nanOut c [a] false else (w, 0)
  | .inf neg => (c.f.infinity neg, 0)
  | .fin neg m e =>
    let n := (roundInt c.rm neg m e).1
    if n = 0 then (c.f.zero neg, 0) else ((c.f.roundMag 1 false neg n 0).1, 0)

/-- Conversion between formats (06 R149). -/
def fpCvt (c : Fenv) (a : FV) : Res :=
  match a with
  | .nan _ _ => nanOut c [a] false
  | .inf neg => (c.f.infinity neg, 0)
  | .fin neg m e => if m = 0 then (c.f.zero neg, 0) else c.f.roundMag c.rm c.ftz neg m e

/-- Conversion to an integer in [lo, hi] (06 R150). -/
def fpToInt (rm : Nat) (lo hi : Int) (a : FV) : Int × Fl :=
  match a with
  | .nan _ _ => (0, flNV)
  | .inf neg => (if neg then lo else hi, flNV)
  | .fin neg m e =>
    let (n, nx) := roundInt rm neg m e
    let x : Int := if neg then -(n : Int) else n
    if x < lo then (lo, flNV) else if hi < x then (hi, flNV) else (x, if nx then flNX else 0)

/-- `fscale` (06 R147). Beyond ±1,000 a larger n changes no result. -/
def fpScale (c : Fenv) (a : FV) (n : Int) : Res :=
  match a with
  | .nan _ _ => nanOut c [a] false
  | .inf neg => (c.f.infinity neg, 0)
  | .fin neg m e => if m = 0 then (c.f.zero neg, 0) else c.f.roundMag c.rm c.ftz neg m (e + max (-1000) (min n 1000))

/-- `fgetexp` (06 R147). -/
def fpGetExp (c : Fenv) (a : FV) : Res :=
  match a with
  | .nan _ _ => nanOut c [a] false
  | .inf _ => (c.f.infinity false, 0)
  | .fin _ m _ => if m = 0 then (c.f.infinity true, flDZ) else c.f.round 0 false false ⟨a.dy.log, 0⟩

/-- `fgetman` (06 R147). -/
def fpGetMan (c : Fenv) (a : FV) : Res :=
  match a with
  | .nan _ _ => nanOut c [a] false
  | .inf neg => (c.f.infinity neg, 0)
  | .fin neg m _ => if m = 0 then (c.f.zero neg, 0) else c.f.roundMag 0 false neg m (-(Nat.log2 m : Int))

/-- `fclass` (06 R148). -/
def fpClass (f : Fmt) (w : Nat) : Nat :=
  match f.read false w with
  | .nan neg x => if (FV.nan neg x).isSnan then 1 else 2
  | .inf neg => if neg then 4 else 512
  | .fin neg m _ =>
    if m = 0 then if neg then 32 else 64
    else if f.expo w = 0 then if neg then 16 else 128
    else if neg then 8 else 256

end Sys2Proof.Machine
end

