-- ==== Sys2Proof/Machine/Approx.lean ====
section
/-! DEFINITION. The approximating functions (06 R144, R145). The manual gives each an error bound and not its bits: the
result is a free value within the bound (assumption log 4). Each function is evaluated here far below one ulp, so that
the bound can be checked. -/

namespace Sys2Proof.Machine

/-- Σ over k of term × x / (i (i + 1) … ), in fixed point with `g` fraction bits: the exponential series for `step` 1, the
sine and cosine series for `step` 2 with x the negated square. -/
def series (g : Nat) (x : Int) (step : Nat) : Nat → Nat → Int → Int → Int
  | 0, _, _, acc => acc
  | n + 1, i, t, acc =>
    let t := t * x / 2 ^ g / (if step = 1 then (i : Int) else (i : Int) * (i + 1))
    series g x step n (i + step) t (acc + t)

/-- Σ over k of z^(2k + 1) / (2k + 1), signs alternating when `alt`: the series of artanh and arctan. -/
def oddSeries (g : Nat) (z2 : Int) (alt : Bool) : Nat → Nat → Int → Int → Int
  | 0, _, _, acc => acc
  | n + 1, i, p, acc =>
    let p := p * z2 / 2 ^ g
    let p := if alt then -p else p
    oddSeries g z2 alt n (i + 2) p (acc + p / (i : Int))

/-- arctan(1 / n) and artanh(1 / n) with `g` fraction bits. -/
def arcInv (g n : Nat) (alt : Bool) : Int :=
  let z : Int := 2 ^ g / (n : Int)
  oddSeries g (2 ^ g / ((n : Int) * n)) alt (g / 3) 3 z z

/-- 2π with 320 fraction bits, by Machin's formula. -/
def twoPi : Int := 32 * arcInv 320 5 true - 8 * arcInv 320 239 true

/-- ln 2 with 128 fraction bits. -/
def ln2 : Int := 2 * arcInv 128 3 false

/-- 2^x for an x with 128 fraction bits in [0, 1). -/
def exp2Frac (x : Int) : Int := series 128 (x * ln2 / 2 ^ 128) 1 40 1 (2 ^ 128) (2 ^ 128)

/-- log2 of t in [1, 2), both with 128 fraction bits. -/
def log2Frac (t : Int) : Int :=
  let z := (t - 2 ^ 128) * 2 ^ 128 / (t + 2 ^ 128)
  2 * oddSeries 128 (z * z / 2 ^ 128) false 50 3 z z * 2 ^ 128 / ln2

/-- An angle in radians reduced to [0, 2π), with 128 fraction bits. -/
def reduceAngle (x : Dy) : Int := (x.m * 2 ^ (x.e + 320).toNat / 2 ^ (-(x.e + 320)).toNat) % twoPi / 2 ^ 192

/-- A number with 128 fraction bits, kept strictly within −1 and 1, as each sine and cosine of a nonzero operand is. -/
def belowOne (x : Int) : Int := max (1 - 2 ^ 128) (min x (2 ^ 128 - 1))

/-- sin and cos of a reduced angle, with 128 fraction bits. -/
def sinFix (r : Int) : Int := belowOne (series 128 (-(r * r / 2 ^ 128)) 2 40 2 r r)
def cosFix (r : Int) : Int := belowOne (series 128 (-(r * r / 2 ^ 128)) 2 40 1 (2 ^ 128) (2 ^ 128))

/-- sin of m × 2^e > 0: from the reduced angle, and for a tiny angle a number just below the angle (06 R144: tininess is
judged on the exact value). -/
def sinAt (m : Nat) (e : Int) : Dy :=
  if (Nat.log2 m : Int) + e < -40 then ⟨(m : Int) * 2 ^ 100 - 1, e - 100⟩ else ⟨sinFix (reduceAngle ⟨m, e⟩), -128⟩

/-- What is known of an exact function value: the value itself in one of the exact cases of 06 R144, or a number within
2^−80 of it, relatively, with whether it is the value itself. -/
inductive Value where
  | exact (x : Dy)
  | near (x : Dy) (is : Bool)
  deriving DecidableEq, Repr

/-- m × 2^e is a power of two. -/
def isPow2 (m : Nat) : Bool := m == 2 ^ Nat.log2 m

/-- 1 / a, 1 / √a, 2^a, log2 a, sin a and cos a for an operand m × 2^e that R145 does not treat apart (06 R144). -/
def valueOf (op : Nat) (neg : Bool) (m : Nat) (e : Int) : Value :=
  let k : Int := (Nat.log2 m : Int) + e
  let sgn : Int := if neg then -1 else 1
  match op with
  | 0 =>
    if isPow2 m then if -127 ≤ k ∧ k ≤ 126 then .exact ⟨sgn, -k⟩ else .near ⟨sgn, -k⟩ true
    else .near ⟨sgn * (2 ^ (Nat.log2 m + 100) / (m : Int)), -e - (Nat.log2 m + 100 : Nat)⟩ false
  | 1 =>
    if isPow2 m && k % 2 == 0 then .exact ⟨1, -(k / 2)⟩
    else
      let (r, q) := sqrtApprox 100 m e
      .near ⟨2 ^ (Nat.log2 r + 100) / (r : Int), -q - (Nat.log2 r + 100 : Nat)⟩ false
  | 2 =>
    let x : Int := sgn * (m : Int) * 2 ^ (max 0 (min (e + 128) 300)).toNat / 2 ^ (-(e + 128)).toNat
    let n := x / 2 ^ 128
    let n' := max (-400) (min n 400)
    if 0 ≤ e ∨ ((m : Int) % 2 ^ (-e).toNat = 0) then
      if -149 ≤ n ∧ n ≤ 127 then .exact ⟨1, n⟩ else .near ⟨1, n'⟩ true
    else .near ⟨exp2Frac (x % 2 ^ 128), n' - 128⟩ false
  | 3 =>
    if isPow2 m then .exact ⟨k, 0⟩
    else .near ⟨k * 2 ^ 128 + log2Frac ((m : Int) * 2 ^ 128 / 2 ^ Nat.log2 m), -128⟩ false
  | 4 => .near ((sinAt m e).mul ⟨sgn, 0⟩) false
  | _ => .near ⟨cosFix (reduceAngle ⟨m, e⟩), -128⟩ false

/-- A format's ulp at a nonzero value: that of the exact value's binade, and no less than the subnormal grid (assumption log 4). -/
def Fmt.ulp (f : Fmt) (v : Dy) : Dy := ⟨1, max (v.log - ((f.p : Int) - 1)) f.sexp⟩

/-- The error bounds of 06 R144. -/
def boundOf (op : Nat) (v : Dy) : Dy :=
  match op with
  | 0 => f32.ulp v
  | 1 | 2 => (f32.ulp v).mul ⟨2, 0⟩
  | 3 => if ((f32.ulp v).mul ⟨2, 0⟩).lt ⟨1, -22⟩ then ⟨1, -22⟩ else (f32.ulp v).mul ⟨2, 0⟩
  | _ => ⟨1, -22⟩

/-- |x| of an exact number. -/
def Dy.abs (a : Dy) : Dy := ⟨a.m.natAbs, a.e⟩

/-- An operand of a format lies within a bound of the value; an infinity stands for what lies past the largest finite value. -/
def nearValue (f : Fmt) (b v : Dy) (c : FV) : Bool :=
  let b := b.add ⟨1, v.log - 80⟩
  match c with
  | .fin _ _ _ => !b.lt (c.dy.sub v).abs
  | .inf neg => neg == decide (v.m < 0) && !(v.abs.add b).lt ⟨1, (f.bias : Int) + 1⟩
  | .nan _ _ => false

/-- An f32 operand that a format holds exactly. -/
def holdsExactly (f : Fmt) (w : Nat) : Bool :=
  match f32.read false w with
  | .fin neg m e => (f.roundMag 0 false neg m e).2 == 0
  | _ => false

/-- A candidate lies within the bound of the value; and where the operand is a narrow element widened, the candidate rounded once
to the narrow type lies within 1 ulp of that type (06 R144). -/
def withinBound (op w : Nat) (v : Dy) (c : FV) : Bool :=
  nearValue f32 (boundOf op v) v c && [f16, bf16].all fun f =>
    !holdsExactly f w || nearValue f (f.ulp v) v (f.read false (fpCvt ⟨f, 0, false, false⟩ c).1)

/-- The delivered f32 value of an inexact case: the free candidate when it lies within its bound, else the rounding of
the value (assumption log 4). -/
def approxWord (op : Nat) (w : Nat) (v : Dy) : Nat :=
  let c := (Config.approx op (BitVec.ofNat 32 w)).toNat
  if withinBound op w v (f32.read false c) then c else (f32.round 0 false false v).1

/-- The result of an inexact case in format `c.f` and its flags (06 R144). A value that overflows f32 gives its infinity
whatever the candidate (02 R45, 06 R145). -/
def approxOut (c : Fenv) (op w : Nat) (v : Dy) (is : Bool) : Res :=
  let near := f32.round 0 false false v
  let r := if (near.2 &&& flOF) ≠ 0 then near.1 else approxWord op w v
  let out := (fpCvt { c with rm := 0, ftz := false } (f32.read false r)).1
  let tiny := decide (v.log < c.f.emin)
  if tiny && c.ftz then (c.f.zero (decide (v.m < 0)), flUF ||| flNX)
  else
    let y := c.f.read false out
    let same := is && y.isFin && y.dy.eq v
    (out, flNX ||| (if y.isInf then flOF else 0) ||| (if tiny && !same then flUF else 0))

/-- An approximating form on an operand (06 R144, R145). A narrow element is widened exactly, and the f32 result is
rounded once with RNE. -/
def fpApprox (c : Fenv) (op : Nat) (a : FV) : Res :=
  let inf := fun n => (c.f.infinity n, (0 : Fl))
  match a with
  | .nan _ _ => nanOut c [a] false
  | .inf neg =>
    match op with
    | 0 => (c.f.zero neg, 0)
    | 1 => if neg then nanOut c [a] true else (c.f.zero false, 0)
    | 2 => if neg then (c.f.zero false, 0) else inf false
    | 3 => if neg then nanOut c [a] true else inf false
    | _ => nanOut c [a] true
  | .fin neg m e =>
    if m = 0 then
      match op with
      | 0 | 1 => (c.f.infinity neg, flDZ)
      | 3 => (c.f.infinity true, flDZ)
      | 4 => (c.f.zero neg, 0)
      | _ => c.f.round 0 false false ⟨1, 0⟩
    else if neg && (op == 1 || op == 3) then nanOut c [a] true
    else
      match valueOf op neg m e with
      | .exact x => c.f.round 0 c.ftz false x
      | .near v is => approxOut c op (f32.roundMag 0 false neg m e).1 v is

end Sys2Proof.Machine
end

