-- ==== Sys2Proof/Syntax.lean ====
section
/-! DEFINITION. The one syntax of the machine's steps: every row of the opcode table, instruction words first
(03 R72, 04 R102), then the device's own steps (95), each naming what it acts on. -/

namespace Sys2Proof

/-- An access that crosses to or from a peer device (18 R382, 13 R278). -/
inductive PeerOp where
  | load
  | store (data : BitVec 64)
  | atomic (aop et : BitVec 4) (x y : BitVec 32)
  deriving DecidableEq, Repr

/-- A route-01 access: one of ours served by the peer (`cause` 0) or refused there, whose memory other agents may have
written just before (`writes`), or one of a peer's contexts served here. -/
inductive PeerAccess where
  | outgoing (r j : Nat) (cause : BitVec 8) (writes : List (Nat × Byte))
  | incoming (dev peerCtx ctx va size : Nat) (op : PeerOp)
  deriving DecidableEq, Repr

/-- A packet of the collective channel (18 R390): the header's fields and the payload as 32-bit words.
`ctx` is the context that it is for, `srcCtx` the sender's on its own device; `special` and `overflow` tell of the node what
its payload has no bits for (assumption log 22). -/
structure CollPacket where
  ctx     : Nat
  srcCtx  : Nat
  level   : Nat
  routine : BitVec 16
  group   : BitVec 32
  seq     : BitVec 32
  node    : Nat
  chunk   : Nat
  srcDev  : Nat
  opfld   : BitVec 16
  digest  : BitVec 64
  payload : List (BitVec 32)
  special  : List Nat
  overflow : Bool
  deriving DecidableEq, Repr

/-- One constructor per row of the opcode table. -/
inductive Instr where
  /-- R111: Scalar add modulo 2^64. -/
  | sadd (d : BitVec 6) (a : BitVec 6) (b : BitVec 6) (ea : Bool) (eb : Bool) (ed : Bool)
  /-- R111: Scalar subtract modulo 2^64. -/
  | ssub (d : BitVec 6) (a : BitVec 6) (b : BitVec 6) (ea : Bool) (eb : Bool) (ed : Bool)
  /-- R111: Low 64 bits of the scalar product. -/
  | smul (d : BitVec 6) (a : BitVec 6) (b : BitVec 6) (ea : Bool) (eb : Bool) (ed : Bool)
  /-- R111: High 64 bits of the signed 128-bit product. -/
  | smulh (d : BitVec 6) (a : BitVec 6) (b : BitVec 6) (ea : Bool) (eb : Bool) (ed : Bool)
  /-- R111: High 64 bits of the unsigned 128-bit product. -/
  | smulhn (d : BitVec 6) (a : BitVec 6) (b : BitVec 6) (ea : Bool) (eb : Bool) (ed : Bool)
  /-- R111: Scalar bitwise AND. -/
  | sand (d : BitVec 6) (a : BitVec 6) (b : BitVec 6) (ea : Bool) (eb : Bool) (ed : Bool)
  /-- R111: Scalar bitwise OR. -/
  | sor (d : BitVec 6) (a : BitVec 6) (b : BitVec 6) (ea : Bool) (eb : Bool) (ed : Bool)
  /-- R111: Scalar bitwise XOR. -/
  | sxor (d : BitVec 6) (a : BitVec 6) (b : BitVec 6) (ea : Bool) (eb : Bool) (ed : Bool)
  /-- R111: Scalar AND with complement of the second source. -/
  | sandn (d : BitVec 6) (a : BitVec 6) (b : BitVec 6) (ea : Bool) (eb : Bool) (ed : Bool)
  /-- R111: Scalar shift left by a register amount. -/
  | sshl (d : BitVec 6) (a : BitVec 6) (b : BitVec 6) (ea : Bool) (eb : Bool) (ed : Bool)
  /-- R111: Scalar logical shift right by a register amount. -/
  | sshr (d : BitVec 6) (a : BitVec 6) (b : BitVec 6) (ea : Bool) (eb : Bool) (ed : Bool)
  /-- R111: Scalar arithmetic shift right by a register amount. -/
  | ssra (d : BitVec 6) (a : BitVec 6) (b : BitVec 6) (ea : Bool) (eb : Bool) (ed : Bool)
  /-- R111: Signed scalar minimum. -/
  | smin (d : BitVec 6) (a : BitVec 6) (b : BitVec 6) (ea : Bool) (eb : Bool) (ed : Bool)
  /-- R111: Signed scalar maximum. -/
  | smax (d : BitVec 6) (a : BitVec 6) (b : BitVec 6) (ea : Bool) (eb : Bool) (ed : Bool)
  /-- R111: Unsigned scalar minimum. -/
  | sminn (d : BitVec 6) (a : BitVec 6) (b : BitVec 6) (ea : Bool) (eb : Bool) (ed : Bool)
  /-- R111: Unsigned scalar maximum. -/
  | smaxn (d : BitVec 6) (a : BitVec 6) (b : BitVec 6) (ea : Bool) (eb : Bool) (ed : Bool)
  /-- R111: Scalar equality compare into all ones or zero. -/
  | seq (d : BitVec 6) (a : BitVec 6) (b : BitVec 6) (ea : Bool) (eb : Bool) (ed : Bool)
  /-- R111: Signed scalar less-than compare. -/
  | slt (d : BitVec 6) (a : BitVec 6) (b : BitVec 6) (ea : Bool) (eb : Bool) (ed : Bool)
  /-- R111: Unsigned scalar less-than compare. -/
  | sltn (d : BitVec 6) (a : BitVec 6) (b : BitVec 6) (ea : Bool) (eb : Bool) (ed : Bool)
  /-- R111: Bitwise select of two scalars under the old destination as mask. -/
  | ssel (d : BitVec 6) (a : BitVec 6) (b : BitVec 6) (ea : Bool) (eb : Bool) (ed : Bool)
  /-- R111: Count leading zeros of a scalar. -/
  | sclz (d : BitVec 6) (a : BitVec 6) (ea : Bool) (ed : Bool)
  /-- R111: Count one bits of a scalar. -/
  | spop (d : BitVec 6) (a : BitVec 6) (ea : Bool) (ed : Bool)
  /-- R111: Reverse the bits of a scalar. -/
  | sbrev (d : BitVec 6) (a : BitVec 6) (ea : Bool) (ed : Bool)
  /-- R111: Copy a scalar register. -/
  | smov (d : BitVec 6) (a : BitVec 6) (ea : Bool) (ed : Bool)
  /-- R112: Scalar add of a sign-extended immediate. -/
  | saddi (d : BitVec 6) (a : BitVec 6) (i : BitVec 12)
  /-- R112: Scalar AND with a sign-extended immediate. -/
  | sandi (d : BitVec 6) (a : BitVec 6) (i : BitVec 12)
  /-- R112: Scalar OR with a sign-extended immediate. -/
  | sori (d : BitVec 6) (a : BitVec 6) (i : BitVec 12)
  /-- R112: Scalar XOR with a sign-extended immediate. -/
  | sxori (d : BitVec 6) (a : BitVec 6) (i : BitVec 12)
  /-- R112: Scalar shift left by an immediate 0 to 63. -/
  | sshli (d : BitVec 6) (a : BitVec 6) (i : BitVec 6)
  /-- R112: Scalar logical shift right by an immediate. -/
  | sshri (d : BitVec 6) (a : BitVec 6) (i : BitVec 6)
  /-- R112: Scalar arithmetic shift right by an immediate. -/
  | ssrai (d : BitVec 6) (a : BitVec 6) (i : BitVec 6)
  /-- R112: Scalar equality compare with an immediate. -/
  | seqi (d : BitVec 6) (a : BitVec 6) (i : BitVec 12)
  /-- R112: Signed scalar less-than compare with an immediate. -/
  | slti (d : BitVec 6) (a : BitVec 6) (i : BitVec 12)
  /-- R113: Load a sign-extended 18-bit constant. -/
  | sli (d : BitVec 6) (i : BitVec 18)
  /-- R113: Shift the destination left 18 and OR in an 18-bit constant. -/
  | slui (d : BitVec 6) (i : BitVec 18)
  /-- R114: Unconditional PC-relative branch. -/
  | bra (off : BitVec 18)
  /-- R114: Branch when a scalar is zero. -/
  | brz (c : BitVec 6) (off : BitVec 18)
  /-- R114: Branch when a scalar is nonzero. -/
  | brnz (c : BitVec 6) (off : BitVec 18)
  /-- R116: Push the return address on the link stack and branch. -/
  | call (off : BitVec 18)
  /-- R116: Push the return address and jump to a register target. -/
  | callr (a : BitVec 6) (ea : Bool)
  /-- R116: Jump to a register target. -/
  | jmpr (a : BitVec 6) (ea : Bool)
  /-- R120: Raise cause 0x08 with a code. -/
  | brk (c : BitVec 24)
  /-- R121: Write MODE from a scalar and return the old value. -/
  | modeSet (d : BitVec 6) (a : BitVec 6) (ea : Bool) (ed : Bool)
  /-- R123: Set one MODE field to an immediate. -/
  | modeFld (fld : BitVec 4) (v : BitVec 6)
  /-- R122: Read MODE into a scalar. -/
  | modeGet (d : BitVec 6) (ed : Bool)
  /-- R129: Vector integer add. -/
  | vadd (d : BitVec 7) (a : BitVec 7) (b : BitVec 7) (ea : Bool) (eb : Bool) (ed : Bool)
  /-- R129: Vector integer subtract. -/
  | vsub (d : BitVec 7) (a : BitVec 7) (b : BitVec 7) (ea : Bool) (eb : Bool) (ed : Bool)
  /-- R129: Vector integer multiply. -/
  | vmul (d : BitVec 7) (a : BitVec 7) (b : BitVec 7) (ea : Bool) (eb : Bool) (ed : Bool)
  /-- R129: Vector integer high product. -/
  | vmulh (d : BitVec 7) (a : BitVec 7) (b : BitVec 7) (ea : Bool) (eb : Bool) (ed : Bool)
  /-- R129: Vector integer multiply-add into the destination. -/
  | vmad (d : BitVec 7) (a : BitVec 7) (b : BitVec 7) (ea : Bool) (eb : Bool) (ed : Bool)
  /-- R130: Vector bitwise AND. -/
  | vand (d : BitVec 7) (a : BitVec 7) (b : BitVec 7) (ea : Bool) (eb : Bool) (ed : Bool)
  /-- R130: Vector bitwise OR. -/
  | vor (d : BitVec 7) (a : BitVec 7) (b : BitVec 7) (ea : Bool) (eb : Bool) (ed : Bool)
  /-- R130: Vector bitwise XOR. -/
  | vxor (d : BitVec 7) (a : BitVec 7) (b : BitVec 7) (ea : Bool) (eb : Bool) (ed : Bool)
  /-- R130: Vector AND with complement. -/
  | vandn (d : BitVec 7) (a : BitVec 7) (b : BitVec 7) (ea : Bool) (eb : Bool) (ed : Bool)
  /-- R131: Vector per-element shift left. -/
  | vshl (d : BitVec 7) (a : BitVec 7) (b : BitVec 7) (ea : Bool) (eb : Bool) (ed : Bool)
  /-- R131: Vector per-element logical shift right. -/
  | vshr (d : BitVec 7) (a : BitVec 7) (b : BitVec 7) (ea : Bool) (eb : Bool) (ed : Bool)
  /-- R131: Vector per-element arithmetic shift right. -/
  | vsra (d : BitVec 7) (a : BitVec 7) (b : BitVec 7) (ea : Bool) (eb : Bool) (ed : Bool)
  /-- R129: Vector integer minimum. -/
  | vmin (d : BitVec 7) (a : BitVec 7) (b : BitVec 7) (ea : Bool) (eb : Bool) (ed : Bool)
  /-- R129: Vector integer maximum. -/
  | vmax (d : BitVec 7) (a : BitVec 7) (b : BitVec 7) (ea : Bool) (eb : Bool) (ed : Bool)
  /-- R129: Vector integer absolute value. -/
  | vabs (d : BitVec 7) (a : BitVec 7) (ea : Bool) (ed : Bool)
  /-- R129: Vector integer negate. -/
  | vneg (d : BitVec 7) (a : BitVec 7) (ea : Bool) (ed : Bool)
  /-- R132: Vector equality compare of two registers into a mask. -/
  | veqSub2 (x : BitVec 7) (a : BitVec 7) (d : BitVec 6) (ea : Bool) (eb : Bool)
  /-- R132: Vector equality compare against zero into a mask. -/
  | veqSub3 (a : BitVec 7) (d : BitVec 6) (ea : Bool)
  /-- R132: Vector inequality compare of two registers into a mask. -/
  | vneSub2 (x : BitVec 7) (a : BitVec 7) (d : BitVec 6) (ea : Bool) (eb : Bool)
  /-- R132: Vector inequality compare against zero into a mask. -/
  | vneSub3 (a : BitVec 7) (d : BitVec 6) (ea : Bool)
  /-- R132: Vector integer less-than compare into a mask. -/
  | vltSub2 (x : BitVec 7) (a : BitVec 7) (d : BitVec 6) (ea : Bool) (eb : Bool)
  /-- R132: Vector integer less-than-zero compare into a mask. -/
  | vltSub3 (a : BitVec 7) (d : BitVec 6) (ea : Bool)
  /-- R132: Vector integer less-or-equal compare into a mask. -/
  | vleSub2 (x : BitVec 7) (a : BitVec 7) (d : BitVec 6) (ea : Bool) (eb : Bool)
  /-- R132: Vector integer less-or-equal-zero compare into a mask. -/
  | vleSub3 (a : BitVec 7) (d : BitVec 6) (ea : Bool)
  /-- R133: Merge va into vd where the scalar mask bit is 1. -/
  | vselSub0 (d : BitVec 7) (a : BitVec 7) (s : BitVec 6) (ea : Bool) (eb : Bool)
  /-- R133: Merge va into vd where the scalar mask bit is 0. -/
  | vselSub1 (d : BitVec 7) (a : BitVec 7) (s : BitVec 6) (ea : Bool) (eb : Bool)
  /-- R130: Copy a vector register. -/
  | vmov (d : BitVec 7) (a : BitVec 7) (ea : Bool) (ed : Bool)
  /-- R134: Broadcast the low word of a scalar to every participating lane. -/
  | vbcast (d : BitVec 7) (s : BitVec 6) (eb : Bool)
  /-- R134: Write each lane's index within the drove. -/
  | vlid (d : BitVec 7) (ed : Bool)
  /-- R131: Per-element population count. -/
  | vpop (d : BitVec 7) (a : BitVec 7) (ea : Bool) (ed : Bool)
  /-- R131: Per-element leading zero count. -/
  | vclz (d : BitVec 7) (a : BitVec 7) (ea : Bool) (ed : Bool)
  /-- R136: Convert between integer types with regrouping. -/
  | vcvt (d : BitVec 7) (a : BitVec 7) (ea : Bool) (ed : Bool)
  /-- R137: Regroup narrow elements of two registers into a pair, even then odd. -/
  | vpack (d : BitVec 7) (a : BitVec 7) (b : BitVec 7) (ea : Bool) (eb : Bool) (ed : Bool)
  /-- R137: Interleave narrow elements of two registers into a pair. -/
  | vunpack (d : BitVec 7) (a : BitVec 7) (b : BitVec 7) (ea : Bool) (eb : Bool) (ed : Bool)
  /-- R138: Write random values from the lane's stream and advance RCTR. -/
  | vrand (d : BitVec 7) (ed : Bool)
  /-- R139: Floating-point add rounded in MODE.RM. -/
  | fadd (d : BitVec 7) (a : BitVec 7) (b : BitVec 7) (ea : Bool) (eb : Bool) (ed : Bool)
  /-- R139: Floating-point subtract. -/
  | fsub (d : BitVec 7) (a : BitVec 7) (b : BitVec 7) (ea : Bool) (eb : Bool) (ed : Bool)
  /-- R139: Floating-point multiply. -/
  | fmul (d : BitVec 7) (a : BitVec 7) (b : BitVec 7) (ea : Bool) (eb : Bool) (ed : Bool)
  /-- R139: Fused multiply-add into the destination. -/
  | ffma (d : BitVec 7) (a : BitVec 7) (b : BitVec 7) (ea : Bool) (eb : Bool) (ed : Bool)
  /-- R139: Fused multiply-subtract of the destination. -/
  | ffms (d : BitVec 7) (a : BitVec 7) (b : BitVec 7) (ea : Bool) (eb : Bool) (ed : Bool)
  /-- R139: Fused negated multiply plus the destination. -/
  | fnma (d : BitVec 7) (a : BitVec 7) (b : BitVec 7) (ea : Bool) (eb : Bool) (ed : Bool)
  /-- R140: Floating-point minimum. -/
  | fmin (d : BitVec 7) (a : BitVec 7) (b : BitVec 7) (ea : Bool) (eb : Bool) (ed : Bool)
  /-- R140: Floating-point maximum. -/
  | fmax (d : BitVec 7) (a : BitVec 7) (b : BitVec 7) (ea : Bool) (eb : Bool) (ed : Bool)
  /-- R141: Clear each element's sign bit. -/
  | fabs (d : BitVec 7) (a : BitVec 7) (ea : Bool) (ed : Bool)
  /-- R141: Invert each element's sign bit. -/
  | fneg (d : BitVec 7) (a : BitVec 7) (ea : Bool) (ed : Bool)
  /-- R142: Floating-point equality compare into a mask. -/
  | feqSub2 (x : BitVec 7) (a : BitVec 7) (d : BitVec 6) (ea : Bool) (eb : Bool)
  /-- R142: Floating-point equality with +0 into a mask. -/
  | feqSub3 (a : BitVec 7) (d : BitVec 6) (ea : Bool)
  /-- R142: Floating-point less-than compare into a mask. -/
  | fltSub2 (x : BitVec 7) (a : BitVec 7) (d : BitVec 6) (ea : Bool) (eb : Bool)
  /-- R142: Floating-point less-than +0 into a mask. -/
  | fltSub3 (a : BitVec 7) (d : BitVec 6) (ea : Bool)
  /-- R142: Floating-point less-or-equal compare into a mask. -/
  | fleSub2 (x : BitVec 7) (a : BitVec 7) (d : BitVec 6) (ea : Bool) (eb : Bool)
  /-- R142: Floating-point less-or-equal +0 into a mask. -/
  | fleSub3 (a : BitVec 7) (d : BitVec 6) (ea : Bool)
  /-- R142: Unordered compare of two registers into a mask. -/
  | funSub2 (x : BitVec 7) (a : BitVec 7) (d : BitVec 6) (ea : Bool) (eb : Bool)
  /-- R142: Unordered test against +0 into a mask. -/
  | funSub3 (a : BitVec 7) (d : BitVec 6) (ea : Bool)
  /-- R144: Approximate reciprocal. -/
  | frcp (d : BitVec 7) (a : BitVec 7) (ea : Bool) (ed : Bool)
  /-- R144: Approximate reciprocal square root. -/
  | frsq (d : BitVec 7) (a : BitVec 7) (ea : Bool) (ed : Bool)
  /-- R143: Correctly rounded square root. -/
  | fsqrt (d : BitVec 7) (a : BitVec 7) (ea : Bool) (ed : Bool)
  /-- R144: Approximate power of two. -/
  | fexp2 (d : BitVec 7) (a : BitVec 7) (ea : Bool) (ed : Bool)
  /-- R144: Approximate base-2 logarithm. -/
  | flog2 (d : BitVec 7) (a : BitVec 7) (ea : Bool) (ed : Bool)
  /-- R144: Approximate sine. -/
  | fsin (d : BitVec 7) (a : BitVec 7) (ea : Bool) (ed : Bool)
  /-- R144: Approximate cosine. -/
  | fcos (d : BitVec 7) (a : BitVec 7) (ea : Bool) (ed : Bool)
  /-- R146: Round to an integral value in MODE.RM. -/
  | fround (d : BitVec 7) (a : BitVec 7) (ea : Bool) (ed : Bool)
  /-- R149: Convert between floating-point types. -/
  | fcvt (d : BitVec 7) (a : BitVec 7) (ea : Bool) (ed : Bool)
  /-- R150: Convert floating point to integer. -/
  | fcvti (d : BitVec 7) (a : BitVec 7) (ea : Bool) (ed : Bool)
  /-- R151: Convert integer to floating point. -/
  | ficvt (d : BitVec 7) (a : BitVec 7) (ea : Bool) (ed : Bool)
  /-- R147: Scale by a power of two. -/
  | fscale (d : BitVec 7) (a : BitVec 7) (b : BitVec 7) (ea : Bool) (eb : Bool) (ed : Bool)
  /-- R147: Extract the exponent as a value. -/
  | fgetexp (d : BitVec 7) (a : BitVec 7) (ea : Bool) (ed : Bool)
  /-- R147: Extract the significand in [1, 2). -/
  | fgetman (d : BitVec 7) (a : BitVec 7) (ea : Bool) (ed : Bool)
  /-- R148: Write a one-hot class mask per element. -/
  | fclass (d : BitVec 7) (a : BitVec 7) (ea : Bool) (ed : Bool)
  /-- R157: Rounded sum and its exact error as a pair. -/
  | twosum (d : BitVec 7) (a : BitVec 7) (b : BitVec 7) (ea : Bool) (eb : Bool) (ed : Bool)
  /-- R158: Three-step fast two-sum. -/
  | ftwosum (d : BitVec 7) (a : BitVec 7) (b : BitVec 7) (ea : Bool) (eb : Bool) (ed : Bool)
  /-- R157: Rounded product and its exact error as a pair. -/
  | twoprod (d : BitVec 7) (a : BitVec 7) (b : BitVec 7) (ea : Bool) (eb : Bool) (ed : Bool)
  /-- R159: Three-word expansion of a fused multiply-add. -/
  | fmaerr (d : BitVec 7) (a : BitVec 7) (b : BitVec 7) (ea : Bool) (eb : Bool) (ed : Bool)
  /-- R160: Expansion add delivering the greedy expansion. -/
  | xadd (d : BitVec 7) (a : BitVec 7) (b : BitVec 7) (ea : Bool) (eb : Bool) (ed : Bool)
  /-- R160: Expansion subtract. -/
  | xsub (d : BitVec 7) (a : BitVec 7) (b : BitVec 7) (ea : Bool) (eb : Bool) (ed : Bool)
  /-- R160: Expansion multiply. -/
  | xmul (d : BitVec 7) (a : BitVec 7) (b : BitVec 7) (ea : Bool) (eb : Bool) (ed : Bool)
  /-- R160: Expansion fused multiply-add into the destination. -/
  | xfma (d : BitVec 7) (a : BitVec 7) (b : BitVec 7) (ea : Bool) (eb : Bool) (ed : Bool)
  /-- R160: Renormalise an expansion. -/
  | xrenorm (d : BitVec 7) (a : BitVec 7) (ea : Bool) (ed : Bool)
  /-- R161: Shorten an expansion by one word. -/
  | xcompress (d : BitVec 7) (a : BitVec 7) (ea : Bool) (ed : Bool)
  /-- R166: Expansion equality compare into a mask. -/
  | xeqSub2 (x : BitVec 7) (a : BitVec 7) (d : BitVec 6) (ea : Bool) (eb : Bool)
  /-- R166: Expansion equality with zero into a mask. -/
  | xeqSub3 (a : BitVec 7) (d : BitVec 6) (ea : Bool)
  /-- R166: Expansion less-than compare into a mask. -/
  | xltSub2 (x : BitVec 7) (a : BitVec 7) (d : BitVec 6) (ea : Bool) (eb : Bool)
  /-- R166: Expansion less-than-zero into a mask. -/
  | xltSub3 (a : BitVec 7) (d : BitVec 6) (ea : Bool)
  /-- R166: Expansion less-or-equal compare into a mask. -/
  | xleSub2 (x : BitVec 7) (a : BitVec 7) (d : BitVec 6) (ea : Bool) (eb : Bool)
  /-- R166: Expansion less-or-equal-zero into a mask. -/
  | xleSub3 (a : BitVec 7) (d : BitVec 6) (ea : Bool)
  /-- R164: Invert the sign of every word. -/
  | xneg (d : BitVec 7) (a : BitVec 7) (ea : Bool) (ed : Bool)
  /-- R164: Absolute value of an expansion by word 0's sign. -/
  | xabs (d : BitVec 7) (a : BitVec 7) (ea : Bool) (ed : Bool)
  /-- R165: Split a word into high and low parts. -/
  | xsplit (d : BitVec 7) (a : BitVec 7) (ea : Bool) (ed : Bool)
  /-- R162: Round the exact sum of an expansion to one word. -/
  | xtop (d : BitVec 7) (a : BitVec 7) (ea : Bool) (ed : Bool)
  /-- R167: Convert between f64 images, integers and expansions under a code. -/
  | xcvt (d : BitVec 7) (a : BitVec 7) (c : BitVec 7) (ea : Bool) (ed : Bool)
  /-- R163: Enclose an expansion's sum between RD and RU words. -/
  | xbound (d : BitVec 7) (a : BitVec 7) (ea : Bool) (ed : Bool)
  /-- R172: Swap values across the quad row. -/
  | qswh (d : BitVec 7) (a : BitVec 7) (ea : Bool) (ed : Bool)
  /-- R172: Swap values down the quad column. -/
  | qswv (d : BitVec 7) (a : BitVec 7) (ea : Bool) (ed : Bool)
  /-- R172: Swap values across the quad diagonal. -/
  | qswd (d : BitVec 7) (a : BitVec 7) (ea : Bool) (ed : Bool)
  /-- R172: Broadcast one quad position within each quad. -/
  | qbc (d : BitVec 7) (a : BitVec 7) (n : BitVec 7) (ea : Bool) (ed : Bool)
  /-- R173: Horizontal difference within the quad. -/
  | qddx (d : BitVec 7) (a : BitVec 7) (ea : Bool) (ed : Bool)
  /-- R173: Vertical difference within the quad. -/
  | qddy (d : BitVec 7) (a : BitVec 7) (ea : Bool) (ed : Bool)
  /-- R175: Gather from lanes named by an index register. -/
  | lshuf (d : BitVec 7) (a : BitVec 7) (b : BitVec 7) (ea : Bool) (eb : Bool) (ed : Bool)
  /-- R175: Rotate values across lanes modulo the width. -/
  | lrot (d : BitVec 7) (a : BitVec 7) (b : BitVec 7) (ea : Bool) (eb : Bool) (ed : Bool)
  /-- R178: Inclusive or exclusive scan over active lanes. -/
  | lscan (d : BitVec 7) (a : BitVec 7) (c : BitVec 7) (ea : Bool) (ed : Bool)
  /-- R178: Fast or exact reduction over active lanes. -/
  | lred (d : BitVec 7) (a : BitVec 7) (c : BitVec 7) (ea : Bool) (ed : Bool)
  /-- R177: Mask of active lanes holding nonzero values. -/
  | lballot (a : BitVec 7) (d : BitVec 6) (ea : Bool)
  /-- R176: Gather active lanes' values into the low present lanes. -/
  | lcompress (d : BitVec 7) (a : BitVec 7) (ea : Bool) (ed : Bool)
  /-- R175: Spread low present lanes' values to the active lanes. -/
  | lexpand (d : BitVec 7) (a : BitVec 7) (ea : Bool) (ed : Bool)
  /-- R175: Read the lowest active lane into a scalar. -/
  | lfirst (a : BitVec 7) (d : BitVec 6) (ea : Bool)
  /-- R183: Vector load under the ownership policy. -/
  | ldO (vt : BitVec 7) (sb : BitVec 6) (va : BitVec 7) (sz : BitVec 2) (ex : Bool) (sc : Bool)
  /-- R183: Vector load under the write-through policy. -/
  | ldW (vt : BitVec 7) (sb : BitVec 6) (va : BitVec 7) (sz : BitVec 2) (ex : Bool) (sc : Bool)
  /-- R183: Vector load under self-invalidated sharing. -/
  | ldS (vt : BitVec 7) (sb : BitVec 6) (va : BitVec 7) (sz : BitVec 2) (ex : Bool) (sc : Bool)
  /-- R183: Vector load under writer-invalidated sharing. -/
  | ldI (vt : BitVec 7) (sb : BitVec 6) (va : BitVec 7) (sz : BitVec 2) (ex : Bool) (sc : Bool)
  /-- R185: Vector store under the ownership policy. -/
  | stO (vt : BitVec 7) (sb : BitVec 6) (va : BitVec 7) (sz : BitVec 2) (sc : Bool)
  /-- R185: Vector store under the write-through policy. -/
  | stW (vt : BitVec 7) (sb : BitVec 6) (va : BitVec 7) (sz : BitVec 2) (sc : Bool)
  /-- R185: Vector store under self-invalidated sharing. -/
  | stS (vt : BitVec 7) (sb : BitVec 6) (va : BitVec 7) (sz : BitVec 2) (sc : Bool)
  /-- R185: Vector store under writer-invalidated sharing. -/
  | stI (vt : BitVec 7) (sb : BitVec 6) (va : BitVec 7) (sz : BitVec 2) (sc : Bool)
  /-- R190: Scalar load under the ownership policy. -/
  | ldsO (vt : BitVec 6) (sb : BitVec 6) (imm : BitVec 10) (sz : BitVec 2)
  /-- R190: Scalar load under the write-through policy. -/
  | ldsW (vt : BitVec 6) (sb : BitVec 6) (imm : BitVec 10) (sz : BitVec 2)
  /-- R190: Scalar load under self-invalidated sharing. -/
  | ldsS (vt : BitVec 6) (sb : BitVec 6) (imm : BitVec 10) (sz : BitVec 2)
  /-- R190: Scalar load under writer-invalidated sharing. -/
  | ldsI (vt : BitVec 6) (sb : BitVec 6) (imm : BitVec 10) (sz : BitVec 2)
  /-- R190: Scalar store under the ownership policy. -/
  | stsO (vt : BitVec 6) (sb : BitVec 6) (imm : BitVec 10) (sz : BitVec 2)
  /-- R190: Scalar store under the write-through policy. -/
  | stsW (vt : BitVec 6) (sb : BitVec 6) (imm : BitVec 10) (sz : BitVec 2)
  /-- R190: Scalar store under self-invalidated sharing. -/
  | stsS (vt : BitVec 6) (sb : BitVec 6) (imm : BitVec 10) (sz : BitVec 2)
  /-- R190: Scalar store under writer-invalidated sharing. -/
  | stsI (vt : BitVec 6) (sb : BitVec 6) (imm : BitVec 10) (sz : BitVec 2)
  /-- R193: Load from lane-interleaved private memory. -/
  | ldp (vt : BitVec 7) (sb : BitVec 6) (va : BitVec 7) (sz : BitVec 2) (ex : Bool) (sc : Bool)
  /-- R193: Store to lane-interleaved private memory. -/
  | stp (vt : BitVec 7) (sb : BitVec 6) (va : BitVec 7) (sz : BitVec 2) (sc : Bool)
  /-- R194: Load from the paddock scratchpad. -/
  | ldsp (vt : BitVec 7) (sb : BitVec 6) (va : BitVec 7) (sz : BitVec 2) (ex : Bool) (sc : Bool)
  /-- R194: Store to the paddock scratchpad. -/
  | stsp (vt : BitVec 7) (sb : BitVec 6) (va : BitVec 7) (sz : BitVec 2) (sc : Bool)
  /-- R195: Compress-store active lanes contiguously. -/
  | cst (vt : BitVec 7) (sb : BitVec 6) (va : BitVec 7) (sz : BitVec 2) (sc : Bool)
  /-- R196: Multicast write-through store updating every replica. -/
  | stm (vt : BitVec 7) (sb : BitVec 6) (va : BitVec 7) (sz : BitVec 2) (sc : Bool)
  /-- R197: Prefetch lines without changing registers. -/
  | pref (tgt : BitVec 2) (sb : BitVec 6) (va : BitVec 7) (sz : BitVec 2) (sc : Bool)
  /-- R198: Drop unregistered cached copies in a range. -/
  | vinv (a : BitVec 6) (l : BitVec 6)
  /-- R198: Write back dirty lines in a range. -/
  | vwb (a : BitVec 6) (l : BitVec 6)
  /-- R201: Relaxed returning atomic. -/
  | atomRlx (d : BitVec 7) (s : BitVec 6) (a : BitVec 7) (p : BitVec 4)
  /-- R201: Acquire returning atomic. -/
  | atomAcq (d : BitVec 7) (s : BitVec 6) (a : BitVec 7) (p : BitVec 4)
  /-- R201: Release returning atomic. -/
  | atomRel (d : BitVec 7) (s : BitVec 6) (a : BitVec 7) (p : BitVec 4)
  /-- R201: Acquire-release returning atomic. -/
  | atomAr (d : BitVec 7) (s : BitVec 6) (a : BitVec 7) (p : BitVec 4)
  /-- R201: Relaxed non-returning atomic. -/
  | redRlx (d : BitVec 7) (s : BitVec 6) (a : BitVec 7) (p : BitVec 4)
  /-- R201: Release non-returning atomic. -/
  | redRel (d : BitVec 7) (s : BitVec 6) (a : BitVec 7) (p : BitVec 4)
  /-- R205: Compensated two-word accumulate of an X2 value. -/
  | catom (d : BitVec 7) (s : BitVec 6) (a : BitVec 7)
  /-- R206: Once-per-drove scalar atomic. -/
  | satom (d : BitVec 6) (s : BitVec 6) (o : BitVec 6) (p : BitVec 4)
  /-- R213: Reserve a matrix pass accumulating into a tile. -/
  | mma (td : BitVec 4) (ka : Bool) (a : BitVec 7) (kb : Bool) (b : BitVec 7) (eta : Bool)
  /-- R213: Reserve a matrix pass with residual capture into a tile pair. -/
  | mmar (td : BitVec 4) (ka : Bool) (a : BitVec 7) (kb : Bool) (b : BitVec 7) (eta : Bool)
  /-- R213: Reserve a binary popcount matrix pass. -/
  | mmab (td : BitVec 4) (ka : Bool) (a : BitVec 7) (kb : Bool) (b : BitVec 7) (eta : Bool)
  /-- R221: Load 128 rows into a tile. -/
  | tld (t : BitVec 4) (n : BitVec 6)
  /-- R221: Store 128 rows of a tile to memory. -/
  | tst (t : BitVec 4) (n : BitVec 6)
  /-- R221: Zero every element of a tile. -/
  | tzero (t : BitVec 4)
  /-- R222: Read a tile row or column slice into a vector. -/
  | trd (t : BitVec 4) (r : Bool) (s : BitVec 6) (i : BitVec 6) (v : BitVec 7)
  /-- R222: Write a vector into a tile row or column slice. -/
  | twr (t : BitVec 4) (r : Bool) (s : BitVec 6) (i : BitVec 6) (v : BitVec 7)
  /-- R225: Fold a main and residual tile pair. -/
  | tfold (t : BitVec 4) (u : BitVec 4) (p : BitVec 7)
  /-- R217: Push a scale record onto a side of the flock's scale FIFO. -/
  | tscl (s : Bool) (n : BitVec 6) (m : BitVec 6)
  /-- R223: Copy, transpose or rotate a tile. -/
  | tmov (t : BitVec 4) (u : BitVec 4) (p : BitVec 7)
  /-- R224: Convert every tile element between f32 and i32. -/
  | tcvt (t : BitVec 4) (u : BitVec 4)
  /-- R229: Arrive at a flock barrier and wait for its release. -/
  | bar (n : BitVec 4)
  /-- R230: Arrive at a flock barrier with a combined contribution. -/
  | barv (d : BitVec 6) (a : BitVec 6) (p : BitVec 2) (n : BitVec 4)
  /-- R231: Barrier across flocks through a wide-barrier word. -/
  | barw (a : BitVec 6) (b : BitVec 6)
  /-- R235: Initialise an async barrier object. -/
  | abinit (a : BitVec 6) (b : BitVec 6)
  /-- R235: Arrive on an async barrier object and receive the phase. -/
  | abarr (d : BitVec 6) (a : BitVec 6)
  /-- R235: Wait until an async barrier object's phase changes. -/
  | abwait (a : BitVec 6) (b : BitVec 6)
  /-- R238: Push active lanes' values into a chute. -/
  | qpush (a : BitVec 7) (n : BitVec 3)
  /-- R239: Request elements from a chute into active lanes. -/
  | qpop (d : BitVec 7) (n : BitVec 3)
  /-- R240: Take available chute elements without waiting. -/
  | qtry (d : BitVec 7) (s : BitVec 6) (n : BitVec 3)
  /-- R237: Join or withdraw from a chute's producers. -/
  | qallow (a : BitVec 6) (n : BitVec 3)
  /-- R243: Take the next chunk from a crook record. -/
  | rtake (d : BitVec 6) (a : BitVec 6) (ea : Bool) (ed : Bool)
  /-- R244: Hand a copy descriptor to the copy engine. -/
  | cpy (a : BitVec 6) (b : BitVec 6)
  /-- R251: Contribute a tile to a collective. -/
  | coll (t : BitVec 4) (d : BitVec 6) (s : BitVec 6)
  /-- R254: Append a record to an event queue. -/
  | evpost (a : BitVec 6) (b : BitVec 6)
  /-- R255: Present a launch record to the package distributor. -/
  | rlaunch (a : BitVec 6)
  /-- R256: Raise cause 0x09 with a code. -/
  | trap (c : BitVec 24)
  /-- R257: Run a microprogram with substituted parameters. -/
  | mcall (p : BitVec 7) (a : BitVec 7) (b : BitVec 7) (k : BitVec 3)
  /-- R259: Load a microprogram image into a control-store slot. -/
  | mcw (a : BitVec 6)
  /-- R260: Read a system register. -/
  | sysrd (d : BitVec 6) (n : BitVec 8)
  /-- R260: Write a system register. -/
  | syswr (a : BitVec 6) (n : BitVec 8)
  /-- R261: Invalidate translations for a page, a context or all. -/
  | tlbi (a : BitVec 6) (b : BitVec 6) (c : BitVec 2)
  /-- R86: A fetched word that is not an instruction raises its cause. -/
  | illegalWord (w : BitVec 32)
  /-- R69: A fetch from a not-present or non-executable page parks the drove at the target. -/
  | instructionFetchFault (cause : BitVec 8)
  /-- R332: An uncorrectable error in a directory entry recalls every copy and sets I. -/
  | directoryEntryUe (g : Nat)
  /-- R335: Host read of a half, keeping a registered copy. -/
  | hrd (dpa : Nat)
  /-- R335: Host read of a half for writing, taking ownership. -/
  | hrdx (dpa : Nat) (data : List Byte) (enables : BitVec 64)
  /-- R335: Host write of up to 64 bytes with byte enables. -/
  | hwr (dpa : Nat) (data : List Byte) (enables : BitVec 64)
  /-- R335: Host write-back of its owned granule. -/
  | hwb (g : Nat)
  /-- R382: A route-01 access reaches the peer and is served under the mutual binding. -/
  | peerAccessRequest (x : PeerAccess)
  /-- R394: The host adapter acknowledges a route-10 access. -/
  | route10Ack (r j : Nat) (hostWrites : List (Nat × Byte))
  /-- R388: A phase-0 packet carrying digest and block maxima arrives. -/
  | collPhase0Packet (p : CollPacket)
  /-- R390: A collective data packet arrives at a node. -/
  | collDataPacket (p : CollPacket)
  /-- R389: A result chunk arrives going down the tree. -/
  | collResultPacket (p : CollPacket)
  /-- R388: A cancel arrives and the member arrives with status 1. -/
  | collCancelPacket (p : CollPacket)
  /-- R391: A switch holding both siblings emits their parent. -/
  | switchCombine (left right parent : CollPacket)
  /-- R347: A host write sets a launch queue's TAIL. -/
  | launchQueueDoorbell (q v : Nat)
  /-- R322: A corrected error is counted and may start a retirement. -/
  | correctedError (share : Nat)
  /-- R377: An uncorrectable data error enters the address error table. The share is that of a line of the pasture, and 6144 + c
  for a dirty word in core c's copy (15 R343; assumption log 31). -/
  | uncorrectableError (dpa : Nat) (share : Option Nat)
  /-- R397: A checkpoint save quiesces the device and streams HBM out. -/
  | ckptSave (c dpa : Nat)
  /-- R398: A checkpoint restore streams the image back into HBM. -/
  | ckptRestore (c dpa : Nat)
  /-- R402: A host write to ATTESTDB makes the device write a signed reply. -/
  | attestRequest (dpa : Nat)
  /-- R393: A host write to NOTIFY clears bits written 1. -/
  | notifyClear (v : BitVec 64)
  /-- R400: The recovery loader verifies and flashes a host-written image. -/
  | recoveryImageWrite (image : List Byte)
  /-- R403: A thermal or droop event lowers the clock by 0.1 GHz. -/
  | thermalClockStep (up : Bool)
  /-- R380: A flit fails its CRC and is retransmitted from the replay buffer. -/
  | flitCrcFail (link : Nat)
  /-- R383: A fabric port goes down and its packets are resent elsewhere. -/
  | portDown (port : Nat)
  /-- R383: A fabric port trains and joins traffic spreading. -/
  | portTrained (port : Nat)
  /-- R116: Pop the link stack and return. -/
  | ret
  /-- R118: Retire the drove after draining its stores and returns. -/
  | exit
  /-- R17: Wait up to 64 cycles for siblings to regang. -/
  | regang
  /-- R120: No operation. -/
  | nop
  /-- R120: Step aside until ready siblings have issued or 256 cycles pass. -/
  | yield
  /-- R174: Widen the following instruction to every present quad mate. -/
  | qhelp
  /-- R199: Acquire fence with the drop of self-invalidated copies. -/
  | fenceAcq
  /-- R199: Release fence waiting for SBCNT 0. -/
  | fenceRel
  /-- R199: Sequentially consistent fence. -/
  | fenceSc
  /-- R366: End a handler and apply the stopped drove's fault record. -/
  | eret
  /-- R421: A read of FRDATA returns an entry and increments FRIDX. -/
  | frdataRead
  /-- R421: Every 60 s the field record is committed to non-volatile storage. -/
  | fieldRecordCommit
  /-- R399: Die 0 verifies the firmware and reports BOOTSTAT. -/
  | moduleReset
  /-- R415: A sub-core cycle in which nothing issues adds 64 to lane-cycle class 6. -/
  | emptyIssueSlot
  /-- R403: A requested power profile takes effect within 20 µs, changing CUR, the clocks and the ports held down. -/
  | profileChangeTakesEffect
  /-- R421: Loss of supply loses at most the field-record counts gathered since the last commit, never a retirement. -/
  | powerLoss
  /-- R183: Load data arrive, are written, and the destination becomes full. -/
  | loadReturn (r : Nat)
  /-- R27: A slow system register value returns and fills its destination. -/
  | slowSysrdReturn (r : Nat)
  /-- R191: A load lane faults at the owning die and parks the drove. -/
  | loadLaneFault (r : Nat)
  /-- R30: Every byte of a store-buffer entry is acknowledged and the entry is freed. -/
  | storeAck (r : Nat)
  /-- R192: A store lane faults at the owning die and its entry is held. -/
  | storeLaneFault (r : Nat)
  /-- R117: Background spill or fill of link-stack entries, parking on a fault. -/
  | linkStackSpillFill (d : Nat)
  /-- R283: A request reaches the owning die, is translated and checked against the leaf. -/
  | owningDieAccess (r j : Nat)
  /-- R203: The translation probe of an atomic completes, confirming or refusing every lane. -/
  | atomicProbeResult (r : Nat)
  /-- R201: An atomic's old values return and vd becomes full. -/
  | atomicReturn (r : Nat)
  /-- R205: The low-word home applies a catom low update. -/
  | catomLowUpdate (r j : Nat)
  /-- R194: A scratchpad bank applies an access or aperture atomic in arrival order. -/
  | scratchpadBankAccess (r j : Nat)
  /-- R298: A compressed page is expanded into a pool frame and parked accesses replay. -/
  | pageExpansionComplete (ctx va : Nat)
  /-- R330: The home takes an ownership-policy load miss. -/
  | homeOLoadMiss (r j : Nat)
  /-- R330: The home takes a writer-invalidated load miss. -/
  | homeILoadMiss (r j : Nat)
  /-- R330: The home takes a self-invalidated load miss. -/
  | homeSLoadMiss (r j : Nat)
  /-- R330: The home takes a write-through load. -/
  | homeWLoad (r j : Nat)
  /-- R330: The home takes an ownership request for a store. -/
  | homeOwnershipRequest (r j : Nat)
  /-- R330: The home takes a write-through store of words. -/
  | homeWriteThrough (r j : Nat)
  /-- R330: The home takes an atomic, catom word, rtake, barw or evpost. -/
  | homeAtomic (r j : Nat)
  /-- R331: The owner's load or store of a word in WMASK is served at the home. -/
  | ownerWmaskAccess (r j : Nat)
  /-- R331: An owner writes back its copy at eviction or save, and the entry takes I. -/
  | ownerWriteBack (core g : Nat)
  /-- R331: An owner writes back by vwb and keeps a whole clean registered copy. -/
  | ownerVwbWriteBack (core g : Nat)
  /-- R329: The owner receives a recall to shared and returns dirty words. -/
  | recallToShared (g : Nat)
  /-- R329: The owner receives a recall, drops its copy and returns dirty words. -/
  | recall (g : Nat)
  /-- R329: The owner receives a claim of words and marks them invalid. -/
  | claim (g : Nat)
  /-- R329: A registered copy receives an invalidate and drops its copy. -/
  | invalidate (g holder : Nat)
  /-- R334: A replica slice receives an update and writes the words. -/
  | update (g die : Nat)
  /-- R329: All acknowledgements arrive; the home merges, applies the request and leaves T. -/
  | directoryTComplete (g : Nat)
  /-- R328: A request refused for a full queue is sent again with its original age. -/
  | requestRefusedResend (r j : Nat)
  /-- R332: A replica line leaving its slice is reported and its RDIES bit cleared. -/
  | replicaLineLeave (g die : Nat)
  /-- R332: The host adapter drops a clean copy and HOST is cleared. -/
  | hostCleanDrop (g : Nat)
  /-- R340: EPOCHPER cycles elapse and EPOCH increments, dropping stamped copies. -/
  | epochTick (core : Nat)
  /-- R341: An idle L1 drains and gives up owned granules before sleeping. -/
  | retentionSleepEnter (core : Nat)
  /-- R341: A sleeping L1 wakes and applies a missed sweep. -/
  | retentionWake (core : Nat)
  /-- R357: The arbiter grants a reservation to the free engine or quadrant. -/
  | matrixGrant (pad k : Nat)
  /-- R211: A pass completes and its destination tiles become full. -/
  | passComplete (pad k : Nat)
  /-- R357: A reservation reaches 1,024 or 4,096 cycles of waiting and is raised. -/
  | reservationAging (pad k : Nat)
  /-- R220: A tile operation completes and marks its destinations full. -/
  | tileOpComplete (k : Nat)
  /-- R221: A tld row faults at the owning die and parks the drove. -/
  | tldRowFault (r : Nat)
  /-- R412: A released drove with CSUM forms and logs its register checksum. -/
  | barrierChecksum (d : Nat)
  /-- R231: The flock's single arrival is made at the wide-barrier word's home. -/
  | wideBarrierArrival (f : Nat)
  /-- R235: An abarr or engine arrival is applied by the object's bank unit. -/
  | asyncObjectArrival (k : Nat)
  /-- R239: A waiting pop is served once all its elements are present. -/
  | chutePopServed (f n : Nat)
  /-- R238: A waiting push finds room and places its elements. -/
  | chutePushRoom (d : Nat)
  /-- R250: A copy's writes are acknowledged and it arrives on its object. -/
  | copyComplete (k : Nat)
  /-- R248: A copy meets a fault and is serviced or ended with a status. -/
  | copyFault (k : Nat)
  /-- R389: A node's launch counter reaches 0 and a reduce flock computes the chunk. -/
  | reduceFlockDispatch (c level node chunk : Nat)
  /-- R388: Reading the group table faults and parks phase 0. -/
  | collGroupTableFault (c : Nat)
  /-- R406: A waiting synchronising operation becomes the bellwether's and is performed. -/
  | bellwetherTurn (d : Nat)
  /-- R407: A waking operation returns a passive waiter to the minimum. -/
  | passiveWake (d : Nat)
  /-- R441: A device event record is posted once its queue has room. -/
  | deviceEventPost (k : Nat)
  /-- R347: The distributor takes the next queue entry and copies its record. -/
  | launchQueueEntryTake (q : Nat)
  /-- R353: The distributors place a waiting flock on a core when room appears. -/
  | flockAdmit (g : Nat)
  /-- R350: Every flock and engine arrival of a range is done and it completes. -/
  | rangeComplete (g : Nat)
  /-- R354: A drove ready 128 cycles without issue is promoted. -/
  | drovePromote (d : Nat)
  /-- R17: A regang wait ends after 64 cycles. -/
  | regangTimeout (d : Nat)
  /-- R120: A yield wait ends after 256 cycles. -/
  | yieldTimeout (d : Nat)
  /-- R358: A flock's residency reaches its budget and it is swapped out. -/
  | budgetExpiry (f : Nat)
  /-- R359: A stalled flock's waiting droves raise cause 0x30. -/
  | watchdogExpiry (f : Nat)
  /-- R370: A drove parked 180,000 cycles causes its flock's swap-out. -/
  | slowFaultSwapout (f : Nat)
  /-- R356: A paddock with PEND applies its new mode once free. -/
  | mxmodeApply (pad : Nat)
  /-- R367: A park fault writes a fault-table entry once a slot is free. -/
  | faultTableEntryWrite (k : Nat)
  /-- R368: A delivered park stops the drove at its next boundary. -/
  | parkDelivery (k : Nat)
  /-- R371: A flock is saved into a slot and its resources freed. -/
  | swapOut (f : Nat)
  /-- R375: A saved flock is restored on a core and resumes. -/
  | flockResume (k : Nat)
  /-- R410: A requested halt stops drove(s) at the next boundary. -/
  | dbgcmdHalt (d : Nat)
  /-- R286: Map command op 0 writes a page's leaves. -/
  | mapcmdMap (c : Nat)
  /-- R286: Map command op 1 clears P in a page's leaves. -/
  | mapcmdUnmap (c : Nat)
  /-- R298: Map command op 2 compresses a 64 KiB page into the zone. -/
  | mapcmdCompress (c : Nat)
  /-- R286: Map command op 3 clears the accessed bit. -/
  | mapcmdClearAccessed (c : Nat)
  /-- R286: Map command op 4 returns the leaf unchanged. -/
  | mapcmdQuery (c : Nat)
  /-- R285: A write to XTCR binds a TCR to the selected context. -/
  | xtcrBind (c : Nat)
  /-- R292: A write to SRAMWIN carves or refuses a core's SRAM window. -/
  | sramwinWrite (c : Nat)
  /-- R297: A write to CZONEn sets the compressed zone unless it holds an image. -/
  | czoneWrite (c : Nat)
  /-- R315: VC op 0 defines a virtual cache over chosen shares. -/
  | vcDefine (c : Nat)
  /-- R317: VC op 1 starts a live migration to a new geometry. -/
  | vcResize (c : Nat)
  /-- R317: VC op 2 starts a migration to a fresh share set. -/
  | vcMove (c : Nat)
  /-- R320: VC op 3 starts freeing a virtual cache. -/
  | vcFree (c : Nat)
  /-- R315: VC op 4 writes the CDR image to OUT. -/
  | vcRead (c : Nat)
  /-- R315: VC op 5 changes BWW and PINQ. -/
  | vcModify (c : Nat)
  /-- R322: VC op 6 starts retirement of a share. -/
  | vcRetireShare (c : Nat)
  /-- R315: VC op 7 writes the VC's share bitmap to OUT. -/
  | vcShareMap (c : Nat)
  /-- R318: The sweep handles the lines of one old set. -/
  | vcSweepSet (vc die : Nat)
  /-- R319: Every old set is swept and the migration completes. -/
  | vcMigrationComplete (vc : Nat)
  /-- R320: Freeing finishes, shares return and event 0x0103 is posted. -/
  | vcFreeComplete (vc : Nat)
  /-- R322: A share joins the retired set and event 0x0101 is posted. -/
  | shareRetireComplete (share : Nat)
  /-- R377: A write to AETCLR removes a granule from its error table. -/
  | aetclrWrite (c : Nat)
  /-- R361: A write to CSBADDR binds a CSB and increments CGEN. -/
  | csbaddrWrite (c : Nat)
  /-- R369: A fault reply with ACT 0 passes matching entries to state 2. -/
  | freplyReplay (c : Nat)
  /-- R369: A fault reply with ACT 1 passes matching entries to state 3. -/
  | freplyDeliver (c : Nat)
  /-- R373: CTXCMD op 0 swaps out every resident flock of a context. -/
  | ctxPreempt (c : Nat)
  /-- R373: CTXCMD op 1 lets saved flocks re-enter. -/
  | ctxResume (c : Nat)
  /-- R373: CTXCMD op 2 terminates every flock of a context. -/
  | ctxTerminate (c : Nat)
  /-- R351: CTXCMD op 3 replaces a paddock's Shepherd drove. -/
  | ctxPlaceShepherd (c : Nat)
  /-- R348: A write to LQCFG binds or disables a launch queue. -/
  | lqcfgWrite (c : Nat)
  /-- R356: A write to MXMODE requests paddock engine modes. -/
  | mxmodeWrite (c : Nat)
  /-- R410: A write to DBGCMD requests a halt of drove(s). -/
  | dbgcmdWrite (c : Nat)
  /-- R414: Writing LCCTL.CLR zeroes every lane-cycle count. -/
  | lcctlClr (c : Nat)
  /-- R403: A write to PWRPROF requests a power profile. -/
  | pwrprofWrite (c : Nat)
  /-- R260: A write to a system register with no behaviour of its own. -/
  | sysregWrite (c : Nat)
  /-- R380: 64 retransmissions within 1 ms make a link retrain. -/
  | linkRetrain (link : Nat)
  /-- R417: A pending BR is emitted 64 cycles after its first bit. -/
  | traceBrFlush (die : Nat)
  /-- R418: A SYNC is forced after 256 packets or 4,096 cycles. -/
  | traceForcedSync (die : Nat)
  /-- R418: With 4 KiB free after drops, the stream writes LOSS. -/
  | traceLoss (die : Nat)
  /-- R397: The checkpoint stream of a save or restore ends, bulk mode ends, STATUS becomes 0 or 4 and held work resumes. -/
  | checkpointStreamEnd (ok : Bool)
  /-- R380: A retraining link finishes training and the traffic held in its senders flows again. -/
  | linkRetrainEnd (link : Nat)
  deriving DecidableEq, Repr

end Sys2Proof
end

