-- ==== Sys2Proof/WellFormed.lean ====
section
/-! DEFINITION. Which instructions an encoding admits: the field values that their rules call outside the accepted
set (cause 0x02 at decode, 03 R86). A device step has no word and no ill-formed value. -/

namespace Sys2Proof

/-- Every coded field lies in the set its rule accepts: loads R77, aop codes R106, scan and reduction codes R178,
xcvt R167, qbc R172, mode.fld R123, tlbi R261, tmov R223, tfold R225, slab operands R80, vinv and vwb R198. -/
def Instr.wellFormed : Instr → Bool
  | .sadd _ _ _ _ _ _ => true
  | .ssub _ _ _ _ _ _ => true
  | .smul _ _ _ _ _ _ => true
  | .smulh _ _ _ _ _ _ => true
  | .smulhn _ _ _ _ _ _ => true
  | .sand _ _ _ _ _ _ => true
  | .sor _ _ _ _ _ _ => true
  | .sxor _ _ _ _ _ _ => true
  | .sandn _ _ _ _ _ _ => true
  | .sshl _ _ _ _ _ _ => true
  | .sshr _ _ _ _ _ _ => true
  | .ssra _ _ _ _ _ _ => true
  | .smin _ _ _ _ _ _ => true
  | .smax _ _ _ _ _ _ => true
  | .sminn _ _ _ _ _ _ => true
  | .smaxn _ _ _ _ _ _ => true
  | .seq _ _ _ _ _ _ => true
  | .slt _ _ _ _ _ _ => true
  | .sltn _ _ _ _ _ _ => true
  | .ssel _ _ _ _ _ _ => true
  | .sclz _ _ _ _ => true
  | .spop _ _ _ _ => true
  | .sbrev _ _ _ _ => true
  | .smov _ _ _ _ => true
  | .saddi _ _ _ => true
  | .sandi _ _ _ => true
  | .sori _ _ _ => true
  | .sxori _ _ _ => true
  | .sshli _ _ _ => true
  | .sshri _ _ _ => true
  | .ssrai _ _ _ => true
  | .seqi _ _ _ => true
  | .slti _ _ _ => true
  | .sli _ _ => true
  | .slui _ _ => true
  | .bra _ => true
  | .brz _ _ => true
  | .brnz _ _ => true
  | .call _ => true
  | .callr _ _ => true
  | .ret => true
  | .jmpr _ _ => true
  | .exit => true
  | .regang => true
  | .nop => true
  | .brk _ => true
  | .yield => true
  | .modeSet _ _ _ _ => true
  | .modeFld fld _ => decide (fld.toNat < 10)
  | .modeGet _ _ => true
  | .vadd _ _ _ _ _ _ => true
  | .vsub _ _ _ _ _ _ => true
  | .vmul _ _ _ _ _ _ => true
  | .vmulh _ _ _ _ _ _ => true
  | .vmad _ _ _ _ _ _ => true
  | .vand _ _ _ _ _ _ => true
  | .vor _ _ _ _ _ _ => true
  | .vxor _ _ _ _ _ _ => true
  | .vandn _ _ _ _ _ _ => true
  | .vshl _ _ _ _ _ _ => true
  | .vshr _ _ _ _ _ _ => true
  | .vsra _ _ _ _ _ _ => true
  | .vmin _ _ _ _ _ _ => true
  | .vmax _ _ _ _ _ _ => true
  | .vabs _ _ _ _ => true
  | .vneg _ _ _ _ => true
  | .veqSub2 _ _ _ _ _ => true
  | .veqSub3 _ _ _ => true
  | .vneSub2 _ _ _ _ _ => true
  | .vneSub3 _ _ _ => true
  | .vltSub2 _ _ _ _ _ => true
  | .vltSub3 _ _ _ => true
  | .vleSub2 _ _ _ _ _ => true
  | .vleSub3 _ _ _ => true
  | .vselSub0 _ _ _ _ _ => true
  | .vselSub1 _ _ _ _ _ => true
  | .vmov _ _ _ _ => true
  | .vbcast _ _ _ => true
  | .vlid _ _ => true
  | .vpop _ _ _ _ => true
  | .vclz _ _ _ _ => true
  | .vcvt _ _ _ _ => true
  | .vpack _ _ _ _ _ _ => true
  | .vunpack _ _ _ _ _ _ => true
  | .vrand _ _ => true
  | .fadd _ _ _ _ _ _ => true
  | .fsub _ _ _ _ _ _ => true
  | .fmul _ _ _ _ _ _ => true
  | .ffma _ _ _ _ _ _ => true
  | .ffms _ _ _ _ _ _ => true
  | .fnma _ _ _ _ _ _ => true
  | .fmin _ _ _ _ _ _ => true
  | .fmax _ _ _ _ _ _ => true
  | .fabs _ _ _ _ => true
  | .fneg _ _ _ _ => true
  | .feqSub2 _ _ _ _ _ => true
  | .feqSub3 _ _ _ => true
  | .fltSub2 _ _ _ _ _ => true
  | .fltSub3 _ _ _ => true
  | .fleSub2 _ _ _ _ _ => true
  | .fleSub3 _ _ _ => true
  | .funSub2 _ _ _ _ _ => true
  | .funSub3 _ _ _ => true
  | .frcp _ _ _ _ => true
  | .frsq _ _ _ _ => true
  | .fsqrt _ _ _ _ => true
  | .fexp2 _ _ _ _ => true
  | .flog2 _ _ _ _ => true
  | .fsin _ _ _ _ => true
  | .fcos _ _ _ _ => true
  | .fround _ _ _ _ => true
  | .fcvt _ _ _ _ => true
  | .fcvti _ _ _ _ => true
  | .ficvt _ _ _ _ => true
  | .fscale _ _ _ _ _ _ => true
  | .fgetexp _ _ _ _ => true
  | .fgetman _ _ _ _ => true
  | .fclass _ _ _ _ => true
  | .twosum _ _ _ _ _ _ => true
  | .ftwosum _ _ _ _ _ _ => true
  | .twoprod _ _ _ _ _ _ => true
  | .fmaerr _ _ _ _ _ _ => true
  | .xadd _ _ _ _ _ _ => true
  | .xsub _ _ _ _ _ _ => true
  | .xmul _ _ _ _ _ _ => true
  | .xfma _ _ _ _ _ _ => true
  | .xrenorm _ _ _ _ => true
  | .xcompress _ _ _ _ => true
  | .xeqSub2 _ _ _ _ _ => true
  | .xeqSub3 _ _ _ => true
  | .xltSub2 _ _ _ _ _ => true
  | .xltSub3 _ _ _ => true
  | .xleSub2 _ _ _ _ _ => true
  | .xleSub3 _ _ _ => true
  | .xneg _ _ _ _ => true
  | .xabs _ _ _ _ => true
  | .xsplit _ _ _ _ => true
  | .xtop _ _ _ _ => true
  | .xcvt _ _ c _ _ => decide (c.toNat < 4)
  | .xbound _ _ _ _ => true
  | .qswh _ _ _ _ => true
  | .qswv _ _ _ _ => true
  | .qswd _ _ _ _ => true
  | .qbc _ _ n _ _ => decide (n.toNat < 4)
  | .qddx _ _ _ _ => true
  | .qddy _ _ _ _ => true
  | .qhelp => true
  | .lshuf _ _ _ _ _ _ => true
  | .lrot _ _ _ _ _ _ => true
  | .lscan _ _ c _ _ => decide (c.toNat < 16) && decide (c.toNat % 8 < 6)
  | .lred _ _ c _ _ => decide (c.toNat < 16) && decide (c.toNat % 8 < 6) && (decide (c.toNat < 8) || c == 8)
  | .lballot _ _ _ => true
  | .lcompress _ _ _ _ => true
  | .lexpand _ _ _ _ => true
  | .lfirst _ _ _ => true
  | .ldO _ _ _ sz ex _ => !(ex && decide (2 ≤ sz.toNat))
  | .ldW _ _ _ sz ex _ => !(ex && decide (2 ≤ sz.toNat))
  | .ldS _ _ _ sz ex _ => !(ex && decide (2 ≤ sz.toNat))
  | .ldI _ _ _ sz ex _ => !(ex && decide (2 ≤ sz.toNat))
  | .stO _ _ _ _ _ => true
  | .stW _ _ _ _ _ => true
  | .stS _ _ _ _ _ => true
  | .stI _ _ _ _ _ => true
  | .ldsO _ _ _ _ => true
  | .ldsW _ _ _ _ => true
  | .ldsS _ _ _ _ => true
  | .ldsI _ _ _ _ => true
  | .stsO _ _ _ _ => true
  | .stsW _ _ _ _ => true
  | .stsS _ _ _ _ => true
  | .stsI _ _ _ _ => true
  | .ldp _ _ _ sz ex _ => !(ex && decide (2 ≤ sz.toNat))
  | .stp _ _ _ _ _ => true
  | .ldsp _ _ _ sz ex _ => !(ex && decide (2 ≤ sz.toNat))
  | .stsp _ _ _ _ _ => true
  | .cst _ _ _ _ _ => true
  | .stm _ _ _ _ _ => true
  | .pref _ _ _ _ _ => true
  | .vinv a l => !(a == 0 && l != 0)
  | .vwb a l => !(a == 0 && l != 0)
  | .fenceAcq => true
  | .fenceRel => true
  | .fenceSc => true
  | .atomRlx _ _ _ p => decide (p.toNat < 12)
  | .atomAcq _ _ _ p => decide (p.toNat < 12)
  | .atomRel _ _ _ p => decide (p.toNat < 12)
  | .atomAr _ _ _ p => decide (p.toNat < 12)
  | .redRlx _ _ _ p => decide (p.toNat < 12) && p != 6 && p != 7
  | .redRel _ _ _ p => decide (p.toNat < 12) && p != 6 && p != 7
  | .catom _ _ _ => true
  | .satom _ _ _ p => decide (p.toNat < 12)
  | .mma _ ka a kb b _ => !(ka && decide (64 ≤ a.toNat)) && !(kb && decide (64 ≤ b.toNat))
  | .mmar _ ka a kb b _ => !(ka && decide (64 ≤ a.toNat)) && !(kb && decide (64 ≤ b.toNat))
  | .mmab _ ka a kb b _ => !(ka && decide (64 ≤ a.toNat)) && !(kb && decide (64 ≤ b.toNat))
  | .tld _ _ => true
  | .tst _ _ => true
  | .tzero _ => true
  | .trd _ _ _ _ _ => true
  | .twr _ _ _ _ _ => true
  | .tfold _ _ p => decide (p.toNat < 2)
  | .tscl _ _ _ => true
  | .tmov _ _ p => decide (p.toNat < 4)
  | .tcvt _ _ => true
  | .bar _ => true
  | .barv _ _ _ _ => true
  | .barw _ _ => true
  | .abinit _ _ => true
  | .abarr _ _ => true
  | .abwait _ _ => true
  | .qpush _ _ => true
  | .qpop _ _ => true
  | .qtry _ _ _ => true
  | .qallow _ _ => true
  | .rtake _ _ _ _ => true
  | .cpy _ _ => true
  | .coll _ _ _ => true
  | .evpost _ _ => true
  | .rlaunch _ => true
  | .trap _ => true
  | .eret => true
  | .mcall _ _ _ _ => true
  | .mcw _ => true
  | .sysrd _ _ => true
  | .syswr _ _ => true
  | .tlbi _ _ c => c != 3
  | .illegalWord _ => true
  | .instructionFetchFault _ => true
  | .loadReturn _ => true
  | .slowSysrdReturn _ => true
  | .loadLaneFault _ => true
  | .storeAck _ => true
  | .storeLaneFault _ => true
  | .linkStackSpillFill _ => true
  | .owningDieAccess _ _ => true
  | .atomicProbeResult _ => true
  | .atomicReturn _ => true
  | .catomLowUpdate _ _ => true
  | .scratchpadBankAccess _ _ => true
  | .pageExpansionComplete _ _ => true
  | .homeOLoadMiss _ _ => true
  | .homeILoadMiss _ _ => true
  | .homeSLoadMiss _ _ => true
  | .homeWLoad _ _ => true
  | .homeOwnershipRequest _ _ => true
  | .homeWriteThrough _ _ => true
  | .homeAtomic _ _ => true
  | .ownerWmaskAccess _ _ => true
  | .ownerWriteBack _ _ => true
  | .ownerVwbWriteBack _ _ => true
  | .recallToShared _ => true
  | .recall _ => true
  | .claim _ => true
  | .invalidate _ _ => true
  | .update _ _ => true
  | .directoryTComplete _ => true
  | .requestRefusedResend _ _ => true
  | .directoryEntryUe _ => true
  | .replicaLineLeave _ _ => true
  | .hostCleanDrop _ => true
  | .hrd _ => true
  | .hrdx _ _ _ => true
  | .hwr _ _ _ => true
  | .hwb _ => true
  | .peerAccessRequest _ => true
  | .route10Ack _ _ _ => true
  | .epochTick _ => true
  | .retentionSleepEnter _ => true
  | .retentionWake _ => true
  | .matrixGrant _ _ => true
  | .passComplete _ _ => true
  | .reservationAging _ _ => true
  | .tileOpComplete _ => true
  | .tldRowFault _ => true
  | .barrierChecksum _ => true
  | .wideBarrierArrival _ => true
  | .asyncObjectArrival _ => true
  | .chutePopServed _ _ => true
  | .chutePushRoom _ => true
  | .copyComplete _ => true
  | .copyFault _ => true
  | .collPhase0Packet _ => true
  | .collDataPacket _ => true
  | .collResultPacket _ => true
  | .collCancelPacket _ => true
  | .reduceFlockDispatch _ _ _ _ => true
  | .switchCombine _ _ _ => true
  | .collGroupTableFault _ => true
  | .bellwetherTurn _ => true
  | .passiveWake _ => true
  | .deviceEventPost _ => true
  | .launchQueueDoorbell _ _ => true
  | .launchQueueEntryTake _ => true
  | .flockAdmit _ => true
  | .rangeComplete _ => true
  | .drovePromote _ => true
  | .regangTimeout _ => true
  | .yieldTimeout _ => true
  | .budgetExpiry _ => true
  | .watchdogExpiry _ => true
  | .slowFaultSwapout _ => true
  | .mxmodeApply _ => true
  | .faultTableEntryWrite _ => true
  | .parkDelivery _ => true
  | .swapOut _ => true
  | .flockResume _ => true
  | .dbgcmdHalt _ => true
  | .mapcmdMap _ => true
  | .mapcmdUnmap _ => true
  | .mapcmdCompress _ => true
  | .mapcmdClearAccessed _ => true
  | .mapcmdQuery _ => true
  | .xtcrBind _ => true
  | .sramwinWrite _ => true
  | .czoneWrite _ => true
  | .vcDefine _ => true
  | .vcResize _ => true
  | .vcMove _ => true
  | .vcFree _ => true
  | .vcRead _ => true
  | .vcModify _ => true
  | .vcRetireShare _ => true
  | .vcShareMap _ => true
  | .vcSweepSet _ _ => true
  | .vcMigrationComplete _ => true
  | .vcFreeComplete _ => true
  | .shareRetireComplete _ => true
  | .correctedError _ => true
  | .uncorrectableError _ _ => true
  | .aetclrWrite _ => true
  | .csbaddrWrite _ => true
  | .freplyReplay _ => true
  | .freplyDeliver _ => true
  | .ctxPreempt _ => true
  | .ctxResume _ => true
  | .ctxTerminate _ => true
  | .ctxPlaceShepherd _ => true
  | .lqcfgWrite _ => true
  | .mxmodeWrite _ => true
  | .dbgcmdWrite _ => true
  | .lcctlClr _ => true
  | .pwrprofWrite _ => true
  | .sysregWrite _ => true
  | .ckptSave _ _ => true
  | .ckptRestore _ _ => true
  | .attestRequest _ => true
  | .notifyClear _ => true
  | .frdataRead => true
  | .fieldRecordCommit => true
  | .moduleReset => true
  | .recoveryImageWrite _ => true
  | .thermalClockStep _ => true
  | .flitCrcFail _ => true
  | .linkRetrain _ => true
  | .portDown _ => true
  | .portTrained _ => true
  | .traceBrFlush _ => true
  | .traceForcedSync _ => true
  | .traceLoss _ => true
  | .checkpointStreamEnd _ => true
  | .linkRetrainEnd _ => true
  | .emptyIssueSlot => true
  | .profileChangeTakesEffect => true
  | .powerLoss => true

end Sys2Proof
end

