-- ==== Sys2Proof/Decode.lean ====
section
/-! DEFINITION. The decoder, total on every word, and the encoder, both written from the formats of 03 R72 and the
opcode map 04 R102. Bit fields are taken by division, so that every round trip is linear arithmetic. -/

namespace Sys2Proof

/-- The `len` bits of word `w` from bit `lo` up. -/
def fld (len w lo : Nat) : BitVec len := BitVec.ofNat len (w / 2 ^ lo)

/-- Bit `lo` of word `w`. -/
def flag (w lo : Nat) : Bool := decide (w / 2 ^ lo % 2 = 1)

/-- The `len` bits of word `w` from bit `lo` up are all 0: a reserved field (03 R86). -/
def zeros (len w lo : Nat) : Bool := decide (w / 2 ^ lo % 2 ^ len = 0)

/-- The `len` bits of word `w` from bit `lo` up hold the fixed code `v`. -/
def code (len w lo v : Nat) : Bool := decide (w / 2 ^ lo % 2 ^ len = v)

/-- One bit as a number, for the encoder. -/
def bit (b : Bool) : Nat := if b then 1 else 0

/-- Opcodes 0x00 to 0x0F (04 R102): reserved fields 0, else refused. -/
def decodeRow0 (lo w : Nat) : Option Instr :=
  match lo with
  | 1 => if zeros 3 w 3 then some (.sadd (fld 6 w 18) (fld 6 w 12) (fld 6 w 6) (flag w 2) (flag w 1) (flag w 0)) else none
  | 2 => if zeros 3 w 3 then some (.ssub (fld 6 w 18) (fld 6 w 12) (fld 6 w 6) (flag w 2) (flag w 1) (flag w 0)) else none
  | 3 => if zeros 3 w 3 then some (.smul (fld 6 w 18) (fld 6 w 12) (fld 6 w 6) (flag w 2) (flag w 1) (flag w 0)) else none
  | 4 => if zeros 3 w 3 then some (.smulh (fld 6 w 18) (fld 6 w 12) (fld 6 w 6) (flag w 2) (flag w 1) (flag w 0)) else none
  | 5 => if zeros 3 w 3 then some (.smulhn (fld 6 w 18) (fld 6 w 12) (fld 6 w 6) (flag w 2) (flag w 1) (flag w 0)) else none
  | 6 => if zeros 3 w 3 then some (.sand (fld 6 w 18) (fld 6 w 12) (fld 6 w 6) (flag w 2) (flag w 1) (flag w 0)) else none
  | 7 => if zeros 3 w 3 then some (.sor (fld 6 w 18) (fld 6 w 12) (fld 6 w 6) (flag w 2) (flag w 1) (flag w 0)) else none
  | 8 => if zeros 3 w 3 then some (.sxor (fld 6 w 18) (fld 6 w 12) (fld 6 w 6) (flag w 2) (flag w 1) (flag w 0)) else none
  | 9 => if zeros 3 w 3 then some (.sandn (fld 6 w 18) (fld 6 w 12) (fld 6 w 6) (flag w 2) (flag w 1) (flag w 0)) else none
  | 10 => if zeros 3 w 3 then some (.sshl (fld 6 w 18) (fld 6 w 12) (fld 6 w 6) (flag w 2) (flag w 1) (flag w 0)) else none
  | 11 => if zeros 3 w 3 then some (.sshr (fld 6 w 18) (fld 6 w 12) (fld 6 w 6) (flag w 2) (flag w 1) (flag w 0)) else none
  | 12 => if zeros 3 w 3 then some (.ssra (fld 6 w 18) (fld 6 w 12) (fld 6 w 6) (flag w 2) (flag w 1) (flag w 0)) else none
  | 13 => if zeros 3 w 3 then some (.smin (fld 6 w 18) (fld 6 w 12) (fld 6 w 6) (flag w 2) (flag w 1) (flag w 0)) else none
  | 14 => if zeros 3 w 3 then some (.smax (fld 6 w 18) (fld 6 w 12) (fld 6 w 6) (flag w 2) (flag w 1) (flag w 0)) else none
  | 15 => if zeros 3 w 3 then some (.sminn (fld 6 w 18) (fld 6 w 12) (fld 6 w 6) (flag w 2) (flag w 1) (flag w 0)) else none
  | _ => none

/-- Opcodes 0x10 to 0x1F (04 R102): reserved fields 0, else refused. -/
def decodeRow1 (lo w : Nat) : Option Instr :=
  match lo with
  | 0 => if zeros 3 w 3 then some (.smaxn (fld 6 w 18) (fld 6 w 12) (fld 6 w 6) (flag w 2) (flag w 1) (flag w 0)) else none
  | 1 => if zeros 3 w 3 then some (.seq (fld 6 w 18) (fld 6 w 12) (fld 6 w 6) (flag w 2) (flag w 1) (flag w 0)) else none
  | 2 => if zeros 3 w 3 then some (.slt (fld 6 w 18) (fld 6 w 12) (fld 6 w 6) (flag w 2) (flag w 1) (flag w 0)) else none
  | 3 => if zeros 3 w 3 then some (.sltn (fld 6 w 18) (fld 6 w 12) (fld 6 w 6) (flag w 2) (flag w 1) (flag w 0)) else none
  | 4 => if zeros 3 w 3 then some (.ssel (fld 6 w 18) (fld 6 w 12) (fld 6 w 6) (flag w 2) (flag w 1) (flag w 0)) else none
  | 5 => if zeros 9 w 3 && zeros 1 w 1 then some (.sclz (fld 6 w 18) (fld 6 w 12) (flag w 2) (flag w 0)) else none
  | 6 => if zeros 9 w 3 && zeros 1 w 1 then some (.spop (fld 6 w 18) (fld 6 w 12) (flag w 2) (flag w 0)) else none
  | 7 => if zeros 9 w 3 && zeros 1 w 1 then some (.sbrev (fld 6 w 18) (fld 6 w 12) (flag w 2) (flag w 0)) else none
  | 8 => if zeros 9 w 3 && zeros 1 w 1 then some (.smov (fld 6 w 18) (fld 6 w 12) (flag w 2) (flag w 0)) else none
  | 9 => some (.saddi (fld 6 w 18) (fld 6 w 12) (fld 12 w 0))
  | 10 => some (.sandi (fld 6 w 18) (fld 6 w 12) (fld 12 w 0))
  | 11 => some (.sori (fld 6 w 18) (fld 6 w 12) (fld 12 w 0))
  | 12 => some (.sxori (fld 6 w 18) (fld 6 w 12) (fld 12 w 0))
  | 13 => if zeros 6 w 6 then some (.sshli (fld 6 w 18) (fld 6 w 12) (fld 6 w 0)) else none
  | 14 => if zeros 6 w 6 then some (.sshri (fld 6 w 18) (fld 6 w 12) (fld 6 w 0)) else none
  | 15 => if zeros 6 w 6 then some (.ssrai (fld 6 w 18) (fld 6 w 12) (fld 6 w 0)) else none
  | _ => none

/-- Opcodes 0x20 to 0x2F (04 R102): reserved fields 0, else refused. -/
def decodeRow2 (lo w : Nat) : Option Instr :=
  match lo with
  | 0 => some (.seqi (fld 6 w 18) (fld 6 w 12) (fld 12 w 0))
  | 1 => some (.slti (fld 6 w 18) (fld 6 w 12) (fld 12 w 0))
  | 2 => some (.sli (fld 6 w 18) (fld 18 w 0))
  | 3 => some (.slui (fld 6 w 18) (fld 18 w 0))
  | 8 => if zeros 6 w 18 then some (.bra (fld 18 w 0)) else none
  | 9 => some (.brz (fld 6 w 18) (fld 18 w 0))
  | 10 => some (.brnz (fld 6 w 18) (fld 18 w 0))
  | 11 => if zeros 6 w 18 then some (.call (fld 18 w 0)) else none
  | 12 => if zeros 6 w 18 && zeros 9 w 3 && zeros 2 w 0 then some (.callr (fld 6 w 12) (flag w 2)) else none
  | 13 => if zeros 24 w 0 then some (.ret) else none
  | 14 => if zeros 6 w 18 && zeros 9 w 3 && zeros 2 w 0 then some (.jmpr (fld 6 w 12) (flag w 2)) else none
  | 15 => if zeros 24 w 0 then some (.exit) else none
  | _ => none

/-- Opcodes 0x30 to 0x3F (04 R102): reserved fields 0, else refused. -/
def decodeRow3 (lo w : Nat) : Option Instr :=
  match lo with
  | 0 => if zeros 24 w 0 then some (.regang) else none
  | 1 => if zeros 24 w 0 then some (.nop) else none
  | 2 => some (.brk (fld 24 w 0))
  | 3 => if zeros 24 w 0 then some (.yield) else none
  | 4 => if zeros 9 w 3 && zeros 1 w 1 then some (.modeSet (fld 6 w 18) (fld 6 w 12) (flag w 2) (flag w 0)) else none
  | 5 => if zeros 14 w 6 then some (.modeFld (fld 4 w 20) (fld 6 w 0)) else none
  | 6 => if zeros 17 w 1 then some (.modeGet (fld 6 w 18) (flag w 0)) else none
  | _ => none

/-- Opcodes 0x40 to 0x4F (04 R102): reserved fields 0, else refused. -/
def decodeRow4 (lo w : Nat) : Option Instr :=
  match lo with
  | 0 => some (.vadd (fld 7 w 17) (fld 7 w 10) (fld 7 w 3) (flag w 2) (flag w 1) (flag w 0))
  | 1 => some (.vsub (fld 7 w 17) (fld 7 w 10) (fld 7 w 3) (flag w 2) (flag w 1) (flag w 0))
  | 2 => some (.vmul (fld 7 w 17) (fld 7 w 10) (fld 7 w 3) (flag w 2) (flag w 1) (flag w 0))
  | 3 => some (.vmulh (fld 7 w 17) (fld 7 w 10) (fld 7 w 3) (flag w 2) (flag w 1) (flag w 0))
  | 4 => some (.vmad (fld 7 w 17) (fld 7 w 10) (fld 7 w 3) (flag w 2) (flag w 1) (flag w 0))
  | 5 => some (.vand (fld 7 w 17) (fld 7 w 10) (fld 7 w 3) (flag w 2) (flag w 1) (flag w 0))
  | 6 => some (.vor (fld 7 w 17) (fld 7 w 10) (fld 7 w 3) (flag w 2) (flag w 1) (flag w 0))
  | 7 => some (.vxor (fld 7 w 17) (fld 7 w 10) (fld 7 w 3) (flag w 2) (flag w 1) (flag w 0))
  | 8 => some (.vandn (fld 7 w 17) (fld 7 w 10) (fld 7 w 3) (flag w 2) (flag w 1) (flag w 0))
  | 9 => some (.vshl (fld 7 w 17) (fld 7 w 10) (fld 7 w 3) (flag w 2) (flag w 1) (flag w 0))
  | 10 => some (.vshr (fld 7 w 17) (fld 7 w 10) (fld 7 w 3) (flag w 2) (flag w 1) (flag w 0))
  | 11 => some (.vsra (fld 7 w 17) (fld 7 w 10) (fld 7 w 3) (flag w 2) (flag w 1) (flag w 0))
  | 12 => some (.vmin (fld 7 w 17) (fld 7 w 10) (fld 7 w 3) (flag w 2) (flag w 1) (flag w 0))
  | 13 => some (.vmax (fld 7 w 17) (fld 7 w 10) (fld 7 w 3) (flag w 2) (flag w 1) (flag w 0))
  | 14 => if zeros 7 w 3 && zeros 1 w 1 then some (.vabs (fld 7 w 17) (fld 7 w 10) (flag w 2) (flag w 0)) else none
  | 15 => if zeros 7 w 3 && zeros 1 w 1 then some (.vneg (fld 7 w 17) (fld 7 w 10) (flag w 2) (flag w 0)) else none
  | _ => none

/-- Opcodes 0x50 to 0x5F (04 R102): reserved fields 0, else refused. -/
def decodeRow5 (lo w : Nat) : Option Instr :=
  match lo with
  | 0 => if code 2 w 0 2 then some (.veqSub2 (fld 7 w 17) (fld 7 w 10) (fld 6 w 4) (flag w 3) (flag w 2)) else if zeros 7 w 17 && code 3 w 0 3 then some (.veqSub3 (fld 7 w 10) (fld 6 w 4) (flag w 3)) else none
  | 1 => if code 2 w 0 2 then some (.vneSub2 (fld 7 w 17) (fld 7 w 10) (fld 6 w 4) (flag w 3) (flag w 2)) else if zeros 7 w 17 && code 3 w 0 3 then some (.vneSub3 (fld 7 w 10) (fld 6 w 4) (flag w 3)) else none
  | 2 => if code 2 w 0 2 then some (.vltSub2 (fld 7 w 17) (fld 7 w 10) (fld 6 w 4) (flag w 3) (flag w 2)) else if zeros 7 w 17 && code 3 w 0 3 then some (.vltSub3 (fld 7 w 10) (fld 6 w 4) (flag w 3)) else none
  | 3 => if code 2 w 0 2 then some (.vleSub2 (fld 7 w 17) (fld 7 w 10) (fld 6 w 4) (flag w 3) (flag w 2)) else if zeros 7 w 17 && code 3 w 0 3 then some (.vleSub3 (fld 7 w 10) (fld 6 w 4) (flag w 3)) else none
  | 4 => if zeros 2 w 0 then some (.vselSub0 (fld 7 w 17) (fld 7 w 10) (fld 6 w 4) (flag w 3) (flag w 2)) else if code 2 w 0 1 then some (.vselSub1 (fld 7 w 17) (fld 7 w 10) (fld 6 w 4) (flag w 3) (flag w 2)) else none
  | 5 => if zeros 7 w 3 && zeros 1 w 1 then some (.vmov (fld 7 w 17) (fld 7 w 10) (flag w 2) (flag w 0)) else none
  | 6 => if zeros 7 w 10 && zeros 1 w 3 && zeros 2 w 0 then some (.vbcast (fld 7 w 17) (fld 6 w 4) (flag w 2)) else none
  | 7 => if zeros 16 w 1 then some (.vlid (fld 7 w 17) (flag w 0)) else none
  | 8 => if zeros 7 w 3 && zeros 1 w 1 then some (.vpop (fld 7 w 17) (fld 7 w 10) (flag w 2) (flag w 0)) else none
  | 9 => if zeros 7 w 3 && zeros 1 w 1 then some (.vclz (fld 7 w 17) (fld 7 w 10) (flag w 2) (flag w 0)) else none
  | 10 => if zeros 7 w 3 && zeros 1 w 1 then some (.vcvt (fld 7 w 17) (fld 7 w 10) (flag w 2) (flag w 0)) else none
  | 11 => some (.vpack (fld 7 w 17) (fld 7 w 10) (fld 7 w 3) (flag w 2) (flag w 1) (flag w 0))
  | 12 => some (.vunpack (fld 7 w 17) (fld 7 w 10) (fld 7 w 3) (flag w 2) (flag w 1) (flag w 0))
  | 13 => if zeros 16 w 1 then some (.vrand (fld 7 w 17) (flag w 0)) else none
  | _ => none

/-- Opcodes 0x60 to 0x6F (04 R102): reserved fields 0, else refused. -/
def decodeRow6 (lo w : Nat) : Option Instr :=
  match lo with
  | 0 => some (.fadd (fld 7 w 17) (fld 7 w 10) (fld 7 w 3) (flag w 2) (flag w 1) (flag w 0))
  | 1 => some (.fsub (fld 7 w 17) (fld 7 w 10) (fld 7 w 3) (flag w 2) (flag w 1) (flag w 0))
  | 2 => some (.fmul (fld 7 w 17) (fld 7 w 10) (fld 7 w 3) (flag w 2) (flag w 1) (flag w 0))
  | 3 => some (.ffma (fld 7 w 17) (fld 7 w 10) (fld 7 w 3) (flag w 2) (flag w 1) (flag w 0))
  | 4 => some (.ffms (fld 7 w 17) (fld 7 w 10) (fld 7 w 3) (flag w 2) (flag w 1) (flag w 0))
  | 5 => some (.fnma (fld 7 w 17) (fld 7 w 10) (fld 7 w 3) (flag w 2) (flag w 1) (flag w 0))
  | 6 => some (.fmin (fld 7 w 17) (fld 7 w 10) (fld 7 w 3) (flag w 2) (flag w 1) (flag w 0))
  | 7 => some (.fmax (fld 7 w 17) (fld 7 w 10) (fld 7 w 3) (flag w 2) (flag w 1) (flag w 0))
  | 8 => if zeros 7 w 3 && zeros 1 w 1 then some (.fabs (fld 7 w 17) (fld 7 w 10) (flag w 2) (flag w 0)) else none
  | 9 => if zeros 7 w 3 && zeros 1 w 1 then some (.fneg (fld 7 w 17) (fld 7 w 10) (flag w 2) (flag w 0)) else none
  | 10 => if code 2 w 0 2 then some (.feqSub2 (fld 7 w 17) (fld 7 w 10) (fld 6 w 4) (flag w 3) (flag w 2)) else if zeros 7 w 17 && code 3 w 0 3 then some (.feqSub3 (fld 7 w 10) (fld 6 w 4) (flag w 3)) else none
  | 11 => if code 2 w 0 2 then some (.fltSub2 (fld 7 w 17) (fld 7 w 10) (fld 6 w 4) (flag w 3) (flag w 2)) else if zeros 7 w 17 && code 3 w 0 3 then some (.fltSub3 (fld 7 w 10) (fld 6 w 4) (flag w 3)) else none
  | 12 => if code 2 w 0 2 then some (.fleSub2 (fld 7 w 17) (fld 7 w 10) (fld 6 w 4) (flag w 3) (flag w 2)) else if zeros 7 w 17 && code 3 w 0 3 then some (.fleSub3 (fld 7 w 10) (fld 6 w 4) (flag w 3)) else none
  | 13 => if code 2 w 0 2 then some (.funSub2 (fld 7 w 17) (fld 7 w 10) (fld 6 w 4) (flag w 3) (flag w 2)) else if zeros 7 w 17 && code 3 w 0 3 then some (.funSub3 (fld 7 w 10) (fld 6 w 4) (flag w 3)) else none
  | 14 => if zeros 7 w 3 && zeros 1 w 1 then some (.frcp (fld 7 w 17) (fld 7 w 10) (flag w 2) (flag w 0)) else none
  | 15 => if zeros 7 w 3 && zeros 1 w 1 then some (.frsq (fld 7 w 17) (fld 7 w 10) (flag w 2) (flag w 0)) else none
  | _ => none

/-- Opcodes 0x70 to 0x7F (04 R102): reserved fields 0, else refused. -/
def decodeRow7 (lo w : Nat) : Option Instr :=
  match lo with
  | 0 => if zeros 7 w 3 && zeros 1 w 1 then some (.fsqrt (fld 7 w 17) (fld 7 w 10) (flag w 2) (flag w 0)) else none
  | 1 => if zeros 7 w 3 && zeros 1 w 1 then some (.fexp2 (fld 7 w 17) (fld 7 w 10) (flag w 2) (flag w 0)) else none
  | 2 => if zeros 7 w 3 && zeros 1 w 1 then some (.flog2 (fld 7 w 17) (fld 7 w 10) (flag w 2) (flag w 0)) else none
  | 3 => if zeros 7 w 3 && zeros 1 w 1 then some (.fsin (fld 7 w 17) (fld 7 w 10) (flag w 2) (flag w 0)) else none
  | 4 => if zeros 7 w 3 && zeros 1 w 1 then some (.fcos (fld 7 w 17) (fld 7 w 10) (flag w 2) (flag w 0)) else none
  | 5 => if zeros 7 w 3 && zeros 1 w 1 then some (.fround (fld 7 w 17) (fld 7 w 10) (flag w 2) (flag w 0)) else none
  | 6 => if zeros 7 w 3 && zeros 1 w 1 then some (.fcvt (fld 7 w 17) (fld 7 w 10) (flag w 2) (flag w 0)) else none
  | 7 => if zeros 7 w 3 && zeros 1 w 1 then some (.fcvti (fld 7 w 17) (fld 7 w 10) (flag w 2) (flag w 0)) else none
  | 8 => if zeros 7 w 3 && zeros 1 w 1 then some (.ficvt (fld 7 w 17) (fld 7 w 10) (flag w 2) (flag w 0)) else none
  | 9 => some (.fscale (fld 7 w 17) (fld 7 w 10) (fld 7 w 3) (flag w 2) (flag w 1) (flag w 0))
  | 10 => if zeros 7 w 3 && zeros 1 w 1 then some (.fgetexp (fld 7 w 17) (fld 7 w 10) (flag w 2) (flag w 0)) else none
  | 11 => if zeros 7 w 3 && zeros 1 w 1 then some (.fgetman (fld 7 w 17) (fld 7 w 10) (flag w 2) (flag w 0)) else none
  | 12 => if zeros 7 w 3 && zeros 1 w 1 then some (.fclass (fld 7 w 17) (fld 7 w 10) (flag w 2) (flag w 0)) else none
  | _ => none

/-- Opcodes 0x80 to 0x8F (04 R102): reserved fields 0, else refused. -/
def decodeRow8 (lo w : Nat) : Option Instr :=
  match lo with
  | 0 => some (.twosum (fld 7 w 17) (fld 7 w 10) (fld 7 w 3) (flag w 2) (flag w 1) (flag w 0))
  | 1 => some (.ftwosum (fld 7 w 17) (fld 7 w 10) (fld 7 w 3) (flag w 2) (flag w 1) (flag w 0))
  | 2 => some (.twoprod (fld 7 w 17) (fld 7 w 10) (fld 7 w 3) (flag w 2) (flag w 1) (flag w 0))
  | 3 => some (.fmaerr (fld 7 w 17) (fld 7 w 10) (fld 7 w 3) (flag w 2) (flag w 1) (flag w 0))
  | 4 => some (.xadd (fld 7 w 17) (fld 7 w 10) (fld 7 w 3) (flag w 2) (flag w 1) (flag w 0))
  | 5 => some (.xsub (fld 7 w 17) (fld 7 w 10) (fld 7 w 3) (flag w 2) (flag w 1) (flag w 0))
  | 6 => some (.xmul (fld 7 w 17) (fld 7 w 10) (fld 7 w 3) (flag w 2) (flag w 1) (flag w 0))
  | 7 => some (.xfma (fld 7 w 17) (fld 7 w 10) (fld 7 w 3) (flag w 2) (flag w 1) (flag w 0))
  | 8 => if zeros 7 w 3 && zeros 1 w 1 then some (.xrenorm (fld 7 w 17) (fld 7 w 10) (flag w 2) (flag w 0)) else none
  | 9 => if zeros 7 w 3 && zeros 1 w 1 then some (.xcompress (fld 7 w 17) (fld 7 w 10) (flag w 2) (flag w 0)) else none
  | 10 => if code 2 w 0 2 then some (.xeqSub2 (fld 7 w 17) (fld 7 w 10) (fld 6 w 4) (flag w 3) (flag w 2)) else if zeros 7 w 17 && code 3 w 0 3 then some (.xeqSub3 (fld 7 w 10) (fld 6 w 4) (flag w 3)) else none
  | 11 => if code 2 w 0 2 then some (.xltSub2 (fld 7 w 17) (fld 7 w 10) (fld 6 w 4) (flag w 3) (flag w 2)) else if zeros 7 w 17 && code 3 w 0 3 then some (.xltSub3 (fld 7 w 10) (fld 6 w 4) (flag w 3)) else none
  | 12 => if code 2 w 0 2 then some (.xleSub2 (fld 7 w 17) (fld 7 w 10) (fld 6 w 4) (flag w 3) (flag w 2)) else if zeros 7 w 17 && code 3 w 0 3 then some (.xleSub3 (fld 7 w 10) (fld 6 w 4) (flag w 3)) else none
  | 13 => if zeros 7 w 3 && zeros 1 w 1 then some (.xneg (fld 7 w 17) (fld 7 w 10) (flag w 2) (flag w 0)) else none
  | 14 => if zeros 7 w 3 && zeros 1 w 1 then some (.xabs (fld 7 w 17) (fld 7 w 10) (flag w 2) (flag w 0)) else none
  | 15 => if zeros 7 w 3 && zeros 1 w 1 then some (.xsplit (fld 7 w 17) (fld 7 w 10) (flag w 2) (flag w 0)) else none
  | _ => none

/-- Opcodes 0x90 to 0x9F (04 R102): reserved fields 0, else refused. -/
def decodeRow9 (lo w : Nat) : Option Instr :=
  match lo with
  | 0 => if zeros 7 w 3 && zeros 1 w 1 then some (.xtop (fld 7 w 17) (fld 7 w 10) (flag w 2) (flag w 0)) else none
  | 1 => if zeros 1 w 1 then some (.xcvt (fld 7 w 17) (fld 7 w 10) (fld 7 w 3) (flag w 2) (flag w 0)) else none
  | 2 => if zeros 7 w 3 && zeros 1 w 1 then some (.xbound (fld 7 w 17) (fld 7 w 10) (flag w 2) (flag w 0)) else none
  | 8 => if zeros 7 w 3 && zeros 1 w 1 then some (.qswh (fld 7 w 17) (fld 7 w 10) (flag w 2) (flag w 0)) else none
  | 9 => if zeros 7 w 3 && zeros 1 w 1 then some (.qswv (fld 7 w 17) (fld 7 w 10) (flag w 2) (flag w 0)) else none
  | 10 => if zeros 7 w 3 && zeros 1 w 1 then some (.qswd (fld 7 w 17) (fld 7 w 10) (flag w 2) (flag w 0)) else none
  | 11 => if zeros 1 w 1 then some (.qbc (fld 7 w 17) (fld 7 w 10) (fld 7 w 3) (flag w 2) (flag w 0)) else none
  | 12 => if zeros 7 w 3 && zeros 1 w 1 then some (.qddx (fld 7 w 17) (fld 7 w 10) (flag w 2) (flag w 0)) else none
  | 13 => if zeros 7 w 3 && zeros 1 w 1 then some (.qddy (fld 7 w 17) (fld 7 w 10) (flag w 2) (flag w 0)) else none
  | 14 => if zeros 24 w 0 then some (.qhelp) else none
  | _ => none

/-- Opcodes 0xA0 to 0xAF (04 R102): reserved fields 0, else refused. -/
def decodeRowA (lo w : Nat) : Option Instr :=
  match lo with
  | 0 => some (.lshuf (fld 7 w 17) (fld 7 w 10) (fld 7 w 3) (flag w 2) (flag w 1) (flag w 0))
  | 1 => some (.lrot (fld 7 w 17) (fld 7 w 10) (fld 7 w 3) (flag w 2) (flag w 1) (flag w 0))
  | 2 => if zeros 1 w 1 then some (.lscan (fld 7 w 17) (fld 7 w 10) (fld 7 w 3) (flag w 2) (flag w 0)) else none
  | 3 => if zeros 1 w 1 then some (.lred (fld 7 w 17) (fld 7 w 10) (fld 7 w 3) (flag w 2) (flag w 0)) else none
  | 4 => if zeros 7 w 17 && code 3 w 0 3 then some (.lballot (fld 7 w 10) (fld 6 w 4) (flag w 3)) else none
  | 5 => if zeros 7 w 3 && zeros 1 w 1 then some (.lcompress (fld 7 w 17) (fld 7 w 10) (flag w 2) (flag w 0)) else none
  | 6 => if zeros 7 w 3 && zeros 1 w 1 then some (.lexpand (fld 7 w 17) (fld 7 w 10) (flag w 2) (flag w 0)) else none
  | 7 => if zeros 7 w 17 && code 3 w 0 3 then some (.lfirst (fld 7 w 10) (fld 6 w 4) (flag w 3)) else none
  | _ => none

/-- Opcodes 0xB0 to 0xBF (04 R102): reserved fields 0, else refused. -/
def decodeRowB (lo w : Nat) : Option Instr :=
  match lo with
  | 0 => some (.ldO (fld 7 w 17) (fld 6 w 11) (fld 7 w 4) (fld 2 w 2) (flag w 1) (flag w 0))
  | 1 => some (.ldW (fld 7 w 17) (fld 6 w 11) (fld 7 w 4) (fld 2 w 2) (flag w 1) (flag w 0))
  | 2 => some (.ldS (fld 7 w 17) (fld 6 w 11) (fld 7 w 4) (fld 2 w 2) (flag w 1) (flag w 0))
  | 3 => some (.ldI (fld 7 w 17) (fld 6 w 11) (fld 7 w 4) (fld 2 w 2) (flag w 1) (flag w 0))
  | 4 => if zeros 1 w 1 then some (.stO (fld 7 w 17) (fld 6 w 11) (fld 7 w 4) (fld 2 w 2) (flag w 0)) else none
  | 5 => if zeros 1 w 1 then some (.stW (fld 7 w 17) (fld 6 w 11) (fld 7 w 4) (fld 2 w 2) (flag w 0)) else none
  | 6 => if zeros 1 w 1 then some (.stS (fld 7 w 17) (fld 6 w 11) (fld 7 w 4) (fld 2 w 2) (flag w 0)) else none
  | 7 => if zeros 1 w 1 then some (.stI (fld 7 w 17) (fld 6 w 11) (fld 7 w 4) (fld 2 w 2) (flag w 0)) else none
  | 8 => some (.ldsO (fld 6 w 18) (fld 6 w 12) (fld 10 w 2) (fld 2 w 0))
  | 9 => some (.ldsW (fld 6 w 18) (fld 6 w 12) (fld 10 w 2) (fld 2 w 0))
  | 10 => some (.ldsS (fld 6 w 18) (fld 6 w 12) (fld 10 w 2) (fld 2 w 0))
  | 11 => some (.ldsI (fld 6 w 18) (fld 6 w 12) (fld 10 w 2) (fld 2 w 0))
  | 12 => some (.stsO (fld 6 w 18) (fld 6 w 12) (fld 10 w 2) (fld 2 w 0))
  | 13 => some (.stsW (fld 6 w 18) (fld 6 w 12) (fld 10 w 2) (fld 2 w 0))
  | 14 => some (.stsS (fld 6 w 18) (fld 6 w 12) (fld 10 w 2) (fld 2 w 0))
  | 15 => some (.stsI (fld 6 w 18) (fld 6 w 12) (fld 10 w 2) (fld 2 w 0))
  | _ => none

/-- Opcodes 0xC0 to 0xCF (04 R102): reserved fields 0, else refused. -/
def decodeRowC (lo w : Nat) : Option Instr :=
  match lo with
  | 0 => some (.ldp (fld 7 w 17) (fld 6 w 11) (fld 7 w 4) (fld 2 w 2) (flag w 1) (flag w 0))
  | 1 => if zeros 1 w 1 then some (.stp (fld 7 w 17) (fld 6 w 11) (fld 7 w 4) (fld 2 w 2) (flag w 0)) else none
  | 2 => some (.ldsp (fld 7 w 17) (fld 6 w 11) (fld 7 w 4) (fld 2 w 2) (flag w 1) (flag w 0))
  | 3 => if zeros 1 w 1 then some (.stsp (fld 7 w 17) (fld 6 w 11) (fld 7 w 4) (fld 2 w 2) (flag w 0)) else none
  | 4 => if zeros 1 w 1 then some (.cst (fld 7 w 17) (fld 6 w 11) (fld 7 w 4) (fld 2 w 2) (flag w 0)) else none
  | 5 => if zeros 1 w 1 then some (.stm (fld 7 w 17) (fld 6 w 11) (fld 7 w 4) (fld 2 w 2) (flag w 0)) else none
  | 6 => if zeros 5 w 19 && zeros 1 w 1 then some (.pref (fld 2 w 17) (fld 6 w 11) (fld 7 w 4) (fld 2 w 2) (flag w 0)) else none
  | 7 => if zeros 12 w 0 then some (.vinv (fld 6 w 18) (fld 6 w 12)) else none
  | 8 => if zeros 12 w 0 then some (.vwb (fld 6 w 18) (fld 6 w 12)) else none
  | 9 => if zeros 24 w 0 then some (.fenceAcq) else none
  | 10 => if zeros 24 w 0 then some (.fenceRel) else none
  | 11 => if zeros 24 w 0 then some (.fenceSc) else none
  | _ => none

/-- Opcodes 0xD0 to 0xDF (04 R102): reserved fields 0, else refused. -/
def decodeRowD (lo w : Nat) : Option Instr :=
  match lo with
  | 0 => some (.atomRlx (fld 7 w 17) (fld 6 w 11) (fld 7 w 4) (fld 4 w 0))
  | 1 => some (.atomAcq (fld 7 w 17) (fld 6 w 11) (fld 7 w 4) (fld 4 w 0))
  | 2 => some (.atomRel (fld 7 w 17) (fld 6 w 11) (fld 7 w 4) (fld 4 w 0))
  | 3 => some (.atomAr (fld 7 w 17) (fld 6 w 11) (fld 7 w 4) (fld 4 w 0))
  | 4 => some (.redRlx (fld 7 w 17) (fld 6 w 11) (fld 7 w 4) (fld 4 w 0))
  | 5 => some (.redRel (fld 7 w 17) (fld 6 w 11) (fld 7 w 4) (fld 4 w 0))
  | 6 => if zeros 4 w 0 then some (.catom (fld 7 w 17) (fld 6 w 11) (fld 7 w 4)) else none
  | 7 => if zeros 1 w 23 && zeros 1 w 10 then some (.satom (fld 6 w 17) (fld 6 w 11) (fld 6 w 4) (fld 4 w 0)) else none
  | 8 => if zeros 3 w 0 then some (.mma (fld 4 w 20) (flag w 19) (fld 7 w 12) (flag w 11) (fld 7 w 4) (flag w 3)) else none
  | 9 => if zeros 3 w 0 then some (.mmar (fld 4 w 20) (flag w 19) (fld 7 w 12) (flag w 11) (fld 7 w 4) (flag w 3)) else none
  | 10 => if zeros 3 w 0 then some (.mmab (fld 4 w 20) (flag w 19) (fld 7 w 12) (flag w 11) (fld 7 w 4) (flag w 3)) else none
  | 11 => if code 2 w 18 2 && zeros 12 w 0 then some (.tld (fld 4 w 20) (fld 6 w 12)) else none
  | 12 => if code 2 w 18 2 && zeros 12 w 0 then some (.tst (fld 4 w 20) (fld 6 w 12)) else none
  | 13 => if zeros 20 w 0 then some (.tzero (fld 4 w 20)) else none
  | 14 => some (.trd (fld 4 w 20) (flag w 19) (fld 6 w 13) (fld 6 w 7) (fld 7 w 0))
  | 15 => some (.twr (fld 4 w 20) (flag w 19) (fld 6 w 13) (fld 6 w 7) (fld 7 w 0))
  | _ => none

/-- Opcodes 0xE0 to 0xEF (04 R102): reserved fields 0, else refused. -/
def decodeRowE (lo w : Nat) : Option Instr :=
  match lo with
  | 0 => if zeros 4 w 16 && zeros 1 w 11 && zeros 4 w 0 then some (.tfold (fld 4 w 20) (fld 4 w 12) (fld 7 w 4)) else none
  | 1 => if zeros 3 w 21 && code 2 w 18 2 && code 2 w 10 2 && zeros 4 w 0 then some (.tscl (flag w 20) (fld 6 w 12) (fld 6 w 4)) else none
  | 2 => if zeros 4 w 16 && zeros 1 w 11 && zeros 4 w 0 then some (.tmov (fld 4 w 20) (fld 4 w 12) (fld 7 w 4)) else none
  | 3 => if zeros 4 w 16 && zeros 12 w 0 then some (.tcvt (fld 4 w 20) (fld 4 w 12)) else none
  | 8 => if zeros 20 w 4 then some (.bar (fld 4 w 0)) else none
  | 9 => if zeros 6 w 6 then some (.barv (fld 6 w 18) (fld 6 w 12) (fld 2 w 4) (fld 4 w 0)) else none
  | 10 => if zeros 12 w 0 then some (.barw (fld 6 w 18) (fld 6 w 12)) else none
  | 11 => if zeros 12 w 0 then some (.abinit (fld 6 w 18) (fld 6 w 12)) else none
  | 12 => if zeros 12 w 0 then some (.abarr (fld 6 w 18) (fld 6 w 12)) else none
  | 13 => if zeros 12 w 0 then some (.abwait (fld 6 w 18) (fld 6 w 12)) else none
  | 14 => if zeros 14 w 3 then some (.qpush (fld 7 w 17) (fld 3 w 0)) else none
  | 15 => if zeros 14 w 3 then some (.qpop (fld 7 w 17) (fld 3 w 0)) else none
  | _ => none

/-- Opcodes 0xF0 to 0xFF (04 R102): reserved fields 0, else refused. -/
def decodeRowF (lo w : Nat) : Option Instr :=
  match lo with
  | 0 => if zeros 8 w 3 then some (.qtry (fld 7 w 17) (fld 6 w 11) (fld 3 w 0)) else none
  | 1 => if zeros 15 w 3 then some (.qallow (fld 6 w 18) (fld 3 w 0)) else none
  | 2 => if zeros 9 w 3 && zeros 1 w 1 then some (.rtake (fld 6 w 18) (fld 6 w 12) (flag w 2) (flag w 0)) else none
  | 3 => if zeros 12 w 0 then some (.cpy (fld 6 w 18) (fld 6 w 12)) else none
  | 4 => if zeros 8 w 0 then some (.coll (fld 4 w 20) (fld 6 w 14) (fld 6 w 8)) else none
  | 5 => if zeros 12 w 0 then some (.evpost (fld 6 w 18) (fld 6 w 12)) else none
  | 6 => if zeros 18 w 0 then some (.rlaunch (fld 6 w 18)) else none
  | 8 => some (.trap (fld 24 w 0))
  | 9 => if zeros 24 w 0 then some (.eret) else none
  | 10 => some (.mcall (fld 7 w 17) (fld 7 w 10) (fld 7 w 3) (fld 3 w 0))
  | 11 => if zeros 18 w 0 then some (.mcw (fld 6 w 18)) else none
  | 12 => if zeros 10 w 0 then some (.sysrd (fld 6 w 18) (fld 8 w 10)) else none
  | 13 => if zeros 10 w 0 then some (.syswr (fld 6 w 18) (fld 8 w 10)) else none
  | 14 => if zeros 10 w 2 then some (.tlbi (fld 6 w 18) (fld 6 w 12) (fld 2 w 0)) else none
  | _ => none

/-- The instruction a word spells when its opcode is assigned and its reserved fields are 0. -/
def decodeRaw (w : Nat) : Option Instr :=
  match w / 2 ^ 28 % 16 with
  | 0 => decodeRow0 (w / 2 ^ 24 % 16) w
  | 1 => decodeRow1 (w / 2 ^ 24 % 16) w
  | 2 => decodeRow2 (w / 2 ^ 24 % 16) w
  | 3 => decodeRow3 (w / 2 ^ 24 % 16) w
  | 4 => decodeRow4 (w / 2 ^ 24 % 16) w
  | 5 => decodeRow5 (w / 2 ^ 24 % 16) w
  | 6 => decodeRow6 (w / 2 ^ 24 % 16) w
  | 7 => decodeRow7 (w / 2 ^ 24 % 16) w
  | 8 => decodeRow8 (w / 2 ^ 24 % 16) w
  | 9 => decodeRow9 (w / 2 ^ 24 % 16) w
  | 10 => decodeRowA (w / 2 ^ 24 % 16) w
  | 11 => decodeRowB (w / 2 ^ 24 % 16) w
  | 12 => decodeRowC (w / 2 ^ 24 % 16) w
  | 13 => decodeRowD (w / 2 ^ 24 % 16) w
  | 14 => decodeRowE (w / 2 ^ 24 % 16) w
  | 15 => decodeRowF (w / 2 ^ 24 % 16) w
  | _ => none

/-- The decoder: a word spells an instruction when its opcode is assigned, its reserved fields are 0 and its coded
fields lie in their sets (03 R86). -/
def decodeNat (w : Nat) : Option Instr :=
  match decodeRaw w with
  | some i => if i.wellFormed then some i else none
  | none => none

/-- The decoder on the 32-bit word that a fetch reads. -/
def decode (w : BitVec 32) : Option Instr := decodeNat w.toNat

/-- The opcode of a word is assigned in the map (04 R102); an unassigned one raises cause 0x01 (03 R86). -/
def opcodeAssigned (op : Nat) : Bool :=
  decide (1 ≤ op ∧ op ≤ 0x23) || decide (0x28 ≤ op ∧ op ≤ 0x36) || decide (0x40 ≤ op ∧ op ≤ 0x5D) ||
  decide (0x60 ≤ op ∧ op ≤ 0x7C) || decide (0x80 ≤ op ∧ op ≤ 0x92) || decide (0x98 ≤ op ∧ op ≤ 0x9E) ||
  decide (0xA0 ≤ op ∧ op ≤ 0xA7) || decide (0xB0 ≤ op ∧ op ≤ 0xCB) || decide (0xD0 ≤ op ∧ op ≤ 0xE3) ||
  decide (0xE8 ≤ op ∧ op ≤ 0xF6) || decide (0xF8 ≤ op ∧ op ≤ 0xFE)

/-- The instruction that the decoder reads from one 32-bit instruction word (03 R69: every instruction is one word). -/
def decodeTableWord (nbits w : Nat) : Option Instr :=
  if nbits ≤ 32 then decodeNat (w % 2 ^ 32) else none

/-- A word made of its fixed bits `m` and of fields, each a value and its lowest bit. -/
def pack (m : Nat) : List (Nat × Nat) → Nat
  | [] => m
  | (v, lo) :: fs => v * 2 ^ lo + pack m fs

/-- The word of an instruction (03 R72); a device step has none. -/
def encodeNat : Instr → Option Nat
  | .sadd d a b ea eb ed => some (pack 0x1000000 [(d.toNat, 18), (a.toNat, 12), (b.toNat, 6), (bit ea, 2), (bit eb, 1), (bit ed, 0)])
  | .ssub d a b ea eb ed => some (pack 0x2000000 [(d.toNat, 18), (a.toNat, 12), (b.toNat, 6), (bit ea, 2), (bit eb, 1), (bit ed, 0)])
  | .smul d a b ea eb ed => some (pack 0x3000000 [(d.toNat, 18), (a.toNat, 12), (b.toNat, 6), (bit ea, 2), (bit eb, 1), (bit ed, 0)])
  | .smulh d a b ea eb ed => some (pack 0x4000000 [(d.toNat, 18), (a.toNat, 12), (b.toNat, 6), (bit ea, 2), (bit eb, 1), (bit ed, 0)])
  | .smulhn d a b ea eb ed => some (pack 0x5000000 [(d.toNat, 18), (a.toNat, 12), (b.toNat, 6), (bit ea, 2), (bit eb, 1), (bit ed, 0)])
  | .sand d a b ea eb ed => some (pack 0x6000000 [(d.toNat, 18), (a.toNat, 12), (b.toNat, 6), (bit ea, 2), (bit eb, 1), (bit ed, 0)])
  | .sor d a b ea eb ed => some (pack 0x7000000 [(d.toNat, 18), (a.toNat, 12), (b.toNat, 6), (bit ea, 2), (bit eb, 1), (bit ed, 0)])
  | .sxor d a b ea eb ed => some (pack 0x8000000 [(d.toNat, 18), (a.toNat, 12), (b.toNat, 6), (bit ea, 2), (bit eb, 1), (bit ed, 0)])
  | .sandn d a b ea eb ed => some (pack 0x9000000 [(d.toNat, 18), (a.toNat, 12), (b.toNat, 6), (bit ea, 2), (bit eb, 1), (bit ed, 0)])
  | .sshl d a b ea eb ed => some (pack 0xa000000 [(d.toNat, 18), (a.toNat, 12), (b.toNat, 6), (bit ea, 2), (bit eb, 1), (bit ed, 0)])
  | .sshr d a b ea eb ed => some (pack 0xb000000 [(d.toNat, 18), (a.toNat, 12), (b.toNat, 6), (bit ea, 2), (bit eb, 1), (bit ed, 0)])
  | .ssra d a b ea eb ed => some (pack 0xc000000 [(d.toNat, 18), (a.toNat, 12), (b.toNat, 6), (bit ea, 2), (bit eb, 1), (bit ed, 0)])
  | .smin d a b ea eb ed => some (pack 0xd000000 [(d.toNat, 18), (a.toNat, 12), (b.toNat, 6), (bit ea, 2), (bit eb, 1), (bit ed, 0)])
  | .smax d a b ea eb ed => some (pack 0xe000000 [(d.toNat, 18), (a.toNat, 12), (b.toNat, 6), (bit ea, 2), (bit eb, 1), (bit ed, 0)])
  | .sminn d a b ea eb ed => some (pack 0xf000000 [(d.toNat, 18), (a.toNat, 12), (b.toNat, 6), (bit ea, 2), (bit eb, 1), (bit ed, 0)])
  | .smaxn d a b ea eb ed => some (pack 0x10000000 [(d.toNat, 18), (a.toNat, 12), (b.toNat, 6), (bit ea, 2), (bit eb, 1), (bit ed, 0)])
  | .seq d a b ea eb ed => some (pack 0x11000000 [(d.toNat, 18), (a.toNat, 12), (b.toNat, 6), (bit ea, 2), (bit eb, 1), (bit ed, 0)])
  | .slt d a b ea eb ed => some (pack 0x12000000 [(d.toNat, 18), (a.toNat, 12), (b.toNat, 6), (bit ea, 2), (bit eb, 1), (bit ed, 0)])
  | .sltn d a b ea eb ed => some (pack 0x13000000 [(d.toNat, 18), (a.toNat, 12), (b.toNat, 6), (bit ea, 2), (bit eb, 1), (bit ed, 0)])
  | .ssel d a b ea eb ed => some (pack 0x14000000 [(d.toNat, 18), (a.toNat, 12), (b.toNat, 6), (bit ea, 2), (bit eb, 1), (bit ed, 0)])
  | .sclz d a ea ed => some (pack 0x15000000 [(d.toNat, 18), (a.toNat, 12), (bit ea, 2), (bit ed, 0)])
  | .spop d a ea ed => some (pack 0x16000000 [(d.toNat, 18), (a.toNat, 12), (bit ea, 2), (bit ed, 0)])
  | .sbrev d a ea ed => some (pack 0x17000000 [(d.toNat, 18), (a.toNat, 12), (bit ea, 2), (bit ed, 0)])
  | .smov d a ea ed => some (pack 0x18000000 [(d.toNat, 18), (a.toNat, 12), (bit ea, 2), (bit ed, 0)])
  | .saddi d a i => some (pack 0x19000000 [(d.toNat, 18), (a.toNat, 12), (i.toNat, 0)])
  | .sandi d a i => some (pack 0x1a000000 [(d.toNat, 18), (a.toNat, 12), (i.toNat, 0)])
  | .sori d a i => some (pack 0x1b000000 [(d.toNat, 18), (a.toNat, 12), (i.toNat, 0)])
  | .sxori d a i => some (pack 0x1c000000 [(d.toNat, 18), (a.toNat, 12), (i.toNat, 0)])
  | .sshli d a i => some (pack 0x1d000000 [(d.toNat, 18), (a.toNat, 12), (i.toNat, 0)])
  | .sshri d a i => some (pack 0x1e000000 [(d.toNat, 18), (a.toNat, 12), (i.toNat, 0)])
  | .ssrai d a i => some (pack 0x1f000000 [(d.toNat, 18), (a.toNat, 12), (i.toNat, 0)])
  | .seqi d a i => some (pack 0x20000000 [(d.toNat, 18), (a.toNat, 12), (i.toNat, 0)])
  | .slti d a i => some (pack 0x21000000 [(d.toNat, 18), (a.toNat, 12), (i.toNat, 0)])
  | .sli d i => some (pack 0x22000000 [(d.toNat, 18), (i.toNat, 0)])
  | .slui d i => some (pack 0x23000000 [(d.toNat, 18), (i.toNat, 0)])
  | .bra off => some (pack 0x28000000 [(off.toNat, 0)])
  | .brz c off => some (pack 0x29000000 [(c.toNat, 18), (off.toNat, 0)])
  | .brnz c off => some (pack 0x2a000000 [(c.toNat, 18), (off.toNat, 0)])
  | .call off => some (pack 0x2b000000 [(off.toNat, 0)])
  | .callr a ea => some (pack 0x2c000000 [(a.toNat, 12), (bit ea, 2)])
  | .ret => some (pack 0x2d000000 [])
  | .jmpr a ea => some (pack 0x2e000000 [(a.toNat, 12), (bit ea, 2)])
  | .exit => some (pack 0x2f000000 [])
  | .regang => some (pack 0x30000000 [])
  | .nop => some (pack 0x31000000 [])
  | .brk c => some (pack 0x32000000 [(c.toNat, 0)])
  | .yield => some (pack 0x33000000 [])
  | .modeSet d a ea ed => some (pack 0x34000000 [(d.toNat, 18), (a.toNat, 12), (bit ea, 2), (bit ed, 0)])
  | .modeFld fld v => some (pack 0x35000000 [(fld.toNat, 20), (v.toNat, 0)])
  | .modeGet d ed => some (pack 0x36000000 [(d.toNat, 18), (bit ed, 0)])
  | .vadd d a b ea eb ed => some (pack 0x40000000 [(d.toNat, 17), (a.toNat, 10), (b.toNat, 3), (bit ea, 2), (bit eb, 1), (bit ed, 0)])
  | .vsub d a b ea eb ed => some (pack 0x41000000 [(d.toNat, 17), (a.toNat, 10), (b.toNat, 3), (bit ea, 2), (bit eb, 1), (bit ed, 0)])
  | .vmul d a b ea eb ed => some (pack 0x42000000 [(d.toNat, 17), (a.toNat, 10), (b.toNat, 3), (bit ea, 2), (bit eb, 1), (bit ed, 0)])
  | .vmulh d a b ea eb ed => some (pack 0x43000000 [(d.toNat, 17), (a.toNat, 10), (b.toNat, 3), (bit ea, 2), (bit eb, 1), (bit ed, 0)])
  | .vmad d a b ea eb ed => some (pack 0x44000000 [(d.toNat, 17), (a.toNat, 10), (b.toNat, 3), (bit ea, 2), (bit eb, 1), (bit ed, 0)])
  | .vand d a b ea eb ed => some (pack 0x45000000 [(d.toNat, 17), (a.toNat, 10), (b.toNat, 3), (bit ea, 2), (bit eb, 1), (bit ed, 0)])
  | .vor d a b ea eb ed => some (pack 0x46000000 [(d.toNat, 17), (a.toNat, 10), (b.toNat, 3), (bit ea, 2), (bit eb, 1), (bit ed, 0)])
  | .vxor d a b ea eb ed => some (pack 0x47000000 [(d.toNat, 17), (a.toNat, 10), (b.toNat, 3), (bit ea, 2), (bit eb, 1), (bit ed, 0)])
  | .vandn d a b ea eb ed => some (pack 0x48000000 [(d.toNat, 17), (a.toNat, 10), (b.toNat, 3), (bit ea, 2), (bit eb, 1), (bit ed, 0)])
  | .vshl d a b ea eb ed => some (pack 0x49000000 [(d.toNat, 17), (a.toNat, 10), (b.toNat, 3), (bit ea, 2), (bit eb, 1), (bit ed, 0)])
  | .vshr d a b ea eb ed => some (pack 0x4a000000 [(d.toNat, 17), (a.toNat, 10), (b.toNat, 3), (bit ea, 2), (bit eb, 1), (bit ed, 0)])
  | .vsra d a b ea eb ed => some (pack 0x4b000000 [(d.toNat, 17), (a.toNat, 10), (b.toNat, 3), (bit ea, 2), (bit eb, 1), (bit ed, 0)])
  | .vmin d a b ea eb ed => some (pack 0x4c000000 [(d.toNat, 17), (a.toNat, 10), (b.toNat, 3), (bit ea, 2), (bit eb, 1), (bit ed, 0)])
  | .vmax d a b ea eb ed => some (pack 0x4d000000 [(d.toNat, 17), (a.toNat, 10), (b.toNat, 3), (bit ea, 2), (bit eb, 1), (bit ed, 0)])
  | .vabs d a ea ed => some (pack 0x4e000000 [(d.toNat, 17), (a.toNat, 10), (bit ea, 2), (bit ed, 0)])
  | .vneg d a ea ed => some (pack 0x4f000000 [(d.toNat, 17), (a.toNat, 10), (bit ea, 2), (bit ed, 0)])
  | .veqSub2 x a d ea eb => some (pack 0x50000002 [(x.toNat, 17), (a.toNat, 10), (d.toNat, 4), (bit ea, 3), (bit eb, 2)])
  | .veqSub3 a d ea => some (pack 0x50000003 [(a.toNat, 10), (d.toNat, 4), (bit ea, 3)])
  | .vneSub2 x a d ea eb => some (pack 0x51000002 [(x.toNat, 17), (a.toNat, 10), (d.toNat, 4), (bit ea, 3), (bit eb, 2)])
  | .vneSub3 a d ea => some (pack 0x51000003 [(a.toNat, 10), (d.toNat, 4), (bit ea, 3)])
  | .vltSub2 x a d ea eb => some (pack 0x52000002 [(x.toNat, 17), (a.toNat, 10), (d.toNat, 4), (bit ea, 3), (bit eb, 2)])
  | .vltSub3 a d ea => some (pack 0x52000003 [(a.toNat, 10), (d.toNat, 4), (bit ea, 3)])
  | .vleSub2 x a d ea eb => some (pack 0x53000002 [(x.toNat, 17), (a.toNat, 10), (d.toNat, 4), (bit ea, 3), (bit eb, 2)])
  | .vleSub3 a d ea => some (pack 0x53000003 [(a.toNat, 10), (d.toNat, 4), (bit ea, 3)])
  | .vselSub0 d a s ea eb => some (pack 0x54000000 [(d.toNat, 17), (a.toNat, 10), (s.toNat, 4), (bit ea, 3), (bit eb, 2)])
  | .vselSub1 d a s ea eb => some (pack 0x54000001 [(d.toNat, 17), (a.toNat, 10), (s.toNat, 4), (bit ea, 3), (bit eb, 2)])
  | .vmov d a ea ed => some (pack 0x55000000 [(d.toNat, 17), (a.toNat, 10), (bit ea, 2), (bit ed, 0)])
  | .vbcast d s eb => some (pack 0x56000000 [(d.toNat, 17), (s.toNat, 4), (bit eb, 2)])
  | .vlid d ed => some (pack 0x57000000 [(d.toNat, 17), (bit ed, 0)])
  | .vpop d a ea ed => some (pack 0x58000000 [(d.toNat, 17), (a.toNat, 10), (bit ea, 2), (bit ed, 0)])
  | .vclz d a ea ed => some (pack 0x59000000 [(d.toNat, 17), (a.toNat, 10), (bit ea, 2), (bit ed, 0)])
  | .vcvt d a ea ed => some (pack 0x5a000000 [(d.toNat, 17), (a.toNat, 10), (bit ea, 2), (bit ed, 0)])
  | .vpack d a b ea eb ed => some (pack 0x5b000000 [(d.toNat, 17), (a.toNat, 10), (b.toNat, 3), (bit ea, 2), (bit eb, 1), (bit ed, 0)])
  | .vunpack d a b ea eb ed => some (pack 0x5c000000 [(d.toNat, 17), (a.toNat, 10), (b.toNat, 3), (bit ea, 2), (bit eb, 1), (bit ed, 0)])
  | .vrand d ed => some (pack 0x5d000000 [(d.toNat, 17), (bit ed, 0)])
  | .fadd d a b ea eb ed => some (pack 0x60000000 [(d.toNat, 17), (a.toNat, 10), (b.toNat, 3), (bit ea, 2), (bit eb, 1), (bit ed, 0)])
  | .fsub d a b ea eb ed => some (pack 0x61000000 [(d.toNat, 17), (a.toNat, 10), (b.toNat, 3), (bit ea, 2), (bit eb, 1), (bit ed, 0)])
  | .fmul d a b ea eb ed => some (pack 0x62000000 [(d.toNat, 17), (a.toNat, 10), (b.toNat, 3), (bit ea, 2), (bit eb, 1), (bit ed, 0)])
  | .ffma d a b ea eb ed => some (pack 0x63000000 [(d.toNat, 17), (a.toNat, 10), (b.toNat, 3), (bit ea, 2), (bit eb, 1), (bit ed, 0)])
  | .ffms d a b ea eb ed => some (pack 0x64000000 [(d.toNat, 17), (a.toNat, 10), (b.toNat, 3), (bit ea, 2), (bit eb, 1), (bit ed, 0)])
  | .fnma d a b ea eb ed => some (pack 0x65000000 [(d.toNat, 17), (a.toNat, 10), (b.toNat, 3), (bit ea, 2), (bit eb, 1), (bit ed, 0)])
  | .fmin d a b ea eb ed => some (pack 0x66000000 [(d.toNat, 17), (a.toNat, 10), (b.toNat, 3), (bit ea, 2), (bit eb, 1), (bit ed, 0)])
  | .fmax d a b ea eb ed => some (pack 0x67000000 [(d.toNat, 17), (a.toNat, 10), (b.toNat, 3), (bit ea, 2), (bit eb, 1), (bit ed, 0)])
  | .fabs d a ea ed => some (pack 0x68000000 [(d.toNat, 17), (a.toNat, 10), (bit ea, 2), (bit ed, 0)])
  | .fneg d a ea ed => some (pack 0x69000000 [(d.toNat, 17), (a.toNat, 10), (bit ea, 2), (bit ed, 0)])
  | .feqSub2 x a d ea eb => some (pack 0x6a000002 [(x.toNat, 17), (a.toNat, 10), (d.toNat, 4), (bit ea, 3), (bit eb, 2)])
  | .feqSub3 a d ea => some (pack 0x6a000003 [(a.toNat, 10), (d.toNat, 4), (bit ea, 3)])
  | .fltSub2 x a d ea eb => some (pack 0x6b000002 [(x.toNat, 17), (a.toNat, 10), (d.toNat, 4), (bit ea, 3), (bit eb, 2)])
  | .fltSub3 a d ea => some (pack 0x6b000003 [(a.toNat, 10), (d.toNat, 4), (bit ea, 3)])
  | .fleSub2 x a d ea eb => some (pack 0x6c000002 [(x.toNat, 17), (a.toNat, 10), (d.toNat, 4), (bit ea, 3), (bit eb, 2)])
  | .fleSub3 a d ea => some (pack 0x6c000003 [(a.toNat, 10), (d.toNat, 4), (bit ea, 3)])
  | .funSub2 x a d ea eb => some (pack 0x6d000002 [(x.toNat, 17), (a.toNat, 10), (d.toNat, 4), (bit ea, 3), (bit eb, 2)])
  | .funSub3 a d ea => some (pack 0x6d000003 [(a.toNat, 10), (d.toNat, 4), (bit ea, 3)])
  | .frcp d a ea ed => some (pack 0x6e000000 [(d.toNat, 17), (a.toNat, 10), (bit ea, 2), (bit ed, 0)])
  | .frsq d a ea ed => some (pack 0x6f000000 [(d.toNat, 17), (a.toNat, 10), (bit ea, 2), (bit ed, 0)])
  | .fsqrt d a ea ed => some (pack 0x70000000 [(d.toNat, 17), (a.toNat, 10), (bit ea, 2), (bit ed, 0)])
  | .fexp2 d a ea ed => some (pack 0x71000000 [(d.toNat, 17), (a.toNat, 10), (bit ea, 2), (bit ed, 0)])
  | .flog2 d a ea ed => some (pack 0x72000000 [(d.toNat, 17), (a.toNat, 10), (bit ea, 2), (bit ed, 0)])
  | .fsin d a ea ed => some (pack 0x73000000 [(d.toNat, 17), (a.toNat, 10), (bit ea, 2), (bit ed, 0)])
  | .fcos d a ea ed => some (pack 0x74000000 [(d.toNat, 17), (a.toNat, 10), (bit ea, 2), (bit ed, 0)])
  | .fround d a ea ed => some (pack 0x75000000 [(d.toNat, 17), (a.toNat, 10), (bit ea, 2), (bit ed, 0)])
  | .fcvt d a ea ed => some (pack 0x76000000 [(d.toNat, 17), (a.toNat, 10), (bit ea, 2), (bit ed, 0)])
  | .fcvti d a ea ed => some (pack 0x77000000 [(d.toNat, 17), (a.toNat, 10), (bit ea, 2), (bit ed, 0)])
  | .ficvt d a ea ed => some (pack 0x78000000 [(d.toNat, 17), (a.toNat, 10), (bit ea, 2), (bit ed, 0)])
  | .fscale d a b ea eb ed => some (pack 0x79000000 [(d.toNat, 17), (a.toNat, 10), (b.toNat, 3), (bit ea, 2), (bit eb, 1), (bit ed, 0)])
  | .fgetexp d a ea ed => some (pack 0x7a000000 [(d.toNat, 17), (a.toNat, 10), (bit ea, 2), (bit ed, 0)])
  | .fgetman d a ea ed => some (pack 0x7b000000 [(d.toNat, 17), (a.toNat, 10), (bit ea, 2), (bit ed, 0)])
  | .fclass d a ea ed => some (pack 0x7c000000 [(d.toNat, 17), (a.toNat, 10), (bit ea, 2), (bit ed, 0)])
  | .twosum d a b ea eb ed => some (pack 0x80000000 [(d.toNat, 17), (a.toNat, 10), (b.toNat, 3), (bit ea, 2), (bit eb, 1), (bit ed, 0)])
  | .ftwosum d a b ea eb ed => some (pack 0x81000000 [(d.toNat, 17), (a.toNat, 10), (b.toNat, 3), (bit ea, 2), (bit eb, 1), (bit ed, 0)])
  | .twoprod d a b ea eb ed => some (pack 0x82000000 [(d.toNat, 17), (a.toNat, 10), (b.toNat, 3), (bit ea, 2), (bit eb, 1), (bit ed, 0)])
  | .fmaerr d a b ea eb ed => some (pack 0x83000000 [(d.toNat, 17), (a.toNat, 10), (b.toNat, 3), (bit ea, 2), (bit eb, 1), (bit ed, 0)])
  | .xadd d a b ea eb ed => some (pack 0x84000000 [(d.toNat, 17), (a.toNat, 10), (b.toNat, 3), (bit ea, 2), (bit eb, 1), (bit ed, 0)])
  | .xsub d a b ea eb ed => some (pack 0x85000000 [(d.toNat, 17), (a.toNat, 10), (b.toNat, 3), (bit ea, 2), (bit eb, 1), (bit ed, 0)])
  | .xmul d a b ea eb ed => some (pack 0x86000000 [(d.toNat, 17), (a.toNat, 10), (b.toNat, 3), (bit ea, 2), (bit eb, 1), (bit ed, 0)])
  | .xfma d a b ea eb ed => some (pack 0x87000000 [(d.toNat, 17), (a.toNat, 10), (b.toNat, 3), (bit ea, 2), (bit eb, 1), (bit ed, 0)])
  | .xrenorm d a ea ed => some (pack 0x88000000 [(d.toNat, 17), (a.toNat, 10), (bit ea, 2), (bit ed, 0)])
  | .xcompress d a ea ed => some (pack 0x89000000 [(d.toNat, 17), (a.toNat, 10), (bit ea, 2), (bit ed, 0)])
  | .xeqSub2 x a d ea eb => some (pack 0x8a000002 [(x.toNat, 17), (a.toNat, 10), (d.toNat, 4), (bit ea, 3), (bit eb, 2)])
  | .xeqSub3 a d ea => some (pack 0x8a000003 [(a.toNat, 10), (d.toNat, 4), (bit ea, 3)])
  | .xltSub2 x a d ea eb => some (pack 0x8b000002 [(x.toNat, 17), (a.toNat, 10), (d.toNat, 4), (bit ea, 3), (bit eb, 2)])
  | .xltSub3 a d ea => some (pack 0x8b000003 [(a.toNat, 10), (d.toNat, 4), (bit ea, 3)])
  | .xleSub2 x a d ea eb => some (pack 0x8c000002 [(x.toNat, 17), (a.toNat, 10), (d.toNat, 4), (bit ea, 3), (bit eb, 2)])
  | .xleSub3 a d ea => some (pack 0x8c000003 [(a.toNat, 10), (d.toNat, 4), (bit ea, 3)])
  | .xneg d a ea ed => some (pack 0x8d000000 [(d.toNat, 17), (a.toNat, 10), (bit ea, 2), (bit ed, 0)])
  | .xabs d a ea ed => some (pack 0x8e000000 [(d.toNat, 17), (a.toNat, 10), (bit ea, 2), (bit ed, 0)])
  | .xsplit d a ea ed => some (pack 0x8f000000 [(d.toNat, 17), (a.toNat, 10), (bit ea, 2), (bit ed, 0)])
  | .xtop d a ea ed => some (pack 0x90000000 [(d.toNat, 17), (a.toNat, 10), (bit ea, 2), (bit ed, 0)])
  | .xcvt d a c ea ed => some (pack 0x91000000 [(d.toNat, 17), (a.toNat, 10), (c.toNat, 3), (bit ea, 2), (bit ed, 0)])
  | .xbound d a ea ed => some (pack 0x92000000 [(d.toNat, 17), (a.toNat, 10), (bit ea, 2), (bit ed, 0)])
  | .qswh d a ea ed => some (pack 0x98000000 [(d.toNat, 17), (a.toNat, 10), (bit ea, 2), (bit ed, 0)])
  | .qswv d a ea ed => some (pack 0x99000000 [(d.toNat, 17), (a.toNat, 10), (bit ea, 2), (bit ed, 0)])
  | .qswd d a ea ed => some (pack 0x9a000000 [(d.toNat, 17), (a.toNat, 10), (bit ea, 2), (bit ed, 0)])
  | .qbc d a n ea ed => some (pack 0x9b000000 [(d.toNat, 17), (a.toNat, 10), (n.toNat, 3), (bit ea, 2), (bit ed, 0)])
  | .qddx d a ea ed => some (pack 0x9c000000 [(d.toNat, 17), (a.toNat, 10), (bit ea, 2), (bit ed, 0)])
  | .qddy d a ea ed => some (pack 0x9d000000 [(d.toNat, 17), (a.toNat, 10), (bit ea, 2), (bit ed, 0)])
  | .qhelp => some (pack 0x9e000000 [])
  | .lshuf d a b ea eb ed => some (pack 0xa0000000 [(d.toNat, 17), (a.toNat, 10), (b.toNat, 3), (bit ea, 2), (bit eb, 1), (bit ed, 0)])
  | .lrot d a b ea eb ed => some (pack 0xa1000000 [(d.toNat, 17), (a.toNat, 10), (b.toNat, 3), (bit ea, 2), (bit eb, 1), (bit ed, 0)])
  | .lscan d a c ea ed => some (pack 0xa2000000 [(d.toNat, 17), (a.toNat, 10), (c.toNat, 3), (bit ea, 2), (bit ed, 0)])
  | .lred d a c ea ed => some (pack 0xa3000000 [(d.toNat, 17), (a.toNat, 10), (c.toNat, 3), (bit ea, 2), (bit ed, 0)])
  | .lballot a d ea => some (pack 0xa4000003 [(a.toNat, 10), (d.toNat, 4), (bit ea, 3)])
  | .lcompress d a ea ed => some (pack 0xa5000000 [(d.toNat, 17), (a.toNat, 10), (bit ea, 2), (bit ed, 0)])
  | .lexpand d a ea ed => some (pack 0xa6000000 [(d.toNat, 17), (a.toNat, 10), (bit ea, 2), (bit ed, 0)])
  | .lfirst a d ea => some (pack 0xa7000003 [(a.toNat, 10), (d.toNat, 4), (bit ea, 3)])
  | .ldO vt sb va sz ex sc => some (pack 0xb0000000 [(vt.toNat, 17), (sb.toNat, 11), (va.toNat, 4), (sz.toNat, 2), (bit ex, 1), (bit sc, 0)])
  | .ldW vt sb va sz ex sc => some (pack 0xb1000000 [(vt.toNat, 17), (sb.toNat, 11), (va.toNat, 4), (sz.toNat, 2), (bit ex, 1), (bit sc, 0)])
  | .ldS vt sb va sz ex sc => some (pack 0xb2000000 [(vt.toNat, 17), (sb.toNat, 11), (va.toNat, 4), (sz.toNat, 2), (bit ex, 1), (bit sc, 0)])
  | .ldI vt sb va sz ex sc => some (pack 0xb3000000 [(vt.toNat, 17), (sb.toNat, 11), (va.toNat, 4), (sz.toNat, 2), (bit ex, 1), (bit sc, 0)])
  | .stO vt sb va sz sc => some (pack 0xb4000000 [(vt.toNat, 17), (sb.toNat, 11), (va.toNat, 4), (sz.toNat, 2), (bit sc, 0)])
  | .stW vt sb va sz sc => some (pack 0xb5000000 [(vt.toNat, 17), (sb.toNat, 11), (va.toNat, 4), (sz.toNat, 2), (bit sc, 0)])
  | .stS vt sb va sz sc => some (pack 0xb6000000 [(vt.toNat, 17), (sb.toNat, 11), (va.toNat, 4), (sz.toNat, 2), (bit sc, 0)])
  | .stI vt sb va sz sc => some (pack 0xb7000000 [(vt.toNat, 17), (sb.toNat, 11), (va.toNat, 4), (sz.toNat, 2), (bit sc, 0)])
  | .ldsO vt sb imm sz => some (pack 0xb8000000 [(vt.toNat, 18), (sb.toNat, 12), (imm.toNat, 2), (sz.toNat, 0)])
  | .ldsW vt sb imm sz => some (pack 0xb9000000 [(vt.toNat, 18), (sb.toNat, 12), (imm.toNat, 2), (sz.toNat, 0)])
  | .ldsS vt sb imm sz => some (pack 0xba000000 [(vt.toNat, 18), (sb.toNat, 12), (imm.toNat, 2), (sz.toNat, 0)])
  | .ldsI vt sb imm sz => some (pack 0xbb000000 [(vt.toNat, 18), (sb.toNat, 12), (imm.toNat, 2), (sz.toNat, 0)])
  | .stsO vt sb imm sz => some (pack 0xbc000000 [(vt.toNat, 18), (sb.toNat, 12), (imm.toNat, 2), (sz.toNat, 0)])
  | .stsW vt sb imm sz => some (pack 0xbd000000 [(vt.toNat, 18), (sb.toNat, 12), (imm.toNat, 2), (sz.toNat, 0)])
  | .stsS vt sb imm sz => some (pack 0xbe000000 [(vt.toNat, 18), (sb.toNat, 12), (imm.toNat, 2), (sz.toNat, 0)])
  | .stsI vt sb imm sz => some (pack 0xbf000000 [(vt.toNat, 18), (sb.toNat, 12), (imm.toNat, 2), (sz.toNat, 0)])
  | .ldp vt sb va sz ex sc => some (pack 0xc0000000 [(vt.toNat, 17), (sb.toNat, 11), (va.toNat, 4), (sz.toNat, 2), (bit ex, 1), (bit sc, 0)])
  | .stp vt sb va sz sc => some (pack 0xc1000000 [(vt.toNat, 17), (sb.toNat, 11), (va.toNat, 4), (sz.toNat, 2), (bit sc, 0)])
  | .ldsp vt sb va sz ex sc => some (pack 0xc2000000 [(vt.toNat, 17), (sb.toNat, 11), (va.toNat, 4), (sz.toNat, 2), (bit ex, 1), (bit sc, 0)])
  | .stsp vt sb va sz sc => some (pack 0xc3000000 [(vt.toNat, 17), (sb.toNat, 11), (va.toNat, 4), (sz.toNat, 2), (bit sc, 0)])
  | .cst vt sb va sz sc => some (pack 0xc4000000 [(vt.toNat, 17), (sb.toNat, 11), (va.toNat, 4), (sz.toNat, 2), (bit sc, 0)])
  | .stm vt sb va sz sc => some (pack 0xc5000000 [(vt.toNat, 17), (sb.toNat, 11), (va.toNat, 4), (sz.toNat, 2), (bit sc, 0)])
  | .pref tgt sb va sz sc => some (pack 0xc6000000 [(tgt.toNat, 17), (sb.toNat, 11), (va.toNat, 4), (sz.toNat, 2), (bit sc, 0)])
  | .vinv a l => some (pack 0xc7000000 [(a.toNat, 18), (l.toNat, 12)])
  | .vwb a l => some (pack 0xc8000000 [(a.toNat, 18), (l.toNat, 12)])
  | .fenceAcq => some (pack 0xc9000000 [])
  | .fenceRel => some (pack 0xca000000 [])
  | .fenceSc => some (pack 0xcb000000 [])
  | .atomRlx d s a p => some (pack 0xd0000000 [(d.toNat, 17), (s.toNat, 11), (a.toNat, 4), (p.toNat, 0)])
  | .atomAcq d s a p => some (pack 0xd1000000 [(d.toNat, 17), (s.toNat, 11), (a.toNat, 4), (p.toNat, 0)])
  | .atomRel d s a p => some (pack 0xd2000000 [(d.toNat, 17), (s.toNat, 11), (a.toNat, 4), (p.toNat, 0)])
  | .atomAr d s a p => some (pack 0xd3000000 [(d.toNat, 17), (s.toNat, 11), (a.toNat, 4), (p.toNat, 0)])
  | .redRlx d s a p => some (pack 0xd4000000 [(d.toNat, 17), (s.toNat, 11), (a.toNat, 4), (p.toNat, 0)])
  | .redRel d s a p => some (pack 0xd5000000 [(d.toNat, 17), (s.toNat, 11), (a.toNat, 4), (p.toNat, 0)])
  | .catom d s a => some (pack 0xd6000000 [(d.toNat, 17), (s.toNat, 11), (a.toNat, 4)])
  | .satom d s o p => some (pack 0xd7000000 [(d.toNat, 17), (s.toNat, 11), (o.toNat, 4), (p.toNat, 0)])
  | .mma td ka a kb b eta => some (pack 0xd8000000 [(td.toNat, 20), (bit ka, 19), (a.toNat, 12), (bit kb, 11), (b.toNat, 4), (bit eta, 3)])
  | .mmar td ka a kb b eta => some (pack 0xd9000000 [(td.toNat, 20), (bit ka, 19), (a.toNat, 12), (bit kb, 11), (b.toNat, 4), (bit eta, 3)])
  | .mmab td ka a kb b eta => some (pack 0xda000000 [(td.toNat, 20), (bit ka, 19), (a.toNat, 12), (bit kb, 11), (b.toNat, 4), (bit eta, 3)])
  | .tld t n => some (pack 0xdb080000 [(t.toNat, 20), (n.toNat, 12)])
  | .tst t n => some (pack 0xdc080000 [(t.toNat, 20), (n.toNat, 12)])
  | .tzero t => some (pack 0xdd000000 [(t.toNat, 20)])
  | .trd t r s i v => some (pack 0xde000000 [(t.toNat, 20), (bit r, 19), (s.toNat, 13), (i.toNat, 7), (v.toNat, 0)])
  | .twr t r s i v => some (pack 0xdf000000 [(t.toNat, 20), (bit r, 19), (s.toNat, 13), (i.toNat, 7), (v.toNat, 0)])
  | .tfold t u p => some (pack 0xe0000000 [(t.toNat, 20), (u.toNat, 12), (p.toNat, 4)])
  | .tscl s n m => some (pack 0xe1080800 [(bit s, 20), (n.toNat, 12), (m.toNat, 4)])
  | .tmov t u p => some (pack 0xe2000000 [(t.toNat, 20), (u.toNat, 12), (p.toNat, 4)])
  | .tcvt t u => some (pack 0xe3000000 [(t.toNat, 20), (u.toNat, 12)])
  | .bar n => some (pack 0xe8000000 [(n.toNat, 0)])
  | .barv d a p n => some (pack 0xe9000000 [(d.toNat, 18), (a.toNat, 12), (p.toNat, 4), (n.toNat, 0)])
  | .barw a b => some (pack 0xea000000 [(a.toNat, 18), (b.toNat, 12)])
  | .abinit a b => some (pack 0xeb000000 [(a.toNat, 18), (b.toNat, 12)])
  | .abarr d a => some (pack 0xec000000 [(d.toNat, 18), (a.toNat, 12)])
  | .abwait a b => some (pack 0xed000000 [(a.toNat, 18), (b.toNat, 12)])
  | .qpush a n => some (pack 0xee000000 [(a.toNat, 17), (n.toNat, 0)])
  | .qpop d n => some (pack 0xef000000 [(d.toNat, 17), (n.toNat, 0)])
  | .qtry d s n => some (pack 0xf0000000 [(d.toNat, 17), (s.toNat, 11), (n.toNat, 0)])
  | .qallow a n => some (pack 0xf1000000 [(a.toNat, 18), (n.toNat, 0)])
  | .rtake d a ea ed => some (pack 0xf2000000 [(d.toNat, 18), (a.toNat, 12), (bit ea, 2), (bit ed, 0)])
  | .cpy a b => some (pack 0xf3000000 [(a.toNat, 18), (b.toNat, 12)])
  | .coll t d s => some (pack 0xf4000000 [(t.toNat, 20), (d.toNat, 14), (s.toNat, 8)])
  | .evpost a b => some (pack 0xf5000000 [(a.toNat, 18), (b.toNat, 12)])
  | .rlaunch a => some (pack 0xf6000000 [(a.toNat, 18)])
  | .trap c => some (pack 0xf8000000 [(c.toNat, 0)])
  | .eret => some (pack 0xf9000000 [])
  | .mcall p a b k => some (pack 0xfa000000 [(p.toNat, 17), (a.toNat, 10), (b.toNat, 3), (k.toNat, 0)])
  | .mcw a => some (pack 0xfb000000 [(a.toNat, 18)])
  | .sysrd d n => some (pack 0xfc000000 [(d.toNat, 18), (n.toNat, 10)])
  | .syswr a n => some (pack 0xfd000000 [(a.toNat, 18), (n.toNat, 10)])
  | .tlbi a b c => some (pack 0xfe000000 [(a.toNat, 18), (b.toNat, 12), (c.toNat, 0)])
  | .illegalWord _ => none
  | .instructionFetchFault _ => none
  | .loadReturn _ => none
  | .slowSysrdReturn _ => none
  | .loadLaneFault _ => none
  | .storeAck _ => none
  | .storeLaneFault _ => none
  | .linkStackSpillFill _ => none
  | .owningDieAccess _ _ => none
  | .atomicProbeResult _ => none
  | .atomicReturn _ => none
  | .catomLowUpdate _ _ => none
  | .scratchpadBankAccess _ _ => none
  | .pageExpansionComplete _ _ => none
  | .homeOLoadMiss _ _ => none
  | .homeILoadMiss _ _ => none
  | .homeSLoadMiss _ _ => none
  | .homeWLoad _ _ => none
  | .homeOwnershipRequest _ _ => none
  | .homeWriteThrough _ _ => none
  | .homeAtomic _ _ => none
  | .ownerWmaskAccess _ _ => none
  | .ownerWriteBack _ _ => none
  | .ownerVwbWriteBack _ _ => none
  | .recallToShared _ => none
  | .recall _ => none
  | .claim _ => none
  | .invalidate _ _ => none
  | .update _ _ => none
  | .directoryTComplete _ => none
  | .requestRefusedResend _ _ => none
  | .directoryEntryUe _ => none
  | .replicaLineLeave _ _ => none
  | .hostCleanDrop _ => none
  | .hrd _ => none
  | .hrdx _ _ _ => none
  | .hwr _ _ _ => none
  | .hwb _ => none
  | .peerAccessRequest _ => none
  | .route10Ack _ _ _ => none
  | .epochTick _ => none
  | .retentionSleepEnter _ => none
  | .retentionWake _ => none
  | .matrixGrant _ _ => none
  | .passComplete _ _ => none
  | .reservationAging _ _ => none
  | .tileOpComplete _ => none
  | .tldRowFault _ => none
  | .barrierChecksum _ => none
  | .wideBarrierArrival _ => none
  | .asyncObjectArrival _ => none
  | .chutePopServed _ _ => none
  | .chutePushRoom _ => none
  | .copyComplete _ => none
  | .copyFault _ => none
  | .collPhase0Packet _ => none
  | .collDataPacket _ => none
  | .collResultPacket _ => none
  | .collCancelPacket _ => none
  | .reduceFlockDispatch _ _ _ _ => none
  | .switchCombine _ _ _ => none
  | .collGroupTableFault _ => none
  | .bellwetherTurn _ => none
  | .passiveWake _ => none
  | .deviceEventPost _ => none
  | .launchQueueDoorbell _ _ => none
  | .launchQueueEntryTake _ => none
  | .flockAdmit _ => none
  | .rangeComplete _ => none
  | .drovePromote _ => none
  | .regangTimeout _ => none
  | .yieldTimeout _ => none
  | .budgetExpiry _ => none
  | .watchdogExpiry _ => none
  | .slowFaultSwapout _ => none
  | .mxmodeApply _ => none
  | .faultTableEntryWrite _ => none
  | .parkDelivery _ => none
  | .swapOut _ => none
  | .flockResume _ => none
  | .dbgcmdHalt _ => none
  | .mapcmdMap _ => none
  | .mapcmdUnmap _ => none
  | .mapcmdCompress _ => none
  | .mapcmdClearAccessed _ => none
  | .mapcmdQuery _ => none
  | .xtcrBind _ => none
  | .sramwinWrite _ => none
  | .czoneWrite _ => none
  | .vcDefine _ => none
  | .vcResize _ => none
  | .vcMove _ => none
  | .vcFree _ => none
  | .vcRead _ => none
  | .vcModify _ => none
  | .vcRetireShare _ => none
  | .vcShareMap _ => none
  | .vcSweepSet _ _ => none
  | .vcMigrationComplete _ => none
  | .vcFreeComplete _ => none
  | .shareRetireComplete _ => none
  | .correctedError _ => none
  | .uncorrectableError _ _ => none
  | .aetclrWrite _ => none
  | .csbaddrWrite _ => none
  | .freplyReplay _ => none
  | .freplyDeliver _ => none
  | .ctxPreempt _ => none
  | .ctxResume _ => none
  | .ctxTerminate _ => none
  | .ctxPlaceShepherd _ => none
  | .lqcfgWrite _ => none
  | .mxmodeWrite _ => none
  | .dbgcmdWrite _ => none
  | .lcctlClr _ => none
  | .pwrprofWrite _ => none
  | .sysregWrite _ => none
  | .ckptSave _ _ => none
  | .ckptRestore _ _ => none
  | .attestRequest _ => none
  | .notifyClear _ => none
  | .frdataRead => none
  | .fieldRecordCommit => none
  | .moduleReset => none
  | .recoveryImageWrite _ => none
  | .thermalClockStep _ => none
  | .flitCrcFail _ => none
  | .linkRetrain _ => none
  | .portDown _ => none
  | .portTrained _ => none
  | .traceBrFlush _ => none
  | .traceForcedSync _ => none
  | .traceLoss _ => none
  | .checkpointStreamEnd _ => none
  | .linkRetrainEnd _ => none
  | .emptyIssueSlot => none
  | .profileChangeTakesEffect => none
  | .powerLoss => none

/-- The word of an instruction as 32 bits. -/
def encode (i : Instr) : Option (BitVec 32) := (encodeNat i).map (BitVec.ofNat 32)

end Sys2Proof
end

