-- ==== Sys2Proof/Machine/Work.lean ====
section
/-! DEFINITION. What may happen next in the module, as data: the steps of the device's own, the inputs and the instructions. -/

namespace Sys2Proof.Machine

/-- A step of the device's own: the row of the opcode table of the same name, with the same operands. -/
inductive Event where
  | loadReturn (r : Nat)
  | slowSysrdReturn (r : Nat)
  | loadLaneFault (r : Nat)
  | storeAck (r : Nat)
  | storeLaneFault (r : Nat)
  | linkStackSpillFill (d : Nat)
  | owningDieAccess (r j : Nat)
  | atomicProbeResult (r : Nat)
  | atomicReturn (r : Nat)
  | catomLowUpdate (r j : Nat)
  | scratchpadBankAccess (r j : Nat)
  | pageExpansionComplete (ctx va : Nat)
  | homeOLoadMiss (r j : Nat)
  | homeILoadMiss (r j : Nat)
  | homeSLoadMiss (r j : Nat)
  | homeWLoad (r j : Nat)
  | homeOwnershipRequest (r j : Nat)
  | homeWriteThrough (r j : Nat)
  | homeAtomic (r j : Nat)
  | ownerWmaskAccess (r j : Nat)
  | ownerWriteBack (core g : Nat)
  | ownerVwbWriteBack (core g : Nat)
  | recallToShared (g : Nat)
  | recall (g : Nat)
  | claim (g : Nat)
  | invalidate (g holder : Nat)
  | update (g die : Nat)
  | directoryTComplete (g : Nat)
  | requestRefusedResend (r j : Nat)
  | replicaLineLeave (g die : Nat)
  | hostCleanDrop (g : Nat)
  | peerAccessRequest (x : PeerAccess)
  | route10Ack (r j : Nat) (hostWrites : List (Nat × Byte))
  | epochTick (core : Nat)
  | retentionSleepEnter (core : Nat)
  | retentionWake (core : Nat)
  | matrixGrant (pad k : Nat)
  | passComplete (pad k : Nat)
  | reservationAging (pad k : Nat)
  | tileOpComplete (k : Nat)
  | tldRowFault (r : Nat)
  | barrierChecksum (d : Nat)
  | wideBarrierArrival (f : Nat)
  | asyncObjectArrival (k : Nat)
  | chutePopServed (f n : Nat)
  | chutePushRoom (d : Nat)
  | copyComplete (k : Nat)
  | copyFault (k : Nat)
  | collPhase0Packet (p : CollPacket)
  | collDataPacket (p : CollPacket)
  | collResultPacket (p : CollPacket)
  | collCancelPacket (p : CollPacket)
  | reduceFlockDispatch (c level node chunk : Nat)
  | collGroupTableFault (c : Nat)
  | bellwetherTurn (d : Nat)
  | passiveWake (d : Nat)
  | deviceEventPost (k : Nat)
  | launchQueueEntryTake (q : Nat)
  | flockAdmit (g : Nat)
  | rangeComplete (g : Nat)
  | drovePromote (d : Nat)
  | regangTimeout (d : Nat)
  | yieldTimeout (d : Nat)
  | budgetExpiry (f : Nat)
  | watchdogExpiry (f : Nat)
  | slowFaultSwapout (f : Nat)
  | mxmodeApply (pad : Nat)
  | faultTableEntryWrite (k : Nat)
  | parkDelivery (k : Nat)
  | swapOut (f : Nat)
  | flockResume (k : Nat)
  | dbgcmdHalt (d : Nat)
  | mapcmdMap (c : Nat)
  | mapcmdUnmap (c : Nat)
  | mapcmdCompress (c : Nat)
  | mapcmdClearAccessed (c : Nat)
  | mapcmdQuery (c : Nat)
  | xtcrBind (c : Nat)
  | sramwinWrite (c : Nat)
  | czoneWrite (c : Nat)
  | vcDefine (c : Nat)
  | vcResize (c : Nat)
  | vcMove (c : Nat)
  | vcFree (c : Nat)
  | vcRead (c : Nat)
  | vcModify (c : Nat)
  | vcRetireShare (c : Nat)
  | vcShareMap (c : Nat)
  | vcSweepSet (vc die : Nat)
  | vcMigrationComplete (vc : Nat)
  | vcFreeComplete (vc : Nat)
  | shareRetireComplete (share : Nat)
  | aetclrWrite (c : Nat)
  | csbaddrWrite (c : Nat)
  | freplyReplay (c : Nat)
  | freplyDeliver (c : Nat)
  | ctxPreempt (c : Nat)
  | ctxResume (c : Nat)
  | ctxTerminate (c : Nat)
  | ctxPlaceShepherd (c : Nat)
  | lqcfgWrite (c : Nat)
  | mxmodeWrite (c : Nat)
  | dbgcmdWrite (c : Nat)
  | lcctlClr (c : Nat)
  | pwrprofWrite (c : Nat)
  | sysregWrite (c : Nat)
  | ckptSave (c dpa : Nat)
  | ckptRestore (c dpa : Nat)
  | fieldRecordCommit
  | moduleReset
  | linkRetrain (link : Nat)
  | traceBrFlush (die : Nat)
  | traceForcedSync (die : Nat)
  | traceLoss (die : Nat)
  | checkpointStreamEnd (ok : Bool)
  | linkRetrainEnd (link : Nat)
  | emptyIssueSlot
  | profileChangeTakesEffect
  deriving DecidableEq, Repr

/-- One thing that may happen next: a step of the device's own, an input that has arrived, or the next instruction of a
drove. -/
inductive Work where
  | ev (e : Event)
  | input (i : Instr)
  | run (u : Nat)
  /-- Packets that may go leave their ports (18 R380, R383). -/
  | send
  /-- The host's next access to the management window (19 R421). -/
  | mgmt
  deriving DecidableEq, Repr

end Sys2Proof.Machine
end

