-- ==== Sys2Proof/Machine/State.lean ====
section
/-! DEFINITION. The state of the whole module as plain data, and the state after module reset. INVENTORY.md lists each
piece with the rule that names it. Memories are lists of cells in one canonical form (Machine/Mem.lean). -/

namespace Sys2Proof.Machine

/-- Bytes by address: addresses strictly rising, no entry equal to the 0 that an unlisted address reads as. -/
abbrev Memory := List Host.Cell

/-- Why the machine stops. -/
inductive Fault where
  /-- Names a device access to a physical address whose bits [63:39] are not 0: such an address does not exist (13 R279).
  Nothing raises it: 00 R11 gives such an access an effect (assumption log 20), so no step of this machine faults. Safe. -/
  | noSuchDpa
  deriving DecidableEq, Repr

/-- Why an instruction has no meaning here. -/
inductive Refusal where
  /-- Answered by an arm of Machine/Dispatch.lean whose instruction has no meaning yet. Safe: nothing runs. -/
  | notModelled (mnemonic : String)
  deriving DecidableEq, Repr

/-- One vector register: 32 bits in each of 64 lanes (01 R22). -/
abbrev VReg := Vector W32 64

/-- The coherence policies (09 R188). -/
inductive Policy where
  | o | w | s | i
  deriving DecidableEq, Repr

/-- The register classes (03 R73), numbered in a fault record as 17 R364 says. -/
inductive RegClass where
  | vec | scl | tile
  deriving DecidableEq, Repr

/-- What a drove that does not issue is waiting for. -/
inductive Wait where
  | reg (c : RegClass) (n : Nat)   -- an empty register (01 R28)
  | mask                           -- an empty D or G register (01 R20)
  | entry                          -- a store-buffer entry (01 R30)
  | drain                          -- SBCNT 0 (09 R199)
  | returns                        -- earlier loads and atomics (09 R199, R202)
  | barrier (n : Nat)              -- a flock barrier (11 R229)
  | wide                           -- a wide barrier (11 R231)
  | object (a token : Nat)         -- an async barrier object's phase to differ from a token (11 R235)
  | push (n va : Nat)              -- room in a chute for the lanes of a register (11 R238)
  | probe                          -- a translation probe (09 R203)
  | table                          -- a reservation, queue or FIFO with no room
  | command                        -- a command register, mcw, tlbi or record being served
  | regang (since : Nat)           -- 01 R17
  | yield (since : Nat)            -- 05 R120
  | turn                           -- the bellwether (19 R406)
  | checksum                       -- a barrier checksum (19 R412)
  | link                           -- a link-stack move (05 R117)
  | write (n : Nat) (x : W64)      -- the privileged register n being written with x (11 R260)
  | record                         -- a fault record that another stopped drove holds, to write its own stop there (17 R364)
  | calls (slot : Nat)             -- running calls of a microprogram slot to finish (11 R259)
  | flush (upto : Nat)             -- accesses of requests older than this to be performed (11 R261)
  | ending                         -- in `exit`, until SBCNT is 0 and what it waits for has returned (05 R118)
  deriving DecidableEq, Repr

/-- Where a drove stands. A drove is parked besides when an entry of Sched.parks that blocks it is unserviced. -/
inductive Cond where
  | vacant | ready | waiting (w : Wait) | stopped | exited
  deriving DecidableEq, Repr

/-- The stop a drove is held by (17 R364, R366): its SEQ, its cause, the microprogram step and PC at which it resumes, and
the park that it delivers, if any. -/
structure Stop where
  seq     : Nat
  cause   : BitVec 8
  step    : Option Nat
  resume  : W64
  deliver : Option Nat
  again   : Bool           -- the delivered park's instruction performed nothing and is executed again (17 R365)
  deriving DecidableEq, Repr

/-- An access of the host's to the management window (18 R402, 19 R421). -/
inductive MgmtAccess where
  | writeFridx (x : BitVec 16) | readFridx | readFrstat | readFrdata | readCertificate
  deriving DecidableEq, Repr

/-- What a stop reports and where it resumes (17 R363, R364). -/
structure StopInfo where
  cause   : BitVec 8
  kind    : BitVec 8 := 0xFF
  addr    : Nat := 0
  mask    : Nat := 0
  info    : Nat := 0
  pc      : W64
  step    : Option Nat := none
  resume  : W64
  after   : Option Nat := none   -- the microprogram step at which RESUME unchanged continues
  deliver : Option Nat := none
  again   : Bool := false
  deriving DecidableEq, Repr

/-- An mcall in progress (11 R257): its slot and parameters, the next step, and the version it started with. -/
structure Micro where
  slot : BitVec 7
  pa   : BitVec 7
  pb   : BitVec 7
  k    : BitVec 3
  step : Nat
  code : List W64
  deriving DecidableEq, Repr

/-- A trace state of a drove (19 R417): the mask last traced, the pending branch bits and when the first was added. -/
structure TraceSt where
  mask    : Option W64
  bits    : List Bool
  since   : Nat            -- cycle of the oldest of them
  last    : Nat            -- cycle of the newest
  seen    : Bool
  resync  : Bool
  deriving DecidableEq, Repr

/-- The state of one drove (01). -/
structure Drove where
  uid      : Nat
  flock    : Nat
  range    : Nat
  idx      : Nat
  ctx      : BitVec 16
  droveId  : BitVec 32
  width    : Nat
  nv       : Nat
  ns       : Nat
  ntiles   : Nat
  core     : Nat
  subc     : Nat
  shepherd : Bool
  prio     : Nat
  pc       : W64
  mode     : BitVec 32
  flags    : BitVec 5
  satd     : Bool
  xoor     : Bool
  rwrap    : Bool
  gang     : Bool
  gangDue  : Bool          -- issuing as one more member of the gang whose slot this is
  gangWith : List Nat      -- the siblings of its gang (01 R16)
  parted   : List Nat      -- siblings that it has parted from since its last regang (01 R17)
  waited   : Bool          -- its wait in `regang` or `yield` is over (01 R17, 05 R120)
  pers     : Bool
  det      : Bool
  pres     : W64
  slim     : W64
  sbase    : W64
  pbase    : W64
  spb      : W64
  spl      : W64
  losplit  : W64
  rkey     : W64
  rctr     : W64
  lclk     : W64
  retired  : Nat           -- instructions that it has retired (16 R350)
  frec     : W64
  tctl     : W64
  s        : Vector W64 64
  v        : Vector VReg 128
  sfull    : BitVec 64
  vfull    : BitVec 128
  popped   : List (Nat × Nat × Nat)   -- registers emptied by a pop: register, chute, PC of the qpop
  gen      : BitVec 16
  depth    : Nat
  links    : List W64
  micro    : Option Micro
  after    : Option W64    -- where it goes on once the instruction executed again has retired (17 R365)
  help     : Bool
  helpWord : Option (BitVec 32)   -- the helped word as the `qhelp` fetched it (08 R174)
  cond     : Cond
  since    : Nat
  promoted : Bool
  dog      : Bool          -- it waits at an instruction whose waits the watchdog ends (16 R359)
  stop     : Option Stop
  stopDue  : Option StopInfo   -- a stop whose fault record another stopped drove still holds (17 R364)
  haltReq  : Bool
  brkSkip  : Bool
  turn     : Bool
  passive  : Bool
  await    : Option Wait   -- what its last passive wait was for (19 R407)
  wakeAt   : Option W64
  csumPc   : Option W64
  csumReq  : Option Nat    -- its read of the log's SEQ (19 R413)
  status   : List (Nat × W64)         -- STATUS of its last command, by register number
  trace    : TraceSt
  crook    : W64
  deriving DecidableEq, Repr

/-- A round of a named barrier (11 R229, R230): the drove indexes that arrived, and the contributions with their op. -/
structure Barrier where
  arrived  : List Nat
  contrib  : List (Nat × Nat × W64)
  released : List (Nat × W64 × Bool)   -- droves released and not yet continued, and a barv result
  left     : List Nat                  -- arrived droves that a handler has resumed elsewhere (11 R232)
  deriving DecidableEq, Repr

/-- The flock's meeting at a wide barrier (11 R231). -/
structure WideMeet where
  members : List (Nat × W64 × W64)     -- drove index, S[sa], S[sb]
  req     : Option Nat
  gen     : Option (BitVec 32)         -- GEN read by the flock's arrival
  done    : List Nat                   -- members that may continue
  leave   : List Nat                   -- members that continue with no arrival made (17 R365)
  left    : List Nat                   -- members that a handler has resumed elsewhere (11 R232)
  fail    : Option (BitVec 8 × Nat)    -- the cause, and its address, that every member stops with
  deriving DecidableEq, Repr

/-- A pop not yet served (11 R239). -/
structure Pop where
  drove : Nat
  vd    : Nat
  lanes : List Nat
  pc    : W64
  deriving DecidableEq, Repr

/-- A chute (11 R236). -/
structure Chute where
  cap       : Nat
  count     : Nat
  head      : Nat
  producers : List Nat
  everHad   : Bool
  closed    : Bool
  pops      : List Pop
  deriving DecidableEq, Repr

/-- A record of the scale FIFO (10 R216): stream base, NBLK and the correction entries. -/
structure ScaleRec where
  base : W64
  nblk : Nat
  corr : List W64
  deriving DecidableEq, Repr

/-- The operands of one coll (11 R251). -/
structure CollArgs where
  tile : Nat
  d0   : W64
  d1   : W64
  d2   : W64
  d3   : W64
  obj  : W64
  deriving DecidableEq, Repr

/-- One chunk of a combining-tree node (18 R385, R386): its payload words as the device holds them, the special value of
each of its blocks in exact mode (0 none, 1 +∞, 2 −∞, 3 NaN), and intermediate overflow below it. -/
structure CollNode where
  level   : Nat
  node    : Nat
  chunk   : Nat
  words   : List W32
  special : List Nat
  overflow    : Bool
  deriving DecidableEq, Repr

/-- A packet of the collective channel on its way to a member of this module or not yet taken by one (18 R390): its PTYPE,
and for a cancel the range that sent it. A packet of this module keeps the node that it carries. -/
structure HeldPacket where
  ptype : Nat
  range : Nat
  pkt   : CollPacket
  node  : Option CollNode
  deriving DecidableEq, Repr

/-- A collective at one member (11 R252, 18 R384-R388). -/
structure CollOp where
  id      : Nat
  group   : BitVec 32
  seq     : BitVec 32
  also    : List (BitVec 32 × BitVec 32)   -- other groups that its droves name, with the flock's count of each (11 R252)
  args    : List (Nat × CollArgs)      -- drove index and its operands
  drove   : Nat                        -- the last drove to issue it
  droveId : BitVec 32
  pc      : W64
  started : Bool
  bad     : Bool
  table   : List W64                   -- the group table, once it has been read
  digest  : W64
  parked  : Bool
  contrib : List (W32 × W32)           -- per element, the tile or the pair
  maxima  : List (Nat × Nat × List (BitVec 16))  -- level, node and block maxima heard
  sentUp  : Bool
  agreed  : Option (List (BitVec 16))
  nodes   : List CollNode
  results : List CollNode              -- the root's chunks
  status  : Option Nat                 -- how it ended, while its place in a deterministic range is not known
  lclk    : W64                        -- LCLK of its last turn
  issued  : Nat                        -- that turn, among a deterministic range's operations
  turnAt  : Nat
  deriving DecidableEq, Repr

/-- A resident flock (01 R12). -/
structure Flock where
  uid       : Nat
  range     : Nat
  ctx       : BitVec 16
  lin       : Nat
  droves    : Nat
  width     : Nat
  core      : Nat
  prio      : Nat
  tileBase  : Nat
  ntiles    : Nat
  spb       : Nat
  spl       : Nat
  tiles     : List (Nat × W32)         -- canonical, by 16384 * tile + 128 * row + column
  tfull     : BitVec 16
  torphan   : BitVec 16
  tgen      : BitVec 16
  tileOwner : List (Nat × Nat)         -- tile and the request of the tld or coll that empties it
  bars      : List (Nat × Barrier)
  wide      : Option WideMeet
  chutes    : List Chute
  fifoA     : List ScaleRec
  fifoB     : List ScaleRec
  collSeq   : List (BitVec 32 × BitVec 32)
  colls     : List CollOp
  admitted  : Nat
  lastIssue : Nat
  exited    : List Nat
  isOver    : Bool                 -- it has finished, and what its droves began still ends (16 R350)
  shepherd  : Bool
  swapDue   : Option (BitVec 8)    -- the REASON of the swap-out under way (17 R371)
  swapTried : Bool                 -- a swap-out found no slot (17 R361)
  deriving DecidableEq, Repr

/-- What an access of a request is waiting for. -/
inductive AccSt where
  | new | sent | faulted (cause : BitVec 8) | done
  deriving DecidableEq, Repr

/-- One access of a request: one lane, or one row or word of an engine operation (12 R262). -/
structure Acc where
  lane   : Nat
  va     : Nat
  size   : Nat
  x      : Nat            -- data to store, or operand
  y      : Nat            -- swap value of cas, or the low addend of catom
  r      : Nat            -- data read
  st     : AccSt
  dpa    : Nat
  attr   : W64            -- the leaf's attribute word
  page   : Nat            -- and its page's size, 0 before translation
  lowAttr : W64           -- the same of the low word of a catom lane (09 R205)
  lowPage : Nat
  dom    : Nat
  helper : Bool
  aged   : Option Nat     -- its age at the home, once it has waited there or been refused (15 R328)
  deriving DecidableEq, Repr

/-- The forms of a request. -/
inductive ReqKind where
  | load (p : Policy) (sext : Bool)
  | lds (p : Policy)
  | ldp (sext : Bool)
  | ldsp (sext : Bool)
  | store (p : Policy)
  | stm
  | stsp
  | atom (aop : Nat) (acq : Bool)
  | red (aop : Nat)
  | satom (aop : Nat)
  | catom
  | rtake
  | barw
  | evpost
  | abinit
  | abarr
  | sysrd (n : Nat)
  | tld (tile : Nat) (p : Policy)
  | tst (tile : Nat) (p : Policy)
  | vwb (whole : Bool)
  | pref (target : Nat)
  deriving DecidableEq, Repr

/-- The low update of one `catom` lane (09 R205): its place among all of them, the dies of its path, the low word, the
two addends, and whether the low home has applied it. -/
structure LowUp where
  seq  : Nat
  lane : Nat
  hdie : Nat
  dpa  : Nat
  x1   : W32
  e    : W32
  done : Bool
  deriving DecidableEq, Repr

/-- A memory, object or register operation that has left its drove and not finished (09, 11). -/
structure Req where
  id      : Nat
  kind    : ReqKind
  drove   : Nat
  flock   : Nat
  ctx     : BitVec 16
  droveId : BitVec 32
  core    : Nat
  gen     : BitVec 16
  pc      : W64
  word    : BitVec 32      -- the instruction word (17 R374)
  mode    : BitVec 32
  dst     : Nat            -- first destination register, or tile
  dst2    : Bool           -- also the next register
  size    : Nat
  accs    : List Acc
  probing : Bool
  split   : W64            -- LOSPLIT at issue
  lows    : List LowUp
  turnAt  : Nat            -- order among a deterministic range's operations
  priv    : Bool           -- private memory, accessed in program order (09 R193, 12 R265)
  deriving DecidableEq, Repr

/-- A fault that waits for service (17 R367): its table slot once one is free, and its service state. -/
structure Park where
  id      : Nat
  kind    : Nat
  cause   : BitVec 8
  ctx     : BitVec 16
  drove   : Nat
  droveId : BitVec 32
  pc      : W64
  va      : Nat
  req     : Option Nat
  slot    : Option Nat
  svc     : Nat            -- 1 outstanding, 2 replay, 3 deliver, 4 over, while its table entry is not yet free
  since   : Nat
  blocks  : Bool           -- its drove issues nothing until service (09 R191)
  counted : Bool           -- counted in FTWAIT
  slow    : Bool           -- its slow service found no save slot (17 R370)
  mask    : Nat            -- unfinished lanes, when no request holds them
  word    : BitVec 32      -- the instruction word, when no request holds it (17 R374)
  noPort  : Bool           -- for want of a trained port: it goes on when one trains (18 R383)
  deriving DecidableEq, Repr

/-- A copy of a granule in one core's L1 (09 R188, 15). -/
structure L1Line where
  core  : Nat
  ctx   : BitVec 16
  va    : Nat              -- granule VA, a multiple of 128
  dpa   : Nat              -- granule DPA
  data  : Granule
  valid : BitVec 32        -- valid words
  dirty : BitVec 128       -- dirty bytes
  owned : Bool
  reg   : Bool
  nc    : Bool
  stamp : Option Nat
  dom   : Nat
  way   : Nat
  age   : Bool
  stack : Bool             -- in the core's stack cache, not in its L1 (13 R294)
  deriving DecidableEq, Repr

/-- A line of an L1 instruction cache (13 R296): its tag, and its 128 bytes. -/
structure ILine where
  ctx  : BitVec 16
  va   : Nat
  data : Granule
  deriving DecidableEq, Repr

/-- A message of the home to a holder of a copy (15 R329). -/
inductive Msg where
  | recallShared | recall | claim (words : BitVec 32) | invalidate (holder : Nat) | update (die : Nat)
  deriving DecidableEq, Repr

/-- Directory states (15 R325). -/
inductive DirSt where
  | i | s | o | w | t
  deriving DecidableEq, Repr

/-- Who asked the home for the granule: an access of a request, the host, the snoop filter in want of a way for granule `g`, or
another piece of work, which performs its request itself when its turn comes. -/
inductive Asker where
  | acc (r j : Nat)
  | host (op : Nat) (dpa : Nat) (data : List Byte) (enables : BitVec 64) (age : Nat)
  | evict (g : Nat)
  | own (w : Work)
  deriving DecidableEq, Repr

/-- A directory entry (15 R325). Holders 0 to 63 are cores, 64 the host, 65 + d the replica slice of die d. In T, `next` is
the state that the entry takes when T ends, and `base` the one that the copies still registered amount to. -/
structure DirEntry where
  g       : Nat            -- granule DPA
  st      : DirSt
  next    : DirSt
  base    : DirSt
  host    : Bool
  rdies   : BitVec 4
  hown    : Bool
  owner   : Nat
  sharers : BitVec 64
  wmask   : BitVec 32
  sf      : Bool           -- in the snoop filter, at its set's way `way` (15 R326)
  way     : Nat
  age     : Bool
  msgs    : List Msg       -- not yet acknowledged
  cause   : Option Asker   -- the request that caused T
  queue   : List Asker
  hostDirty : List (Nat × Byte)  -- bytes the host owner has written
  deriving DecidableEq, Repr

/-- A cached translation (13 R289). -/
structure Tlb where
  die  : Nat
  ctx  : BitVec 16
  va   : Nat
  size : Nat
  attr : W64
  pa   : Nat
  deriving DecidableEq, Repr

/-- Per core: its L1's epoch, sleep and missed-sweep flag, its SRAM window, the context whose control store it holds
and the lines of its instruction cache, newest first. -/
structure CoreSt where
  epoch   : Nat
  asleep  : Bool
  missed  : Bool
  ticked  : Nat
  window  : Nat
  winuse  : Nat            -- bytes of pages that the window holds (13 R287, R292)
  cstore  : Option (BitVec 16)
  slots   : List (Nat × List W64)      -- control-store slots of that context
  icache  : List ILine
  regions : List (BitVec 16 × List (Nat × Nat × Nat))  -- region tables loaded: base, limit, domain
  deriving DecidableEq, Repr

/-- A context's bindings (13 R284, 17 R361). -/
structure Ctx where
  id      : BitVec 16
  csb     : Option Nat
  tcr     : Option Nat
  roots   : List Nat
  regt    : Nat
  peert   : Nat
  stopSeq : Nat
  parkSeq : Nat
  budget  : W64
  held    : Bool           -- its saved flocks wait for CTXCMD op 1
  deriving DecidableEq, Repr

/-- A line of a virtual cache (14 R304, R305): which share and set, valid and dirty granules, age, pin. -/
structure VLine where
  vc    : Nat
  old   : Bool             -- in the old geometry of a migration
  die   : Nat
  set   : Nat
  way   : Nat
  ctx   : BitVec 16
  va    : Nat
  dpa   : Nat
  valid : BitVec 4
  dirty : BitVec 4
  age   : Bool
  pin   : Bool
  deriving DecidableEq, Repr

/-- A cache definition record (14 R301). -/
structure Cdr where
  id     : Nat
  state  : Nat
  lsz    : Nat
  ways   : Nat
  wpol   : Nat
  repl   : Nat
  place  : Bool
  rdies  : BitVec 4
  bww    : Nat
  ctx    : BitVec 16
  gen    : BitVec 16
  pinq   : Nat
  near   : BitVec 16
  shares : List Nat
  olsz   : Nat
  oways  : Nat
  oshares : List Nat
  pinuse : Nat
  hits   : W64
  misses : W64
  token  : W64
  swept  : List (Nat × Nat)   -- die and next old set of each slice
  deriving DecidableEq, Repr

/-- A record the device has yet to post (11 R441): its queue, its owner and its 32 bytes in words. -/
structure DevEvent where
  ctx    : BitVec 16
  va     : W64             -- header VA, or DPA for VCEVQ
  vcq    : Bool
  typ    : BitVec 16
  f1     : BitVec 16
  id     : BitVec 32
  pc     : W64
  pay    : W64
  stamp  : Option W64      -- LCLK or a count in a deterministic range
  deriving DecidableEq, Repr

/-- An entry of a paddock's reservation table, or a pass running (10 R211, 16 R357). -/
structure Pass where
  id     : Nat
  flock  : Nat
  pad    : Nat
  word   : BitVec 32
  et     : Nat
  st     : Nat
  regsA  : List W32        -- 128 rows of 8 words, when operand a is in registers
  regsB  : List W32
  slabA  : Option (W64 × W64)
  slabB  : Option (W64 × W64)
  scaleA : Option ScaleRec
  scaleB : Option ScaleRec
  prio   : Nat
  since  : Nat
  aged   : Nat             -- 0, 1 (1,024 cycles) or 2 (4,096 cycles)
  posted : Bool            -- in the reservation table; a restored pass may wait for room there (16 R356, R357)
  granted : Bool
  quad   : Bool            -- granted in quadrant mode
  seen   : List (Nat × W32)  -- values of scratchpad words that have been replaced since it issued
  deriving DecidableEq, Repr

/-- A tile operation under way (10 R220). -/
structure TileOp where
  id    : Nat
  flock : Nat
  op    : Nat              -- 0 tzero, 1 tmov, 2 tcvt, 3 tfold, 4 the read of a tst
  td    : Nat
  ta    : Nat
  sub   : Nat
  mode  : BitVec 32
  data  : List (Nat × W32) -- the source as read at issue, two tiles of 16384 elements
  deriving DecidableEq, Repr

/-- An accepted copy (11 R244). -/
structure CopyJob where
  id      : Nat
  flock   : Nat
  range   : Nat
  ctx     : BitVec 16
  core    : Nat
  drove   : Nat
  droveId : BitVec 32
  pc      : W64
  lclk    : W64
  d0      : W64
  d1      : W64
  d2      : W64
  d3      : W64
  obj     : W64
  spb     : Nat
  spl     : Nat
  prog    : Nat            -- bytes of a plain copy, or blocks, already written
  parked  : Bool
  orphan  : Bool           -- its flock is terminated: no arrival
  turnAt  : Nat
  deriving DecidableEq, Repr

/-- An arrival that an engine or an abarr makes on an async barrier object (11 R235). -/
structure Arrival where
  id     : Nat
  flock  : Nat
  obj    : Nat
  status : Nat
  lclk   : W64             -- LCLK of the operation that caused it
  req    : Option Nat      -- the abarr or abinit waiting for it
  init   : Option (BitVec 32)  -- an abinit's EXPECT
  turnAt : Nat
  due    : Bool            -- ready to be applied
  deriving DecidableEq, Repr

/-- A launch: its record, and how far it has come (16 R344-R350). -/
structure Range where
  uid      : Nat
  ctx      : BitVec 16
  va       : W64
  entry    : W64
  args     : W64
  nx       : Nat
  ny       : Nat
  nz       : Nat
  wcode    : Nat
  droves   : Nat
  prio     : Nat
  det      : Bool
  pers     : Bool
  matrix   : Bool
  vregs    : Nat
  sregs    : Nat
  tiles    : Nat
  scratch  : Nat
  stack    : Nat
  priv     : Nat
  chutes   : List Nat      -- ring bytes
  flanes   : Nat
  llanes   : Nat
  evq      : W64
  crook    : W64
  stkbase  : W64
  held     : Nat           -- dependence count left
  nextFlock : Nat
  finished : Nat
  ended    : Nat           -- flocks ended by a delivered fault
  retired  : Nat
  order    : Nat
  turnCount : Nat
  deriving DecidableEq, Repr

/-- A launch queue (16 R347, R348). -/
structure LQueue where
  cfg   : W64
  tail  : W64
  stall : Option Nat       -- the park of its stalled entry
  deriving DecidableEq, Repr

/-- A flock saved in a slot (17 R374): its state in structured form beside the bytes written to the slot. -/
structure Saved where
  id      : Nat
  slot    : Nat
  reason  : BitVec 8
  flock   : Flock
  droves  : List Drove
  reqs    : List Req
  passes  : List Pass
  spad    : List Byte
  ready   : Bool
  order   : Nat
  deriving DecidableEq, Repr

/-- The trace stream of a die (19 R416-R418). -/
structure TraceStream where
  bytes   : List Byte      -- emitted, oldest first
  room    : Nat            -- free bytes of the 64 KiB buffer
  clock   : Nat
  current : Option Nat
  sinceSync : Nat
  syncAt  : Nat
  dropped : Nat
  late    : List Drove     -- droves that have left the die with a BR not yet emitted (19 R417)
  deriving DecidableEq, Repr

/-- A compressed image in a die's zone (13 R297). -/
structure ZImage where
  die   : Nat
  dpa   : Nat
  units : Nat
  raw   : List Byte
  ctx   : BitVec 16
  va    : Nat
  deriving DecidableEq, Repr

/-- The memories of the module and the ones it reaches. -/
structure Mems where
  hbm  : Memory            -- by DPA (13 R279)
  spad : Memory            -- by 0x14_0000 * paddock + scratchpad address (13 R295)
  host : Memory            -- by VA[61:0] (13 R278)
  peer : Memory            -- by VA[61:0], the device id in [61:52] (13 R278)
  safe : Memory            -- the safe store (18 R396)
  flash : List Byte        -- the firmware image (18 R399)
  deriving DecidableEq, Repr

/-- Caches, directory and translations. -/
structure Coh where
  l1    : List L1Line
  dir   : List DirEntry
  tlb   : List Tlb
  cores : List CoreSt      -- 0 to 63, then the Shepherd cores 64 + paddock
  refused : List Asker     -- host requests that found a full queue and are sent again (15 R328)
  deriving DecidableEq, Repr

/-- A share on its way to the retired set (14 R322): the VC it leaves, the TOKEN of its command, and its stage: 0 waiting
for event room, 1 fenced, 2 its VC migrates or has migrated away from it. -/
structure Retire where
  share : Nat
  vc    : Nat
  token : W64
  stage : Nat
  deriving DecidableEq, Repr

/-- The pasture (14). -/
structure Pasture where
  cdrs     : List Cdr      -- live records; the commons is id 0
  lines    : List VLine
  retired  : List Nat
  retiring : List Retire
  unhoused : List (BitVec 16 × Nat × Nat)   -- context, page VA and page size (14 R323)
  zimages  : List ZImage
  deriving DecidableEq, Repr

/-- Engines and what they hold (10, 11, 18). -/
structure Engines where
  passes   : List Pass
  tileOps  : List TileOp
  copies   : List CopyJob
  arrivals : List Arrival
  held     : List HeldPacket
  mxmode   : BitVec 16
  mxreq    : BitVec 16
  mxpend   : BitVec 16
  deriving DecidableEq, Repr

/-- Launches, queues, contexts, parked faults and saved flocks (16, 17). -/
structure Sched where
  ranges : List Range
  queues : List LQueue
  ctxs   : List Ctx
  parks  : List Park
  saved  : List Saved
  events : List DevEvent
  deriving DecidableEq, Repr

/-- Privileged system registers that hold a plain value, by number (13 R285, 14 R312, 15 R338, 16 R348, 17 R362,
18 R381, 19 R410). -/
structure Priv where
  regs : List (Nat × W64)  -- canonical: numbers rising
  perDie : List (Nat × W64) -- counters of die d: 8 * d + (0 XFERCNT, 1 CLAIMCNT, 2 SFBACK)
  deriving DecidableEq, Repr

/-- A checkpoint in progress (18 R396-R398): its record's bytes by DPA, its issuer if a drove started it, where it streams,
and the flocks that it swaps out. -/
structure Ckpt where
  restore : Bool
  recAt   : List (Nat × Bool)   -- with whether the page of each byte is non-coherent
  issuer  : Option (BitVec 16 × BitVec 32 × W64)
  store   : Nat
  token   : W64
  began   : Nat
  flocks  : List Nat
  deriving DecidableEq, Repr

/-- What the images of one checkpoint in the safe store mean to the device (18 R397): compressed pages, saved flocks, their
ranges and their parked faults. -/
structure Snapshot where
  store   : Nat
  zimages : List ZImage
  saved   : List Saved
  ranges  : List Range
  parks   : List Park
  deriving DecidableEq, Repr

/-- Host link, fabric, power and observation (18, 19). -/
structure Device where
  bootState : Nat
  bootVer   : BitVec 32
  notify    : W64
  hostInts  : Nat
  ckptdb    : W64
  attestdb  : W64
  ckpt      : Option Ckpt
  snaps     : List Snapshot   -- beside the bytes in the safe store
  aet       : List (Nat × BitVec 32)  -- granule DPAs with the words in error, oldest first (15 R343, 17 R377)
  ports     : BitVec 12
  retrain   : List Nat
  resends   : List (Nat × List Nat)
  profCur   : BitVec 2
  profReq   : BitVec 2
  clockDown : Nat
  lanes     : List (Nat × W64)   -- lane-cycle counts by 4096 * class + 64 * die + bin
  traces    : List TraceStream
  record    : List (Nat × W64)   -- field record, uncommitted counts included
  stored    : List (Nat × W64)   -- field record as committed
  committed : Nat                -- CYCLE of the last commit
  fridx     : BitVec 16
  frdata    : W64            -- what the last read of FRDATA returned
  mgmt      : List MgmtAccess   -- accesses to the management window not yet taken, oldest first; the model's own
  mgmtData  : List Byte      -- what the last of its other reads returned
  packets   : List (Nat × Nat × CollPacket)  -- sent to other devices, newest first: device, PTYPE
  unsent    : List (BitVec 16 × Nat × Nat × CollPacket)  -- held in the ports, oldest first: context, device, PTYPE (18 R380, R383)
  deriving DecidableEq, Repr

/-- The whole module. `dr` is the drove at the issue port and `fl` its flock; the others stand in the lists. -/
structure State where
  dr     : Drove
  fl     : Flock
  droves : List Drove
  flocks : List Flock
  mem    : Mems
  reqs   : List Req        -- oldest first
  coh    : Coh
  vc     : Pasture
  eng    : Engines
  sch    : Sched
  priv   : Priv
  dev    : Device
  cycle  : Nat
  uid    : Nat             -- the next model identity
  fresh  : Nat             -- selects free values; the model's own
  inbox  : List Instr      -- inputs from outside not yet taken; the model's own
  slot   : Option Instr    -- the instruction of the issue slot under way, which a gang's other droves issue too (01 R15); the model's own
  due    : List Nat        -- the droves of its gang that have yet to issue in it; the model's own
  slots  : List (Nat × Nat × Nat)  -- core, sub-core and DROVEID of the slots of this cycle (16 R354); the model's own
  port   : Bool            -- the drove at the issue port goes next: a qhelp pair is indivisible (08 R174); the model's own
  who    : Option Work     -- the work under way; the model's own
  met    : Option Nat      -- a granule that the work under way could not take, being in T or asked for before it: the step is not
                           -- taken, and the work waits in the granule's queue (15 R328; Machine/Step.lean); the model's own
  deriving DecidableEq, Repr

/-- A vector register given by its lanes. -/
def mkLanes (f : Nat → W32) : VReg := ⟨⟨(List.range 64).map f⟩, by simp⟩

/-- Lane `l` of a vector register; lanes from 64 up do not exist and read 0. -/
def lane (x : VReg) (l : Nat) : W32 := if h : l < 64 then x[l] else 0

@[simp] theorem lane_mkLanes (f : Nat → W32) (l : Nat) (h : l < 64) : lane (mkLanes f) l = f l := by
  simp [lane, h, mkLanes]

/-- No trace packet of this drove yet. -/
def TraceSt.start : TraceSt := { mask := none, bits := [], since := 0, last := 0, seen := false, resync := false }

/-- A drove slot that no launch has filled (assumption log 5). MODE is the launch value (01 R38). -/
def Drove.vacant : Drove :=
  { uid := 0, flock := 0, range := 0, idx := 0, ctx := 0, droveId := 0, width := 8, nv := 128, ns := 64, ntiles := 0,
    core := 0, subc := 0, shepherd := false, prio := 0, pc := 0, mode := 0x000E0000, flags := 0, satd := false,
    xoor := false, rwrap := false, gang := false, gangDue := false, gangWith := [], parted := [], waited := false, pers := false, det := false, pres := 0,
    slim := 0, sbase := 0, pbase := 0, spb := 0, spl := 0, losplit := 0, rkey := 0, rctr := 0, lclk := 0, retired := 0, frec := 0,
    tctl := 0, s := Vector.replicate 64 0, v := Vector.replicate 128 (mkLanes fun _ => 0),
    sfull := BitVec.allOnes 64, vfull := BitVec.allOnes 128, popped := [], gen := 0, depth := 0, links := [],
    micro := none, after := none, help := false, helpWord := none, cond := .vacant, since := 0, promoted := false, dog := false, stop := none, stopDue := none,
    haltReq := false, brkSkip := false, turn := false, passive := false, await := none, wakeAt := none, csumPc := none, csumReq := none, status := [],
    trace := .start, crook := 0 }

/-- No flock. -/
def Flock.vacant : Flock :=
  { uid := 0, range := 0, ctx := 0, lin := 0, droves := 0, width := 8, core := 0, prio := 0, tileBase := 0, ntiles := 0,
    spb := 0, spl := 0, tiles := [], tfull := BitVec.allOnes 16, torphan := 0, tgen := 0, tileOwner := [], bars := [],
    wide := none, chutes := [], fifoA := [], fifoB := [], collSeq := [], colls := [], admitted := 0, lastIssue := 0,
    exited := [], isOver := false, shepherd := false, swapDue := none, swapTried := false }

/-- A core with nothing in it (15 R340, R341). -/
def CoreSt.empty : CoreSt :=
  { epoch := 0, asleep := false, missed := false, ticked := 0, window := 0, winuse := 0, cstore := none, slots := [], icache := [],
    regions := [] }

/-- The record of cache `id` after module reset: the commons is live (14 R302), every other free (14 R301). -/
def Cdr.atReset (id : Nat) : Cdr :=
  { id := id, state := if id = 0 then 1 else 0, lsz := 0, ways := if id = 0 then 16 else 1, wpol := 0, repl := 0,
    place := false, rdies := 0, bww := if id = 0 then 16 else 0, ctx := 0, gen := 0, pinq := 0, near := 0, shares := [],
    olsz := 0, oways := 0, oshares := [], pinuse := 0, hits := 0, misses := 0, token := 0, swept := [] }

/-- A launch queue after module reset (16 R348). -/
def LQueue.atReset : LQueue := { cfg := 0, tail := 0, stall := none }

/-- A trace stream after module reset: nothing emitted, the 64 KiB buffer free (19 R418). -/
def TraceStream.atReset : TraceStream :=
  { bytes := [], room := 65536, clock := 0, current := none, sinceSync := 0, syncAt := 0, dropped := 0, late := [] }

/-- The module right after reset, before die 0 has verified its firmware (18 R399): nothing is resident, every
register at the value its rule gives (13 R285, 14 R302, R312, 15 R338, 16 R348, 17 R362, 18 R381, 19 R410). -/
def State.reset : State :=
  { dr := .vacant
    fl := .vacant
    droves := []
    flocks := []
    mem := { hbm := [], spad := [], host := [], peer := [], safe := [], flash := [] }
    reqs := []
    coh := { l1 := [], dir := [], tlb := [], cores := List.replicate 80 .empty, refused := [] }
    vc := { cdrs := (List.range 64).map Cdr.atReset, lines := [], retired := [], retiring := [],
            unhoused := [], zimages := [] }
    eng := { passes := [], tileOps := [], copies := [], arrivals := [], held := [], mxmode := 0, mxreq := 0, mxpend := 0 }
    sch := { ranges := [], queues := List.replicate 64 .atReset, ctxs := [], parks := [], saved := [], events := [] }
    priv := { regs := [(0x92, 0x00010040), (0xA5, 0x00100000), (0xB4, 0x04000000)], perDie := [] }
    dev := { bootState := 0, bootVer := 0, notify := 0, hostInts := 0, ckptdb := 0, attestdb := 0, ckpt := none,
             snaps := [], aet := [], ports := 0, retrain := [], resends := [],
             profCur := 0, profReq := 0, clockDown := 0, lanes := [], traces := List.replicate 4 .atReset, record := [],
             stored := [], committed := 0, fridx := 0, frdata := 0, mgmt := [], mgmtData := [], packets := [], unsent := [] }
    cycle := 0
    uid := 1
    fresh := 0
    inbox := []
    slot := none
    due := []
    slots := []
    port := false
    who := none
    met := none }

end Sys2Proof.Machine
end

