-- ==== Sys2Proof/Machine/Mem.lean ====
section
/-! DEFINITION. Maps as lists in one canonical form, the byte order (00 R6), and the fields of words. -/

namespace Sys2Proof.Machine

/-- The value at key `k`; an unlisted key has the default `d`. -/
def mapGet {α : Type} (d : α) : List (Nat × α) → Nat → α
  | [], _ => d
  | (k, x) :: m, a => if k = a then x else mapGet d m a

/-- The map with value `b` at key `a`: keys stay rising, and the default is not listed. -/
def mapSet {α : Type} [DecidableEq α] (d : α) : List (Nat × α) → Nat → α → List (Nat × α)
  | [], a, b => if b = d then [] else [(a, b)]
  | (k, x) :: m, a, b =>
    if a < k then if b = d then (k, x) :: m else (a, b) :: (k, x) :: m
    else if a = k then if b = d then m else (a, b) :: m
    else (k, x) :: mapSet d m a b

/-- Keys rise strictly from `lo`, and no entry holds the default. -/
def mapWf {α : Type} [DecidableEq α] (d : α) (lo : Nat) : List (Nat × α) → Bool
  | [] => true
  | (k, x) :: m => decide (lo ≤ k) && decide (x ≠ d) && mapWf d (k + 1) m

/-- The canonical form of a memory: what equality of memories rests on. -/
def Memory.wf (m : Memory) : Bool := mapWf 0 0 m

/-- The byte at `a`; a byte that nothing has written reads 0 (assumption log 1). -/
def memByte (m : Memory) (a : Nat) : Byte := mapGet 0 m a

/-- The memory with byte `b` at `a`. -/
def memSet (m : Memory) (a : Nat) (b : Byte) : Memory := mapSet 0 m a b

/-- The `n` bytes from `a` up. -/
def memBytes (m : Memory) (a : Nat) : Nat → List Byte
  | 0 => []
  | n + 1 => memByte m a :: memBytes m (a + 1) n

/-- Writes a list of bytes from `a` up. -/
def memPut (m : Memory) (a : Nat) : List Byte → Memory
  | [] => m
  | b :: bs => memPut (memSet m a b) (a + 1) bs

/-- Bytes as a number, the first least significant (00 R6). -/
def leNat : List Byte → Nat
  | [] => 0
  | b :: bs => b.toNat + 256 * leNat bs

/-- A number as `n` bytes, least significant first (00 R6). -/
def leBytes : Nat → Nat → List Byte
  | 0, _ => []
  | n + 1, x => BitVec.ofNat 8 x :: leBytes n (x / 256)

/-- The `n`-byte little-endian number at `a`. -/
def memRead (m : Memory) (a n : Nat) : Nat := leNat (memBytes m a n)

/-- Writes the `n`-byte little-endian number `x` at `a`. -/
def memWrite (m : Memory) (a n x : Nat) : Memory := memPut m a (leBytes n x)

/-- Bits [hi:lo] of a number. -/
def bits (x hi lo : Nat) : Nat := x / 2 ^ lo % 2 ^ (hi + 1 - lo)

/-- Bit `i` of a number. -/
def bitAt (x i : Nat) : Bool := decide (x / 2 ^ i % 2 = 1)

/-- A truth value as a number. -/
def b2n (b : Bool) : Nat := if b then 1 else 0

/-- The first element that satisfies `p`, with the list without it. -/
def takeFirst {α : Type} (p : α → Bool) : List α → Option (α × List α)
  | [] => none
  | x :: xs => if p x then some (x, xs) else (takeFirst p xs).map fun (y, ys) => (y, x :: ys)

/-- Applies `f` to the elements that satisfy `p`. -/
def mapIf {α : Type} (p : α → Bool) (f : α → α) (xs : List α) : List α := xs.map fun x => if p x then f x else x

/-- Applies `f` to the element at index `i`. -/
def modNth {α : Type} (f : α → α) : List α → Nat → List α
  | [], _ => []
  | x :: xs, 0 => f x :: xs
  | x :: xs, i + 1 => x :: modNth f xs i

/-- Sum of a list. -/
def total (xs : List Nat) : Nat := xs.foldl (· + ·) 0

end Sys2Proof.Machine
end

