-- ==== Sys2Proof/Machine/Home.lean ====
section
/-! DEFINITION. Droves, flocks and contexts by name; the home's view of device memory and the accesses that the device
itself makes to its records there, each whole in one step (15 R328, R333; assumption log 9). -/

namespace Sys2Proof.Machine

/-- A free number, and the state whose next free number is another one (assumption log 2). -/
def draw (s : State) : Nat × State := (Config.free s.fresh, { s with fresh := s.fresh + 1 })

/-- A fresh model identity. -/
def newId (s : State) : Nat × State := (s.uid, { s with uid := s.uid + 1 })

/-- The state with another drove at the issue port. -/
def onDr (s : State) (f : Drove → Drove) : State := { s with dr := f s.dr }

/-- The state with another current flock. -/
def onFl (s : State) (f : Flock → Flock) : State := { s with fl := f s.fl }

/-- Every resident drove, the one at the issue port first. -/
def allDroves (s : State) : List Drove := s.dr :: s.droves

/-- Every resident flock. -/
def allFlocks (s : State) : List Flock := s.fl :: s.flocks

/-- The flocks that are resident and have not finished. -/
def liveFlocks (s : State) : List Flock := (allFlocks s).filter fun f => f.uid != 0 && !f.isOver

/-- The resident drove with identity `u`. -/
def droveOf (s : State) (u : Nat) : Option Drove := (allDroves s).find? fun d => d.uid == u && d.cond != .vacant

/-- The resident flock with identity `u`. -/
def flockOf (s : State) (u : Nat) : Option Flock := (allFlocks s).find? fun f => f.uid == u && f.uid != 0

/-- Changes the drove with identity `u`. -/
def onDrove (s : State) (u : Nat) (f : Drove → Drove) : State :=
  if s.dr.uid = u then onDr s f else { s with droves := mapIf (fun d => d.uid == u) f s.droves }

/-- Changes the flock with identity `u`. -/
def onFlock (s : State) (u : Nat) (f : Flock → Flock) : State :=
  if s.fl.uid = u then onFl s f else { s with flocks := mapIf (fun d => d.uid == u) f s.flocks }

/-- Brings the drove with identity `u`, and its flock, to the issue port. -/
def select (s : State) (u : Nat) : State :=
  if s.dr.uid = u then s
  else
    match takeFirst (fun d => d.uid == u) s.droves with
    | none => s
    | some (d, ds) =>
      let s := { s with dr := d, droves := if s.dr.cond = .vacant then ds else s.dr :: ds }
      if s.fl.uid = d.flock then s
      else
        match takeFirst (fun f => f.uid == d.flock) s.flocks with
        | none => s
        | some (f, fs) => { s with fl := f, flocks := if s.fl.uid = 0 then fs else s.fl :: fs }

/-- The droves of a flock, in drove order. -/
def drovesOf (s : State) (f : Nat) : List Drove :=
  let ds := (allDroves s).filter fun d => d.flock == f && d.cond != .vacant
  (List.range 32).filterMap fun i => ds.find? fun d => d.idx == i

/-- The bindings of context `c` (13 R284, 17 R361). -/
def ctxOf (s : State) (c : BitVec 16) : Option Ctx := s.sch.ctxs.find? fun x => x.id == c

/-- A context that nothing is bound to yet. -/
def Ctx.new (c : BitVec 16) : Ctx :=
  { id := c, csb := none, tcr := none, roots := [0, 0, 0, 0], regt := 0, peert := 0, stopSeq := 0, parkSeq := 0,
    budget := 0, held := false }

/-- Changes the bindings of context `c`. -/
def onCtx (s : State) (c : BitVec 16) (f : Ctx → Ctx) : State :=
  let xs := if (ctxOf s c).isSome then s.sch.ctxs else s.sch.ctxs ++ [Ctx.new c]
  { s with sch := { s.sch with ctxs := mapIf (fun x => x.id == c) f xs } }

/-- The granule that holds a byte address (14 R305). -/
def granOf (a : Nat) : Nat := a / 128 * 128

/-- Byte `i` of a granule image. -/
def gByte (g : Granule) (i : Nat) : Byte := g.extractLsb' (8 * i) 8

/-- A granule image with byte `i` replaced. -/
def gSet (g : Granule) (i : Nat) (b : Byte) : Granule :=
  (g &&& ~~~((0xFF#1024) <<< (8 * i))) ||| ((b.setWidth 1024) <<< (8 * i))

/-- A granule image of 128 bytes. -/
def gOf (bs : List Byte) : Granule := BitVec.ofNat 1024 (leNat bs)

/-- State I: no entry (15 R325). -/
def DirEntry.idle (g : Nat) : DirEntry :=
  { g := g, st := .i, next := .i, base := .i, host := false, rdies := 0, hown := false, owner := 0, sharers := 0, wmask := 0,
    sf := false, way := 0, age := false, msgs := [], cause := none, queue := [], hostDirty := [] }

/-- The entry of a granule; none is state I (15 R325). -/
def dirOf (s : State) (g : Nat) : DirEntry := (s.coh.dir.find? fun e => e.g == g).getD (.idle g)

/-- Writes an entry; one that has returned to I with nothing waiting is dropped (15 R326). -/
def setDir (s : State) (e : DirEntry) : State :=
  let rest := s.coh.dir.filter fun x => x.g != e.g
  { s with coh := { s.coh with dir := if e.st = .i && e.queue.isEmpty then rest else rest ++ [e] } }

/-- The L1 copy of a granule that core `c` owns. -/
def ownedLine (s : State) (c g : Nat) : Option L1Line :=
  s.coh.l1.find? fun l => l.core == c && l.dpa == g && l.owned

/-- Device memory with other bytes. -/
def onHbm (s : State) (f : Memory → Memory) : State := { s with mem := { s.mem with hbm := f s.mem.hbm } }

/-- Writes the dirty bytes of an L1 copy that lie outside the words of `keep` to the home (15 R333). -/
def mergeLine (m : Memory) (l : L1Line) (keep : BitVec 32) : Memory :=
  (List.range 128).foldl (fun m i =>
    if l.dirty.getLsbD i && !keep.getLsbD (i / 4) then memSet m (l.dpa + i) (gByte l.data i) else m) m

/-- Writes listed bytes to the home. -/
def mergeBytes (m : Memory) (bs : List (Nat × Byte)) : Memory := bs.foldl (fun m (a, b) => memSet m a b) m

/-- The home after its owner's dirty words and the host's dirty bytes have been merged (15 R329, R333). -/
def merged (s : State) (g : Nat) : Memory :=
  let e := dirOf s g
  let m := match ownedLine s e.owner g with
    | some l => if (e.st = .o || e.st = .w || e.st = .t) && !e.hown then mergeLine s.mem.hbm l e.wmask else s.mem.hbm
    | none => s.mem.hbm
  mergeBytes m (e.hostDirty.filter fun b => granOf b.1 == g)

/-- The byte a request served at the home now would read: the owner's last value where it is dirty (15 R329). -/
def homeByte (s : State) (a : Nat) : Byte :=
  let e := dirOf s (granOf a)
  if e.st = .i then memByte s.mem.hbm a else memByte (merged s (granOf a)) a

/-- The `n` bytes from `a` up as the home serves them. -/
def homeBytes (s : State) (a : Nat) : Nat → List Byte
  | 0 => []
  | n + 1 => homeByte s a :: homeBytes s (a + 1) n

/-- The little-endian number of `n` bytes at `a` as the home serves it. -/
def homeRead (s : State) (a n : Nat) : Nat := leNat (homeBytes s a n)

/-- The entry has an owner. -/
def hasOwner (e : DirEntry) : Bool := e.st == .o || e.st == .w

/-- Is this the same copy? -/
def sameL1 (a b : L1Line) : Bool := a.core == b.core && a.ctx == b.ctx && a.va == b.va

/-- Changes the copies that satisfy `p`, or drops them. -/
def mapL1 (s : State) (p : L1Line → Bool) (f : L1Line → L1Line) : State :=
  { s with coh := { s.coh with l1 := mapIf p f s.coh.l1 } }
def dropL1 (s : State) (p : L1Line → Bool) : State :=
  { s with coh := { s.coh with l1 := s.coh.l1.filter fun l => !p l } }

/-- The words of a granule that bytes `off` to `off + n - 1` touch. -/
def wordMask (off n : Nat) : BitVec 32 :=
  BitVec.ofNat 32 (total ((List.range 32).map fun w => b2n (decide (off < 4 * w + 4) && decide (4 * w < off + n)) * 2 ^ w))

/-- The bytes of a word mask. -/
def bytesOf (m : BitVec 32) : BitVec 128 :=
  BitVec.ofNat 128 (total ((List.range 32).map fun w => b2n (m.getLsbD w) * (15 * 2 ^ (4 * w))))

/-- Adds one to a per-die counter: 0 XFERCNT, 1 CLAIMCNT, 2 SFBACK (15 R338). -/
def countDie (s : State) (die k : Nat) : State :=
  let n := mapGet 0 s.priv.perDie (8 * die + k) + 1
  { s with priv := { s.priv with perDie := mapSet 0 s.priv.perDie (8 * die + k) n } }

/-- The granules of a line that its valid bits name. -/
def lineGranules (l : VLine) : List Nat :=
  (List.range 4).filterMap fun i => if l.valid.getLsbD i then some (l.dpa + 128 * i) else none

/-- A granule leaves the replica slices of `dies`; a line that holds nothing more leaves too, unless it is pinned (15 R329). -/
def dropReplicas (s : State) (g : Nat) (dies : BitVec 4) : State :=
  let hit (l : VLine) : Bool := dies.getLsbD l.die && (lineGranules l).contains g && s.vc.cdrs.any fun c => c.id == l.vc && c.place
  let cut (l : VLine) : VLine := { l with valid := l.valid &&& ~~~(1#4 <<< ((g - l.dpa) / 128)) }
  let keep (l : VLine) : Bool := !hit l || l.pin || (cut l).valid != 0
  { s with vc := { s.vc with lines := mapIf hit cut (s.vc.lines.filter keep) } }

/-- Home die of a granule. -/
def homeDie (g : Nat) : Nat := g / 2 ^ 37 % 4

/-- Brings a granule to state I: the owner's dirty words are merged, every registered copy is dropped (15 R329, R332). A
request that had caused T goes first in the queue. -/
def recallAll (s : State) (g : Nat) : State :=
  let e := dirOf s g
  if e.st = .i then s
  else
    let s := onHbm s fun _ => merged s g
    let s := dropReplicas (dropL1 s fun l => l.dpa == g && (l.owned || l.reg)) g e.rdies
    let again := (e.cause.filter fun c => match c with | .evict _ => false | _ => true).toList
    setDir s { DirEntry.idle g with queue := again ++ e.queue }

/-- The home cannot take a request of the work under way for this granule at once (15 R328): it is in T, or another waits in
front. -/
def busyGranule (s : State) (g : Nat) : Bool :=
  let e := dirOf s g
  e.st == .t || !(e.queue.isEmpty || e.queue.head? == s.who.map .own)

/-- The step is not taken, for the sake of granule `g` (15 R328). -/
def meetBusy (s : State) (g : Nat) : State := { s with met := some g }

/-- A granule of a group request: every owner is recalled and every registered copy invalidated (15 R336). On a non-coherent
page only the host's copy is (15 R339). -/
def takeGranule (s : State) (g : Nat) (nc : Bool) : State :=
  if busyGranule s g then meetBusy s g
  else if nc && !((dirOf s g).host || (hasOwner (dirOf s g) && (dirOf s g).hown)) then s
  else recallAll s g

/-- The owner's words of `m` return to the home, which holds them from now on (15 R329). -/
def claimNow (s : State) (e : DirEntry) (m : BitVec 32) : State :=
  let s := countDie s (homeDie e.g) 1
  let there (b : Nat × Byte) : Bool := m.getLsbD (b.1 % 128 / 4)
  let s :=
    if e.hown then onHbm s fun x => mergeBytes x (e.hostDirty.filter there)
    else
      match ownedLine s e.owner e.g with
      | some l => mapL1 (onHbm s fun x => mergeLine x { l with dirty := l.dirty &&& bytesOf m } e.wmask) (sameL1 l) fun x =>
          { x with valid := x.valid &&& ~~~m, dirty := x.dirty &&& ~~~(bytesOf m) }
      | none => s
  setDir s { e with st := .w, wmask := e.wmask ||| m, hostDirty := e.hostDirty.filter fun b => !there b }

/-- A write-through store of words `m` of a granule by the device itself is taken (15 R330, R334): an owner loses the words, and
registered copies go, all but the replica of the writer's die, which is updated; one made for no core is the home's own. It meets a busy granule:
the step is not taken. On a non-coherent page only the host's copy counts (15 R339). -/
def takeWrite (s : State) (g : Nat) (m : BitVec 32) (nc : Bool) (die : Option Nat := none) : State :=
  let e := dirOf s g
  if e.st = .i && e.queue.isEmpty then s
  else if busyGranule s g then meetBusy s g
  else if nc then
    (if hasOwner e && e.hown then recallAll s g
      else if e.host then setDir s { e with host := false, st := if e.st = .s && e.sharers = 0 && e.rdies = 0 then .i else e.st } else s)
  else if hasOwner e then (if m &&& ~~~e.wmask = 0 then s else claimNow s e (m &&& ~~~e.wmask))
  else
    let own : BitVec 4 := 1#4 <<< die.getD (homeDie g)
    let s := dropReplicas (dropL1 s fun l => l.dpa == g && l.reg) g (e.rdies &&& ~~~own)
    let r := e.rdies &&& own
    setDir s { e with st := if r = 0 then .i else .s, sharers := 0, host := false, rdies := r }

/-- The words of granule `g` that hold one of the listed bytes. -/
def wordsIn (g : Nat) (ds : List (Nat × Bool)) : BitVec 32 :=
  ds.foldl (fun m d => if granOf d.1 = g then m ||| wordMask (d.1 % 128) 1 else m) 0

/-- Writes bytes at listed DPAs at their homes, one request for each granule; the DPAs say whether their page is outside the
directory (15 R339), and `die` is that of the core they are written for. -/
def putAt (s : State) (ds : List (Nat × Bool)) (bs : List Byte) (die : Option Nat := none) : State :=
  let gs := (ds.map fun d => granOf d.1).eraseDups
  let s := gs.foldl (fun s g => takeWrite s g (wordsIn g ds) (ds.any fun d => granOf d.1 == g && d.2) die) s
  onHbm s fun m => mergeBytes m ((ds.zip bs).map fun x => (x.1.1, x.2))

/-- Host bytes at the notify slots set NOTIFY bits; the others are memory (18 R394). -/
def hostPut (s : State) (p : Nat) (bs : List Byte) : State :=
  bs.zipIdx.foldl (fun s (b, i) =>
    if 0x3FFFFFFFFFFFFF00 ≤ p + i then
      { s with dev := { s.dev with notify := s.dev.notify ||| (1#64 <<< ((p + i - 0x3FFFFFFFFFFFFF00) / 8)), hostInts := s.dev.hostInts + 1 } }
    else { s with mem := { s.mem with host := memSet s.mem.host (p + i) b } }) s

/-- Where a byte of the device's own records lies: a DPA, or the address of a byte of the host's or a peer's memory, which has
route bits (13 R278). -/
def placeFar (a : Nat) : Bool := decide (2 ^ 62 ≤ a)
def placeByte (s : State) (a : Nat) : Byte :=
  if !placeFar a then homeByte s a else if a < 2 ^ 63 then memByte s.mem.peer (a % 2 ^ 62) else memByte s.mem.host (a % 2 ^ 62)

/-- Writes a byte of the host's or a peer's memory. -/
def farPut (s : State) (a : Nat) (b : Byte) : State :=
  if a < 2 ^ 63 then { s with mem := { s.mem with peer := memSet s.mem.peer (a % 2 ^ 62) b } } else hostPut s (a % 2 ^ 62) [b]

/-- Writes bytes at their places. -/
def putPlaces (s : State) (ds : List (Nat × Bool)) (bs : List Byte) (die : Option Nat := none) : State :=
  let xs := ds.zip bs
  let near := xs.filter fun x => !placeFar x.1.1
  (xs.filter fun x => placeFar x.1.1).foldl (fun s x => farPut s x.1.1 x.2) (putAt s (near.map (·.1)) (near.map (·.2)) die)

/-- Writes bytes from `a` up at their homes. -/
def homePut (s : State) (a : Nat) (bs : List Byte) : State :=
  putAt s ((List.range bs.length).map fun i => (a + i, false)) bs

/-- Writes the `n`-byte number `x` at `a` at its home. -/
def homeWrite (s : State) (a n x : Nat) : State := homePut s a (leBytes n x)

/-- A field of the CSB bound to context `c` (17 R361); 0 where none is bound. -/
def csbField (s : State) (c : BitVec 16) (off n : Nat) : Nat :=
  match (ctxOf s c).bind (·.csb) with
  | some a => homeRead s (a + off) n
  | none => 0

/-- Writes a field of the CSB bound to context `c`. -/
def setCsbField (s : State) (c : BitVec 16) (off n x : Nat) : State :=
  match (ctxOf s c).bind (·.csb) with
  | some a => homeWrite s (a + off) n x
  | none => s

/-- Counts one in a saturating 32-bit field of the CSB (17 R361). -/
def countCsb (s : State) (c : BitVec 16) (off : Nat) : State :=
  setCsbField s c off 4 (min (csbField s c off 4 + 1) (2 ^ 32 - 1))

/-- The drove at the issue port runs in privileged mode: PRIV of its context's CSB (17 R361). -/
def privileged (s : State) : Bool := csbField s s.dr.ctx 0 4 % 2 == 1

/-- A privileged register that holds a plain value. -/
def privReg (s : State) (n : Nat) : W64 := mapGet 0 s.priv.regs n

/-- Writes a privileged register that holds a plain value. -/
def setPriv (s : State) (n : Nat) (x : W64) : State := { s with priv := { s.priv with regs := mapSet 0 s.priv.regs n x } }

/-- Adds one to field `lo`, `w` bits wide and saturating, of field-record entry `i` (19 R420). -/
def countRecord (s : State) (i lo w : Nat) : State :=
  let x := (mapGet (0 : W64) s.dev.record i).toNat
  let y := if bits x (lo + w - 1) lo + 1 < 2 ^ w then x + 2 ^ lo else x
  { s with dev := { s.dev with record := mapSet 0 s.dev.record i (BitVec.ofNat 64 y) } }

/-- Holds a record for posting (11 R441). -/
def queueEvent (s : State) (e : DevEvent) : State := { s with sch := { s.sch with events := s.sch.events ++ [e] } }

/-- Holds a record for the context's fault event queue (17 R442); FEVQ 0 is none. -/
def postFevq (s : State) (c : BitVec 16) (typ : BitVec 16) (id : BitVec 32) (pc pay : W64) (stamp : Option W64) :
    State :=
  let q := csbField s c 0x10 8
  if q = 0 then s
  else queueEvent s { ctx := c, va := BitVec.ofNat 64 q, vcq := false, typ := typ, f1 := c, id := id, pc := pc, pay := pay,
                      stamp := stamp }

/-- Changes core `c`. -/
def onCore (s : State) (c : Nat) (f : CoreSt → CoreSt) : State :=
  { s with coh := { s.coh with cores := modNth f s.coh.cores c } }

/-- Core `c`. -/
def coreOf (s : State) (c : Nat) : CoreSt := s.coh.cores.getD c .empty

/-- The paddock of a core, Shepherd cores included (00 R2). -/
def padOf (c : Nat) : Nat := if c < 64 then c / 4 else c - 64

/-- The die of a core, Shepherd cores included (00 R2). -/
def dieOfCore (c : Nat) : Nat := padOf c / 4

/-- Base of paddock `p` in the scratchpad memory. -/
def spadBase (p : Nat) : Nat := p * 0x140000

/-- The aligned words that differ between two memories, with what the first holds there. -/
def wordsReplaced (m m' : Memory) : List (Nat × W32) :=
  (((m ++ m').map fun x => x.1 / 4 * 4).eraseDups.filter fun a => memRead m a 4 != memRead m' a 4).map fun a =>
    (a, BitVec.ofNat 32 (memRead m a 4))

/-- Scratchpad memory with other bytes. A pass that has issued and not completed may still read a word's old value
(10 R212). -/
def onSpad (s : State) (f : Memory → Memory) : State :=
  let m := f s.mem.spad
  let old := if s.eng.passes.isEmpty then [] else wordsReplaced s.mem.spad m
  { s with mem := { s.mem with spad := m }
           eng := { s.eng with passes := s.eng.passes.map fun p => { p with seen := p.seen ++ old } } }

end Sys2Proof.Machine
end

