-- ==== Sys2Proof/Machine/Translate.lean ====
section
/-! DEFINITION. Routes, the page walk, the checks at the owning die and the region table (13 R278-R290). -/

namespace Sys2Proof.Machine

/-- Bits [63:62] of an address: 0 device, 1 peer, 2 host, 3 reserved (13 R278). -/
def routeOf (va : Nat) : Nat := bits va 63 62

/-- The first address of the scratchpad aperture (09 R181). -/
def apertureBase : Nat := 0x0FFFFFFFFFEC0000

/-- The address lies in the scratchpad aperture (09 R181). -/
def inAperture (va : Nat) : Bool := decide (apertureBase ≤ va) && decide (va ≤ 0x0FFFFFFFFFFFFFFF)

/-- The module's device id on the fabric (18 R381). -/
def fabid (s : State) : Nat := bits (privReg s 0xD0).toNat 9 0

/-- The device-route address that a peer address naming this module stands for (13 R278). -/
def localOf (s : State) (va : Nat) : Nat :=
  if routeOf va = 1 ∧ bits va 61 52 = fabid s then bits va 51 50 * 2 ^ 60 + bits va 49 0 else va

/-- The access is to another device (13 R278). -/
def isPeer (s : State) (va : Nat) : Bool := routeOf va == 1 && routeOf (localOf s va) == 1

/-- A page-table leaf: its attribute word, the DPA of the byte translated, the page size and the entry's DPA. -/
structure Leaf where
  attr  : W64
  dpa   : Nat
  size  : Nat
  entry : Nat
  deriving DecidableEq, Repr

/-- The outcome of a translation: a leaf, or a cause. -/
inductive Walk where
  | leaf (l : Leaf)
  | fail (cause : BitVec 8) (malformed : Bool)
  deriving DecidableEq, Repr

/-- Page size of a size code, and whether the code is allowed at a level (13 R280). -/
def pageSize (sz : Nat) : Nat := 2 ^ ([12, 16, 21, 25, 30, 34].getD sz 12)

def sizeAllowed (level sz : Nat) : Bool :=
  match level with
  | 3 => sz == 4 || sz == 5
  | 4 => sz == 2 || sz == 3
  | 5 => sz == 0 || sz == 1
  | _ => false

/-- An error entry covers one of `n` bytes from a physical address up (15 R343, 17 R377). -/
def aetMeets (s : State) (dpa n : Nat) : Bool :=
  s.dev.aet.any fun x => x.1 == granOf dpa && x.2 &&& wordMask (dpa % 128) n != 0

/-- An error entry covers this physical address. -/
def inAet (s : State) (dpa : Nat) : Bool := aetMeets s dpa 1

/-- Walks the tables from `table`, the DPA of a page of level `5 - fuel + 1`, as 13 R281 writes it. -/
def walkFrom (s : State) (die va : Nat) : Nat → Nat → Walk
  | 0, _ => .fail 0x10 true
  | fuel + 1, table =>
    let level := 5 - fuel
    let a := table + 16 * bits va (59 - 8 * level) (52 - 8 * level)
    if aetMeets s a 16 then .fail 0x17 false
    else
      let w0 := homeRead s a 8
      let w1 := homeRead s (a + 8) 8
      let frame := bits w1 36 12 * 4096
      if !bitAt w0 0 then .fail 0x10 false
      else if bitAt w0 7 then
        let sz := bits w0 10 8
        if !sizeAllowed level sz then .fail 0x10 true
        else .leaf { attr := BitVec.ofNat 64 w0, dpa := die * 2 ^ 37 + (frame + va % pageSize sz) % 2 ^ 37,
                     size := pageSize sz, entry := a }
      else walkFrom s die va fuel (die * 2 ^ 37 + frame)

/-- The walk of context `c` for a device-route address (13 R281). -/
def walk (s : State) (c : BitVec 16) (va : Nat) : Walk :=
  let die := bits va 61 60
  match ctxOf s c with
  | none => .fail 0x10 false
  | some x =>
    let root := x.roots.getD die 0
    if root = 0 then .fail 0x10 false else walkFrom s die va 6 root

/-- A cached translation of the address (13 R289). -/
def tlbOf (s : State) (c : BitVec 16) (va : Nat) : Option Tlb :=
  s.coh.tlb.find? fun t => t.ctx == c && t.va ≤ va && va < t.va + t.size

/-- A translation enters its die's cache of 32,768 (13 R289); from a full one another leaves, by a free choice. -/
def cacheTlb (s : State) (t : Tlb) : State :=
  let mine := s.coh.tlb.filter fun x => x.die == t.die
  if mine.length < 32768 then { s with coh := { s.coh with tlb := s.coh.tlb ++ [t] } }
  else
    let (k, s) := draw s
    let out := mine[k % mine.length]?
    { s with coh := { s.coh with tlb := s.coh.tlb.filter (fun x => some x != out) ++ [t] } }

/-- Translates, setting the accessed bit of a leaf that lacks it and caching the translation (13 R281, R289). Walk
errors are counted (19 R420). -/
def translate (s : State) (c : BitVec 16) (va : Nat) : Walk × State :=
  match tlbOf s c va with
  | some t => (.leaf { attr := t.attr, dpa := t.pa + (va - t.va), size := t.size, entry := 0 }, s)
  | none =>
    match walk s c va with
    | .fail cause bad => (.fail cause bad, if bad then countRecord s (0x1A50 + bits va 61 60) 0 64 else s)
    | .leaf l =>
      let s := if bitAt l.attr.toNat 11 then s else homeWrite s l.entry 8 (l.attr.toNat + 2 ^ 11)
      let attr := l.attr ||| 0x800
      let base := va / l.size * l.size
      let t : Tlb := { die := bits va 61 60, ctx := c, va := base, size := l.size, attr := attr, pa := l.dpa - (va - base) }
      if bitAt l.attr.toNat 1 then (.leaf { l with attr := attr }, s)
      else (.leaf { l with attr := attr }, cacheTlb s t)

/-- Fields of a leaf's attribute word (13 R282). -/
def leafC (a : W64) : Bool := a.getLsbD 1
def leafRd (a : W64) : Bool := a.getLsbD 2
def leafWr (a : W64) : Bool := a.getLsbD 3
def leafEx (a : W64) : Bool := a.getLsbD 4
def leafNc (a : W64) : Bool := a.getLsbD 5
def leafSh (a : W64) : Bool := a.getLsbD 6
def leafEf (a : W64) : Nat := bits a.toNat 15 12
def leafGeo (a : W64) : Nat := bits a.toNat 19 16
def leafHome (a : W64) : Nat := bits a.toNat 21 20
def leafVc (a : W64) : Nat := bits a.toNat 27 22
def leafCore (a : W64) : Nat := bits a.toNat 33 28

/-- What an access asks of its page (13 R283). -/
inductive Ask where
  | read | write | atomic | catomHigh | fetch
  deriving DecidableEq, Repr

/-- The cache definition record of an id. -/
def cdrOf (s : State) (vc : Nat) : Option Cdr := s.vc.cdrs.find? fun c => c.id == vc

/-- A virtual cache is in service: every state but free (14 R320). -/
def vcLive (s : State) (vc : Nat) : Bool :=
  match cdrOf s vc with
  | some c => c.state != 0
  | none => false

/-- The page of the address has been marked unhoused (14 R323). -/
def isUnhoused (s : State) (c : BitVec 16) (va : Nat) : Bool :=
  s.vc.unhoused.any fun u => u.1 == c && u.2.1 ≤ va && va < u.2.1 + u.2.2

/-- The checks of 13 R283 after the walk, in their order; the first failing one gives the cause. `plain` says whether
the access may touch a page with a block format (09 R184, R186, R190), whose blocks the format unit looks up in the error table. -/
def leafCause (s : State) (c : BitVec 16) (va : Nat) (ask : Ask) (plain : Bool) (l : Leaf) : Option (BitVec 8) :=
  let a := l.attr
  let ef := leafEf a
  let bad := match ask with
    | .read => !leafRd a
    | .write => !leafWr a
    | .atomic => !(leafRd a && leafWr a)
    | .catomHigh => !(leafRd a && leafWr a && leafSh a)
    | .fetch => !leafEx a || ef != 0
  let at' := ask == .atomic || ask == .catomHigh
  if leafC a then some 0x12
  else if bad then some 0x11
  else if at' && (leafNc a || leafHome a == 3) then some 0x18
  else if decide (leafHome a < 2) && !vcLive s (leafVc a) then some 0x15
  else if ef != 0 && (at' || !plain) then some 0x13
  else if isUnhoused s c va then some 0x16
  else if ef == 0 && inAet s l.dpa then some 0x17
  else none

/-- The owning die's answer for an access (13 R283): the leaf, or the first cause. `bx` says the access may touch a
block-format page. -/
def dieAccess (s : State) (c : BitVec 16) (va : Nat) (ask : Ask) (bx : Bool) : (Leaf ⊕ BitVec 8) × State :=
  match translate s c va with
  | (.fail cause _, s) => (.inr cause, s)
  | (.leaf l, s) =>
    match leafCause s c va ask bx l with
    | some cause => (.inr cause, s)
    | none => (.inl l, s)

/-- DPA of the compressed image that the leaf entry at `entry` names: FRAME and ZLO (13 R282). -/
def imageDpa (s : State) (die entry : Nat) : Nat := die * 2 ^ 37 + bits (homeRead s (entry + 8) 8) 36 9 * 512

/-- A compressed image whose stored coding fails its check (13 R297). -/
def imageBad (s : State) (z : ZImage) : Bool := Config.imageCheckFails z.dpa || inAet s z.dpa

/-- Records a compressed-zone error of a die in CZERR (13 R285, R297). -/
def zoneError (s : State) (die : Nat) : State := setPriv s 0x82 (privReg s 0x82 ||| (1 <<< die))

/-- Takes the frame at HEAD of a die's frame pool (13 R297): its DPA, none when the pool is empty or not set. A pool or
ring from 2^39 on reads 0 where nothing was written (assumption log 20). -/
def takeFrame (s : State) (die : Nat) : Option Nat × State :=
  let h := (privReg s (0x88 + die)).toNat
  let ring := homeRead s h 8
  let n := homeRead s (h + 8) 4
  let head := homeRead s (h + 16) 8
  if h = 0 ∨ n = 0 ∨ head = homeRead s (h + 24) 8 then (none, s)
  else (some (die * 2 ^ 37 + homeRead s (ring + 8 * (head % n)) 8 % 2 ^ 37), homeWrite s (h + 16) 8 (head + 1))

/-- EXPANSION of the compressed page whose leaf entry is at `entry` (13 R298): a frame is taken, the image expanded into
it and freed, and every leaf of the page rewritten with C = 0. An empty pool or a damaged image is reported in CZERR and
answers cause 0x10. -/
def expandAt (s : State) (die entry : Nat) : Option (BitVec 8) × State :=
  match s.vc.zimages.find? fun z => z.dpa == imageDpa s die entry with
  | none => (some 0x10, zoneError s die)
  | some z =>
    if imageBad s z then (some 0x10, zoneError s die)
    else
      match takeFrame s die with
      | (none, s) => (some 0x10, zoneError s die)
      | (some f, s) =>
        let s := homePut s f z.raw
        let s := { s with vc := { s.vc with zimages := s.vc.zimages.filter fun x => x.dpa != z.dpa } }
        (none, (List.range 16).foldl (fun s i =>
          let a := entry / 256 * 256 + 16 * i
          homeWrite (homeWrite s a 8 (homeRead s a 8 / 4 * 4 + homeRead s a 8 % 2)) (a + 8) 8 (f % 2 ^ 37 / 4096 * 4096)) s)

/-- Brings the page of a VA into service for an access of the device's own: the accessed bit is set (13 R281), and a walk that
reaches C = 1 is recorded, and the page expanded (13 R298). -/
def openPage (s : State) (c : BitVec 16) (va : Nat) : State :=
  match translate s c va with
  | (.fail _ _, s) => s
  | (.leaf l, s) => if leafC l.attr then (expandAt (countRecord s 0x1A12 0 64) (bits va 61 60) l.entry).2 else s

/-- Entry `i` of a context's peer binding table (18 R382). -/
def peerEntry (s : State) (c : BitVec 16) (i : Nat) : Nat :=
  match ctxOf s c with
  | some x => if x.peert = 0 then 0 else homeRead s (x.peert + 8 * i) 8
  | none => 0

/-- What stops an access to device `i` on this side: no valid entry, or no trained port in its set (18 R382, R383). -/
def peerLocal (s : State) (c : BitVec 16) (i : Nat) : Option (BitVec 8) :=
  let e := peerEntry s c i
  if !bitAt e 63 then some 0x11
  else if BitVec.ofNat 12 e &&& s.dev.ports = 0 then some 0x10
  else none

/-- Cause 0x10 here is the want of a trained port, and not the answer of the peer (18 R383). -/
def wantsPort (s : State) (c : BitVec 16) (cause : BitVec 8) (va : Nat) : Bool :=
  cause == 0x10 && isPeer s va && peerLocal s c (bits va 61 52) == some 0x10

/-- The answers that another device may give to an access: it serves it, or its binding or its page refuses it (18 R382). -/
def peerAnswers : List (BitVec 8) := [0, 0x10, 0x11, 0x13, 0x15, 0x17, 0x18]

/-- What stops an access of the device's own to peer `i`: this side, or the peer, by a free choice (18 R382; assumption
log 2). -/
def peerCause (s : State) (c : BitVec 16) (i : Nat) : Option (BitVec 8) :=
  match peerLocal s c i with
  | some cause => some cause
  | none =>
    let x := (peerAnswers.take 6).getD (Config.peerAnswer s.fresh % 6) 0
    if x = 0 then none else some x

/-- Opens every page of `n` bytes at `va`; an access to a peer meets an answer of its own. -/
def openPages (s : State) (c : BitVec 16) (va n : Nat) : State :=
  let va := localOf s va
  if routeOf va = 1 then (draw s).2
  else if routeOf va ≠ 0 ∨ inAperture va ∨ n = 0 then s
  else (List.range ((va % 4096 + n - 1) / 4096 + 1)).foldl (fun s i => openPage s c ((va / 4096 + i) * 4096)) s

/-- The place of the byte at `va` that the device itself reads (`.read`) or writes (`.write`), with whether its page is outside the
directory (15 R339), or the cause that it meets. The address is routed as any other (13 R278). -/
def devicePlace (s : State) (c : BitVec 16) (va : Nat) (ask : Ask) : (Nat × Bool) ⊕ BitVec 8 :=
  let a := localOf s va
  match routeOf a with
  | 0 =>
    if inAperture a then .inr 0x10
    else
      match (dieAccess s c a ask false).1 with
      | .inr cause => .inr cause
      | .inl l => .inl (l.dpa, leafNc l.attr || leafHome l.attr == 3)
  | 1 => match peerCause s c (bits a 61 52) with
    | some cause => .inr cause
    | none => .inl (a, true)
  | 2 => .inl (a, true)
  | _ => .inr 0x14

/-- The same, where a page that is still compressed could not be expanded, which is cause 0x10 (13 R297). -/
def deviceDpa (s : State) (c : BitVec 16) (va : Nat) (ask : Ask) : (Nat × Bool) ⊕ BitVec 8 :=
  match devicePlace s c va ask with
  | .inr cause => .inr (if cause = 0x12 then 0x10 else cause)
  | r => r

/-- The places of `n` bytes from `va` up, or the first cause. -/
def deviceDpas (s : State) (c : BitVec 16) (va : Nat) (ask : Ask) : Nat → (List (Nat × Bool) ⊕ BitVec 8)
  | 0 => .inl []
  | n + 1 =>
    match deviceDpa s c va ask with
    | .inr cause => .inr cause
    | .inl d =>
      match deviceDpas s c (va + 1) ask n with
      | .inl ds => .inl (d :: ds)
      | .inr cause => .inr cause

/-- The cause that the first of `n` bytes from `va` up meets as the device reads them, with its address, if one meets any. -/
def firstStop (s : State) (c : BitVec 16) (va : Nat) : Nat → Option (BitVec 8 × Nat)
  | 0 => none
  | n + 1 =>
    match devicePlace s c va .read with
    | .inr cause => some (cause, va)
    | .inl _ => firstStop s c (va + 1) n

/-- Reads `n` bytes at a VA under context `c`, or answers a cause; the pages have been opened. -/
def vaBytes (s : State) (c : BitVec 16) (va n : Nat) : List Byte ⊕ BitVec 8 :=
  match deviceDpas s c va .read n with
  | .inl ds => .inl (ds.map fun d => placeByte s d.1)
  | .inr cause => .inr cause

/-- The domain of a VA in a loaded region table: that of its lowest valid entry, else package (13 R290). -/
def domainIn : List (Nat × Nat × Nat) → Nat → Nat
  | [], _ => 4
  | (b, l, d) :: rs, page => if b ≤ page ∧ page < l then d else domainIn rs page

/-- The valid entries of the region table at DPA `a` (13 R290): base page, limit page, domain. A table from 2^39 on reads 0
(assumption log 20). -/
def readRegions (s : State) (a : Nat) : List (Nat × Nat × Nat) :=
  (List.range 64).filterMap fun i =>
    let w0 := homeRead s (a + 16 * i) 8
    let w1 := homeRead s (a + 16 * i + 8) 8
    let dom := bits w1 2 0
    if bitAt w1 3 && decide (dom < 6) then some (bits w0 63 12, bits w1 63 12, dom) else none

/-- The region table of a context; one that no TCR is bound to has none (13 R284). -/
def tableOf (s : State) (c : BitVec 16) : List (Nat × Nat × Nat) :=
  match ctxOf s c with
  | some x => if x.tcr.isSome then readRegions s x.regt else []
  | none => []

/-- The region table that core `k` has loaded for context `c`; a core that has loaded none reads it now. -/
def regionsOf (s : State) (k : Nat) (c : BitVec 16) : List (Nat × Nat × Nat) :=
  match (coreOf s k).regions.find? fun r => r.1 == c with
  | some r => r.2
  | none => tableOf s c

/-- The domain that the issuing core gives an address (13 R290, 09 R187). -/
def domainOf (s : State) (va : Nat) : Nat := domainIn (regionsOf s s.dr.core s.dr.ctx) (va / 4096)

end Sys2Proof.Machine
end

