-- ==== Sys2Proof/Machine/Pasture.lean ====
section
/-! DEFINITION. Virtual caches: shares, geometry, finding and placing lines (14 R299-R310, R317). A line here holds
tags and state bits only; the bytes stand once, in device memory. -/

namespace Sys2Proof.Machine

/-- A slice's geometry: line bytes, ways, and shares on the die (14 R300). -/
structure Geo where
  lsz    : Nat
  ways   : Nat
  shares : Nat
  deriving DecidableEq, Repr

/-- Shares that a VC from 1 to 63 owns, old and new (14 R299). -/
def owned (s : State) : List Nat := s.vc.cdrs.flatMap fun c => c.shares ++ c.oshares

/-- Shares that the commons does not hold: those of another VC and the retired set (14 R299). -/
def awayShares (s : State) : List Nat := owned s ++ s.vc.retired

/-- Shares of the commons on a die, lowest first (14 R299). -/
def commonsShares (s : State) (die : Nat) : List Nat :=
  let out := awayShares s
  ((List.range 1536).map (1536 * die + ·)).filter fun i => !out.contains i

/-- The shares of a VC's current geometry, or of its old one, on a die. -/
def sharesOn (s : State) (c : Cdr) (old : Bool) (die : Nat) : List Nat :=
  if c.id = 0 then commonsShares s die
  else (if old then c.oshares else c.shares).filter fun i => i / 1536 == die

/-- How many shares that is. -/
def shareCount (s : State) (c : Cdr) (old : Bool) (die : Nat) : Nat :=
  if c.id = 0 then 1536 - ((awayShares s).eraseDups.filter fun i => i / 1536 == die).length
  else (sharesOn s c old die).length

/-- Line bytes of a size code (14 R301). -/
def lineBytes (code : Nat) : Nat := 128 * 2 ^ code

/-- The geometry of a slice. -/
def geoOf (s : State) (c : Cdr) (old : Bool) (die : Nat) : Geo :=
  { lsz := lineBytes (if old then c.olsz else c.lsz), ways := if old then c.oways else c.ways,
    shares := shareCount s c old die }

/-- Sets of one share, and of the slice (14 R300). -/
def Geo.perShare (g : Geo) : Nat := 2 ^ 20 / (g.lsz * g.ways)
def Geo.sets (g : Geo) : Nat := g.shares * g.perShare

/-- The hash of a line number (14 R304). -/
def setHash (x : Nat) : Nat := x ^^^ (x / 2 ^ 13) ^^^ (x / 2 ^ 26)

/-- The set of a line (14 R304). -/
def Geo.set (g : Geo) (dpa : Nat) : Nat := setHash (dpa / g.lsz) % g.sets

/-- The share that holds a set, counted among the slice's shares (14 R300). -/
def shareOfSet (s : State) (c : Cdr) (old : Bool) (die set : Nat) : Nat :=
  (sharesOn s c old die).getD (set / (geoOf s c old die).perShare) 0

/-- The migration of a VC has an old geometry (14 R317). -/
def migrating (c : Cdr) : Bool := c.state == 2

/-- A line of a geometry by its tag, the context and VA (14 R304, 13 R289). -/
def findVLine (s : State) (vc : Nat) (old : Bool) (die : Nat) (ctx : BitVec 16) (va : Nat) : Option VLine :=
  s.vc.lines.find? fun l => l.vc == vc && l.old == old && l.die == die && l.ctx == ctx && l.va == va

/-- Is this the same line? -/
def sameVLine (a b : VLine) : Bool :=
  a.vc == b.vc && a.old == b.old && a.die == b.die && a.set == b.set && a.way == b.way

/-- Writes back a changed line, or forgets it. -/
def setVLine (s : State) (l : VLine) : State :=
  { s with vc := { s.vc with lines := s.vc.lines.map fun x => if sameVLine x l then l else x } }
def dropVLine (s : State) (l : VLine) : State :=
  { s with vc := { s.vc with lines := s.vc.lines.filter fun x => !sameVLine x l } }

/-- Changes the record of a VC. -/
def onCdr (s : State) (vc : Nat) (f : Cdr → Cdr) : State :=
  { s with vc := { s.vc with cdrs := mapIf (fun c => c.id == vc) f s.vc.cdrs } }

/-- A replica line leaves its slice: the home clears the slice's RDIES bit for its granules (14 R308, 15 R332). -/
def reportLeave (s : State) (l : VLine) : State :=
  if ((cdrOf s l.vc).map (·.place)) = some true then
    (lineGranules l).foldl (fun s g =>
      let e := dirOf s g
      let r := e.rdies &&& ~~~(1#4 <<< l.die)
      if e.rdies = r then s
      else
        let now (x : DirSt) : DirSt := if x = .s && r = 0 && e.sharers = 0 && !e.host then .i else x
        setDir s { e with rdies := r, st := now e.st, base := now e.base }) s
  else s

/-- A line leaves the pasture; its dirty granules are in memory (14 R306). -/
def leaveVLine (s : State) (l : VLine) : State := dropVLine (reportLeave s l) l

/-- Lines of a set. -/
def setLines (s : State) (vc : Nat) (old : Bool) (die set : Nat) : List VLine :=
  s.vc.lines.filter fun l => l.vc == vc && l.old == old && l.die == die && l.set == set

/-- The lowest way that no line holds. -/
def emptyWay (ls : List VLine) (ways : Nat) : Option Nat :=
  (List.range ways).find? fun w => !ls.any fun l => l.way == w

/-- The unpinned line of the lowest way, of those that satisfy `p`. -/
def lowestWay (ls : List VLine) (p : VLine → Bool) : Option VLine :=
  (ls.filter fun l => !l.pin && p l).foldl (fun o l =>
    match o with
    | some x => if l.way < x.way then some l else some x
    | none => some l) none

/-- The share takes no new fill (14 R322). -/
def isFenced (s : State) (share : Nat) : Bool := s.vc.retiring.any fun r => r.share == share && r.stage != 0

/-- Makes room in a set and answers the way (14 R306): an empty one, else that of the lowest unpinned line whose age bit
is 0, else every age bit of the set is cleared and the lowest goes. None when every way is pinned. -/
def makeWay (s : State) (c : Cdr) (old : Bool) (die set : Nat) : Option Nat × State :=
  let g := geoOf s c old die
  let ls := setLines s c.id old die set
  match emptyWay ls g.ways with
  | some w => (some w, s)
  | none =>
    match lowestWay ls fun l => !l.age with
    | some l => (some l.way, leaveVLine s l)
    | none =>
      match lowestWay ls fun _ => true with
      | some l =>
        let s := leaveVLine s l
        (some l.way, { s with vc := { s.vc with lines := s.vc.lines.map fun x =>
          if x.vc = c.id && x.old = old && x.die = die && x.set = set && !x.pin then { x with age := false } else x } })
      | none => (none, s)

/-- Room for a fill in a set of the current geometry: none in a fenced share (14 R322) or where the slice has no share. -/
def fillWay (s : State) (c : Cdr) (die set : Nat) : Option Nat × State :=
  if (geoOf s c false die).sets = 0 ∨ (!s.vc.retiring.isEmpty && isFenced s (shareOfSet s c false die set)) = true then (none, s)
  else makeWay s c false die set

/-- Adds a line that has its way. -/
def addVLine (s : State) (l : VLine) : State := { s with vc := { s.vc with lines := s.vc.lines ++ [l] } }

/-- The line base of a VA in a geometry. -/
def lineBase (g : Geo) (a : Nat) : Nat := a / g.lsz * g.lsz

/-- The granule bit of an address within its line. -/
def granBit (g : Geo) (a : Nat) : BitVec 4 := 1#4 <<< (a % g.lsz / 128)

/-- A granule's bits of an old line in the new line's numbering. -/
def regroupLines (from' dest : Geo) (dpa : Nat) (m : BitVec 4) : BitVec 4 :=
  (List.range 4).foldl (fun r i => if m.getLsbD i then r ||| granBit dest (lineBase from' dpa + 128 * i) else r) 0

/-- Line bases in a geometry of the `n` bytes from `a` up. -/
def basesOf (g : Geo) (a n : Nat) : List Nat :=
  (List.range ((a % g.lsz + n + g.lsz - 1) / g.lsz)).map fun i => lineBase g a + g.lsz * i

/-- The granules of an old line that lie in the new line at `b`. -/
def maskIn (g' g : Geo) (l : VLine) (b : Nat) : BitVec 4 :=
  (List.range 4).foldl (fun r i =>
    let a := l.dpa + 128 * i
    if a < l.dpa + g'.lsz ∧ lineBase g a = b then r ||| (1#4 <<< i) else r) 0

/-- Moves the part of an old line that lies at `b` into the new geometry (14 R317, R318): into the line already there,
else into the way that `room` finds; where it finds none the part is in memory only. -/
def movePart (room : State → Nat → Option Nat × State) (c : Cdr) (l : VLine) (s : State) (b : Nat) : State :=
  let g' := geoOf s c true l.die
  let g := geoOf s c false l.die
  let m := maskIn g' g l b
  let valid := regroupLines g' g l.dpa (l.valid &&& m)
  let dirty := regroupLines g' g l.dpa (l.dirty &&& m)
  let va := lineBase g (l.va + (b - l.dpa))
  match findVLine s c.id false l.die l.ctx va with
  | some x => setVLine s { x with valid := x.valid ||| valid, dirty := x.dirty ||| dirty, age := true }
  | none =>
    if valid = 0 then s
    else
      match room s (g.set b) with
      | (some w, s) => addVLine s { l with old := false, set := g.set b, way := w, va := va, dpa := b, valid := valid, dirty := dirty,
                                           age := true, pin := false }
      | (none, s) => reportLeave s { l with valid := l.valid &&& m }

/-- Moves a whole old line into the new geometry; `room` is asked for the way of each part. -/
def moveVLine (room : Nat → State → Nat → Option Nat × State) (s : State) (c : Cdr) (l : VLine) : State :=
  let g' := geoOf s c true l.die
  let g := geoOf s c false l.die
  (basesOf g l.dpa g'.lsz).foldl (fun s b => movePart (room b) c l s b) (dropVLine s l)

/-- An invalid way of a set that takes fills (14 R318, R322). -/
def spareWay (c : Cdr) (die : Nat) (s : State) (set : Nat) : Option Nat × State :=
  let g := geoOf s c false die
  if g.sets = 0 ∨ (!s.vc.retiring.isEmpty && isFenced s (shareOfSet s c false die set)) = true then (none, s)
  else (emptyWay (setLines s c.id false die set) g.ways, s)

/-- HITS and MISSES (14 R301). -/
def countHit (s : State) (vc : Nat) : State := onCdr s vc fun c => { c with hits := c.hits + 1 }
def countMiss (s : State) (vc : Nat) : State := onCdr s vc fun c => { c with misses := c.misses + 1 }

/-- Cores of a sharer set but `q`. -/
def sharersBut (m : BitVec 64) (q : Nat) : List Nat := (List.range 64).filter fun c => m.getLsbD c && c != q

/-- Dies of a replica set. -/
def diesOf (m : BitVec 4) : List Nat := (List.range 4).filter fun d => m.getLsbD d

/-- A registered copy or owner of the entry lies off the home's die (15 R326). -/
def offDie (e : DirEntry) : Bool :=
  let h := homeDie e.g
  e.host || (hasOwner e && (e.hown || dieOfCore e.owner != h)) ||
    (sharersBut e.sharers 128).any (fun c => dieOfCore c != h) || (diesOf e.rdies).any (· != h)

/-- The snoop-filter set of a granule (15 R326). -/
def sfSet (g : Nat) : Nat := setHash (g / 128) % 2 ^ 20

/-- The entries of a granule's snoop-filter set. -/
def sfPeers (s : State) (g : Nat) : List DirEntry :=
  s.coh.dir.filter fun e => e.sf && e.g != g && homeDie e.g == homeDie g && sfSet e.g == sfSet g

/-- The entry of the lowest way among those that satisfy `p`. -/
def lowestEntry (es : List DirEntry) (p : DirEntry → Bool) : Option DirEntry :=
  (es.filter p).foldl (fun o e =>
    match o with
    | some x => if e.way < x.way then some e else some x
    | none => some e) none

/-- The victim of a full set (15 R337), by the age-bit rule of 14 R306 among the entries neither in T nor holding queued
requests: the lowest way with age bit 0, else every age bit is cleared and the lowest way goes. -/
def sfVictim (es : List DirEntry) : Option DirEntry × Bool :=
  let ok (e : DirEntry) : Bool := e.st != .t && e.queue.isEmpty
  match lowestEntry es fun e => ok e && !e.age with
  | some e => (some e, false)
  | none => (lowestEntry es ok, true)

/-- The lowest way of a set that holds no entry. -/
def sfWay (es : List DirEntry) : Option Nat := (List.range 16).find? fun w => !es.any fun e => e.way == w

/-- Every age bit of the entries that may be chosen is cleared (14 R306, 15 R337). -/
def clearAges (s : State) (es : List DirEntry) : State :=
  { s with coh := { s.coh with dir := s.coh.dir.map fun e =>
    if (es.any fun x => x.g == e.g && x.st != .t && x.queue.isEmpty) then { e with age := false } else e } }

/-- An entry that has come to lie off its home's die takes a way of the snoop filter (15 R326). A full set first gives up a victim,
brought to I at once (15 R337); with none to choose the step is not taken. -/
def seatEntry (s : State) (g : Nat) : State :=
  let e := dirOf s g
  if e.sf || !offDie e then s
  else
    match sfWay (sfPeers s g) with
    | some w => setDir s { e with sf := true, way := w, age := true }
    | none =>
      match sfVictim (sfPeers s g) with
      | (none, _) => meetBusy s g
      | (some v, clear) =>
        let s := if clear then clearAges s (sfPeers s g) else s
        let s := countDie (recallAll s v.g) (homeDie g) 2
        setDir s { dirOf s g with sf := true, way := v.way, age := true }

/-- A replica slice has been filled with a granule: the home records it (15 R325). Neither a granule with an owner (15 R327)
nor one of a non-coherent page (15 R339) comes here with `place` set. -/
def registerReplica (s : State) (c : Cdr) (die g : Nat) : State :=
  if c.place then
    let e := dirOf s g
    if e.st = .i || e.st = .s then seatEntry (setDir s { e with st := .s, rdies := e.rdies ||| (1#4 <<< die) }) g else s
  else s

/-- The granule of a present line is used: a hit, or a fetch of the missing granule (14 R305), which a fenced share does not take
(14 R322). -/
def useVLine (s : State) (c : Cdr) (l : VLine) (g : Geo) (dpa : Nat) (dirty : Bool) : State :=
  let b := granBit g dpa
  if l.valid &&& b = 0 && !s.vc.retiring.isEmpty && isFenced s (shareOfSet s c l.old l.die l.set) then countMiss s c.id else
  let s := if l.valid &&& b = 0 then countMiss s c.id else countHit s c.id
  let s := setVLine s { l with valid := l.valid ||| b, dirty := if dirty then l.dirty ||| b else l.dirty, age := true }
  registerReplica s c l.die (granOf dpa)

/-- A miss in every geometry: a line is allocated where the write policy allocates (14 R305, R307); a retiring VC
allocates nothing (14 R320). -/
def fillVLine (s : State) (c : Cdr) (ctx : BitVec 16) (va dpa die : Nat) (write : Bool) : State :=
  let g := geoOf s c false die
  let s := countMiss s c.id
  if c.state = 3 ∨ c.wpol = 3 ∨ (write ∧ c.wpol ≠ 0) then s
  else
    let set := g.set dpa
    match fillWay s c die set with
    | (none, s) => s
    | (some w, s) =>
      let s := addVLine s { vc := c.id, old := false, die := die, set := set, way := w, ctx := ctx, va := lineBase g va,
                            dpa := lineBase g dpa, valid := granBit g dpa, dirty := if write then granBit g dpa else 0,
                            age := true, pin := false }
      registerReplica s c die (granOf dpa)

/-- A lookup that served a granule from slice `die` (14 R303-R307, R317): the new geometry first, then the old one, whose
line moves before the request is served, so that no line is in both; a line that finds no room for the granule stays where
it is, and serves what it holds. -/
def pastureLookup (s : State) (c : Cdr) (ctx : BitVec 16) (va dpa die : Nat) (write : Bool) : State :=
  let g := geoOf s c false die
  let g' := geoOf s c true die
  let dirty := write && c.wpol == 0
  let new := findVLine s c.id false die ctx (lineBase g va)
  let old := if migrating c then findVLine s c.id true die ctx (lineBase g' va) else none
  let hasNew := new.any fun l => l.valid &&& granBit g dpa != 0
  if g.sets = 0 ∧ (!migrating c || g'.sets = 0) then s
  else
    match (if hasNew then none else old), new with
    | some l, n =>
      let (way, s) := if n.isSome then (some 0, s) else fillWay s c die (g.set dpa)
      match way with
      | none =>
        if l.valid &&& granBit g' dpa = 0 then countMiss s c.id
        else countHit (setVLine s { l with age := true, dirty := if dirty then l.dirty ||| granBit g' dpa else l.dirty }) c.id
      | some w =>
        let room (b : Nat) (s : State) (set : Nat) : Option Nat × State :=
          if b = lineBase g dpa then (some w, s) else spareWay c die s set
        let s := moveVLine room s c l
        match findVLine s c.id false die ctx (lineBase g va) with
        | some l => useVLine s c l g dpa dirty
        | none => fillVLine s c ctx va dpa die write
    | none, some l => useVLine s c l g dpa dirty
    | none, none => fillVLine s c ctx va dpa die write

/-- Read-only write policy: a write invalidates the line in every slice; a pinned one keeps its way (14 R307, R310). -/
def purgeLine (s : State) (c : Cdr) (dpa : Nat) : State :=
  let hit (l : VLine) : Bool := l.vc == c.id && decide (l.dpa ≤ dpa) && decide (dpa < l.dpa + lineBytes (if l.old then c.olsz else c.lsz))
  (s.vc.lines.filter hit).foldl (fun s l => if l.pin then setVLine (reportLeave s l) { l with valid := 0, dirty := 0 } else leaveVLine s l) s

/-- A request reaches the pasture at the line's home, for a page whose home is a VC (14 R303). `r` is the die of the
requesting core. A replica slice takes no granule that has an owner (15 R327), and the home records none of a non-coherent
page (15 R339). -/
def pastureAccess (s : State) (attr : W64) (ctx : BitVec 16) (va dpa r : Nat) (write : Bool) : State :=
  if 2 ≤ leafHome attr then s
  else
    match cdrOf s (leafVc attr) with
    | none => s
    | some c =>
      let st := (dirOf s (granOf dpa)).st
      if write && c.wpol == 2 then purgeLine s c dpa
      else if c.place && (!c.rdies.getLsbD r || (!leafNc attr && (st == .o || st == .w || st == .t))) then s
      else pastureLookup s { c with place := c.place && !leafNc attr } ctx va dpa (if c.place then r else dpa / 2 ^ 37 % 4) write

/-- A read or write of the device's own passes the slices of its pages, on route 00 alone (13 R278, 14 R303): `die` is that of the
core it is made for; one made for none is the owning die's own (DESIGN CHOICE, assumption log 23). -/
def vaPasture (s : State) (c : BitVec 16) (va n : Nat) (write : Bool) (die : Option Nat) : State :=
  if routeOf va ≠ 0 then s
  else
    (List.range ((va % 128 + n + 127) / 128)).foldl (fun s i =>
      let a := max va (va / 128 * 128 + 128 * i)
      match dieAccess s c a (if write then .write else .read) false with
      | (.inl l, s) => pastureAccess s l.attr c a l.dpa (die.getD (homeDie l.dpa)) write
      | (.inr _, s) => s) s

/-- Opens the pages, then reads `n` bytes at a VA under context `c`, or answers a cause. -/
def vaRead (s : State) (c : BitVec 16) (va n : Nat) (die : Option Nat := none) : (List Byte ⊕ BitVec 8) × State :=
  let s := openPages s c va n
  match vaBytes s c va n with
  | .inl bs => (.inl bs, vaPasture s c va n false die)
  | .inr cause => (.inr cause, s)

/-- Writes bytes at a VA under context `c`, or answers a cause and writes nothing. -/
def vaPut (s : State) (c : BitVec 16) (va : Nat) (bs : List Byte) (die : Option Nat := none) : Option (BitVec 8) × State :=
  let s := openPages s c va bs.length
  match deviceDpas s c va .write bs.length with
  | .inl ds => (none, putPlaces (vaPasture s c va bs.length true die) ds bs die)
  | .inr cause => (some cause, s)

/-- A record of `n` bytes that the device reads and will write: its bytes and their places, or a cause. -/
def vaRecord (s : State) (c : BitVec 16) (va n : Nat) : ((List Byte × List (Nat × Bool)) ⊕ BitVec 8) × State :=
  match vaRead s c va n with
  | (.inr cause, s) => (.inr cause, s)
  | (.inl bs, s) =>
    match deviceDpas s c va .write n with
    | .inr cause => (.inr cause, s)
    | .inl ds => (.inl (bs, ds), vaPasture s c va n true none)

end Sys2Proof.Machine
end

