-- ==== Sys2Proof/Machine/Observe.lean ====
section
/-! DEFINITION. The lane-cycle record and the branch-and-mask trace (19 R414-R419), and gangs (01 R15-R17). -/

namespace Sys2Proof.Machine

/-- A scalar register: s0 reads all ones (01 R24). -/
def sreg (d : Drove) (n : Nat) : W64 :=
  if n = 0 then BitVec.allOnes 64 else if h : n < 64 then d.s[n] else 0

/-- The divergence and guard register numbers (01 R31). -/
def modeD (m : BitVec 32) : Nat := (m.extractLsb' 17 6).toNat
def modeG (m : BitVec 32) : Nat := (m.extractLsb' 11 6).toNat

/-- The active lanes: bit L of S[D] & S[G] & PRES (01 R18). -/
def activeMask (d : Drove) : W64 := sreg d (modeD d.mode) &&& sreg d (modeG d.mode) &&& d.pres

/-- Adds `n` to lane-cycle class `c`, bin `b`, of a die (19 R415). -/
def laneAdd (s : State) (die c b n : Nat) : State :=
  let k := 4096 * c + 64 * die + b
  let x := mapGet (0 : W64) s.dev.lanes k + BitVec.ofNat 64 n
  if n = 0 then s else { s with dev := { s.dev with lanes := mapSet 0 s.dev.lanes k x } }

/-- How many of the first `w` lanes satisfy `p`. -/
def countLanes (w : Nat) (p : Nat → Bool) : Nat := ((List.range w).filter p).length

/-- The drove is parked on a fault (09 R191). -/
def isParked (s : State) (u : Nat) : Bool := s.sch.parks.any fun p => p.drove == u && p.blocks && (p.svc == 1 || p.svc == 2)

/-- A park of the drove waits for its delivery (17 R368). -/
def deliveryDue (s : State) (d : Drove) : Bool := s.sch.parks.any fun p => p.svc == 3 && p.drove == d.uid && p.kind != 6 && p.kind != 10

/-- A drove that has been asked to stop at its boundary takes the stop before anything else. -/
def mustStop (s : State) (d : Drove) : Bool := d.haltReq || deliveryDue s d

/-- Breakpoint `n` is enabled at the PC of drove `d`, for its context (19 R410). -/
def breakHit (s : State) (d : Drove) (n : Nat) : Bool :=
  let b := privReg s (0xE4 + n)
  b.getLsbD 0 && bits b.toNat 63 2 == bits d.pc.toNat 63 2 &&
    bits (privReg s 0xE9).toNat (16 * n + 15) (16 * n) == d.ctx.toNat

/-- The breakpoint that stops a drove before its next instruction (19 R410): none inside a microprogram or a pair, and
none on the issue that an `eret` has just resumed. -/
def breakAt (s : State) (d : Drove) : Option Nat :=
  if d.micro.isSome || d.help || d.brkSkip then none else (List.range 4).find? (breakHit s d)

/-- A helped instruction and its `qhelp` are one: the drove stands before the `qhelp` again (08 R174). -/
def unhelp (d : Drove) : Drove :=
  if d.help then
    match d.micro with
    | some m => { d with micro := some { m with step := m.step - 1 }, help := false }
    | none => { d with pc := d.pc - 4, help := false }
  else d

/-- The drove parts from its gang, and issues alone until it regangs (01 R16, R17). -/
def unGang (d : Drove) : Drove :=
  { d with gangDue := false, waited := false, gangWith := [], parted := (d.parted ++ d.gangWith).dedup }

/-- A drove parts from its gang; the others go on as a smaller one (01 R16). -/
def partGang (s : State) (u : Nat) : State :=
  let f (d : Drove) : Drove := if d.uid = u then unGang d else { d with gangWith := d.gangWith.filter (· != u) }
  { s with dr := f s.dr, droves := s.droves.map f }

/-- Two siblings were in one gang and have parted (01 R17). -/
def haveParted (a b : Drove) : Bool := a.parted.contains b.uid || b.parted.contains a.uid

/-- Nothing keeps a ready drove from issuing in a gang: it is not parked, about to stop or at a breakpoint (01 R15). -/
def gangFree (s : State) (d : Drove) : Bool :=
  d.cond == .ready && !isParked s d.uid && !mustStop s d && (breakAt s d).isNone && d.csumPc.isNone && d.stopDue.isNone

/-- Siblings that may issue with the drove at the port in one gang (01 R15): one flock and sub-core, same PC and MODE, none
parked, blocked, stopped or about to stop. `fit` says that the instruction would not stop or wait in a sibling. A `qhelp` pair
issues together, from the PC of its `qhelp` (08 R174). -/
def gangMates (s : State) (fit : Drove → Bool) : List Drove :=
  let x := unhelp s.dr
  s.droves.filter fun d => d.flock == s.dr.flock && d.core == s.dr.core && d.subc == s.dr.subc && gangFree s d &&
    d.pc == x.pc && d.mode == x.mode && d.micro == x.micro && !d.help && !haveParted s.dr d && fit d

/-- The drove at the port and the siblings `ms` are one gang. Siblings of its last gang that are not among them have parted from
it (01 R16). -/
def joinGang (s : State) (ms : List Drove) : State :=
  let us := s.dr.uid :: ms.map (·.uid)
  let put (d : Drove) : Drove :=
    let others := us.filter (· != d.uid)
    { d with gangWith := others, parted := (d.parted ++ d.gangWith.filter (!others.contains ·)).dedup }
  { s with dr := put s.dr, droves := mapIf (fun d => us.contains d.uid) put s.droves }

/-- Siblings no two of which have parted. -/
def unparted (ds : List Drove) : List Drove :=
  ds.foldl (fun acc d => if acc.any (haveParted d) then acc else acc ++ [d]) []

/-- A drove put into a list in increasing DROVEID order (19 R436). -/
def putById (d : Drove) : List Drove → List Drove
  | [] => [d]
  | x :: xs => if d.droveId.toNat ≤ x.droveId.toNat then d :: x :: xs else x :: putById d xs

/-- Droves in increasing DROVEID order. -/
def byId (ds : List Drove) : List Drove := ds.foldr putById []

/-- THE GANG that the scheduler issues when it has chosen the drove at the port (01 R15-R17, 16 R354): droves that are ganged go
on as one gang until they part; siblings that have never parted may form one, by a free choice (assumption log 2). -/
def chooseGang (s : State) : State :=
  if !gangFree s s.dr then s
  else
    let ms := gangMates s fun _ => true
    let kept := ms.filter fun d => s.dr.gangWith.contains d.uid
    let (go, s) : List Drove × State :=
      if !kept.isEmpty then (kept, s)
      else if ms.isEmpty then ([], s)
      else
        let (k, s) := draw s
        (if k % 2 = 0 then [] else ms, s)
    joinGang s ((unparted go).take (64 / s.dr.width - 1))

/-- The drove of the gang of the one at the port that issues first in their slot: packets of one cycle are emitted in increasing
DROVEID order (19 R436). -/
def gangHead (s : State) : Nat :=
  if !gangFree s s.dr then s.dr.uid
  else ((byId (s.dr :: s.droves.filter fun d => s.dr.gangWith.contains d.uid)).head?.map (·.uid)).getD s.dr.uid

/-- The issue slot of the drove at the port (01 R15, R16, 19 R415): of the gang's first drove, those of its gang that go too are
due in the same slot, and it answers how many positions no drove covers; of another drove of the gang, nothing more. -/
def formGang (fit : Drove → Bool) (s : State) : Option Nat × State :=
  if s.dr.gangDue then (none, onDr s fun d => { d with gang := !d.gangWith.isEmpty, gangDue := false })
  else
    let mates := ((gangMates s fit).filter fun d => s.dr.gangWith.contains d.uid).take (64 / s.dr.width - 1)
    let s := { joinGang s mates with due := (byId mates).map (·.uid) }
    (some (64 - s.dr.width * (mates.length + 1)), onDr s fun d => { d with gang := !mates.isEmpty })

/-- Droves that a regang or a barrier lets go on together: those of one sub-core with the same PC and MODE, at most 64 lanes
to a gang (01 R15, R17). -/
def gangUp (s : State) (ds : List Drove) : State :=
  let peers (x : Drove) : List Nat :=
    let us := (ds.filter fun d => d.core == x.core && d.subc == x.subc && d.pc == x.pc && d.mode == x.mode && d.micro == x.micro).map (·.uid)
    let n := 64 / x.width
    let i := us.idxOf x.uid / n
    ((us.drop (i * n)).take n).filter (· != x.uid)
  let put (x : Drove) : Drove :=
    if ds.any fun d => d.uid == x.uid then
      let p := peers x
      { x with gangWith := p, parted := ((x.parted ++ x.gangWith).filter (!p.contains ·)).dedup }
    else x
  { s with dr := put s.dr, droves := s.droves.map put }

/-- Counts one issue slot of the drove at the port. It is the slot's first drove where `idle` says how many positions no drove
covers (19 R415). -/
def laneCount (s : State) (idle : Option Nat) : State :=
  let cc := (privReg s 0xE0).toNat
  if cc % 2 = 0 ∨ bits cc 63 48 ≠ s.dr.ctx.toNat then s
  else
    let die := dieOfCore s.dr.core
    let base := (privReg s 0xE1).toNat
    let pc := (unhelp s.dr).pc.toNat
    let b := (pc - base) / 2 ^ (max 2 (bits cc 21 16))
    if pc < base ∨ 64 ≤ b then laneAdd s die 5 0 (if idle.isSome then 1 else 0)
    else
      let d := sreg s.dr (modeD s.dr.mode)
      let g := sreg s.dr (modeG s.dr.mode)
      let p := s.dr.pres
      let w := s.dr.width
      let s := laneAdd s die 0 b (countLanes w fun l => p.getLsbD l && d.getLsbD l && g.getLsbD l)
      let s := laneAdd s die 1 b (countLanes w fun l => p.getLsbD l && !d.getLsbD l)
      let s := laneAdd s die 2 b (countLanes w fun l => p.getLsbD l && d.getLsbD l && !g.getLsbD l)
      let s := laneAdd s die 3 b (countLanes w fun l => !p.getLsbD l)
      laneAdd s die 4 b (idle.getD 0)

/-- The trace stream of a die. -/
def streamOf (s : State) (die : Nat) : TraceStream := s.dev.traces.getD die .atReset

/-- Changes the trace stream of a die. -/
def onStream (s : State) (die : Nat) (f : TraceStream → TraceStream) : State :=
  { s with dev := { s.dev with traces := modNth f s.dev.traces die } }

/-- Puts a packet into the stream. One that finds no room, after a free amount has drained, is dropped and counted,
as is every later one until LOSS has been written (19 R418; assumption log 2). -/
def emit (s : State) (die : Nat) (bs : List Byte) : State :=
  let t := streamOf s die
  let (t, s) := if t.dropped ≠ 0 ∨ bs.length ≤ t.room then (t, s)
    else
      let (k, s) := draw s
      ({ t with room := min 65536 (t.room + k % 65537) }, s)
  if t.dropped = 0 ∧ bs.length ≤ t.room then
    onStream s die fun _ => { t with bytes := t.bytes ++ bs, room := t.room - bs.length, sinceSync := t.sinceSync + 1 }
  else onStream s die fun _ => { t with dropped := t.dropped + 1 }

/-- A SYNC packet for a drove (19 R416). -/
def syncPacket (s : State) (d : Drove) (pc : W64) : List Byte :=
  let pc6 := bits pc.toNat 61 60 * 2 ^ 46 + bits pc.toNat 47 2
  0x10 :: leBytes 2 d.droveId.toNat ++ leBytes 6 pc6 ++ leBytes 6 s.cycle ++ leBytes 8 (sreg d (modeD d.mode)).toNat ++ [0]

/-- Emits a SYNC for drove `d` (19 R416, R417). -/
def emitSync (s : State) (die : Nat) (d : Drove) (pc : W64) : State :=
  let s := emit s die (syncPacket s d pc)
  let s := onStream s die fun t => { t with clock := s.cycle, current := some d.droveId.toNat, sinceSync := 0, syncAt := s.cycle }
  onDrove s d.uid fun d => { d with trace := { d.trace with seen := true, resync := false, mask := some (sreg d (modeD d.mode)) } }

/-- Brings the stream clock to time `t` with TDELTA packets; a gap above 65,535 is a SYNC (19 R417). -/
def emitDelta (s : State) (die t : Nat) (d : Drove) : State :=
  let c := (streamOf s die).clock
  let s := if t ≤ c then s
    else if t - c < 16 then emit s die [BitVec.ofNat 8 (0x40 + (t - c))]
    else if t - c < 65536 then emit s die (0x40 :: leBytes 2 (t - c))
    else emitSync s die d (unhelp d).pc
  onStream s die fun x => { x with clock := max x.clock t }

/-- A BR packet of branch outcomes, oldest in bit 0 (19 R416). -/
def brPacket (bs : List Bool) : List Byte :=
  [BitVec.ofNat 8 (0x20 + bs.length), BitVec.ofNat 8 (total (bs.zipIdx.map fun (b, i) => b2n b * 2 ^ i))]

/-- A DROVE packet dated `t`, unless `d` is the current drove (19 R417). -/
def nameDrove (s : State) (die t : Nat) (d : Drove) : State :=
  let here (s : State) : Bool := (streamOf s die).current == some d.droveId.toNat
  if here s then s
  else
    let s := emitDelta s die t d
    if here s then s
    else onStream (emit s die (0x50 :: leBytes 2 d.droveId.toNat)) die fun t => { t with current := some d.droveId.toNat }

/-- Emits the pending BR of a drove, dated by its newest outcome (19 R417); after a LOSS the drove's SYNC comes first
(19 R418). -/
def flushBr (s : State) (die : Nat) (d : Drove) : State :=
  if d.trace.bits.isEmpty then s
  else
    let s := if d.trace.resync then emitSync s die d (unhelp d).pc else nameDrove s die d.trace.last d
    let s := emit (emitDelta s die d.trace.last d) die (brPacket d.trace.bits)
    let s := onStream s die fun t => { t with late := t.late.filter fun x => x.uid != d.uid }
    onDrove s d.uid fun d => { d with trace := { d.trace with bits := [] } }

/-- 256 packets or 4,096 cycles have passed since the last SYNC of the stream (19 R418). -/
def syncDue (s : State) (die : Nat) : Bool :=
  decide (256 ≤ (streamOf s die).sinceSync) || decide (4096 ≤ s.cycle - (streamOf s die).syncAt)

/-- Emits the pending BR of a drove, which a SYNC forced before the drove's next packet comes after (19 R417, R418). -/
def flushDue (s : State) (die : Nat) (d : Drove) (pc : W64) : State :=
  if syncDue s die && !d.trace.resync then emitSync (flushBr s die d) die d pc else flushBr s die d

/-- The droves of a die that have a BR pending, those that have left it among them, in increasing DROVEID order (19 R417,
R436). -/
def pendingBrs (s : State) (die : Nat) : List Drove :=
  byId (((allDroves s).filter fun x => dieOfCore x.core == die && !x.trace.bits.isEmpty) ++ (streamOf s die).late)

/-- Emits the pending BRs of a die, as any packet for `d` makes it do (19 R417); `pc` is `d`'s next instruction to issue. -/
def flushAll (s : State) (die : Nat) (d : Drove) (pc : W64) : State :=
  (pendingBrs s die).foldl (fun s x => flushDue s die x (if x.uid = d.uid then pc else (unhelp x).pc)) s

/-- Makes `d` the drove that the next packet, dated `t`, applies to (19 R417, R418): its first packet, one after a LOSS, and
one after 256 packets or 4,096 cycles is preceded by a SYNC, whose PC is `pc`; otherwise a change of drove is a DROVE packet. -/
def turnTo (s : State) (die t : Nat) (d : Drove) (pc : W64) : State :=
  let s := flushAll s die d pc
  let x := ((droveOf s d.uid).getD d).trace
  if !x.seen || x.resync || syncDue s die then emitSync s die d pc else nameDrove s die t d

/-- The drove is traced: TCTL.TEN, and its code lies at VA[59:48] = 0 (19 R411, R417). -/
def traced (d : Drove) : Bool := d.tctl.getLsbD 0 && bits d.pc.toNat 59 48 == 0

/-- At the issue of an instruction: a mask that has changed is traced (19 R417). A `qhelp` pair is one issue, at the
PC of its `qhelp` (08 R174). -/
def traceIssue (s : State) : State :=
  let d := unhelp s.dr
  if !traced d then s
  else
    let die := dieOfCore d.core
    let m := sreg d (modeD d.mode)
    if s.dr.trace.mask = some m then s
    else
      let s := turnTo s die s.cycle d d.pc
      if s.dr.trace.mask = some m then s else
      let s := emit (emitDelta s die s.cycle d) die (0x30 :: leBytes 8 m.toNat)
      onDr s fun d => { d with trace := { d.trace with mask := some m } }

/-- At a `brz` or `brnz` that goes on at `pc`: one outcome bit; four of them are emitted (19 R417). -/
def traceBranch (s : State) (taken : Bool) (pc : W64) : State :=
  if !traced s.dr then s
  else
    let s := onDr s fun d => { d with trace := { d.trace with
      bits := d.trace.bits ++ [taken], last := s.cycle, since := if d.trace.bits.isEmpty then s.cycle else d.trace.since } }
    if s.dr.trace.bits.length < 4 then s else flushAll s (dieOfCore s.dr.core) s.dr pc

/-- At a `callr`, `jmpr` or `ret`: a SYNC whose PC is the target (19 R417). -/
def traceIndirect (s : State) (target : W64) : State :=
  if !traced s.dr then s
  else
    let die := dieOfCore s.dr.core
    emitSync (flushAll s die s.dr target) die s.dr target

/-- What an issue slot of the drove at the port leaves in the records of chapter 19, for each of its `n` slots; it is the
flock's last issue so far (16 R359). -/
def account (fit : Drove → Bool) (s : State) (n : Nat) : State :=
  let (idle, s) := formGang fit s
  let s := (List.range n).foldl (fun s _ => laneCount s idle) s
  onFl (traceIssue s) fun f => { f with lastIssue := s.cycle }

/-- Pending BRs of droves that leave the die, kept until the stream emits them (19 R417). -/
def keepBrs (s : State) (ds : List Drove) : State :=
  (ds.filter fun d => !d.trace.bits.isEmpty).foldl (fun s d => onStream s (dieOfCore d.core) fun t => { t with late := t.late ++ [d] }) s

end Sys2Proof.Machine
end

