-- ==== Sys2Proof/Machine/Terminate.lean ====
section
/-! DEFINITION. The fault table, and freeing a flock without a save (17 R367, R372). -/

namespace Sys2Proof.Machine

/-- VA of entry `k` of the context's fault table (17 R361, R367). -/
def ftVa (s : State) (c : BitVec 16) (k : Nat) : Nat := csbField s c 0x18 8 + 32 * k

/-- The first 8 bytes of entry `k` of the fault table, 0 where they cannot be read. -/
def ftWord (s : State) (c : BitVec 16) (k : Nat) : Nat :=
  match vaBytes s c (ftVa s c k) 8 with
  | .inl bs => leNat bs
  | .inr _ => 0

/-- Writes the STATE of entry `k` of the fault table (17 R367). -/
def setFtState (s : State) (c : BitVec 16) (k st : Nat) : State :=
  (vaPut s c (ftVa s c k) (leBytes 8 (ftWord s c k / 8 * 8 + st))).2

/-- Entries in use, written to FTFILL (17 R361). -/
def refill (s : State) (c : BitVec 16) : State :=
  let n := countLanes (min 65536 (csbField s c 0x20 4)) fun k => ftWord s c k % 8 != 0
  setCsbField s c 0x24 4 n

/-- Frees the table entry of a park and forgets the park. -/
def dropPark (s : State) (p : Park) : State :=
  let s := match p.slot with
    | some k => refill (setFtState s p.ctx k 0) p.ctx
    | none => s
  { s with sch := { s.sch with parks := s.sch.parks.filter fun x => x.id != p.id } }

/-- A packet for device `dev` is in the port where the binding entry of its context is valid: it is for the context there that the
entry names (18 R382, R384). -/
def sendPacket (s : State) (ctx : BitVec 16) (dev ptype : Nat) (p : CollPacket) : State :=
  let e := peerEntry s ctx dev
  if bitAt e 63 then { s with dev := { s.dev with unsent := s.dev.unsent ++ [(ctx, dev, ptype, { p with ctx := bits e 47 32 })] } } else s

/-- A link is retraining. -/
def retraining (s : State) (link : Nat) : Bool := s.dev.retrain.contains link

/-- The trained ports between context `c` and device `i` (18 R383). -/
def portsFor (s : State) (c : BitVec 16) (i : Nat) : List Nat :=
  (List.range 12).filter fun n => bitAt (peerEntry s c i) n && s.dev.ports.getLsbD n

/-- A packet to device `i` may go: one of its ports is trained and not retraining, and no checkpoint holds collectives (18 R380, R383,
R397). -/
def sendOpen (s : State) (c : BitVec 16) (i : Nat) : Bool :=
  s.dev.ckpt.isNone && (portsFor s c i).any fun n => !retraining s (6 + n)

/-- The packets that may go leave their ports, in order. -/
def flushUnsent (s : State) : State :=
  let out := s.dev.unsent.filter fun x => sendOpen s x.1 x.2.1
  { s with dev := { s.dev with packets := out.reverse.map (fun x => (x.2.1, x.2.2.1, x.2.2.2)) ++ s.dev.packets
                               unsent := s.dev.unsent.filter fun x => !sendOpen s x.1 x.2.1 } }

/-- Operands of nothing. -/
def CollArgs.none : CollArgs := { tile := 0, d0 := 0, d1 := 0, d2 := 0, d3 := 0, obj := 0 }

/-- ROUTINE and OPFLD of a descriptor (11 R251, 18 R390). -/
def CollArgs.routine (a : CollArgs) : BitVec 16 := a.d2.extractLsb' 16 16
def CollArgs.opfld (a : CollArgs) : BitVec 16 := BitVec.ofNat 16 (bits a.d2.toNat 9 0)

/-- The operands of the flock: those of the last drove to issue, which all the others agree with (11 R252). -/
def CollOp.arg (c : CollOp) : CollArgs := (c.args.getLast?.map (·.2)).getD .none

/-- The cancel packet of a collective (18 R388, R390). -/
def cancelPacket (s : State) (ctx : BitVec 16) (c : CollOp) : CollPacket :=
  { ctx := ctx.toNat, srcCtx := ctx.toNat, special := [], overflow := false, level := 0, routine := c.arg.routine, group := c.group, seq := c.seq, node := 0, chunk := 0,
    srcDev := fabid s, opfld := c.arg.opfld, digest := c.digest, payload := [] }

/-- The devices of a collective's members: those of its group table, and while that is unread every device (18 R388). -/
def collDevices (c : CollOp) : List Nat :=
  if c.table.isEmpty then List.range 1024 else (c.table.map fun e => bits e.toNat 9 0).eraseDups

/-- Cancels a collective for every member (18 R388), and for those of every group that the flock's droves name (11 R252): a cancel is
on its way to those of this module, and to every other device of the group that the context is bound to. -/
def cancelColl (s : State) (ctx : BitVec 16) (range : Nat) (c : CollOp) : State :=
  ((c.group, c.seq) :: c.also).foldl (fun s (g, n) =>
    let p := cancelPacket s ctx { c with group := g, seq := n }
    let h : HeldPacket := { ptype := 0x13, range := range, pkt := p, node := none }
    let devs := (collDevices c).filter fun i => i != fabid s
    devs.foldl (fun s i => sendPacket s ctx i 0x13 p) { s with eng := { s.eng with held := s.eng.held ++ [h] } }) s

/-- The range with identity `u`. -/
def rangeOf (s : State) (u : Nat) : Option Range := s.sch.ranges.find? fun r => r.uid == u

/-- Changes the range with identity `u`. -/
def onRange (s : State) (u : Nat) (f : Range → Range) : State :=
  { s with sch := { s.sch with ranges := mapIf (fun r => r.uid == u) f s.sch.ranges } }

/-- Lanes of a width code (16 R344). -/
def widthOf (code : Nat) : Nat := 8 * 2 ^ code

/-- A request whose return a change of generation tag lets drop, to be counted when it comes (01 R29). One with a lane that
has faulted never returns. -/
def dropsAtReturn (q : Req) : Bool :=
  (match q.kind with
    | .load _ _ | .lds _ | .ldp _ | .ldsp _ | .sysrd _ => true
    | _ => false) && !q.accs.any fun a => match a.st with | .faulted _ => true | _ => false

/-- Takes a flock, its droves and its requests out of residence; its loads and slow `sysrd`s in flight return to no one
(01 R29), and its other requests end uncounted (assumption log 30). -/
def removeFlock (s : State) (f : Nat) : State :=
  let s := keepBrs s (drovesOf s f)
  let s := { s with
    droves := s.droves.filter fun d => d.flock != f
    reqs := s.reqs.filter fun r => r.flock != f || dropsAtReturn r
    flocks := s.flocks.filter fun x => x.uid != f
    eng := { s.eng with passes := s.eng.passes.filter fun p => p.flock != f
                        tileOps := s.eng.tileOps.filter fun p => p.flock != f
                        arrivals := s.eng.arrivals.filter fun p => p.flock != f } }
  if s.fl.uid = f then { s with fl := .vacant, dr := if s.dr.flock = f then .vacant else s.dr } else s

/-- A copy reads or writes the scratchpad: staging, or SSP or DSP (11 R244). -/
def copyUsesSpad (c : CopyJob) : Bool := c.d2.getLsbD 57 || c.d2.getLsbD 56 || bits c.d2.toNat 63 60 == 1

/-- What a terminated flock leaves behind (17 R372): its parks' table entries are freed, its collectives cancelled for the
others, its copies make no arrival, and its range counts it. -/
def forsake (s : State) (fl : Flock) (droves : List Drove) (why : Nat) : State :=
  let f := fl.uid
  let parks := s.sch.parks.filter fun p => droves.any fun d => d.uid == p.drove
  let s := parks.foldl dropPark s
  let s := fl.colls.foldl (fun s c => cancelColl s fl.ctx fl.range c) s
  let copies := (s.eng.copies.filter fun c => !(c.flock == f && copyUsesSpad c)).map fun c =>
    if c.flock = f then { c with orphan := true, parked := false } else c
  let s := { s with eng := { s.eng with copies := copies } }
  let va := (rangeOf s fl.range).elim 0 (·.va)
  let s := onRange s fl.range fun r => { r with
    finished := r.finished + 1
    ended := r.ended + 1
    retired := r.retired + total ((droves.filter fun d => d.cond != .exited).map (·.retired)) }
  postFevq s fl.ctx 0x0202 (BitVec.ofNat 32 (32 * fl.lin)) va (BitVec.ofNat 64 why) none

/-- Terminates a flock (17 R372) with reason `why`, and posts event 0x0202 (17 R442). -/
def terminate (s : State) (f why : Nat) : State :=
  match flockOf s f with
  | none => s
  | some fl => removeFlock (forsake s fl (drovesOf s f) why) f

/-- Terminates a saved flock (17 R365, R373): its slot is free. -/
def terminateSaved (s : State) (f why : Nat) : State :=
  match s.sch.saved.find? fun v => v.flock.uid == f with
  | none => s
  | some v =>
    let s := forsake s v.flock v.droves why
    let s := setCsbField s v.flock.ctx 0x38 8 (csbField s v.flock.ctx 0x38 8 &&& (2 ^ 64 - 1 - 2 ^ v.slot))
    { s with sch := { s.sch with saved := s.sch.saved.filter fun v => v.flock.uid != f }
             eng := { s.eng with arrivals := s.eng.arrivals.filter fun p => p.flock != f } }

end Sys2Proof.Machine
end

