-- ==== Sys2Proof/Machine/Ops.lean ====
section
/-! DEFINITION. The operations every instruction shares: registers, the checks at issue, retiring, waiting, stopping
with a fault record, and the return from a stop (01, 03 R87, R88, 17 R363-R367). -/

namespace Sys2Proof.Machine

/-- Writes a scalar register; a write to s0 is discarded (01 R24). -/
def setS (d : Drove) (n : Nat) (x : W64) : Drove := if n = 0 then d else { d with s := d.s.setIfInBounds n x }

/-- A vector register. -/
def vreg (d : Drove) (n : Nat) : VReg := if h : n < 128 then d.v[n] else mkLanes fun _ => 0

/-- Lane `l` of a vector register. -/
def vlane (d : Drove) (n l : Nat) : W32 := lane (vreg d n) l

/-- Writes a vector register whole. -/
def setV (d : Drove) (n : Nat) (x : VReg) : Drove := { d with v := d.v.setIfInBounds n x }

/-- Writes the lanes of `m` of a vector register; the other lanes keep their values (01 R19). -/
def setVm (d : Drove) (n : Nat) (m : W64) (f : Nat → W32) : Drove :=
  setV d n (mkLanes fun l => if m.getLsbD l then f l else vlane d n l)

/-- Marks a register full or empty; s0 is always full (01 R24, R27). -/
def markV (d : Drove) (n : Nat) (full : Bool) : Drove :=
  { d with vfull := if full then d.vfull ||| (1#128 <<< n) else d.vfull &&& ~~~(1#128 <<< n) }
def markS (d : Drove) (n : Nat) (full : Bool) : Drove :=
  if n = 0 then d else { d with sfull := if full then d.sfull ||| (1#64 <<< n) else d.sfull &&& ~~~(1#64 <<< n) }

/-- Marks a tile of the current flock full or empty (01 R27). -/
def markT (f : Flock) (n : Nat) (full : Bool) : Flock :=
  { f with tfull := if full then f.tfull ||| (1#16 <<< n) else f.tfull &&& ~~~(1#16 <<< n) }

/-- A register field of an instruction: class, first register, how many, the alignment of the tuple, whether it is a
destination, and its empty-action bit (01 R23, R28, 03 R73, R74). -/
structure Use where
  cls   : RegClass
  base  : Nat
  n     : Nat := 1
  align : Nat := 1
  dest  : Bool := false
  trap  : Bool := false
  deriving DecidableEq, Repr

/-- What is checked before an instruction runs (03 R86, R87). -/
structure Chk where
  uses  : List Use := []
  noShep : Bool := false   -- a matrix instruction or coll: cause 0x01 on a Shepherd core (16 R351)
  priv  : Bool := false    -- a privileged opcode
  bad   : Bool := false    -- a field outside its set
  odd   : Bool := false    -- a misaligned group besides those of `uses`
  typ   : Bool := true     -- the element types are accepted
  conv  : Bool := false    -- the active set must equal PRES (01 R19)
  masks : Bool := false    -- per-lane: waits on the D and G registers (01 R20)
  sync  : Bool := false    -- a synchronising operation of a deterministic range (19 R406)
  dog   : Bool := false    -- the watchdog ends its waits (16 R359)
  slots : Nat := 1         -- issue slots (07 R156)
  deriving DecidableEq, Repr

/-- A register is full. -/
def isFull (s : State) (c : RegClass) (n : Nat) : Bool :=
  match c with
  | .vec => s.dr.vfull.getLsbD n
  | .scl => n == 0 || s.dr.sfull.getLsbD n
  | .tile => s.fl.tfull.getLsbD n

/-- The drove's allocation of a class (01 R22, R24, R25). -/
def allocOf (d : Drove) : RegClass → Nat
  | .vec => d.nv
  | .scl => d.ns
  | .tile => d.ntiles

/-- The first empty register of a field. -/
def firstEmpty (s : State) (u : Use) : Option Nat :=
  ((List.range u.n).map (u.base + ·)).find? fun n => !isFull s u.cls n

/-- The D or G register is empty (01 R20). -/
def masksEmpty (s : State) : Bool :=
  !isFull s .scl (modeD s.dr.mode) || !isFull s .scl (modeG s.dr.mode)

/-- A fault record's register name (17 R364). -/
def regInfo (c : RegClass) (n : Nat) : Nat :=
  (match c with | .vec => 0 | .scl => 1 | .tile => 2) * 256 + n

/-- What the checks at issue decide. -/
inductive Verdict where
  | go
  | wait (w : Wait)
  | stop (cause : BitVec 8) (info addr : Nat)
  deriving DecidableEq, Repr

/-- The first pop that waits at chute `n` cannot be served from it, and the chute is closed (11 R239). -/
def popStranded (f : Flock) (n : Nat) : Bool :=
  match f.chutes[n]? with
  | some c => c.closed && (match c.pops with | p :: _ => decide (c.count < p.lanes.length) | [] => false)
  | none => false

/-- What an empty register named without its empty-action bit makes of the instruction: a wait, cause 0x06 for an
orphaned tile (01 R29), or cause 0x24 for a source that a closed chute will never fill (11 R239). An orphaned tile that
is a destination counts as a source here; the tile operations that replace it leave it out of their uses. -/
def emptyVerdict (s : State) (u : Use) (n : Nat) : Verdict :=
  match u.cls with
  | .tile => if s.fl.torphan.getLsbD n then .stop 0x06 (regInfo .tile n) 0 else .wait (.reg .tile n)
  | .vec =>
    match s.dr.popped.find? fun p => p.1 == n with
    | some (_, ch, pc) => if !u.dest && popStranded s.fl ch then .stop 0x24 ch pc else .wait (.reg .vec n)
    | none => .wait (.reg .vec n)
  | .scl => .wait (.reg .scl n)

/-- The first empty register among fields, with its field. -/
def anyEmpty (s : State) (us : List Use) : Option (Use × Nat) :=
  us.findSome? fun u => (firstEmpty s u).map fun n => (u, n)

/-- A wait for an empty register that another drove's operation fills. -/
def Wait.isReg : Wait → Bool
  | .reg _ _ => true
  | _ => false

/-- A synchronising operation of the drove waits for its turn (19 R406). One whose own wait a waking operation has ended has had
its turn (19 R407); a wait for a register that it names comes before its turn. -/
def turnless (d : Drove) : Bool := d.det && !d.turn && !(d.wakeAt.isSome && d.await.any fun w => !w.isReg)

/-- The checks at issue, in the order of 03 R87; then the waits of 01 R20 and R28 (assumption log 10). -/
def verdict (c : Chk) (s : State) : Verdict :=
  if c.noShep && s.dr.shepherd then .stop 0x01 0 0
  else if c.priv && !privileged s then .stop 0x0A 0 0
  else if c.bad || c.uses.any (fun u => decide (allocOf s.dr u.cls < u.base + u.n)) then .stop 0x02 0 0
  else if c.odd || c.uses.any (fun u => u.base % u.align != 0) then .stop 0x04 0 0
  else if !c.typ then .stop 0x03 0 0
  else if c.conv && masksEmpty s then .wait .mask
  else if c.conv && activeMask s.dr != s.dr.pres then .stop 0x07 0 0
  else
    match anyEmpty s (c.uses.filter (·.trap)) with
    | some (u, n) => .stop 0x05 (regInfo u.cls n) 0
    | none =>
      if c.masks && masksEmpty s then .wait .mask
      else
        match anyEmpty s (c.uses.filter fun u => !u.trap) with
        | some (u, n) => emptyVerdict s u n
        | none => if c.sync && turnless s.dr then .wait .turn else .go

/-- A wait that leaves the minimum of a deterministic range until a waking operation (19 R407). -/
def passiveWait (st : State) : Wait → Bool
  | .barrier _ => true
  | .push _ _ => true
  | .reg .vec n => st.dr.popped.any fun p => p.1 == n
  | .reg .tile n => st.fl.tileOwner.any fun p => p.1 == n && p.2 == 0
  | _ => false

/-- The instruction does not issue: the drove waits before it and parts from its gang, and nothing else changes (01 R16,
R28). -/
def hold (s : State) (w : Wait) (dog : Bool := false) : State :=
  if s.dr.cond = .waiting w then s
  else
    let p := s.dr.det && passiveWait s w
    let s := onDr s fun d => { d with cond := .waiting w, since := s.cycle, dog := dog, passive := p, turn := d.turn && !p,
                                      await := if p then some w else d.await, wakeAt := if p then none else d.wakeAt }
    partGang s s.dr.uid

/-- LCLK after one more retired instruction: two for a helped pair (08 R174), and past the waking operation of a
passive wait (19 R407), which a helped pair passes by one as a single instruction does (assumption log 33). -/
def nextLclk (d : Drove) : W64 :=
  let l := d.lclk + (if d.help then 2 else 1)
  match d.wakeAt with
  | some w => if l.toNat < w.toNat + 1 then w + 1 else l
  | none => l

/-- The drove after an instruction that leaves PC at `pc`. -/
def retireDr (d : Drove) (pc : W64) (micro : Option Micro) (now : Nat) : Drove :=
  { d with pc := d.after.getD pc, micro := if d.after.isSome then none else micro, after := none, lclk := nextLclk d,
           retired := d.retired + (if d.help then 2 else 1), help := false, cond := .ready, since := now, promoted := false, dog := false, turn := false, passive := false,
           await := none, wakeAt := none, brkSkip := false, gangDue := false, waited := false }

/-- The instruction retires and the next one is at `pc`. -/
def retireAt (s : State) (pc : W64) : State :=
  let s := onDr s fun d => retireDr d pc d.micro s.cycle
  onFl s fun f => { f with lastIssue := s.cycle }

/-- The microprogram after one step, none after its last (11 R257). -/
def Micro.next (m : Micro) : Option Micro := if m.step + 1 < m.code.length then some { m with step := m.step + 1 } else none

/-- The instruction retires, and the next in order follows: the next step of a microprogram, else PC + 4 (11 R257). -/
def retire (s : State) : State :=
  let s := match s.dr.micro with
    | none => onDr s fun d => retireDr d (d.pc + 4) none s.cycle
    | some m => onDr s fun d => retireDr d (if (m.next).isSome then d.pc else d.pc + 4) m.next s.cycle
  onFl s fun f => { f with lastIssue := s.cycle }

/-- The 128 bytes of a fault record (17 R364). -/
def recordBytes (d : Drove) (cause kind : BitVec 8) (step : Option Nat) (pc : W64) (addr mask info : Nat)
    (resume : W64) (seq cgen : Nat) : List Byte :=
  [cause, kind, 0, (step.elim 0xFF (BitVec.ofNat 8 ·))] ++ leBytes 2 d.ctx.toNat ++ leBytes 2 cgen ++
  leBytes 4 d.droveId.toNat ++ leBytes 4 seq ++ leBytes 8 pc.toNat ++ leBytes 8 addr ++ leBytes 16 mask ++
  leBytes 8 info ++ leBytes 8 (resume.toNat / 4 * 4) ++ List.replicate 64 0

/-- Another drove of the context is still stopped with the same fault record (17 R364). -/
def frecBusy (s : State) (d : Drove) : Bool :=
  let ds := allDroves s ++ s.sch.saved.flatMap (·.droves)
  ds.any fun x => x.uid != d.uid && x.ctx == d.ctx && x.cond == .stopped && x.frec == d.frec

/-- TAKING A STOP (17 R364): the fault record is written at FREC under the context's translation, the stop sequence
number advances, event 0x0201 is held for posting, and the drove issues nothing more. A record that another stopped drove
holds is waited for, and the stop is taken then. A record that cannot be written terminates the flock, with reason 1. -/
def takeStop (s : State) (i : StopInfo) : State :=
  let s := partGang s s.dr.uid
  if frecBusy s s.dr then onDr s fun d => { d with cond := .waiting .record, dog := false, stopDue := some i }
  else
    let seq := (ctxOf s s.dr.ctx).elim 0 (·.stopSeq)
    let cgen := csbField s s.dr.ctx 4 2
    let bs := recordBytes s.dr i.cause i.kind i.step i.pc i.addr i.mask i.info i.resume seq cgen
    match vaPut s s.dr.ctx s.dr.frec.toNat bs with
    | (some _, s) => terminate s s.dr.flock 1
    | (none, s) =>
      let s := onCtx s s.dr.ctx fun c => { c with stopSeq := (c.stopSeq + 1) % 2 ^ 32 }
      let s := countRecord s (0x1A00 + i.cause.toNat % 64) 0 64
      let s := postFevq s s.dr.ctx 0x0201 s.dr.droveId i.pc s.dr.frec (if s.dr.det then some s.dr.lclk else none)
      onDr s fun d => { d with
        cond := .stopped, since := s.cycle, promoted := false, dog := false, brkSkip := false, stopDue := none
        stop := some { seq := seq, cause := i.cause, step := i.after, again := i.again,
                       resume := BitVec.ofNat 64 (i.resume.toNat / 4 * 4), deliver := i.deliver } }

/-- A precise stop at the instruction (03 R88): it has no effect, and RESUME is that instruction. -/
def stopHere (s : State) (cause : BitVec 8) (info addr : Nat) : State :=
  let s := onDr s unhelp
  let step := s.dr.micro.map (·.step)
  takeStop s { cause := cause, info := info, addr := addr, pc := s.dr.pc, step := step, resume := s.dr.pc, after := step }

/-- A precise stop of an instruction that has been issued: its slot is counted and traced, and nothing else happens before the
stop (19 R415, R417; DEDUCED, assumption log 33). -/
def stopIssue (s : State) (cause : BitVec 8) (info addr : Nat) : State := stopHere (account (fun _ => false) s 1) cause info addr

/-- A stop after the instruction, as `brk` and `trap` take it (17 R363): RESUME is PC + 4. A `brk` is not counted in LCLK
(DESIGN CHOICE, assumption log 29); its slot is counted and traced (19 R415, R417). -/
def stopAfter (s : State) (cause : BitVec 8) (info : Nat) : State :=
  let s := account (fun _ => false) s 1
  let step := s.dr.micro.map (·.step)
  takeStop s { cause := cause, info := info, pc := s.dr.pc, step := step, resume := s.dr.pc + 4, after := step.map (· + 1) }

/-- A register that an instruction names is no longer one that a pop filled last and no instruction has read
(19 R412). -/
def unpop (s : State) (us : List Use) : State :=
  if s.dr.popped.isEmpty then s
  else onDr s fun d => { d with popped := d.popped.filter fun p =>
    !(us.any fun u => u.cls == .vec && decide (u.base ≤ p.1) && decide (p.1 < u.base + u.n)) }

/-- The instruction would go in the drove `d`. -/
def canGo (c : Chk) (dyn : State → Verdict) (s : State) (d : Drove) : Bool :=
  let t := select s d.uid
  verdict c t == .go && dyn t == .go

/-- ISSUE: the checks of 03 R87 and the waits of 01 R28; then `dyn`, the checks and waits that depend on the contents of
the registers (03 R87); then the instruction's own effect, on a state in which its issue slot has been counted
(19 R415, R417); a cause of its own takes a slot too. The gang of this issue is formed before the effect, so DSTAT.GANG read by
a `sysrd` is that of the `sysrd`'s own issue (DESIGN CHOICE, assumption log 29). -/
def issueIf (c : Chk) (dyn : State → Verdict) (s : State) (run : State → State) : State :=
  match verdict c s with
  | .stop cause info addr => stopIssue s cause info addr
  | .wait w => hold s w c.dog
  | .go =>
    match dyn s with
    | .stop cause info addr => stopIssue s cause info addr
    | .wait w => hold s w c.dog
    | .go => run (account (canGo c dyn s) (unpop s c.uses) c.slots)

/-- Issue of an instruction whose operands' contents are not checked. -/
def issue (c : Chk) (s : State) (run : State → State) : State := issueIf c (fun _ => .go) s run

/-- The first verdict of a list that is not to go on. -/
def firstOf : List Verdict → Verdict
  | [] => .go
  | .go :: vs => firstOf vs
  | v :: _ => v

/-- A stop when the condition holds. -/
def stopIf (b : Bool) (cause : BitVec 8) (info : Nat := 0) (addr : Nat := 0) : Verdict := if b then .stop cause info addr else .go

/-- A wait when the condition holds. -/
def waitIf (b : Bool) (w : Wait) : Verdict := if b then .wait w else .go

/-- Register fields: a source and a destination of each class, with its empty-action bit. -/
def srcS (n : Nat) (trap : Bool := false) : Use := { cls := .scl, base := n, trap := trap }
def dstS (n : Nat) (trap : Bool := false) : Use := { cls := .scl, base := n, dest := true, trap := trap }
def srcV (n : Nat) (trap : Bool := false) (k : Nat := 1) (al : Nat := 1) : Use :=
  { cls := .vec, base := n, n := k, align := al, trap := trap }
def dstV (n : Nat) (trap : Bool := false) (k : Nat := 1) (al : Nat := 1) : Use :=
  { cls := .vec, base := n, n := k, align := al, dest := true, trap := trap }
def useT (n : Nat) (dest : Bool := false) (k : Nat := 1) (al : Nat := 1) : Use :=
  { cls := .tile, base := n, n := k, align := al, dest := dest }

/-- The answer of a meaning: the machine goes on. -/
abbrev Out := Host.Outcome State Fault Refusal

/-- A fault that no drove owns, as it waits for the fault table: outstanding, with no slot yet (17 R367). -/
def Park.start (kind : Nat) (cause : BitVec 8) (ctx : BitVec 16) (va : Nat) : Park :=
  { id := 0, kind := kind, cause := cause, ctx := ctx, drove := 0, droveId := 0xFFFFFFFF, pc := BitVec.ofNat 64 va, va := va, req := none,
    slot := none, svc := 1, since := 0, blocks := false, counted := false, slow := false, mask := 0, word := 0, noPort := false }

/-- Holds a fault for the fault table from now on (17 R367). -/
def enterPark (s : State) (p : Park) : State :=
  let (id, s) := newId s
  { s with sch := { s.sch with parks := s.sch.parks ++ [{ p with id := id, since := s.cycle, noPort := wantsPort s p.ctx p.cause p.va }] } }

/-- Holds a fault of a drove. `blocks` parks the drove (09 R191), which parts from its gang (01 R16). -/
def park (s : State) (kind : Nat) (cause : BitVec 8) (d : Drove) (pc : W64) (va : Nat) (req : Option Nat) (blocks : Bool) :
    State :=
  let s := enterPark s { Park.start kind cause d.ctx va with drove := d.uid, droveId := d.droveId, pc := pc, req := req, blocks := blocks }
  if blocks then partGang s d.uid else s

/-- Parks that are over: one without a table entry is forgotten, any other waits for software to free its entry. -/
def endParks (s : State) (p : Park → Bool) : State :=
  { s with sch := { s.sch with parks := (mapIf p (fun x => { x with svc := 4 }) s.sch.parks).filter fun x => !(p x && x.slot.isNone) } }

/-- The word of the instruction at the issue port: of the issue slot under way, or the one that its `qhelp` fetched (08 R174). -/
def issueWord (s : State) : BitVec 32 :=
  match s.dr.help, s.dr.helpWord with
  | true, some w => w
  | _, _ => (s.slot.bind encode).getD 0

/-- A park of an instruction that keeps no request, with its unfinished lanes. -/
def parkMasked (s : State) (kind : Nat) (cause : BitVec 8) (va mask : Nat) : State :=
  let s := park s kind cause s.dr s.dr.pc va none true
  { s with sch := { s.sch with parks := mapIf (fun p => p.id + 1 == s.uid) (fun p => { p with mask := mask, word := issueWord s }) s.sch.parks } }

/-- The lanes of accesses, as a mask. -/
def accsMask (as : List Acc) : Nat := as.foldl (fun m a => m ||| 2 ^ a.lane) 0

/-- SBCNT: the drove's occupied store-buffer entries (01 R30). -/
def storeKind : ReqKind → Bool
  | .store _ | .stm | .stsp | .red _ | .catom | .tst _ _ | .vwb _ => true
  | _ => false
def sbcnt (s : State) (u : Nat) : Nat := (s.reqs.filter fun r => r.drove == u && storeKind r.kind).length

end Sys2Proof.Machine
end

