-- ==== Sys2Proof/Machine/Flags.lean ====
section
/-! DEFINITION. Element types, the sticky flags and the fitting of integer results (01 R31-R36, 02 R47). -/

namespace Sys2Proof.Machine

/-- The fields of MODE (01 R31). -/
def modeET (m : BitVec 32) : Nat := (m.extractLsb' 0 4).toNat
def modeST (m : BitVec 32) : Nat := (m.extractLsb' 4 4).toNat
def modeRM (m : BitVec 32) : Nat := (m.extractLsb' 8 3).toNat
def modeXL (m : BitVec 32) : Nat := (m.extractLsb' 23 2).toNat
def modeFTZ (m : BitVec 32) : Bool := m.getLsbD 25
def modeSAT (m : BitVec 32) : Bool := m.getLsbD 26
def modeCNAN (m : BitVec 32) : Bool := m.getLsbD 27
def modeFEX (m : BitVec 32) : Bool := m.getLsbD 28

/-- Bits of one element of a type, and elements per lane (01 R22, R33). -/
def elemWidth (t : Nat) : Nat :=
  if t = 1 ∨ t = 2 ∨ t = 5 ∨ t = 6 then 16 else if t = 7 ∨ t = 8 ∨ t = 10 ∨ t = 11 ∨ t = 12 then 8 else 32
def perLane (t : Nat) : Nat := 32 / elemWidth t

/-- The type sets of 06 R127 and R131. -/
def isF (t : Nat) : Bool := decide (t < 3)
def isI (t : Nat) : Bool := decide (3 ≤ t) && decide (t ≤ 8)
def isBits (t : Nat) : Bool := t == 9 || t == 13 || t == 14
def isBX (t : Nat) : Bool := t == 10 || t == 11 || t == 12
def isSigned (t : Nat) : Bool := t == 3 || t == 5 || t == 7

/-- The format of a floating-point type. -/
def fmtOf (t : Nat) : Fmt := if t = 1 then f16 else if t = 2 then bf16 else f32

/-- The environment that MODE gives a floating-point operation with result type `t`. -/
def fenvOf (m : BitVec 32) (t : Nat) : Fenv := { f := fmtOf t, rm := modeRM m, ftz := modeFTZ m, cnan := modeCNAN m }

/-- The bounds of an integer type (02 R47). -/
def intLo (t : Nat) : Int := if isSigned t then -(2 ^ (elemWidth t - 1)) else 0
def intHi (t : Nat) : Int := if isSigned t then 2 ^ (elemWidth t - 1) - 1 else 2 ^ elemWidth t - 1

/-- An element read as its type says (06 R129). -/
def intVal (t x : Nat) : Int :=
  if isSigned t && decide (2 ^ (elemWidth t - 1) ≤ x) then (x : Int) - 2 ^ elemWidth t else x

/-- An integer in the representation of a width. -/
def intWord (w : Nat) (x : Int) : Nat := (x % 2 ^ w).toNat

/-- An exact result fitted to its type: wrapped, or saturated and reported (06 R129). -/
def fitInt (t : Nat) (sat : Bool) (x : Int) : Nat × Bool :=
  if intLo t ≤ x ∧ x ≤ intHi t then (intWord (elemWidth t) x, false)
  else if sat then (intWord (elemWidth t) (if x < intLo t then intLo t else intHi t), true)
  else (intWord (elemWidth t) x, false)

/-- ORs flags and SATD into the drove's sticky bits (01 R35, R36). -/
def raiseFlags (d : Drove) (fl : Fl) (sat : Bool) : Drove := { d with flags := d.flags ||| fl, satd := d.satd || sat }

end Sys2Proof.Machine
end

