-- ==== Sys2Proof/Machine/Operands.lean ====
section
/-! DEFINITION. Vector operands: participating lanes, elements in their slots, tuples, and the one way in which a
vector instruction writes its destinations, flags and masks (01 R18-R23, 06 R125-R128, R132, R135). -/

namespace Sys2Proof.Machine

/-- A quad that holds an active lane (01 R21). -/
def quadActive (act : W64) (l : Nat) : Bool := (List.range 4).any fun i => act.getLsbD (l / 4 * 4 + i)

/-- Lane `l` takes part in a vector instruction: it is active, or it lies in a quad with an active lane and is absent, or
is present and widened by `qhelp` (01 R21, 06 R125, 08 R174). -/
def takesPart (d : Drove) (l : Nat) : Bool :=
  decide (l < d.width) && ((activeMask d).getLsbD l ||
    (quadActive (activeMask d) l && (d.help || !d.pres.getLsbD l)))

/-- The participating lanes. -/
def partMask (d : Drove) : W64 := BitVec.ofNat 64 (total ((List.range 64).map fun l => b2n (takesPart d l) * 2 ^ l))

/-- What one lane of a vector instruction produces: a word for each destination register, flags and saturation. -/
structure LaneOut where
  words : List W32
  fl    : Fl := 0
  sat   : Bool := false
  deriving DecidableEq, Repr

/-- The outputs of every participating lane, in lane order. -/
def laneOuts (d : Drove) (f : Nat → LaneOut) : List (Option LaneOut) :=
  (List.range 64).map fun l => if takesPart d l then some (f l) else none

/-- The flags and the saturation of the active lanes alone (06 R125). -/
def activeFl (d : Drove) (outs : List (Option LaneOut)) : Fl × Bool :=
  outs.zipIdx.foldl (fun (fl, sat) (o, l) =>
    match o with
    | some o => if (activeMask d).getLsbD l then (fl ||| o.fl, sat || o.sat) else (fl, sat)
    | none => (fl, sat)) (0, false)

/-- Word `i` of the outputs, into register `n` (06 R125): lanes without an output keep theirs. -/
def writeWord (d : Drove) (outs : List (Option LaneOut)) (n i : Nat) : Drove :=
  setV d n (mkLanes fun l => match outs.getD l none with
    | some o => o.words.getD i 0
    | none => vlane d n l)

/-- Cause 0x28 of an invalid operation in an active lane when FEX is 1 (06 R127). -/
def fexVerdict (f : Drove → Nat → LaneOut) (s : State) : Verdict :=
  stopIf (modeFEX s.dr.mode && activeMask s.dr != 0 && ((activeFl s.dr (laneOuts s.dr (f s.dr))).1 &&& flNV) != 0) 0x28

/-- Destinations, FLAGS and SATD change together (06 R127); nothing happens when no lane is active (01 R19). -/
def vecRun (dsts : List Nat) (f : Drove → Nat → LaneOut) (s : State) : State :=
  if activeMask s.dr = 0 then retire s
  else
    let outs := laneOuts s.dr (f s.dr)
    let (fl, sat) := activeFl s.dr outs
    retire (onDr s fun d => raiseFlags (dsts.zipIdx.foldl (fun d (n, i) => writeWord d outs n i) d) fl sat)

/-- A vector instruction whose lanes compute `f` into registers `dsts` (06 R127). -/
def vecOp (c : Chk) (dsts : List Nat) (f : Drove → Nat → LaneOut) (s : State) : Out :=
  .next <| issueIf { c with masks := true } (fexVerdict f) s (vecRun dsts f)

/-- Element `j` of a lane word, `w` bits wide (01 R22). -/
def elemAt (w : Nat) (x : W32) (j : Nat) : Nat := x.toNat / 2 ^ (w * j) % 2 ^ w

/-- A lane word of elements, element 0 lowest (01 R22). -/
def packElems (w : Nat) (xs : List Nat) : W32 :=
  BitVec.ofNat 32 (total (xs.zipIdx.map fun (x, j) => x % 2 ^ w * 2 ^ (w * j)))

/-- An element's result: its encoding, flags and saturation. -/
structure ElemOut where
  x   : Nat
  fl  : Fl := 0
  sat : Bool := false
  deriving DecidableEq, Repr

/-- One output word of elements of width `w` (06 R128). -/
def wordOf (w : Nat) (es : List ElemOut) : W32 := packElems w (es.map (·.x))

/-- The flags and saturation of elements. -/
def elemFl (es : List ElemOut) : Fl × Bool := es.foldl (fun (fl, sat) e => (fl ||| e.fl, sat || e.sat)) (0, false)

/-- A lane whose single word holds elements `f 0`, `f 1`, … of type `t`. -/
def elemLane (t : Nat) (f : Nat → ElemOut) : LaneOut :=
  let es := (List.range (perLane t)).map f
  let (fl, sat) := elemFl es
  { words := [wordOf (elemWidth t) es], fl := fl, sat := sat }

/-- A lane of several words, each with its elements. -/
def elemLanes (t n : Nat) (f : Nat → Nat → ElemOut) : LaneOut :=
  let rows := (List.range n).map fun i => (List.range (perLane t)).map fun j => f i j
  let (fl, sat) := elemFl rows.flatten
  { words := rows.map (wordOf (elemWidth t)), fl := fl, sat := sat }

/-- A floating-point result as an element. -/
def ofRes (r : Res) : ElemOut := { x := r.1, fl := r.2 }

/-- An exact integer fitted to type `t` (06 R129). -/
def ofInt (t : Nat) (m : BitVec 32) (x : Int) : ElemOut :=
  let (x, sat) := fitInt t (modeSAT m) x
  { x := x, sat := sat }

/-- The mask of a compare: bit L for each active lane L that satisfies `f`; helper, inactive and absent lanes are 0
(06 R132). -/
def compareMask (d : Drove) (f : Nat → Bool × Fl) : W64 :=
  BitVec.ofNat 64 (total ((List.range 64).map fun l => b2n ((activeMask d).getLsbD l && (f l).1) * 2 ^ l))

/-- Flags of a compare over the active lanes. -/
def compareFl (d : Drove) (f : Nat → Bool × Fl) : Fl :=
  (List.range 64).foldl (fun fl l => if (activeMask d).getLsbD l then fl ||| (f l).2 else fl) 0

/-- A compare into S[sd] (06 R132, R142): sd keeps its value when no lane is active. -/
def cmpOp (c : Chk) (sd : Nat) (f : Drove → Nat → Bool × Fl) (s : State) : Out :=
  .next <| issueIf { c with masks := true }
    (fun s => stopIf (modeFEX s.dr.mode && (compareFl s.dr (f s.dr) &&& flNV) != 0) 0x28) s fun s =>
      if activeMask s.dr = 0 then retire s
      else retire (onDr s fun d => raiseFlags (setS d sd (compareMask d (f d))) (compareFl d (f d)) false)

/-- Registers of a conversion's source and destination tuples (06 R135). -/
def cvtSrcRegs (st et : Nat) : Nat := max 1 (perLane et / perLane st)
def cvtDstRegs (st et : Nat) : Nat := max 1 (perLane st / perLane et)

/-- Element `j` of a conversion's source (06 R135). -/
def cvtSrc (d : Drove) (st a l j : Nat) : Nat := elemAt (elemWidth st) (vlane d (a + j / perLane st) l) (j % perLane st)

/-- A tuple's alignment: itself, or 4 for three registers (01 R23). -/
def tupleAlign (n : Nat) : Nat := if n = 3 then 4 else n

/-- Register tuples of expansion length. -/
def srcTuple (n k : Nat) (trap : Bool) : Use := srcV n trap k (tupleAlign k)
def dstTuple (n k : Nat) (trap : Bool) : Use := dstV n trap k (tupleAlign k)

/-- The registers of a tuple. -/
def tupleRegs (n k : Nat) : List Nat := (List.range k).map (n + ·)

end Sys2Proof.Machine
end

