-- ==== Sys2Proof/Machine/Scalar.lean ====
section
/-! DEFINITION. Scalar register, immediate and constant forms (05 R111-R113). Each runs once per drove, whatever the
masks hold (01 R19). -/

namespace Sys2Proof.Machine

/-- Two's complement value as 64 bits of a narrow immediate. -/
def sext (w : Nat) (x : BitVec w) : W64 := x.signExtend 64

/-- A compare's result: all ones or 0 (05 R111). -/
def truth (b : Bool) : W64 := if b then BitVec.allOnes 64 else 0

/-- A two-source form: `f` of S[sa], S[sb] and the old S[sd] (05 R111). -/
def scalar3 (d a b : BitVec 6) (ea eb ed : Bool) (f : W64 → W64 → W64 → W64) (s : State) : Out :=
  .next <| issue { uses := [srcS a.toNat ea, srcS b.toNat eb, dstS d.toNat ed] } s fun s =>
    retire (onDr s fun x => setS x d.toNat (f (sreg x a.toNat) (sreg x b.toNat) (sreg x d.toNat)))

/-- A one-source form (05 R111). -/
def scalar2 (d a : BitVec 6) (ea ed : Bool) (f : W64 → W64) (s : State) : Out :=
  .next <| issue { uses := [srcS a.toNat ea, dstS d.toNat ed] } s fun s =>
    retire (onDr s fun x => setS x d.toNat (f (sreg x a.toNat)))

/-- An immediate form (05 R112): no empty-action bits. -/
def scalarImm (d a : BitVec 6) (f : W64 → W64) (s : State) : Out := scalar2 d a false false f s

/-- Bits [127:64] of a product of integers (05 R111). -/
def mulHigh (x y : Int) : W64 := BitVec.ofInt 64 (x * y / 2 ^ 64)

/-- Leading zero bits of a word of `w` bits (05 R111, 06 R131). -/
def clz (w x : Nat) : Nat := if x = 0 then w else w - 1 - Nat.log2 x

/-- One bits of a word of `w` bits (05 R111, 06 R131). -/
def popcount (w x : Nat) : Nat := countLanes w fun i => bitAt x i

/-- The word of `w` bits with its bits in the opposite order (05 R111). -/
def bitReverse (w x : Nat) : Nat := total ((List.range w).map fun i => b2n (bitAt x (w - 1 - i)) * 2 ^ i)

def execSadd (d a b : BitVec 6) (ea eb ed : Bool) (s : State) : Out := scalar3 d a b ea eb ed (fun x y _ => x + y) s
def execSsub (d a b : BitVec 6) (ea eb ed : Bool) (s : State) : Out := scalar3 d a b ea eb ed (fun x y _ => x - y) s
def execSmul (d a b : BitVec 6) (ea eb ed : Bool) (s : State) : Out := scalar3 d a b ea eb ed (fun x y _ => x * y) s
def execSmulh (d a b : BitVec 6) (ea eb ed : Bool) (s : State) : Out :=
  scalar3 d a b ea eb ed (fun x y _ => mulHigh x.toInt y.toInt) s
def execSmulhn (d a b : BitVec 6) (ea eb ed : Bool) (s : State) : Out :=
  scalar3 d a b ea eb ed (fun x y _ => mulHigh x.toNat y.toNat) s
def execSand (d a b : BitVec 6) (ea eb ed : Bool) (s : State) : Out := scalar3 d a b ea eb ed (fun x y _ => x &&& y) s
def execSor (d a b : BitVec 6) (ea eb ed : Bool) (s : State) : Out := scalar3 d a b ea eb ed (fun x y _ => x ||| y) s
def execSxor (d a b : BitVec 6) (ea eb ed : Bool) (s : State) : Out := scalar3 d a b ea eb ed (fun x y _ => x ^^^ y) s
def execSandn (d a b : BitVec 6) (ea eb ed : Bool) (s : State) : Out := scalar3 d a b ea eb ed (fun x y _ => x &&& ~~~y) s
/-- Shifts take the amount modulo 64 (05 R111). -/
def execSshl (d a b : BitVec 6) (ea eb ed : Bool) (s : State) : Out :=
  scalar3 d a b ea eb ed (fun x y _ => x <<< (y.toNat % 64)) s
def execSshr (d a b : BitVec 6) (ea eb ed : Bool) (s : State) : Out :=
  scalar3 d a b ea eb ed (fun x y _ => x >>> (y.toNat % 64)) s
def execSsra (d a b : BitVec 6) (ea eb ed : Bool) (s : State) : Out :=
  scalar3 d a b ea eb ed (fun x y _ => x.sshiftRight (y.toNat % 64)) s
def execSmin (d a b : BitVec 6) (ea eb ed : Bool) (s : State) : Out :=
  scalar3 d a b ea eb ed (fun x y _ => if y.slt x then y else x) s
def execSmax (d a b : BitVec 6) (ea eb ed : Bool) (s : State) : Out :=
  scalar3 d a b ea eb ed (fun x y _ => if x.slt y then y else x) s
def execSminn (d a b : BitVec 6) (ea eb ed : Bool) (s : State) : Out :=
  scalar3 d a b ea eb ed (fun x y _ => if y.ult x then y else x) s
def execSmaxn (d a b : BitVec 6) (ea eb ed : Bool) (s : State) : Out :=
  scalar3 d a b ea eb ed (fun x y _ => if x.ult y then y else x) s
def execSeq (d a b : BitVec 6) (ea eb ed : Bool) (s : State) : Out := scalar3 d a b ea eb ed (fun x y _ => truth (x == y)) s
def execSlt (d a b : BitVec 6) (ea eb ed : Bool) (s : State) : Out := scalar3 d a b ea eb ed (fun x y _ => truth (x.slt y)) s
def execSltn (d a b : BitVec 6) (ea eb ed : Bool) (s : State) : Out := scalar3 d a b ea eb ed (fun x y _ => truth (x.ult y)) s
/-- A bit of S[sa] where the old S[sd] has 1, else of S[sb] (05 R111). -/
def execSsel (d a b : BitVec 6) (ea eb ed : Bool) (s : State) : Out :=
  scalar3 d a b ea eb ed (fun x y m => (x &&& m) ||| (y &&& ~~~m)) s
def execSclz (d a : BitVec 6) (ea ed : Bool) (s : State) : Out := scalar2 d a ea ed (fun x => BitVec.ofNat 64 (clz 64 x.toNat)) s
def execSpop (d a : BitVec 6) (ea ed : Bool) (s : State) : Out :=
  scalar2 d a ea ed (fun x => BitVec.ofNat 64 (popcount 64 x.toNat)) s
def execSbrev (d a : BitVec 6) (ea ed : Bool) (s : State) : Out :=
  scalar2 d a ea ed (fun x => BitVec.ofNat 64 (bitReverse 64 x.toNat)) s
def execSmov (d a : BitVec 6) (ea ed : Bool) (s : State) : Out := scalar2 d a ea ed id s

def execSaddi (d a : BitVec 6) (i : BitVec 12) (s : State) : Out := scalarImm d a (· + sext 12 i) s
def execSandi (d a : BitVec 6) (i : BitVec 12) (s : State) : Out := scalarImm d a (· &&& sext 12 i) s
def execSori (d a : BitVec 6) (i : BitVec 12) (s : State) : Out := scalarImm d a (· ||| sext 12 i) s
def execSxori (d a : BitVec 6) (i : BitVec 12) (s : State) : Out := scalarImm d a (· ^^^ sext 12 i) s
def execSshli (d a : BitVec 6) (i : BitVec 6) (s : State) : Out := scalarImm d a (· <<< i.toNat) s
def execSshri (d a : BitVec 6) (i : BitVec 6) (s : State) : Out := scalarImm d a (· >>> i.toNat) s
def execSsrai (d a : BitVec 6) (i : BitVec 6) (s : State) : Out := scalarImm d a (·.sshiftRight i.toNat) s
def execSeqi (d a : BitVec 6) (i : BitVec 12) (s : State) : Out := scalarImm d a (fun x => truth (x == sext 12 i)) s
def execSlti (d a : BitVec 6) (i : BitVec 12) (s : State) : Out := scalarImm d a (fun x => truth (x.slt (sext 12 i))) s

/-- S[sd] := the immediate, sign-extended (05 R113). -/
def execSli (d : BitVec 6) (i : BitVec 18) (s : State) : Out :=
  .next <| issue { uses := [dstS d.toNat] } s fun s => retire (onDr s fun x => setS x d.toNat (sext 18 i))
/-- S[sd] := (S[sd] << 18) or the immediate (05 R113). -/
def execSlui (d : BitVec 6) (i : BitVec 18) (s : State) : Out :=
  .next <| issue { uses := [dstS d.toNat] } s fun s =>
    retire (onDr s fun x => setS x d.toNat ((sreg x d.toNat <<< 18) ||| i.setWidth 64))

end Sys2Proof.Machine
end

