-- ==== Sys2Proof/Machine/VecInt.lean ====
section
/-! DEFINITION. Vector integer, bit, select, regrouping and random forms (06 R129-R138). -/

namespace Sys2Proof.Machine

/-- A V3 form with two sources; `acc` when vd is a source too, governed by ed in both roles (06 R126). -/
def useV3 (d a b : BitVec 7) (ea eb ed acc : Bool) : List Use :=
  [srcV a.toNat ea, srcV b.toNat eb, if acc then srcV d.toNat ed else dstV d.toNat ed]

/-- A V3 form with one source. -/
def useV2 (d a : BitVec 7) (ea ed : Bool) : List Use := [srcV a.toNat ea, dstV d.toNat ed]

/-- Integer arithmetic (06 R129): the exact result per element of type ET, fitted. -/
def intOp (us : List Use) (ok : Nat → Bool) (d a b : Nat) (f : Nat → Int → Int → Int → Int) (s : State) : Out :=
  let t := modeET s.dr.mode
  vecOp { uses := us, typ := ok t } [d] (fun r l => elemLane t fun j =>
    let w := elemWidth t
    ofInt t r.mode (f w (intVal t (elemAt w (vlane r a l) j)) (intVal t (elemAt w (vlane r b l) j))
      (intVal t (elemAt w (vlane r d l) j)))) s

def intOp3 (d a b : BitVec 7) (ea eb ed acc : Bool) (f : Nat → Int → Int → Int → Int) (s : State) : Out :=
  intOp (useV3 d a b ea eb ed acc) isI d.toNat a.toNat b.toNat f s

def execVadd (d a b : BitVec 7) (ea eb ed : Bool) (s : State) : Out := intOp3 d a b ea eb ed false (fun _ x y _ => x + y) s
def execVsub (d a b : BitVec 7) (ea eb ed : Bool) (s : State) : Out := intOp3 d a b ea eb ed false (fun _ x y _ => x - y) s
def execVmul (d a b : BitVec 7) (ea eb ed : Bool) (s : State) : Out := intOp3 d a b ea eb ed false (fun _ x y _ => x * y) s
/-- ⌊a × b / 2^w⌋ (06 R129). -/
def execVmulh (d a b : BitVec 7) (ea eb ed : Bool) (s : State) : Out :=
  intOp3 d a b ea eb ed false (fun w x y _ => x * y / 2 ^ w) s
def execVmad (d a b : BitVec 7) (ea eb ed : Bool) (s : State) : Out := intOp3 d a b ea eb ed true (fun _ x y z => x * y + z) s
def execVmin (d a b : BitVec 7) (ea eb ed : Bool) (s : State) : Out := intOp3 d a b ea eb ed false (fun _ x y _ => min x y) s
def execVmax (d a b : BitVec 7) (ea eb ed : Bool) (s : State) : Out := intOp3 d a b ea eb ed false (fun _ x y _ => max x y) s
/-- Signed types only (06 R129). -/
def execVabs (d a : BitVec 7) (ea ed : Bool) (s : State) : Out :=
  intOp (useV2 d a ea ed) isSigned d.toNat a.toNat a.toNat (fun _ x _ _ => x.natAbs) s
def execVneg (d a : BitVec 7) (ea ed : Bool) (s : State) : Out :=
  intOp (useV2 d a ea ed) isI d.toNat a.toNat a.toNat (fun _ x _ _ => -x) s

/-- A form on the 32 raw bits of each lane, whatever ET holds (06 R130). -/
def rawOp (us : List Use) (d : Nat) (f : Drove → Nat → W32) (s : State) : Out :=
  vecOp { uses := us } [d] (fun r l => { words := [f r l] }) s

def raw3 (d a b : BitVec 7) (ea eb ed : Bool) (f : W32 → W32 → W32) (s : State) : Out :=
  rawOp (useV3 d a b ea eb ed false) d.toNat (fun r l => f (vlane r a.toNat l) (vlane r b.toNat l)) s

def execVand (d a b : BitVec 7) (ea eb ed : Bool) (s : State) : Out := raw3 d a b ea eb ed (fun x y => x &&& y) s
def execVor (d a b : BitVec 7) (ea eb ed : Bool) (s : State) : Out := raw3 d a b ea eb ed (fun x y => x ||| y) s
def execVxor (d a b : BitVec 7) (ea eb ed : Bool) (s : State) : Out := raw3 d a b ea eb ed (fun x y => x ^^^ y) s
def execVandn (d a b : BitVec 7) (ea eb ed : Bool) (s : State) : Out := raw3 d a b ea eb ed (fun x y => x &&& ~~~y) s
def execVmov (d a : BitVec 7) (ea ed : Bool) (s : State) : Out :=
  rawOp (useV2 d a ea ed) d.toNat (fun r l => vlane r a.toNat l) s

/-- The types of the shifts and counts (06 R131). -/
def shiftType (t : Nat) : Bool := isI t || isBits t

/-- A shift or count (06 R131): `f` of the width, the element and the amount modulo the width. -/
def bitOp (us : List Use) (d a b : Nat) (f : Nat → Nat → Nat → Nat) (s : State) : Out :=
  let t := modeET s.dr.mode
  vecOp { uses := us, typ := shiftType t } [d] (fun r l => elemLane t fun j =>
    let w := elemWidth t
    { x := f w (elemAt w (vlane r a l) j) (elemAt w (vlane r b l) j % w) }) s

/-- `vshl` saturates on an integer type when SAT is 1, else it drops the bits shifted out (06 R131). -/
def execVshl (d a b : BitVec 7) (ea eb ed : Bool) (s : State) : Out :=
  let t := modeET s.dr.mode
  vecOp { uses := useV3 d a b ea eb ed false, typ := shiftType t } [d.toNat] (fun r l => elemLane t fun j =>
    let w := elemWidth t
    let x := elemAt w (vlane r a.toNat l) j
    let k := elemAt w (vlane r b.toNat l) j % w
    if isI t then ofInt t r.mode (intVal t x * 2 ^ k) else { x := x * 2 ^ k % 2 ^ w }) s
def execVshr (d a b : BitVec 7) (ea eb ed : Bool) (s : State) : Out :=
  bitOp (useV3 d a b ea eb ed false) d.toNat a.toNat b.toNat (fun _ x k => x / 2 ^ k) s
/-- Copies of the element's top bit come in, whatever the type's sign (06 R131). -/
def execVsra (d a b : BitVec 7) (ea eb ed : Bool) (s : State) : Out :=
  bitOp (useV3 d a b ea eb ed false) d.toNat a.toNat b.toNat
    (fun w x k => if bitAt x (w - 1) then 2 ^ w - 1 - (2 ^ w - 1 - x) / 2 ^ k else x / 2 ^ k) s
def execVpop (d a : BitVec 7) (ea ed : Bool) (s : State) : Out :=
  bitOp (useV2 d a ea ed) d.toNat a.toNat a.toNat (fun w x _ => popcount w x) s
def execVclz (d a : BitVec 7) (ea ed : Bool) (s : State) : Out :=
  bitOp (useV2 d a ea ed) d.toNat a.toNat a.toNat (fun w x _ => clz w x) s

/-- The relations of the integer compares over all elements of a lane (06 R132). -/
def lanesAll (t : Nat) (x y : W32) (rel : Int → Int → Bool) : Bool :=
  (List.range (perLane t)).all fun j => rel (intVal t (elemAt (elemWidth t) x j)) (intVal t (elemAt (elemWidth t) y j))

/-- Register uses of a compare: sub 2 with two vectors, sub 3 against zero (03 R76). -/
def useCmp2 (x a : BitVec 7) (d : BitVec 6) (ea eb : Bool) : List Use := [srcV x.toNat ea, srcV a.toNat eb, dstS d.toNat]
def useCmp3 (a : BitVec 7) (d : BitVec 6) (ea : Bool) : List Use := [srcV a.toNat ea, dstS d.toNat]

/-- Types of `veq` and `vne`, where every other type is compared as raw bits (06 R132). -/
def eqType (t : Nat) : Bool := isI t || isBits t || isBX t

def intCmp2 (x a : BitVec 7) (d : BitVec 6) (ea eb : Bool) (ok : Nat → Bool) (f : Nat → W32 → W32 → Bool) (s : State) : Out :=
  let t := modeET s.dr.mode
  cmpOp { uses := useCmp2 x a d ea eb, typ := ok t } d.toNat
    (fun r l => (f t (vlane r x.toNat l) (vlane r a.toNat l), 0)) s
def intCmp3 (a : BitVec 7) (d : BitVec 6) (ea : Bool) (ok : Nat → Bool) (f : Nat → W32 → W32 → Bool) (s : State) : Out :=
  let t := modeET s.dr.mode
  cmpOp { uses := useCmp3 a d ea, typ := ok t } d.toNat (fun r l => (f t (vlane r a.toNat l) 0, 0)) s

def execVeqSub2 (x a : BitVec 7) (d : BitVec 6) (ea eb : Bool) (s : State) : Out :=
  intCmp2 x a d ea eb eqType (fun t p q => lanesAll t p q (· == ·)) s
def execVeqSub3 (a : BitVec 7) (d : BitVec 6) (ea : Bool) (s : State) : Out :=
  intCmp3 a d ea eqType (fun t p q => lanesAll t p q (· == ·)) s
/-- The complement of `veq` over each active lane (06 R132). -/
def execVneSub2 (x a : BitVec 7) (d : BitVec 6) (ea eb : Bool) (s : State) : Out :=
  intCmp2 x a d ea eb eqType (fun t p q => !lanesAll t p q (· == ·)) s
def execVneSub3 (a : BitVec 7) (d : BitVec 6) (ea : Bool) (s : State) : Out :=
  intCmp3 a d ea eqType (fun t p q => !lanesAll t p q (· == ·)) s
def execVltSub2 (x a : BitVec 7) (d : BitVec 6) (ea eb : Bool) (s : State) : Out :=
  intCmp2 x a d ea eb isI (fun t p q => lanesAll t p q (fun u v => decide (u < v))) s
def execVltSub3 (a : BitVec 7) (d : BitVec 6) (ea : Bool) (s : State) : Out :=
  intCmp3 a d ea isI (fun t p q => lanesAll t p q (fun u v => decide (u < v))) s
def execVleSub2 (x a : BitVec 7) (d : BitVec 6) (ea eb : Bool) (s : State) : Out :=
  intCmp2 x a d ea eb isI (fun t p q => lanesAll t p q (fun u v => decide (u ≤ v))) s
def execVleSub3 (a : BitVec 7) (d : BitVec 6) (ea : Bool) (s : State) : Out :=
  intCmp3 a d ea isI (fun t p q => lanesAll t p q (fun u v => decide (u ≤ v))) s

/-- A participating lane takes va where S[sb] has the chosen bit, else it keeps vd (06 R133). -/
def vselLane (d a sb : Nat) (want : Bool) (r : Drove) (l : Nat) : W32 :=
  if (sreg r sb).getLsbD l == want then vlane r a l else vlane r d l

def execVselSub0 (d a : BitVec 7) (sb : BitVec 6) (ea eb : Bool) (s : State) : Out :=
  rawOp [srcV a.toNat ea, srcS sb.toNat eb, dstV d.toNat] d.toNat (vselLane d.toNat a.toNat sb.toNat true) s
/-- In sub 1 the scalar is the first source, so ea governs it (03 R76). -/
def execVselSub1 (d a : BitVec 7) (sb : BitVec 6) (ea eb : Bool) (s : State) : Out :=
  rawOp [srcS sb.toNat ea, srcV a.toNat eb, dstV d.toNat] d.toNat (vselLane d.toNat a.toNat sb.toNat false) s

/-- S[sb][31:0] in every participating lane (06 R134). -/
def execVbcast (d : BitVec 7) (sb : BitVec 6) (eb : Bool) (s : State) : Out :=
  rawOp [srcS sb.toNat eb, dstV d.toNat] d.toNat (fun r _ => (sreg r sb.toNat).setWidth 32) s

/-- The lane's index within the drove (06 R134). -/
def execVlid (d : BitVec 7) (ed : Bool) (s : State) : Out :=
  rawOp [dstV d.toNat ed] d.toNat (fun _ l => BitVec.ofNat 32 l) s

/-- Integer conversion (06 R136), laid out by R135. -/
def execVcvt (d a : BitVec 7) (ea ed : Bool) (s : State) : Out :=
  let t := modeET s.dr.mode
  let st := modeST s.dr.mode
  let n := cvtDstRegs st t
  vecOp { uses := [srcTuple a.toNat (cvtSrcRegs st t) ea, dstTuple d.toNat n ed], typ := isI t && isI st }
    (tupleRegs d.toNat n) (fun r l => elemLanes t n fun i j =>
      ofInt t r.mode (intVal st (cvtSrc r st a.toNat l (i * perLane t + j)))) s

/-- Types of `vpack` and `vunpack`: 16- and 8-bit elements (06 R137). -/
def packType (t : Nat) : Bool := decide (elemWidth t < 32)

/-- A regrouping of the elements of va and vb, output `i` being element `f k i` of their sequence (06 R137). -/
def regroup (d a b : BitVec 7) (ea eb ed : Bool) (f : Nat → Nat → Nat) (s : State) : Out :=
  let t := modeET s.dr.mode
  let k := perLane t
  vecOp { uses := [srcV a.toNat ea, srcV b.toNat eb, dstTuple d.toNat 2 ed], typ := packType t } (tupleRegs d.toNat 2)
    (fun r l => elemLanes t 2 fun i j =>
      let e := f k (i * k + j)
      { x := elemAt (elemWidth t) (vlane r (if e < k then a.toNat else b.toNat) l) (e % k) }) s

/-- The even elements of the sequence, then the odd ones (06 R137). -/
def execVpack (d a b : BitVec 7) (ea eb ed : Bool) (s : State) : Out :=
  regroup d a b ea eb ed (fun k i => if i < k then 2 * i else 2 * (i - k) + 1) s
/-- The elements of va and vb in turn (06 R137). -/
def execVunpack (d a b : BitVec 7) (ea eb ed : Bool) (s : State) : Out :=
  regroup d a b ea eb ed (fun k i => i / 2 + k * (i % 2)) s

/-- One round of the mixer (02 R66). -/
def mixRound (p : W64 × W64) : W64 × W64 :=
  let x := p.1 + p.2
  let x := x ^^^ (x >>> 31)
  (x * 0xB7E35A91C4D26F0B, p.2.rotateLeft 17 + 0x8F3A6C1D52E9B477)

/-- mix(K, G, C): four rounds (02 R66). -/
def mix (k g c : W64) : W32 :=
  let x := (mixRound (mixRound (mixRound (mixRound (c, k ^^^ (g * 0x6A1F93C72E58B40D)))))).1
  (x ^^^ (x >>> 32)).setWidth 32

/-- n × 2^−b, exact in format `f` (06 R138). -/
def unitValue (f : Fmt) (n b : Nat) : Nat := (f.round 0 false false ⟨n, -(b : Int)⟩).1

/-- The form of a random word under ET (06 R138). -/
def randWord (t : Nat) (q : W32) : W32 :=
  let x := q.toNat
  match t with
  | 0 => BitVec.ofNat 32 (unitValue f32 (x / 256) 24)
  | 1 => packElems 16 [unitValue f16 (x % 65536 / 32) 11, unitValue f16 (x / 65536 / 32) 11]
  | 2 => packElems 16 [unitValue bf16 (x % 65536 / 256) 8, unitValue bf16 (x / 65536 / 256) 8]
  | _ => q

/-- The types of `vrand` (06 R138). -/
def randType (t : Nat) : Bool := isF t || isI t || t == 9

/-- RCTR advances at every issue, whether or not a lane is active (02 R67). -/
def nextRctr (d : Drove) : Drove := { d with rctr := d.rctr + 1, rwrap := d.rwrap || d.rctr == BitVec.allOnes 64 }

def execVrand (d : BitVec 7) (ed : Bool) (s : State) : Out :=
  let t := modeET s.dr.mode
  .next <| issue { uses := [dstV d.toNat ed], typ := randType t, masks := true } s fun s =>
    let s' := vecRun [d.toNat] (fun r l =>
      { words := [randWord t (mix r.rkey (BitVec.ofNat 64 (r.droveId.toNat * 64 + l)) r.rctr)] }) s
    onDr s' nextRctr

end Sys2Proof.Machine
end

