-- ==== Sys2Proof/Machine/VecFp.lean ====
section
/-! DEFINITION. Vector floating-point forms (06 R139-R151). -/

namespace Sys2Proof.Machine

/-- Element `j` of a lane, read as a floating-point operand of type `t` (02 R42, R44). -/
def fpElem (d : Drove) (t n l j : Nat) : FV :=
  (fmtOf t).read (modeFTZ d.mode) (elemAt (elemWidth t) (vlane d n l) j)

/-- A floating-point form whose element results are `f env d l j`. -/
def fpOp (us : List Use) (d : Nat) (f : Fenv → Drove → Nat → Nat → Res) (s : State) : Out :=
  let t := modeET s.dr.mode
  vecOp { uses := us, typ := isF t } [d] (fun r l => elemLane t fun j => ofRes (f (fenvOf r.mode t) r l j)) s

/-- A form on the operands va, vb and the old vd. -/
def fp3 (d a b : BitVec 7) (ea eb ed acc : Bool) (f : Fenv → FV → FV → FV → Res) (s : State) : Out :=
  let t := modeET s.dr.mode
  fpOp (useV3 d a b ea eb ed acc) d.toNat
    (fun c r l j => f c (fpElem r t a.toNat l j) (fpElem r t b.toNat l j) (fpElem r t d.toNat l j)) s

/-- A form on the operand va. -/
def fp1 (d a : BitVec 7) (ea ed : Bool) (f : Fenv → FV → Res) (s : State) : Out :=
  let t := modeET s.dr.mode
  fpOp (useV2 d a ea ed) d.toNat (fun c r l j => f c (fpElem r t a.toNat l j)) s

/-- A form on the encoding of va's element. -/
def fpBits (d a : BitVec 7) (ea ed : Bool) (f : Fenv → Nat → Res) (s : State) : Out :=
  let t := modeET s.dr.mode
  fpOp (useV2 d a ea ed) d.toNat (fun c r l j => f c (elemAt (elemWidth t) (vlane r a.toNat l) j)) s

def execFadd (d a b : BitVec 7) (ea eb ed : Bool) (s : State) : Out := fp3 d a b ea eb ed false (fun c x y _ => fpAdd c x y) s
def execFsub (d a b : BitVec 7) (ea eb ed : Bool) (s : State) : Out := fp3 d a b ea eb ed false (fun c x y _ => fpSub c x y) s
def execFmul (d a b : BitVec 7) (ea eb ed : Bool) (s : State) : Out := fp3 d a b ea eb ed false (fun c x y _ => fpMul c x y) s
def execFfma (d a b : BitVec 7) (ea eb ed : Bool) (s : State) : Out :=
  fp3 d a b ea eb ed true (fun c x y z => fpFma c false false x y z) s
def execFfms (d a b : BitVec 7) (ea eb ed : Bool) (s : State) : Out :=
  fp3 d a b ea eb ed true (fun c x y z => fpFma c false true x y z) s
def execFnma (d a b : BitVec 7) (ea eb ed : Bool) (s : State) : Out :=
  fp3 d a b ea eb ed true (fun c x y z => fpFma c true false x y z) s

/-- A minimum or maximum of two encodings per element (06 R140). -/
def fpMin3 (d a b : BitVec 7) (ea eb ed isMax : Bool) (s : State) : Out :=
  let t := modeET s.dr.mode
  fpOp (useV3 d a b ea eb ed false) d.toNat (fun c r l j =>
    fpMinMax c isMax (elemAt (elemWidth t) (vlane r a.toNat l) j) (elemAt (elemWidth t) (vlane r b.toNat l) j)) s

def execFmin (d a b : BitVec 7) (ea eb ed : Bool) (s : State) : Out := fpMin3 d a b ea eb ed false s
def execFmax (d a b : BitVec 7) (ea eb ed : Bool) (s : State) : Out := fpMin3 d a b ea eb ed true s

/-- Sign operations on the encoding (06 R141). -/
def execFabs (d a : BitVec 7) (ea ed : Bool) (s : State) : Out := fpBits d a ea ed (fun c x => (x % c.f.signBit true, 0)) s
def execFneg (d a : BitVec 7) (ea ed : Bool) (s : State) : Out :=
  fpBits d a ea ed (fun c x => ((x + c.f.signBit true) % 2 ^ c.f.width, 0)) s

/-- The relation of a compare over every element of a lane, and the NV that its operands raise (06 R132, R142). -/
def fpRel (t : Nat) (quietOk : Bool) (rel : FV → FV → Bool) (x y : Nat → FV) : Bool × Fl :=
  let js := List.range (perLane t)
  (js.all fun j => rel (x j) (y j),
   if js.any fun j => (x j).isSnan || (y j).isSnan || (!quietOk && ((x j).isNan || (y j).isNan)) then flNV else 0)

def fpCmp2 (x a : BitVec 7) (d : BitVec 6) (ea eb quietOk : Bool) (rel : FV → FV → Bool) (s : State) : Out :=
  let t := modeET s.dr.mode
  cmpOp { uses := useCmp2 x a d ea eb, typ := isF t } d.toNat
    (fun r l => fpRel t quietOk rel (fpElem r t x.toNat l) (fpElem r t a.toNat l)) s
def fpCmp3 (a : BitVec 7) (d : BitVec 6) (ea quietOk : Bool) (rel : FV → FV → Bool) (s : State) : Out :=
  let t := modeET s.dr.mode
  cmpOp { uses := useCmp3 a d ea, typ := isF t } d.toNat
    (fun r l => fpRel t quietOk rel (fpElem r t a.toNat l) (fun _ => .fin false 0 0)) s

/-- The relations of 06 R142: a NaN makes the first three false. -/
def relEq (x y : FV) : Bool := fpEq x y
def relLt (x y : FV) : Bool := !x.isNan && !y.isNan && fpLt false x y
def relLe (x y : FV) : Bool := !x.isNan && !y.isNan && (fpLt false x y || fpEq x y)
def relUn (x y : FV) : Bool := x.isNan || y.isNan

def execFeqSub2 (x a : BitVec 7) (d : BitVec 6) (ea eb : Bool) (s : State) : Out := fpCmp2 x a d ea eb true relEq s
def execFeqSub3 (a : BitVec 7) (d : BitVec 6) (ea : Bool) (s : State) : Out := fpCmp3 a d ea true relEq s
def execFltSub2 (x a : BitVec 7) (d : BitVec 6) (ea eb : Bool) (s : State) : Out := fpCmp2 x a d ea eb false relLt s
def execFltSub3 (a : BitVec 7) (d : BitVec 6) (ea : Bool) (s : State) : Out := fpCmp3 a d ea false relLt s
def execFleSub2 (x a : BitVec 7) (d : BitVec 6) (ea eb : Bool) (s : State) : Out := fpCmp2 x a d ea eb false relLe s
def execFleSub3 (a : BitVec 7) (d : BitVec 6) (ea : Bool) (s : State) : Out := fpCmp3 a d ea false relLe s
def execFunSub2 (x a : BitVec 7) (d : BitVec 6) (ea eb : Bool) (s : State) : Out := fpCmp2 x a d ea eb true relUn s
def execFunSub3 (a : BitVec 7) (d : BitVec 6) (ea : Bool) (s : State) : Out := fpCmp3 a d ea true relUn s

def execFrcp (d a : BitVec 7) (ea ed : Bool) (s : State) : Out := fp1 d a ea ed (fun c x => fpApprox c 0 x) s
def execFrsq (d a : BitVec 7) (ea ed : Bool) (s : State) : Out := fp1 d a ea ed (fun c x => fpApprox c 1 x) s
def execFsqrt (d a : BitVec 7) (ea ed : Bool) (s : State) : Out := fp1 d a ea ed fpSqrt s
def execFexp2 (d a : BitVec 7) (ea ed : Bool) (s : State) : Out := fp1 d a ea ed (fun c x => fpApprox c 2 x) s
def execFlog2 (d a : BitVec 7) (ea ed : Bool) (s : State) : Out := fp1 d a ea ed (fun c x => fpApprox c 3 x) s
def execFsin (d a : BitVec 7) (ea ed : Bool) (s : State) : Out := fp1 d a ea ed (fun c x => fpApprox c 4 x) s
def execFcos (d a : BitVec 7) (ea ed : Bool) (s : State) : Out := fp1 d a ea ed (fun c x => fpApprox c 5 x) s
def execFround (d a : BitVec 7) (ea ed : Bool) (s : State) : Out := fpBits d a ea ed fpRound s

/-- A conversion laid out by 06 R135: element results from the source element's encoding. -/
def cvtOp (d a : BitVec 7) (ea ed : Bool) (ok : Nat → Nat → Bool) (f : Drove → Nat → Nat → Nat → ElemOut) (s : State) : Out :=
  let t := modeET s.dr.mode
  let st := modeST s.dr.mode
  let n := cvtDstRegs st t
  vecOp { uses := [srcTuple a.toNat (cvtSrcRegs st t) ea, dstTuple d.toNat n ed], typ := ok st t }
    (tupleRegs d.toNat n) (fun r l => elemLanes t n fun i j => f r st t (cvtSrc r st a.toNat l (i * perLane t + j))) s

/-- Between floating-point types (06 R149). -/
def execFcvt (d a : BitVec 7) (ea ed : Bool) (s : State) : Out :=
  cvtOp d a ea ed (fun st t => isF st && isF t)
    (fun r st t x => ofRes (fpCvt (fenvOf r.mode t) ((fmtOf st).read (modeFTZ r.mode) x))) s

/-- To integers (06 R150): SAT is not read and SATD not set. -/
def execFcvti (d a : BitVec 7) (ea ed : Bool) (s : State) : Out :=
  cvtOp d a ea ed (fun st t => isF st && isI t)
    (fun r st t x =>
      let (n, fl) := fpToInt (modeRM r.mode) (intLo t) (intHi t) ((fmtOf st).read (modeFTZ r.mode) x)
      { x := intWord (elemWidth t) n, fl := fl }) s

/-- From integers (06 R151). A result beyond the largest finite value overflows, an n16 value that rounds past 65,504 in f16
too (02 R45; DEDUCED, assumption log 29). -/
def execFicvt (d a : BitVec 7) (ea ed : Bool) (s : State) : Out :=
  cvtOp d a ea ed (fun st t => isI st && isF t)
    (fun r st t x => ofRes ((fmtOf t).round (modeRM r.mode) (modeFTZ r.mode) false ⟨intVal st x, 0⟩)) s

/-- The scale n is element j of vb as an integer of the element's width (06 R147). -/
def execFscale (d a b : BitVec 7) (ea eb ed : Bool) (s : State) : Out :=
  let t := modeET s.dr.mode
  fpOp (useV3 d a b ea eb ed false) d.toNat (fun c r l j =>
    fpScale c (fpElem r t a.toNat l j) (intVal (if t = 0 then 3 else 5) (elemAt (elemWidth t) (vlane r b.toNat l) j))) s
def execFgetexp (d a : BitVec 7) (ea ed : Bool) (s : State) : Out := fp1 d a ea ed fpGetExp s
def execFgetman (d a : BitVec 7) (ea ed : Bool) (s : State) : Out := fp1 d a ea ed fpGetMan s
def execFclass (d a : BitVec 7) (ea ed : Bool) (s : State) : Out := fpBits d a ea ed (fun c x => (fpClass c.f x, 0)) s

end Sys2Proof.Machine
end

