-- ==== Sys2Proof/Machine/Eft.lean ====
section
/-! DEFINITION. Expansions, error-free transforms and the expansion instructions (02 R56-R60, 07). -/

namespace Sys2Proof.Machine

/-- The exact sum of finite words (02 R56). -/
def exactSum (ws : List FV) : Dy := ws.foldl (fun x w => x.add w.dy) .zero

/-- A word is infinite or a NaN (07 R154). -/
def special (ws : List FV) : Bool := ws.any fun w => !w.isFin

/-- The head of an input (07 R154): the IEEE sum of a special input's words in RNE, with the NV it raises; word 0 of any
other. -/
def headOf (c : Fenv) (ws : List FV) : FV × Fl :=
  match ws with
  | [] => (.fin false 0 0, 0)
  | w :: rest =>
    if special (w :: rest) then
      rest.foldl (fun (h, fl) x =>
        let r := fpAdd { c with rm := 0 } h x
        (c.f.read false r.1, fl ||| (r.2 &&& flNV))) (w, 0)
    else (w, 0)

/-- The words of a greedy expansion below word 0's overflow check (02 R57): `n` words remain, `q` is what is left. A tiny
remainder that is dropped because it rounds to zero is no word, and sets NX alone (DESIGN CHOICE, assumption log 29). -/
def greedyWords (c : Fenv) (zneg : Bool) : Nat → Dy → List Res
  | 0, _ => []
  | n + 1, q =>
    let near := c.f.round 0 c.ftz zneg q
    let left := q.sub (c.f.read false near.1).dy
    let last := n = 0 || (c.f.read false (c.f.round 0 c.ftz false left).1).isZero
    if last then c.f.round c.rm c.ftz zneg q :: List.replicate n (0, 0)
    else near :: greedyWords c false n left

/-- The GREEDY EXPANSION of an exact number in `n` words, and its flags (02 R57, 07 R160). -/
def greedy (c : Fenv) (n : Nat) (zneg : Bool) (x : Dy) : List Nat × Fl :=
  if x.m ≠ 0 ∧ ((c.f.round 0 false false x).2 &&& flOF) ≠ 0 then
    (c.f.overflow c.rm (decide (x.m < 0)) :: List.replicate (n - 1) 0, flOF ||| flNX)
  else
    let rs := greedyWords c zneg n x
    let same := rs.all (fun r => (c.f.read false r.1).isFin) && (exactSum (rs.map fun r => c.f.read false r.1)).eq x
    let fl := rs.foldl (fun fl r => fl ||| (r.2 &&& (flUF ||| flOF))) 0
    (rs.map (·.1), if same then 0 else fl ||| flNX)

/-- The words of element `j` of a tuple, as operands (07 R152). -/
def tupleElems (d : Drove) (t a n l j : Nat) : List FV := (List.range n).map fun i => fpElem d t (a + i) l j

/-- A lane of `n` words whose element `j` is the expansion `f j`. -/
def expLane (t n : Nat) (f : Nat → List Nat × Fl) : LaneOut :=
  let es := (List.range (perLane t)).map f
  { words := (List.range n).map fun i => packElems (elemWidth t) (es.map fun e => e.1.getD i 0)
    fl := es.foldl (fun fl e => fl ||| e.2) 0 }

/-- Word 0 of a special result, with +0 below it (07 R154). -/
def specialOut (n : Nat) (r : Res) (nv : Fl) : List Nat × Fl :=
  (r.1 :: List.replicate (n - 1) 0, (r.2 &&& flNV) ||| nv)

/-- `xadd`, `xsub`, `xmul`, `xfma` on the words of the inputs (07 R154, R160): `nd` negates the addend, and under `zmul` a
product of two zeros has the product's sign. A factor whose nonzero words sum to zero has word 0's sign (DESIGN CHOICE,
assumption log 29). -/
def expArith (c : Fenv) (n : Nat) (srcs a b d : List FV) (nd : Bool) (zmul : Bool) : List Nat × Fl :=
  if special a || special b || special d then
    let (ha, fa) := headOf c a
    let (hb, fb) := headOf c b
    let (hd, fd) := headOf c d
    let r := fmaWith c srcs false nd ha hb hd
    specialOut n r (fa ||| fb ||| fd)
  else
    let p := (exactSum a).mul (exactSum b)
    let x := p.add (if nd then (exactSum d).neg else exactSum d)
    let sgn := fun (ws : List FV) => (ws.headD .one).neg
    greedy c n (if zmul && (exactSum a).m == 0 && (exactSum b).m == 0 then sgn a != sgn b else c.rm == 3) x

/-- A one-input result: the greedy expansion of the input's sum in `n` words (07 R160, R161). -/
def expRenorm (c : Fenv) (n : Nat) (a : List FV) : List Nat × Fl :=
  if special a then
    let (h, fl) := headOf c a
    specialOut n (fpCvt c h) fl
  else greedy c n (c.rm == 3) (exactSum a)

/-- The sign of an exact zero sum of words: the one sign of zeros that agree, else − under RD (02 R45, 06 R139;
assumption log 12). -/
def zeroSign (rm : Nat) (ws : List FV) : Bool :=
  if ws.all (·.isZero) && (ws.all (·.neg) || ws.all (!·.neg)) then ws.all (·.neg) else rm == 3

/-- Length of an expansion (07 R153). -/
def expLen (s : State) : Nat := modeXL s.dr.mode + 1

/-- A two-source expansion form over `slots` issue slots. -/
def exp3 (d a b : BitVec 7) (ea eb ed acc : Bool) (slots : Nat)
    (f : Fenv → Nat → List FV → List FV → List FV → List Nat × Fl) (s : State) : Out :=
  let t := modeET s.dr.mode
  let n := expLen s
  let us := [srcTuple a.toNat n ea, srcTuple b.toNat n eb, if acc then srcTuple d.toNat n ed else dstTuple d.toNat n ed]
  vecOp { uses := us, typ := isF t, slots := slots } (tupleRegs d.toNat n) (fun r l => expLane t n fun j =>
    f (fenvOf r.mode t) n (tupleElems r t a.toNat n l j) (tupleElems r t b.toNat n l j) (tupleElems r t d.toNat n l j)) s

/-- The head of an input for NaN selection (02 R43). -/
def heads (c : Fenv) (ws : List (List FV)) : List FV := ws.map fun w => (headOf c w).1

def execXadd (d a b : BitVec 7) (ea eb ed : Bool) (s : State) : Out :=
  exp3 d a b ea eb ed false (expLen s) (fun c n x y _ => expArith c n (heads c [x, y]) x [.one] y false false) s
def execXsub (d a b : BitVec 7) (ea eb ed : Bool) (s : State) : Out :=
  exp3 d a b ea eb ed false (expLen s) (fun c n x y _ => expArith c n (heads c [x, y]) x [.one] y true false) s
/-- The zero added to the product has the product's sign (07 R160). -/
def execXmul (d a b : BitVec 7) (ea eb ed : Bool) (s : State) : Out :=
  exp3 d a b ea eb ed false (expLen s * expLen s) (fun c n x y _ =>
    let hs := heads c [x, y]
    let neg := (hs.headD .one).neg != ((hs.getD 1 .one).neg)
    expArith c n hs x y [.fin neg 0 0] false true) s
def execXfma (d a b : BitVec 7) (ea eb ed : Bool) (s : State) : Out :=
  exp3 d a b ea eb ed true (expLen s * expLen s + expLen s)
    (fun c n x y z => expArith c n (heads c [x, y, z]) x y z false false) s

/-- A one-source expansion form with a destination of `k` words. -/
def exp2 (d a : BitVec 7) (ea ed : Bool) (k : Nat → Nat) (ok : Bool) (f : Fenv → Nat → List FV → List Nat × Fl) (s : State) :
    Out :=
  let t := modeET s.dr.mode
  let n := expLen s
  vecOp { uses := [srcTuple a.toNat n ea, dstTuple d.toNat (k n) ed], typ := isF t && ok, slots := n }
    (tupleRegs d.toNat (k n))
    (fun r l => expLane t (k n) fun j => f (fenvOf r.mode t) n (tupleElems r t a.toNat n l j)) s

def execXrenorm (d a : BitVec 7) (ea ed : Bool) (s : State) : Out :=
  exp2 d a ea ed id true (fun c n x => expRenorm c n x) s
/-- Length n − 1; with XL 0 the type is refused (07 R161). -/
def execXcompress (d a : BitVec 7) (ea ed : Bool) (s : State) : Out :=
  exp2 d a ea ed (fun n => max 1 (n - 1)) (decide (1 < expLen s)) (fun c n x => expRenorm c (n - 1) x) s
/-- The single word round(A, RM) (07 R162). -/
def execXtop (d a : BitVec 7) (ea ed : Bool) (s : State) : Out :=
  exp2 d a ea ed (fun _ => 1) true (fun c _ x =>
    if special x then expRenorm c 1 x
    else
      let r := c.f.round c.rm c.ftz (zeroSign c.rm x) (exactSum x)
      ([r.1], r.2)) s
/-- round(A, RD) and round(A, RU), never flushed (07 R163). -/
def execXbound (d a : BitVec 7) (ea ed : Bool) (s : State) : Out :=
  exp2 d a ea ed (fun _ => 2) true (fun c _ x =>
    if special x then
      let (ws, fl) := expRenorm c 1 x
      ([ws.headD 0, ws.headD 0], fl)
    else
      let lo := c.f.round 3 false (zeroSign 3 x) (exactSum x)
      let hi := c.f.round 2 false (zeroSign 2 x) (exactSum x)
      ([lo.1, hi.1], lo.2 ||| hi.2)) s

/-- An error-free transform of one word each: destination of `k` words. -/
def eftOp (us : List Use) (d k slots : Nat) (f : Fenv → Drove → Nat → Nat → List Nat × Fl) (s : State) : Out :=
  let t := modeET s.dr.mode
  vecOp { uses := us, typ := isF t, slots := slots } (tupleRegs d k)
    (fun r l => expLane t k fun j => f { fenvOf r.mode t with rm := 0 } r l j) s

/-- A zero word below word 0 is +0 (02 R56, 07 R157; DEDUCED for one that rounds to zero, assumption log 12). -/
def lowerWord (f : Fmt) (w : Nat) : Nat := if w = f.zero true then 0 else w

/-- An error word (02 R59): the exact error rounded in RNE; a rounding sets UF and NX. -/
def errorWord (c : Fenv) (e : Dy) : Nat × Fl :=
  let r := c.f.round 0 c.ftz false e
  (lowerWord c.f r.1, if r.2 = 0 then 0 else flUF ||| flNX)

/-- A rounded result and its error (07 R157): `x` is the exact value, `r` its rounding with special operands dealt
with. The flags of a finite result are the error word's alone. -/
def eftPair (c : Fenv) (x : Dy) (r : Res) : List Nat × Fl :=
  let hi := c.f.read false r.1
  if !hi.isFin then ([r.1, 0], r.2)
  else
    let (lo, fl) := errorWord c (x.sub hi.dy)
    ([r.1, lo], fl)

def usePair (d a b : BitVec 7) (ea eb ed : Bool) : List Use := [srcV a.toNat ea, srcV b.toNat eb, dstTuple d.toNat 2 ed]

def execTwosum (d a b : BitVec 7) (ea eb ed : Bool) (s : State) : Out :=
  let t := modeET s.dr.mode
  eftOp (usePair d a b ea eb ed) d.toNat 2 1 (fun c r l j =>
    let x := fpElem r t a.toNat l j
    let y := fpElem r t b.toNat l j
    eftPair c (x.dy.add y.dy) (fpAdd c x y)) s
def execTwoprod (d a b : BitVec 7) (ea eb ed : Bool) (s : State) : Out :=
  let t := modeET s.dr.mode
  eftOp (usePair d a b ea eb ed) d.toNat 2 1 (fun c r l j =>
    let x := fpElem r t a.toNat l j
    let y := fpElem r t b.toNat l j
    eftPair c (x.dy.mul y.dy) (fpMul c x y)) s

/-- The three-step transform (07 R158): UF as `twosum` sets it, NX when the pair is not the exact sum. -/
def fastTwoSum (c : Fenv) (a b : FV) : List Nat × Fl :=
  let s := fpAdd c a b
  let hi := c.f.read c.ftz s.1
  if !hi.isFin then ([s.1, 0], s.2)
  else
    let z := c.f.read c.ftz (fpSub c hi a).1
    let e := fpSub c b z
    let lo := c.f.read false e.1
    let same := lo.isFin && (hi.dy.add lo.dy).eq (a.dy.add b.dy)
    ([s.1, lowerWord c.f e.1], ((errorWord c ((a.dy.add b.dy).sub hi.dy)).2 &&& flUF) ||| (if same then 0 else flNX))

def execFtwosum (d a b : BitVec 7) (ea eb ed : Bool) (s : State) : Out :=
  let t := modeET s.dr.mode
  eftOp (usePair d a b ea eb ed) d.toNat 2 1
    (fun c r l j => fastTwoSum c (fpElem r t a.toNat l j) (fpElem r t b.toNat l j)) s

/-- `x` is a multiple of the format's smallest magnitude s (02 R41). -/
def onGrid (f : Fmt) (x : Dy) : Bool := decide (x.m % 2 ^ (f.sexp - x.e).toNat = 0)

/-- The three words of a fused multiply-add (07 R159): exact when x − w0 is on the grid and no tiny x − w0 is flushed, else
each error word is rounded. -/
def fmaErr (c : Fenv) (a b d : FV) : List Nat × Fl :=
  let r := fpFma c false false a b d
  let w0 := c.f.read false r.1
  if !w0.isFin then ([r.1, 0, 0], r.2)
  else
    let x := (a.dy.mul b.dy).add d.dy
    let q := x.sub w0.dy
    let same := q.m = 0 || (onGrid c.f q && !(c.ftz && decide (q.log < c.f.emin)))
    let word (y : Dy) : Nat := lowerWord c.f (c.f.round 0 (c.ftz && !same) false y).1
    let w1 := word q
    let w2 := word (q.sub (c.f.read false w1).dy)
    ([if x.m = 0 then 0 else r.1, w1, w2], if same then 0 else flUF ||| flNX)

/-- Word vd alone of the 3-tuple is a source too (07 R153). -/
def execFmaerr (d a b : BitVec 7) (ea eb ed : Bool) (s : State) : Out :=
  let t := modeET s.dr.mode
  eftOp [srcV a.toNat ea, srcV b.toNat eb, srcV d.toNat ed, dstTuple d.toNat 3 ed] d.toNat 3 2
    (fun c r l j => fmaErr c (fpElem r t a.toNat l j) (fpElem r t b.toNat l j) (fpElem r t d.toNat l j)) s

/-- A bit operation on all n words; it knows word 0's encoding (07 R164). -/
def signOp (d a : BitVec 7) (ea ed : Bool) (f : Fmt → Nat → Nat → Nat) (s : State) : Out :=
  let t := modeET s.dr.mode
  let n := expLen s
  vecOp { uses := [srcTuple a.toNat n ea, dstTuple d.toNat n ed], typ := isF t } (tupleRegs d.toNat n)
    (fun r l => elemLanes t n fun i j =>
      { x := f (fmtOf t) (elemAt (elemWidth t) (vlane r a.toNat l) j) (elemAt (elemWidth t) (vlane r (a.toNat + i) l) j) }) s

/-- The encoding with its sign bit inverted. -/
def flipSign (f : Fmt) (x : Nat) : Nat := (x + f.signBit true) % 2 ^ f.width

def execXneg (d a : BitVec 7) (ea ed : Bool) (s : State) : Out := signOp d a ea ed (fun f _ x => flipSign f x) s
def execXabs (d a : BitVec 7) (ea ed : Bool) (s : State) : Out :=
  signOp d a ea ed (fun f w0 x => if f.sign w0 then flipSign f x else x) s

/-- hi and lo of 07 R165: `h` significant bits, and the exact rest. -/
def splitWord (c : Fenv) (a : FV) : List Nat × Fl :=
  match a with
  | .nan _ _ => let r := nanOut c [a] false; ([r.1, 0], r.2)
  | .inf neg => ([c.f.infinity neg, 0], 0)
  | .fin neg m e =>
    if m = 0 then ([c.f.zero neg, 0], 0)
    else
      let h := c.f.p / 2
      let sh := Nat.log2 m + 1 - h
      let n := m / 2 ^ sh
      let near := if roundsUp 0 neg n (m % 2 ^ sh) (2 ^ sh) then n + 1 else n
      let w := c.f.roundMag 0 false neg near (e + sh)
      let w := if (w.2 &&& flOF) = 0 then w.1 else (c.f.roundMag 1 false neg n (e + sh)).1
      ([w, (c.f.round 0 false false (a.dy.sub (c.f.read false w).dy)).1], 0)

def execXsplit (d a : BitVec 7) (ea ed : Bool) (s : State) : Out :=
  let t := modeET s.dr.mode
  eftOp [srcV a.toNat ea, dstTuple d.toNat 2 ed] d.toNat 2 1 (fun c r l j => splitWord c (fpElem r t a.toNat l j)) s

/-- The relation of two expansions, and the NV it raises (07 R166). -/
def expRel (c : Fenv) (quietOk : Bool) (rel : FV → FV → Bool) (drel : Dy → Dy → Bool) (x y : List FV) : Bool × Fl :=
  if special x || special y then
    let (hx, fx) := headOf c x
    let (hy, fy) := headOf c y
    let nv := hx.isSnan || hy.isSnan || (!quietOk && (hx.isNan || hy.isNan))
    (rel hx hy, fx ||| fy ||| (if nv then flNV else 0))
  else (drel (exactSum x) (exactSum y), 0)

/-- A compare of expansions per lane. -/
def expCmp (us : List Use) (d : Nat) (quietOk : Bool) (rel : FV → FV → Bool) (drel : Dy → Dy → Bool)
    (x y : Drove → Nat → Nat → List FV) (s : State) : Out :=
  let t := modeET s.dr.mode
  cmpOp { uses := us, typ := isF t, slots := expLen s } d (fun r l =>
    let rs := (List.range (perLane t)).map fun j => expRel (fenvOf r.mode t) quietOk rel drel (x r l j) (y r l j)
    (rs.all (·.1), rs.foldl (fun fl r => fl ||| r.2) 0)) s

def expCmp2 (x a : BitVec 7) (d : BitVec 6) (ea eb quietOk : Bool) (rel : FV → FV → Bool) (drel : Dy → Dy → Bool) (s : State) :
    Out :=
  let t := modeET s.dr.mode
  let n := expLen s
  expCmp [srcTuple x.toNat n ea, srcTuple a.toNat n eb, dstS d.toNat] d.toNat quietOk rel drel
    (fun r l j => tupleElems r t x.toNat n l j) (fun r l j => tupleElems r t a.toNat n l j) s
def expCmp3 (a : BitVec 7) (d : BitVec 6) (ea quietOk : Bool) (rel : FV → FV → Bool) (drel : Dy → Dy → Bool) (s : State) : Out :=
  let t := modeET s.dr.mode
  let n := expLen s
  expCmp [srcTuple a.toNat n ea, dstS d.toNat] d.toNat quietOk rel drel
    (fun r l j => tupleElems r t a.toNat n l j) (fun _ _ _ => [.fin false 0 0]) s

/-- Exact a ≤ b. -/
def Dy.le (a b : Dy) : Bool := !b.lt a

def execXeqSub2 (x a : BitVec 7) (d : BitVec 6) (ea eb : Bool) (s : State) : Out := expCmp2 x a d ea eb true relEq Dy.eq s
def execXeqSub3 (a : BitVec 7) (d : BitVec 6) (ea : Bool) (s : State) : Out := expCmp3 a d ea true relEq Dy.eq s
def execXltSub2 (x a : BitVec 7) (d : BitVec 6) (ea eb : Bool) (s : State) : Out := expCmp2 x a d ea eb false relLt Dy.lt s
def execXltSub3 (a : BitVec 7) (d : BitVec 6) (ea : Bool) (s : State) : Out := expCmp3 a d ea false relLt Dy.lt s
def execXleSub2 (x a : BitVec 7) (d : BitVec 6) (ea eb : Bool) (s : State) : Out := expCmp2 x a d ea eb false relLe Dy.le s
def execXleSub3 (a : BitVec 7) (d : BitVec 6) (ea : Bool) (s : State) : Out := expCmp3 a d ea false relLe Dy.le s

/-- An f64 image in a register pair: the first register holds bits [31:0] (07 R167). -/
def f64At (d : Drove) (a l : Nat) : Nat := (vlane d a l).toNat + 2 ^ 32 * (vlane d (a + 1) l).toNat

/-- f64 to an expansion of f32 words (02 R60, 07 R167): a zero keeps its sign. -/
def fromF64 (c : Fenv) (n w : Nat) : List Nat × Fl :=
  match f64.read false w with
  | .fin neg m e =>
    if m = 0 then (c.f.zero neg :: List.replicate (n - 1) 0, 0)
    else greedy c n false ⟨if neg then -(m : Int) else m, e⟩
  | x => specialOut n (fpCvt c x) 0

/-- An expansion of f32 words to f64 (02 R60, 07 R167), as the two words of the image. -/
def toF64 (c : Fenv) (ws : List FV) : List Nat × Fl :=
  let r := if special ws then
      let (h, fl) := headOf c ws
      let r := fpCvt { c with f := f64 } h
      (r.1, r.2 ||| fl)
    else f64.round c.rm false (zeroSign c.rm ws) (exactSum ws)
  ([r.1 % 2 ^ 32, r.1 / 2 ^ 32], r.2)

/-- Source and destination registers, and accepted types, of a conversion code (07 R167). -/
def xcvtSrc (code n : Nat) : Nat := match code with | 0 => 2 | 3 => 1 | _ => n
def xcvtDst (code n : Nat) : Nat := if code = 1 then 2 else n
def xcvtType (code st t : Nat) : Bool :=
  match code with
  | 0 | 1 => t == 0
  | 2 => isF st && isF t && elemWidth st == elemWidth t
  | _ => (st == 3 || st == 4) && t == 0

/-- Element `j` of a conversion (07 R167). -/
def xcvtElem (code n a st t : Nat) (r : Drove) (l j : Nat) : List Nat × Fl :=
  let c := fenvOf r.mode t
  match code with
  | 0 => fromF64 c n (f64At r a l)
  | 1 => toF64 c (tupleElems r t a n l j)
  | 2 =>
    let ws := tupleElems r st a n l j
    if special ws then
      let (h, fl) := headOf (fenvOf r.mode st) ws
      specialOut n (fpCvt c h) fl
    else greedy c n (c.rm == 3) (exactSum ws)
  | _ => greedy c n false ⟨intVal st (vlane r a l).toNat, 0⟩

def execXcvt (d a code : BitVec 7) (ea ed : Bool) (s : State) : Out :=
  let t := modeET s.dr.mode
  let st := modeST s.dr.mode
  let n := expLen s
  let k := xcvtDst code.toNat n
  vecOp { uses := [srcTuple a.toNat (xcvtSrc code.toNat n) ea, dstTuple d.toNat k ed],
          typ := xcvtType code.toNat st t, slots := n, bad := decide (3 < code.toNat) }
    (tupleRegs d.toNat k)
    (fun r l => expLane t k fun j => xcvtElem code.toNat n a.toNat st t r l j) s

end Sys2Proof.Machine
end

