-- ==== Sys2Proof/Machine/L1.lean ====
section
/-! DEFINITION. The L1 data caches: copies, replacement, write-back, epochs and their sweeps (09 R188, R189, 13 R296,
15 R331, R340, R341). -/

namespace Sys2Proof.Machine

/-- The leaf that maps a VA now, if any. -/
def leafAt (s : State) (c : BitVec 16) (va : Nat) : Option Leaf :=
  match (translate s c va).1 with
  | .leaf l => some l
  | .fail _ _ => none

/-- Ways that a core's L1 keeps beside its SRAM window (13 R292, R296). -/
def l1Ways (s : State) (core : Nat) : Nat := 16 - [0, 2, 4, 8].getD (coreOf s core).window 0

/-- The set of a granule VA (13 R296). -/
def l1Set (va : Nat) : Nat := va / 128 % 128

/-- A copy by its tag (13 R289). -/
def findL1 (s : State) (core : Nat) (ctx : BitVec 16) (va : Nat) : Option L1Line :=
  s.coh.l1.find? fun l => l.core == core && l.ctx == ctx && l.va == granOf va

/-- A write-back reaches the pasture (14 R307). -/
def pastureWriteBack (s : State) (l : L1Line) : State :=
  if l.dirty = 0 then s
  else
    match leafAt s l.ctx l.va with
    | some lf => pastureAccess s lf.attr l.ctx l.va l.dpa (dieOfCore l.core) true
    | none => s

/-- The owner's dirty words outside WMASK are merged at the home (15 R331, R333). Those of a non-coherent copy are a write there, before
which the host's copy goes (15 R339). -/
def mergeBack (s : State) (l : L1Line) : State :=
  let keep := if l.owned then (dirOf s l.dpa).wmask else 0
  let s := if l.owned then s else takeWrite s l.dpa (BitVec.allOnes 32) true (some (dieOfCore l.core))
  pastureWriteBack (onHbm s fun m => mergeLine m l keep) l

/-- A granule's entry returns to I, and its queue goes on (15 R331). -/
def toIdle (s : State) (g : Nat) : State :=
  let e := dirOf s g
  setDir s { DirEntry.idle g with queue := e.queue }

/-- A copy leaves its L1 (15 R331, R332): an owned one is written back and its entry takes I, a dirty one of a
non-coherent page is written back, a clean one leaves silently. -/
def leaveL1 (s : State) (l : L1Line) : State :=
  let s := if l.owned then toIdle (mergeBack s l) l.dpa else if l.dirty ≠ 0 then mergeBack s l else s
  dropL1 s (sameL1 l)

/-- The owner's copy of a granule becomes a whole, clean, registered one (15 R329). -/
def cleanCopy (s : State) (l : L1Line) : State :=
  let data := gOf (memBytes s.mem.hbm l.dpa 128)
  mapL1 s (sameL1 l) fun x => { x with data := data, valid := BitVec.allOnes 32, dirty := 0, owned := false, reg := true }

/-- A read by an engine or a peer, as a `.w` load is (11 R245, 15 R330): an owner is recalled to shared first. It meets a busy
granule: the step is not taken. On a non-coherent page only a host owner is recalled (15 R339). -/
def takeReadOf (s : State) (g : Nat) (nc : Bool) : State :=
  let e := dirOf s g
  if busyGranule s g then meetBusy s g
  else if !hasOwner e || (nc && !e.hown) then s
  else if e.hown then
    setDir (onHbm s fun m => mergeBytes m e.hostDirty) { e with st := .s, hown := false, host := true, hostDirty := [], wmask := 0 }
  else
    match ownedLine s e.owner g with
    | some l => setDir (cleanCopy (mergeBack s l) l) { e with st := .s, sharers := 1#64 <<< e.owner, owner := 0, wmask := 0 }
    | none => s

/-- The granules of `n` bytes are read. -/
def takeRead (s : State) (a n : Nat) (nc : Bool) : State :=
  (List.range ((a % 128 + n + 127) / 128)).foldl (fun s i => takeReadOf s (granOf a + 128 * i) nc) s

/-- A copy may be chosen as a victim: no message to its owner is on the way. -/
def evictable (s : State) (l : L1Line) : Bool := !(l.owned && (dirOf s l.dpa).st == .t)

/-- The copy of the lowest way among those that satisfy `p`. -/
def lowestL1 (ls : List L1Line) (p : L1Line → Bool) : Option L1Line :=
  (ls.filter p).foldl (fun o l =>
    match o with
    | some x => if l.way < x.way then some l else some x
    | none => some l) none

/-- The granule lies in the interleaved space of a drove on its core, below SLIM (13 R293, R294). -/
def inStackSpace (s : State) (l : L1Line) : Bool :=
  (allDroves s).any fun d => d.cond != .vacant && d.core == l.core && d.ctx == l.ctx &&
    decide (l.va < d.pbase.toNat + d.width * d.slim.toNat) && decide (d.pbase.toNat < l.va + 128)

/-- Lines that a core's stack cache holds: 128 KiB, of which a line's room is each resident drove's for its link entries
(05 R115, 13 R294). -/
def stackFull (s : State) (core : Nat) : Bool :=
  decide (1024 ≤ (s.coh.l1.filter fun l => l.core == core && l.stack).length +
    ((allDroves s).filter fun d => d.cond != .vacant && d.cond != .exited && d.core == core).length)

/-- A victim leaves its L1: a dirty line of interleaved space goes to the stack cache, from which another is written back when
it is full (13 R294); any other leaves the core. -/
def evictL1 (s : State) (l : L1Line) : State :=
  if l.dirty = 0 || !inStackSpace s l then leaveL1 s l
  else
    match if stackFull s l.core then (s.coh.l1.find? fun x => x.core == l.core && x.stack && evictable s x) else some l with
    | none => leaveL1 s l
    | some x => mapL1 (if sameL1 x l then s else leaveL1 s x) (sameL1 l) fun y => { y with stack := true, way := 0 }

/-- A way for a new copy in a set: an empty one, else by the age bits (13 R296, 14 R306). -/
def makeL1Way (s : State) (core va : Nat) : Nat × State :=
  let ls := s.coh.l1.filter fun l => l.core == core && !l.stack && l1Set l.va == l1Set va
  match (List.range (l1Ways s core)).find? fun w => !ls.any fun l => l.way == w with
  | some w => (w, s)
  | none =>
    match lowestL1 ls fun l => evictable s l && !l.age with
    | some l => (l.way, evictL1 s l)
    | none =>
      match lowestL1 ls (evictable s) with
      | some l =>
        let s := evictL1 s l
        (l.way, mapL1 s (fun x => x.core == core && !x.stack && l1Set x.va == l1Set va) fun x => { x with age := false })
      | none => (0, s)

/-- Puts a copy into its L1, in the place of a copy with the same tag. Shepherd cores keep no copies (assumption
log 14). -/
def fillL1 (s : State) (l : L1Line) : State :=
  if 64 ≤ l.core then s
  else
    match (findL1 s l.core l.ctx l.va).filter fun x => !x.stack with
    | some x => mapL1 s (sameL1 l) fun _ => { l with way := x.way, age := true }
    | none =>
      let (w, s) := makeL1Way (dropL1 s (sameL1 l)) l.core l.va
      { s with coh := { s.coh with l1 := { l with way := w, age := true } :: s.coh.l1 } }

/-- A copy in the stack cache is filled into the L1 again at its use (13 R294). -/
def unstack (s : State) (l : L1Line) : State :=
  if l.stack then
    let (w, s) := makeL1Way s l.core l.va
    mapL1 s (sameL1 l) fun x => { x with stack := false, way := w }
  else s

/-- The bytes of a granule image from `off` up. -/
def gBytes (g : Granule) (off n : Nat) : List Byte := (List.range n).map fun i => gByte g (off + i)

/-- A granule image with bytes written from `off` up. -/
def gPut (g : Granule) (off : Nat) (bs : List Byte) : Granule :=
  (bs.zipIdx).foldl (fun g (b, i) => gSet g (off + i) b) g

/-- The byte mask of `n` bytes from `off` up. -/
def byteMask (off n : Nat) : BitVec 128 := BitVec.ofNat 128 ((2 ^ n - 1) * 2 ^ off)

/-- A copy with bytes written; `dirty` says that memory does not have them. -/
def linePut (l : L1Line) (off : Nat) (bs : List Byte) (dirty : Bool) : L1Line :=
  let m := byteMask off bs.length
  { l with data := gPut l.data off bs, dirty := if dirty then l.dirty ||| m else l.dirty &&& ~~~m, age := true }

/-- The granule as the home serves it. -/
def homeGranule (s : State) (g : Nat) : Granule := gOf (homeBytes s g 128)

/-- The stamp of an unregistered copy of domain `dom` (15 R340): copies of drove and flock domain carry none. -/
def stampOf (s : State) (core dom : Nat) : Option Nat := if 2 ≤ dom then some (coreOf s core).epoch else none

/-- EPOCH increments: every stamped copy of the core is dropped at once, also before it wraps (15 R340). A sleeping L1
sets its missed-sweep flag (15 R341). -/
def epochSweep (s : State) (core : Nat) : State :=
  if (coreOf s core).asleep then onCore s core fun c => { c with missed := true }
  else
    let s := dropL1 s fun l => l.core == core && l.stamp.isSome
    onCore s core fun c => { c with epoch := (c.epoch + 1) % 65536 }

/-- The drop of an acquire (09 R189). -/
def acquireDrop (s : State) : State := epochSweep s s.dr.core

/-- The drop at the admission or resumption of a drove: every domain (12 R274). -/
def admissionDrop (s : State) (core : Nat) : State :=
  epochSweep (dropL1 s fun l => l.core == core && !l.reg && !l.owned && !l.nc) core

/-- An L1 wakes: a missed sweep drops every unregistered and every stamped copy first (15 R341). -/
def wakeL1 (s : State) (core : Nat) : State :=
  if (coreOf s core).asleep then
    let s := if (coreOf s core).missed then dropL1 s fun l => l.core == core && ((!l.reg && !l.owned) || l.stamp.isSome) else s
    onCore s core fun c => { c with asleep := false, missed := false }
  else s

/-- `vwb` and a context save keep a whole, clean, registered copy of an owned granule (15 R331): the entry takes S. A
copy of a non-coherent page stays unregistered (09 R198). -/
def vwbLine (s : State) (l : L1Line) : State :=
  let s := mergeBack s l
  if l.owned then
    let e := dirOf s l.dpa
    let s := setDir s { e with st := .s, owner := 0, wmask := 0, sharers := 1#64 <<< l.core }
    let data := gOf (memBytes s.mem.hbm l.dpa 128)
    mapL1 s (sameL1 l) fun x => { x with data := data, valid := BitVec.allOnes 32, dirty := 0, owned := false, reg := true }
  else mapL1 s (sameL1 l) fun x => { x with dirty := 0 }

end Sys2Proof.Machine
end

