-- ==== Sys2Proof/Machine/BlockFormat.lean ====
section
/-! DEFINITION. BX pages: format frames, blocks, the side list, decode and encode (02 R49-R55, 15 R336). -/

namespace Sys2Proof.Machine

/-- A format frame in memory: its DPA, bytes, element format (1 bx8, 2 bx6, 3 bx4) and geometry field (02 R51). -/
structure Frame where
  base : Nat
  size : Nat
  ef   : Nat
  geo  : Nat
  nc   : Bool             -- its page is outside the directory (15 R339)
  deriving DecidableEq, Repr

/-- Code bits, mantissa bits, bias and largest code of a format (02 R50). -/
def bxBits (ef : Nat) : Nat := [0, 8, 6, 4].getD ef 4
def bxMant (ef : Nat) : Nat := [0, 3, 2, 1].getD ef 1
def bxBias (ef : Nat) : Int := [0, 7, 3, 1].getD ef 1
def bxMax (ef : Nat) : Nat := [0, 0x7F, 0x1F, 0x7].getD ef 7

/-- Side-list entries, trailer included (02 R51, R52). -/
def bxCap (geo : Nat) : Nat := [0, 64, 256, 1024].getD (geo % 4) 0

/-- Payload bytes, data-area bytes and block count of a frame (02 R51). -/
def Frame.payload (f : Frame) : Nat := 4 * bxBits f.ef
def Frame.data (f : Frame) : Nat := f.size - 8 * bxCap f.geo
def Frame.packed (f : Frame) : Bool := bitAt f.geo 2
def Frame.blocks (f : Frame) : Nat :=
  if f.packed then f.data / (f.payload + 8) else 2 ^ Nat.log2 (f.data / (f.payload + 8))

/-- DPAs of a block's header, selector and payload (02 R51). -/
def Frame.hdr (f : Frame) (n : Nat) : Nat :=
  f.base + if f.packed then (f.payload + 8) * n else f.blocks * f.payload + 4 * f.blocks + 4 * n
def Frame.sel (f : Frame) (n : Nat) : Nat :=
  f.base + if f.packed then (f.payload + 8) * n + 4 else f.blocks * f.payload + 4 * n
def Frame.pay (f : Frame) (n : Nat) : Nat := f.base + if f.packed then (f.payload + 8) * n + 8 else f.payload * n

/-- DPA of a side-list entry, and of the trailer (02 R52). -/
def Frame.side (f : Frame) (k : Nat) : Nat := f.base + f.data + 8 * k
def Frame.trailer (f : Frame) : Nat := f.side (bxCap f.geo - 1)

/-- The frame that holds a page's byte: the page, or its aligned 2 MiB part (02 R51). -/
def frameOf (l : Leaf) (va : Nat) : Frame × Nat :=
  let size := min l.size 0x200000
  let o := va % size
  ({ base := l.dpa - o, size := size, ef := leafEf l.attr, geo := leafGeo l.attr,
     nc := leafNc l.attr || leafHome l.attr == 3 }, o)

/-- Code `i` of a block, its selector bit, and the fields of its header. -/
def Frame.code (f : Frame) (s : State) (n i : Nat) : Nat := homeRead s (f.pay n) f.payload / 2 ^ (bxBits f.ef * i) % 2 ^ bxBits f.ef
def Frame.header (f : Frame) (s : State) (n : Nat) : Nat := homeRead s (f.hdr n) 4
def Frame.selector (f : Frame) (s : State) (n : Nat) : Nat := homeRead s (f.sel n) 4

/-- The escape code, negative zero (02 R50). -/
def bxEscape (ef : Nat) : Nat := 2 ^ (bxBits ef - 1)

/-- The exact magnitude of a code under exponent byte `eb` (02 R50). -/
def bxMag (ef code eb : Nat) : Nat × Int :=
  let m := bxMant ef
  let x := code % 2 ^ (bxBits ef - 1)
  let e := x / 2 ^ m
  let scale : Int := (eb : Int) - 127
  if e = 0 then (x % 2 ^ m, 1 - bxBias ef - m + scale) else (2 ^ m + x % 2 ^ m, (e : Int) - bxBias ef - m + scale)

/-- A decoded element: a NaN with no error, a mismatched escape, or a value (02 R53). -/
inductive BxElem where
  | nan
  | mismatch
  | val (v : FV)
  deriving DecidableEq, Repr

/-- The f32 value held for the escape of frame element `e`, whose block's first entry is `ol` and which is the `k`-th
escape of its block (02 R52, R53). -/
def Frame.outlier (f : Frame) (s : State) (ol k e : Nat) : BxElem :=
  if ol = 0xFFFF ∨ bxCap f.geo = 0 then .mismatch
  else
    let w := homeRead s (f.side (ol + k)) 8
    let fill := homeRead s f.trailer 2
    if fill ≤ ol + k ∨ bits w 23 0 ≠ e then .mismatch else .val (f32.read false (bits w 63 32))

/-- Decodes frame element `e` (02 R53). -/
def Frame.decode (f : Frame) (s : State) (e : Nat) : BxElem :=
  let n := e / 32
  let i := e % 32
  let h := f.header s n
  let ea := bits h 7 0
  let eb := bits h 15 8
  if ea = 0xFF ∨ eb = 0xFF then .nan
  else
    let c := f.code s n i
    if c = bxEscape f.ef then f.outlier s (bits h 31 16) (countLanes i fun j => f.code s n j == bxEscape f.ef) e
    else
      let (m, x) := bxMag f.ef c (if bitAt (f.selector s n) i then eb else ea)
      .val (.fin (bitAt c (bxBits f.ef - 1)) m x)

/-- A decoded element in a destination format, with its flags; a mismatch gives the canonical NaN (02 R53). -/
def bxRound (c : Fenv) : BxElem → Res
  | .nan => (c.f.canonical, 0)
  | .mismatch => (c.f.canonical, 0)
  | .val v => fpCvt c v

/-- Adds one to the 16-bit saturating count of a die in a four-count register (13 R285). -/
def countLane16 (s : State) (reg die : Nat) : State :=
  let x := (privReg s reg).toNat
  if bits x (16 * die + 15) (16 * die) = 0xFFFF then s else setPriv s reg (BitVec.ofNat 64 (x + 2 ^ (16 * die)))

/-- A mismatched escape is counted in FMTERR (02 R53). -/
def countMismatch (s : State) (die : Nat) : BxElem → State
  | .mismatch => countLane16 s 0x8D die
  | _ => s

/-- ⌊log2⌋ of a source value that is finite and not zero. -/
def bxExp : FV → Option Int
  | .fin neg m e => if m = 0 then none else some (FV.fin neg m e).dy.log
  | _ => none

/-- The code of a magnitude under exponent byte `eb`, RNE; one above the largest code marks an outlier (02 R54). -/
def bxCode (ef eb m : Nat) (e : Int) : Nat :=
  let e := e - ((eb : Int) - 127)
  let mb := bxMant ef
  let lo : Int := 1 - bxBias ef
  let k := max ((Nat.log2 m : Int) + e) lo
  let q := k - mb
  let m := m * 2 ^ (e - q).toNat
  let d := 2 ^ (q - e).toNat
  let n := if roundsUp 0 false (m / d) (m % d) d then m / d + 1 else m / d
  if n < 2 ^ mb then n else (k - lo).toNat * 2 ^ mb + n

/-- An encoded block: header exponents, selector, codes, and the outliers by element with their f32 words (02 R54). -/
structure BxBlock where
  ea    : Nat
  eb    : Nat
  sel   : Nat
  codes : List Nat
  outs  : List (Nat × Nat)
  nan   : Bool
  deriving DecidableEq, Repr

/-- A clamped exponent byte (02 R54). -/
def clampExp (x : Int) : Nat := (max 0 (min 254 x)).toNat

/-- Encodes 32 values, given with their f32 words (02 R54). -/
def bxEncode (ef : Nat) (xs : List (FV × Nat)) : BxBlock :=
  if xs.any (·.1.isNan) then { ea := 0xFF, eb := 0xFF, sel := 0, codes := List.replicate 32 0, outs := [], nan := true }
  else
    let es := xs.filterMap fun x => bxExp x.1
    match es.max? with
    | none =>
      { ea := 0, eb := 0, sel := 0, codes := xs.map fun x => if x.1.isInf then bxEscape ef else 0,
        outs := (xs.zipIdx.filter fun x => x.1.1.isInf).map fun (x, i) => (i, x.2), nan := false }
    | some emax =>
      let mf : Int := [0, 8, 4, 2].getD ef 2
      let hf : Int := [0, 14, 6, 2].getD ef 2
      let ea := clampExp (emax - mf + 127)
      let inB (x : FV) : Bool := match bxExp x with | some e => decide (e < emax - hf) | none => false
      let eb := match (es.filter fun e => decide (e < emax - hf)).max? with
        | some e2 => clampExp (e2 - mf + 127)
        | none => ea
      let code (x : FV) : Nat := match x with
        | .fin neg m e =>
          if m = 0 then 0
          else
            let c := bxCode ef (if inB x then eb else ea) m e
            if bxMax ef < c then bxEscape ef else if c = 0 then 0 else if neg then c + bxEscape ef else c
        | _ => bxEscape ef
      let codes := xs.map fun x => code x.1
      { ea := ea, eb := eb, sel := total (xs.zipIdx.map fun (x, i) => b2n (inB x.1) * 2 ^ i), codes := codes,
        outs := ((xs.zip codes).zipIdx.filter fun x => x.1.2 == bxEscape ef).map fun (x, i) => (i, x.1.2), nan := false }

/-- Granules of `n` bytes from `a` up. -/
def granulesOf (a n : Nat) : List Nat := if n = 0 then [] else (List.range ((a % 128 + n + 127) / 128)).map fun i => granOf a + 128 * i

/-- A number in its place in a rising list. -/
def insertUp (x : Nat) : List Nat → List Nat
  | [] => [x]
  | y :: ys => if x < y then x :: y :: ys else if x = y then y :: ys else y :: insertUp x ys

/-- Writes a number at an address that the home holds. -/
def rawWrite (s : State) (a n x : Nat) : State := onHbm s fun m => memWrite m a n x

/-- The run of side-list entries for `k` outliers of a block, and the fill count and holes that follow (02 R55): the old
run is used again when it is long enough, else a run at the fill count. Answers the first entry and how many are had. -/
def allocRun (cap fill oldOl oldK k : Nat) : Nat × Nat × Nat :=
  if k ≤ oldK then (oldOl, k, fill)
  else
    let room := cap - 1 - fill
    (fill, min k room, fill + min k room)

/-- The entries of a block's present run: its first entry, and how many (02 R52). An escape whose place in the run has no
entry of its index is not counted, and entries past the fill count are (DESIGN CHOICE, assumption log 29). -/
def Frame.run (f : Frame) (s : State) (n : Nat) : Nat × Nat :=
  let h := f.header s n
  let ol := bits h 31 16
  if bits h 7 0 = 0xFF ∨ bits h 15 8 = 0xFF ∨ ol = 0xFFFF ∨ bxCap f.geo = 0 then (0xFFFF, 0)
  else (ol, countLanes 32 fun j => f.code s n j == bxEscape f.ef &&
    decide (bits (homeRead s (f.side (ol + countLanes j fun i => f.code s n i == bxEscape f.ef)) 8) 23 0 = 32 * n + j))

/-- The bytes of a block's header, selector and payload, by address and length. -/
def Frame.parts (f : Frame) (n : Nat) : List (Nat × Nat) := [(f.hdr n, 4), (f.sel n, 4), (f.pay n, f.payload)]

/-- The bytes that a decode of block `n` reads: with the entries of its escapes, as many as lie in the side list, and the trailer. -/
def Frame.reads (f : Frame) (s : State) (n : Nat) : List (Nat × Nat) :=
  let h := f.header s n
  let ol := bits h 31 16
  let k := if bits h 7 0 = 0xFF ∨ bits h 15 8 = 0xFF then 0
    else min (bxCap f.geo - ol) (countLanes 32 fun i => f.code s n i == bxEscape f.ef)
  f.parts n ++ if k = 0 then [] else [(f.side ol, 8 * k), (f.trailer, 8)]

/-- The bytes that an encode of block `n` with `k` outliers writes: with its old run, its new one and the trailer. -/
def Frame.puts (f : Frame) (s : State) (n k : Nat) : List (Nat × Nat) :=
  if bxCap f.geo = 0 then f.parts n
  else
    let (ol, oldK) := f.run s n
    let (first, got, _) := allocRun (bxCap f.geo) (homeRead s f.trailer 2) ol oldK k
    f.parts n ++ [(f.side ol, 8 * oldK), (f.side first, 8 * got), (f.trailer, 8)]

/-- The granules of a group request, in increasing order (15 R336). -/
def blockGranules (ps : List (Nat × Nat)) : List Nat := (ps.flatMap fun p => granulesOf p.1 p.2).foldr insertUp []

/-- A group request takes the granules of a block, in increasing order, each brought to a state in which the home holds every
word (15 R336). -/
def takeBlock (s : State) (f : Frame) (ps : List (Nat × Nat)) : State :=
  (blockGranules ps).foldl (fun s g => takeGranule s g f.nc) s

/-- A word of a block that the group request touches is in the address error table (15 R343, 17 R377). -/
def blockInAet (s : State) (ps : List (Nat × Nat)) : Bool := ps.any fun p => (List.range p.2).any fun i => inAet s (p.1 + i)

/-- Writes an encoded block, its side-list entries and the trailer, every granule of them at its home (02 R54, R55,
15 R336). Outliers that find no entry take the largest code of their sign and are counted. -/
def writeBlock (s : State) (f : Frame) (n : Nat) (b : BxBlock) : State :=
  let cap := bxCap f.geo
  let die := f.base / 2 ^ 37 % 4
  let s := takeBlock s f (f.puts s n b.outs.length)
  let (ol, oldK) := f.run s n
  let fill := if cap = 0 then 0 else homeRead s f.trailer 2
  let (first, got, fill') := if cap = 0 then (0xFFFF, 0, 0) else allocRun cap fill ol oldK b.outs.length
  let kept := b.outs.take got
  let lost := b.outs.drop got
  let codes := b.codes.zipIdx.map fun (c, i) =>
    match lost.find? fun x => x.1 == i with
    | some x => bxMax f.ef + (if bitAt x.2 31 then bxEscape f.ef else 0)
    | none => c
  let ol' := if kept.isEmpty then 0xFFFF else first
  let s := if cap = 0 then s else
    let s := (List.range oldK).foldl (fun s i => rawWrite s (f.side (ol + i)) 8 0xFFFFFF) s
    let s := kept.zipIdx.foldl (fun s (x, i) => rawWrite s (f.side (first + i)) 8 (x.2 * 2 ^ 32 + 32 * n + x.1)) s
    let lossCount := min 0xFFFF (homeRead s (f.trailer + 2) 2 + lost.length)
    rawWrite s f.trailer 4 (lossCount * 65536 + fill')
  let s := (List.range lost.length).foldl (fun s _ => countLane16 s 0x8E die) s
  let s := rawWrite s (f.hdr n) 4 (ol' * 65536 + b.eb * 256 + b.ea)
  let s := rawWrite s (f.sel n) 4 b.sel
  rawWrite s (f.pay n) f.payload (total (codes.zipIdx.map fun (c, i) => c * 2 ^ (bxBits f.ef * i)))

end Sys2Proof.Machine
end

