-- ==== Sys2Proof/Machine/Directory.lean ====
section
/-! DEFINITION. Requests in flight, and the home directory: queues, messages and the settling of an entry before a request
is applied (15 R325-R339). The table of 15 R330 is here as two parts: which messages a request needs in the present
state, and (in Machine/Access.lean) what it does once none is needed. -/

namespace Sys2Proof.Machine

/-- The request with identity `r`. -/
def reqOf (s : State) (r : Nat) : Option Req := s.reqs.find? fun q => q.id == r

/-- Changes request `r`, or forgets it. -/
def onReq (s : State) (r : Nat) (f : Req → Req) : State := { s with reqs := mapIf (fun q => q.id == r) f s.reqs }
def dropReq (s : State) (r : Nat) : State := { s with reqs := s.reqs.filter fun q => q.id != r }

/-- Changes access `j` of request `r`. -/
def onAcc (s : State) (r j : Nat) (f : Acc → Acc) : State := onReq s r fun q => { q with accs := modNth f q.accs j }

/-- Access `j` of request `r`. -/
def accOf (s : State) (r j : Nat) : Option (Req × Acc) := (reqOf s r).bind fun q => (q.accs[j]?).map fun a => (q, a)

/-- What a request asks of the home (15 R330, R335). -/
inductive Want where
  | oLoad | iLoad | sLoad | wLoad
  | own
  | write (words : BitVec 32) (stm : Bool)
  | rmw
  | hostWrite
  deriving DecidableEq, Repr

/-- Who asks: holder number (0 to 63 a core, 64 the host, 128 nobody that the directory knows), die, whether the
page is one that the directory tracks (15 R339), and whether the request may fill the replica slice of its die (14 R303). -/
structure Party where
  q     : Nat
  die   : Nat
  track : Bool
  rep   : Bool
  deriving DecidableEq, Repr

/-- The entry has an owner, and it is `q`. -/
def isOwner (e : DirEntry) (q : Nat) : Bool := hasOwner e && (if e.hown then q == 64 else q == e.owner)

/-- Invalidates of every registered copy but that of `q`, with the replica slices of `dies` (15 R330). -/
def invalidates (e : DirEntry) (q : Nat) (dies : List Nat) : List Msg :=
  (sharersBut e.sharers q).map .invalidate ++ (if e.host && q != 64 then [.invalidate 64] else []) ++
    dies.map fun d => .invalidate (65 + d)

/-- The messages a write needs in S (15 R330, R334): a plain write updates the slice of the writer's die and invalidates
the others, `stm` updates all of them. Once settled, the updates have been made. -/
def writeMsgs (e : DirEntry) (p : Party) (stm settled : Bool) : List Msg :=
  if stm then invalidates e p.q [] ++ (if settled then [] else (diesOf e.rdies).map .update)
  else invalidates e p.q ((diesOf e.rdies).filter (· != p.die)) ++
    (if !settled && e.rdies.getLsbD p.die then [.update p.die] else [])

/-- The messages that a request needs before it can be applied (15 R330, R334, R335, R339). -/
def needs (e : DirEntry) (p : Party) (w : Want) (settled : Bool) : List Msg :=
  if !p.track then
    let host := hasOwner e && e.hown
    match w with
    | .oLoad | .iLoad | .sLoad | .wLoad => if host then [.recallShared] else []
    | _ => if host then [.recall] else if e.host then [.invalidate 64] else []
  else
    match w with
    | .sLoad => []
    | .oLoad | .iLoad | .wLoad => if hasOwner e && !isOwner e p.q then [.recallShared] else []
    | .own =>
      if hasOwner e then (if isOwner e p.q then [] else [.recall])
      else if p.q = 64 then invalidates e 64 (diesOf e.rdies) else writeMsgs e p false settled
    | .write m stm =>
      if hasOwner e then (if isOwner e p.q || m &&& ~~~e.wmask = 0 then [] else [.claim (m &&& ~~~e.wmask)])
      else writeMsgs e p stm settled
    | .rmw => if hasOwner e then [.recall] else writeMsgs e p false settled
    | .hostWrite => if hasOwner e then [.recall] else invalidates e 128 (diesOf e.rdies)

/-- NEXT of an entry that enters T for a request (15 R325, R330, R335). -/
def entryNext (e : DirEntry) (p : Party) (w : Want) : DirSt :=
  let mine := decide (p.q < 64) && e.sharers.getLsbD p.q
  if !p.track then
    match w with
    | .oLoad | .iLoad | .sLoad | .wLoad => .s
    | _ => if e.sharers = 0 && e.rdies = 0 then .i else .s
  else
    match w with
    | .oLoad | .iLoad | .sLoad | .wLoad => .s
    | .own => .o
    | .write _ stm => if hasOwner e then .w else if mine || (if stm then e.rdies != 0 else e.rdies.getLsbD p.die) then .s else .i
    | .rmw => if hasOwner e then (if isOwner e p.q && !e.hown then .s else .i) else if mine || e.rdies.getLsbD p.die then .s else .i
    | .hostWrite => .i

/-- A request of `p` would register a copy off the home's die (15 R326): in an L1, at the host, or in a replica slice that
it fills, which no slice does while the granule has an owner (15 R327). -/
def goesOff (e : DirEntry) (p : Party) (w : Want) : Bool :=
  let far := p.die != homeDie e.g
  let core := p.track && (p.q == 64 || (decide (p.q < 64) && far))
  let rep := p.rep && far && !e.rdies.getLsbD p.die
  match w with
  | .own => core
  | .oLoad => core || (rep && e.st == .s)
  | .iLoad => core || (rep && (e.st == .i || e.st == .s))
  | _ => rep && (e.st == .i || e.st == .s)

/-- The entry enters T, its messages outstanding (15 R329). Claims are counted (15 R338), and an ownership request that
recalls another owner is a transfer. -/
def enterT (s : State) (e : DirEntry) (p : Party) (w : Want) (ms : List Msg) (cause : Option Asker) : State :=
  let die := homeDie e.g
  let s := if (ms.any fun m => match m with | .claim _ => true | _ => false) then countDie s die 1 else s
  let s := if w = .own && p.track && hasOwner e then countDie s die 0 else s
  setDir s { e with st := .t, next := entryNext e p w, base := e.st, msgs := ms, cause := cause, age := true }

/-- Makes room in a full snoop-filter set for granule `g` (15 R337): a victim enters T; with none to choose, or one already on its way
out for it, nothing happens. -/
def sfEvict (s : State) (g : Nat) : State :=
  let es := sfPeers s g
  if es.any (fun e => e.st == .t && e.cause == some (.evict g)) then s else
  match sfVictim es with
  | (none, _) => s
  | (some v, clear) =>
    let s := if clear then clearAges s es else s
    let ms := if hasOwner v then [.recall] else invalidates v 128 (diesOf v.rdies)
    countDie (enterT s v { q := 128, die := 0, track := true, rep := false } .hostWrite ms (some (.evict g))) (homeDie g) 2

/-- The way that a victim has left goes to the entry that waits for it (15 R337). -/
def giveWay (s : State) (g way : Nat) : State :=
  let e := dirOf s g
  if e.queue.isEmpty ∨ e.sf = true then s else setDir s { e with sf := true, way := way }

/-- Whether one queued request goes before a waiting one of age `n`. -/
def olderThan (s : State) (n : Nat) : Asker → Bool
  | .acc r j => match accOf s r j with
    | some (_, a) => (a.aged.map fun k => decide (k < n)).getD true
    | none => true
  | .host _ _ _ _ k => decide (k < n)
  | .evict _ => true
  | .own _ => true

/-- The age at which an asker first arrived, given it on its first wait. -/
def ageOf (s : State) (a : Asker) : Nat × State :=
  match a with
  | .acc r j =>
    match (accOf s r j).bind fun x => x.2.aged with
    | some n => (n, s)
    | none =>
      let (n, s) := newId s
      (n, onAcc s r j fun x => { x with aged := some n })
  | .host _ _ _ _ n => (n, s)
  | _ => (0, s)

/-- A host request is refused, and will be sent again (15 R328). -/
def refuseHost (s : State) (a : Asker) : State :=
  match a with
  | .host _ _ _ _ _ =>
    if s.coh.refused.contains a then s else { s with coh := { s.coh with refused := s.coh.refused ++ [a] } }
  | _ => s

/-- Every entry goes to I (18 R398): the host's requests that waited in them are sent again. -/
def clearDir (s : State) : State :=
  let asks := s.coh.dir.flatMap fun e => e.cause.toList ++ e.queue
  asks.foldl refuseHost { s with coh := { s.coh with dir := [] } }

/-- A request joins the queue in order of age, or is refused: 8 wait per granule and 4,096 per die (15 R328). -/
def enqueue (s : State) (g : Nat) (a : Asker) : State :=
  let (n, s) := ageOf s a
  let e := dirOf s g
  let die := total ((s.coh.dir.filter fun x => homeDie x.g == homeDie g).map fun x => x.queue.length)
  if 8 ≤ e.queue.length ∨ 4096 ≤ die then refuseHost s a
  else
    let front := e.queue.takeWhile (olderThan s n)
    setDir s { e with queue := front ++ a :: e.queue.drop front.length }

/-- A load that registers nothing passes an entry whose owner is being recalled: the owner's last value serves it
(15 R329). -/
def forwards (e : DirEntry) (w : Want) : Bool :=
  (w == .sLoad || w == .wLoad) && e.msgs.any fun m => m == .recallShared || m == .recall

/-- Writes an entry, whatever its state. -/
def putDir (s : State) (e : DirEntry) : State :=
  { s with coh := { s.coh with dir := s.coh.dir.filter (fun x => x.g != e.g) ++ [e] } }

/-- An entry after a request: one off its die stands in the snoop filter, in the lowest way that is free, and one in I leaves
it (15 R326, R337). -/
def placeEntry (s : State) (g : Nat) : State :=
  let e := dirOf s g
  if e.st = .i then setDir s { e with sf := false } else seatEntry (setDir s { e with age := true }) g

/-- A request that stands first, with an entry not in T: messages go out, or it is applied, or it waits for room in a full
set (15 R337). `apply` runs on a state whose entry needs no message. -/
def takeNow (s : State) (g : Nat) (a : Asker) (p : Party) (w : Want) (settled : Bool) (apply : State → State) : State :=
  let e := dirOf s g
  let ms := needs e p w settled
  let rest := if e.queue.head? = some a then e.queue.tail else e.queue
  if ms ≠ [] then enterT s { e with queue := rest } p w ms (some a)
  else if goesOff e p w && !e.sf && (sfWay (sfPeers s g)).isNone then
    let s := sfEvict s g
    if e.queue.head? = some a then s
    else if settled then putDir s { e with queue := a :: e.queue }
    else enqueue s g a
  else placeEntry (apply (putDir s { e with queue := rest })) g

/-- A request arrives at the home, or is taken from the head of its queue (15 R328). -/
def arrive (s : State) (g : Nat) (a : Asker) (p : Party) (w : Want) (apply : State → State) : State :=
  let e := dirOf s g
  if e.cause = some a && e.st = .t then s
  else if e.queue.contains a then
    if e.st ≠ .t ∧ e.queue.head? = some a then takeNow s g a p w false apply else s
  else if e.st = .t && forwards e w then apply s
  else if e.st = .t ∨ e.queue ≠ [] then enqueue s g a
  else takeNow s g a p w false apply

/-- The request that caused T was the owner's own: its copy stays, to be refreshed (15 R331). -/
def ownAtomic (s : State) (e : DirEntry) : Bool :=
  match e.cause with
  | some (.acc r _) => match reqOf s r with
    | some q => !e.hown && q.core == e.owner
    | none => false
  | _ => false

/-- A message is acknowledged. -/
def ackDir (s : State) (e : DirEntry) (m : Msg) (f : DirEntry → DirEntry) : State :=
  setDir s (f { e with msgs := e.msgs.erase m })

/-- The state a set of registered copies amounts to. -/
def copiesSt (e : DirEntry) : DirSt := if e.sharers = 0 && !e.host && e.rdies = 0 then .i else .s

/-- The host owner's dirty bytes within the words of `m` return to the home (15 R335). -/
def hostReturn (s : State) (e : DirEntry) (m : BitVec 32) : State :=
  onHbm s fun mem => mergeBytes mem (e.hostDirty.filter fun b => m.getLsbD (b.1 % 128 / 4))

/-- RECALL TO SHARED at the owner (15 R329). -/
def ackRecallShared (s : State) (e : DirEntry) : State :=
  if e.hown then
    ackDir (hostReturn s e (BitVec.allOnes 32)) e .recallShared fun e =>
      { e with hown := false, host := true, hostDirty := [], wmask := 0, base := .s }
  else
    match ownedLine s e.owner e.g with
    | some l => ackDir (cleanCopy (mergeBack s l) l) e .recallShared fun e =>
        { e with sharers := 1#64 <<< e.owner, owner := 0, wmask := 0, base := .s }
    | none => ackDir s e .recallShared fun e => { e with owner := 0, wmask := 0, base := .i }

/-- RECALL at the owner (15 R329, R331). -/
def ackRecall (s : State) (e : DirEntry) : State :=
  if e.hown then
    ackDir (hostReturn s e (BitVec.allOnes 32)) e .recall fun e =>
      { e with hown := false, hostDirty := [], wmask := 0, base := .i }
  else
    match ownedLine s e.owner e.g with
    | some l =>
      let s := mergeBack s l
      if ownAtomic s e then
        ackDir (cleanCopy s l) e .recall fun e => { e with sharers := 1#64 <<< e.owner, owner := 0, wmask := 0, base := .s }
      else ackDir (dropL1 s (sameL1 l)) e .recall fun e => { e with owner := 0, wmask := 0, base := .i }
    | none => ackDir s e .recall fun e => { e with owner := 0, wmask := 0, base := .i }

/-- CLAIM of words at the owner (15 R329). -/
def ackClaim (s : State) (e : DirEntry) (m : BitVec 32) : State :=
  let done (s : State) : State := ackDir s e (.claim m) fun e => { e with wmask := e.wmask ||| m, base := .w }
  if e.hown then
    let s := hostReturn s e m
    ackDir s e (.claim m) fun e => { e with wmask := e.wmask ||| m, base := .w,
                                            hostDirty := e.hostDirty.filter fun b => !m.getLsbD (b.1 % 128 / 4) }
  else
    match ownedLine s e.owner e.g with
    | some l =>
      let s := onHbm s fun mem => mergeLine mem { l with dirty := l.dirty &&& bytesOf m } e.wmask
      done (mapL1 s (sameL1 l) fun x => { x with valid := x.valid &&& ~~~m, dirty := x.dirty &&& ~~~(bytesOf m) })
    | none => done s

/-- INVALIDATE at a holder: a core, the host (64) or the replica slice of a die (65 + d) (15 R329). -/
def ackInvalidate (s : State) (e : DirEntry) (h : Nat) : State :=
  let fin (f : DirEntry → DirEntry) (s : State) : State := ackDir s e (.invalidate h) fun e => { f e with base := copiesSt (f e) }
  if h < 64 then
    fin (fun e => { e with sharers := e.sharers &&& ~~~(1#64 <<< h) }) (dropL1 s fun l => l.core == h && l.dpa == e.g && l.reg)
  else if h = 64 then fin (fun e => { e with host := false }) s
  else
    let d : BitVec 4 := 1#4 <<< (h - 65)
    fin (fun e => { e with rdies := e.rdies &&& ~~~d }) (dropReplicas s e.g d)

/-- One message reaches its holder, which acts and acknowledges (15 R329). The words of a slice's lines stand once, in memory,
where the update's words are written before the home takes another request for the granule. -/
def ackMsg (s : State) (g : Nat) (m : Msg) : State :=
  let e := dirOf s g
  if e.st ≠ .t ∨ !e.msgs.contains m then s
  else
    match m with
    | .recallShared => ackRecallShared s e
    | .recall => ackRecall s e
    | .claim w => ackClaim s e w
    | .invalidate h => ackInvalidate s e h
    | .update d => ackDir s e (.update d) id

/-- Every acknowledgement has arrived: the entry stands in the state that they left it in, from which the request that caused
T takes it to NEXT (15 R329). -/
def leaveT (s : State) (g : Nat) : Option Asker × State :=
  let e := dirOf s g
  (e.cause, putDir s { e with st := e.base, cause := none })

end Sys2Proof.Machine
end

