-- ==== Sys2Proof/Machine/Access.lean ====
section
/-! DEFINITION. Accesses in flight: their order within a drove, forwarding, hits in L1, and what a load or a store does
once the home takes it (09 R181-R192, 12 R262-R267, 15 R330, R331). -/

namespace Sys2Proof.Machine

/-- A request whose accesses are reads that its drove's later writes wait for (12 R266). -/
def readsFirst : ReqKind → Bool
  | .load _ _ | .lds _ | .ldp _ | .ldsp _ | .atom _ _ | .satom _ | .rtake | .tld _ _ => true
  | _ => false

/-- Kinds that the home performs as atomics (15 R330). -/
def atomicKind : ReqKind → Bool
  | .atom _ _ | .red _ | .satom _ | .catom | .rtake | .barw | .evpost => true
  | _ => false

/-- The translations with which the request has left its core and is not yet performed (11 R261), each by an address and its page's
size: those of an access on its way, of an atomic's lane that is to be performed again with the translation its probe confirmed,
and of a `catom`'s low update (09 R203). -/
def usedPages (q : Req) : List (Nat × Nat) :=
  if q.probing then []
  else q.accs.zipIdx.flatMap fun (a, j) =>
    let going := a.st == .sent || (atomicKind q.kind && (match a.st with | .faulted _ => true | _ => false))
    let low := q.kind == .catom && (going || q.lows.any fun u => u.lane == j && !u.done)
    (if going then [(a.va, a.page)] else []) ++ if low then [((a.va + q.split.toNat) % 2 ^ 64, a.lowPage)] else []

/-- Requests, with those of saved flocks, whose atomics keep their translations too (09 R203). -/
def allReqs (s : State) : List Req := s.reqs ++ s.sch.saved.flatMap (·.reqs)

/-- A store whose data a later load of the drove may be given (12 R262). -/
def forwardsData : ReqKind → Bool
  | .store _ | .stm | .stsp | .tst _ _ => true
  | _ => false

/-- A request that writes. -/
def writes : ReqKind → Bool
  | .store _ | .stm | .stsp | .tst _ _ | .red _ | .catom | .atom _ _ | .satom _ | .rtake | .barw | .evpost => true
  | _ => false

/-- An address names the scratchpad, for this kind of request (09 R181, R194, 10 R221). -/
def spadAcc (k : ReqKind) (a : Acc) : Bool :=
  match k with
  | .ldsp _ | .stsp => true
  | .tld _ _ | .tst _ _ => a.attr == 1
  | .atom _ _ | .red _ | .satom _ => inAperture a.va
  | _ => false

/-- The scratchpad address of an access (09 R181). -/
def spadAddr (a : Acc) : Nat := if inAperture a.va then a.va - apertureBase else a.va

/-- The space and address that order accesses to one byte. -/
def placeOf (k : ReqKind) (a : Acc) : Bool × Nat := if spadAcc k a then (true, spadAddr a) else (false, a.va)

/-- What an access still holds open: its place and size, and for a `catom` the low word as well (09 R205). -/
def openPlaces (q : Req) (j : Nat) (a : Acc) : List (Bool × Nat × Nat) :=
  let p := placeOf q.kind a
  let hi := if a.st = .done then [] else [(p.1, p.2, a.size)]
  if q.kind = .catom then
    let lowDone := q.lows.any fun l => l.lane == j && l.done
    hi ++ (if lowDone then [] else [(false, (a.va + q.split.toNat) % 2 ^ 64, 4)])
  else hi

/-- Two ranges of bytes share one. -/
def overlap (a n b m : Nat) : Bool := decide (a < b + m) && decide (b < a + n)

/-- Request `q` has an access open, up to index `k`, that shares a byte with one of `ps`. -/
def touches (q : Req) (k : Nat) (ps : List (Bool × Nat × Nat)) : Bool :=
  (q.accs.zipIdx.take k).any fun (a, j) => (openPlaces q j a).any fun x =>
    ps.any fun p => p.1 == x.1 && overlap p.2.1 p.2.2 x.2.1 x.2.2

/-- Older requests of the same drove. -/
def older (s : State) (q : Req) : List Req := s.reqs.filter fun x => x.drove == q.drove && decide (x.id < q.id)

/-- The access waits for older ones of its drove: a write for every earlier load and returning atomic (12 R266) and for
earlier accesses to its bytes (09 R185, R201), a load for earlier accesses to its bytes that cannot forward, those of its
own lower lanes among them (12 R264). Private memory is accessed in program order (12 R265). -/
def heldBack (s : State) (q : Req) (j : Nat) (a : Acc) : Bool :=
  let ps := openPlaces q j a
  let old := older s q
  if q.priv && old.any (fun x => x.priv && x.accs.any fun y => y.st != .done) then true
  else if writes q.kind then
    (old.any fun x => readsFirst x.kind && x.accs.any fun y => y.st != .done) ||
      (old.any fun x => touches x x.accs.length ps) || touches q j ps
  else old.any (fun x => !forwardsData x.kind && touches x x.accs.length ps) || touches q j ps

/-- Bytes of `a` replaced by those of a pending store to the same place. -/
def overlayAcc (k : ReqKind) (a : Acc) (x : ReqKind) (b : Acc) (bs : List Byte) : List Byte :=
  let p := placeOf k a
  let q := placeOf x b
  if b.st = .done ∨ p.1 ≠ q.1 then bs
  else bs.zipIdx.map fun (old, i) => if q.2 ≤ p.2 + i ∧ p.2 + i < q.2 + b.size then BitVec.ofNat 8 (b.x / 256 ^ (p.2 + i - q.2)) else old

/-- A load's bytes with those of the drove's own earlier stores that are still in its store buffer (12 R262, R264). -/
def forwarded (s : State) (q : Req) (a : Acc) (bs : List Byte) : List Byte :=
  ((older s q).filter fun x => forwardsData x.kind).foldl (fun bs x =>
    x.accs.foldl (fun bs b => overlayAcc q.kind a x.kind b bs) bs) bs

/-- The access has its value. -/
def finishAcc (s : State) (q : Req) (j : Nat) (a : Acc) (bs : List Byte) : State :=
  onAcc s q.id j fun x => { x with r := leNat (forwarded s q a bs), st := .done }

/-- The policy in force before the page is known: routes other than 00, and Shepherd cores, as `.w` (13 R278). -/
def policyOf (q : Req) (va : Nat) : Policy :=
  if routeOf va ≠ 0 ∨ 64 ≤ q.core then .w
  else
    match q.kind with
    | .load p _ | .lds p | .store p | .tld _ p | .tst _ p => p
    | .stm => .w
    | _ => .o

/-- The copy of the issuing core that a load hits in (09 R188, 15 R331). -/
def hitLine (s : State) (q : Req) (a : Acc) : Option L1Line :=
  if routeOf a.va ≠ 0 ∨ 64 ≤ q.core then none
  else
    match findL1 s q.core q.ctx a.va with
    | none => none
    | some l =>
      let m := wordMask (a.va % 128) a.size
      let ok := l.owned || l.nc || (match policyOf q a.va with | .s => true | .o => l.reg | .i => l.reg | .w => false)
      if ok && (!l.stack || inStackSpace s l) && m &&& ~~~l.valid = 0 then some l else none

/-- A load that hits has its value (12 R262); a hit sets the age bit. -/
def hitAcc (s : State) (q : Req) (j : Nat) (a : Acc) (l : L1Line) : State :=
  let s := mapL1 (unstack s l) (sameL1 l) fun x => { x with age := true }
  finishAcc s q j a (gBytes l.data (a.va % 128) a.size)

/-- Kinds that read memory into registers or tiles. -/
def readKind : ReqKind → Bool
  | .load _ _ | .lds _ | .ldp _ | .ldsp _ | .tld _ _ => true
  | _ => false

/-- The policy once the page is known: never-cached pages as `.w` (09 R188). -/
def pagePolicy (q : Req) (a : Acc) : Policy := if leafHome a.attr = 3 then .w else policyOf q a.va

/-- The page has replica placement (14 R303). -/
def isPlaced (s : State) (attr : W64) : Bool :=
  decide (leafHome attr < 2) && (cdrOf s (leafVc attr)).any fun c => c.place

/-- A request from a core of die `r` may fill the replica slice there (14 R303, R307, R320). -/
def mayReplicate (s : State) (attr : W64) (r : Nat) : Bool :=
  !leafNc attr && decide (leafHome attr < 2) &&
    (cdrOf s (leafVc attr)).any fun c => c.place && c.rdies.getLsbD r && c.wpol != 3 && c.state != 3

/-- The slice of die `r` holds the line of an access, in either geometry (14 R304). -/
def sliceHolds (s : State) (attr : W64) (ctx : BitVec 16) (va r : Nat) : Bool :=
  match cdrOf s (leafVc attr) with
  | some c => [false, true].any fun old => (findVLine s c.id old r ctx (lineBase (geoOf s c old r) va)).isSome
  | none => false

/-- The requester as the home sees it (15 R339); a read may fill the slice of its die, and a write only a line that it holds. -/
def partyOf (s : State) (q : Req) (a : Acc) : Party :=
  { q := if q.core < 64 ∧ routeOf a.va = 0 then q.core else 128, die := dieOfCore q.core,
    track := !leafNc a.attr && leafHome a.attr != 3,
    rep := decide (routeOf a.va = 0) && mayReplicate s a.attr (dieOfCore q.core) &&
      (!writes q.kind || sliceHolds s a.attr q.ctx a.va (dieOfCore q.core)) }

/-- What an access of a load, store or prefetch asks of the home (09 R188, R196, R197, 15 R330). On a non-coherent page
loads fetch unregistered copies, and `.o` and `.i` stores a copy to write in. -/
def wantOf (q : Req) (a : Acc) : Want :=
  let m := wordMask (a.dpa % 128) a.size
  let p := pagePolicy q a
  match q.kind with
  | .pref 0 => if p = .w then .wLoad else .own
  | .pref 1 => if p = .w then .wLoad else .sLoad
  | .pref 2 => if p = .w then .wLoad else if leafNc a.attr then .sLoad else .iLoad
  | .pref _ => .wLoad
  | .store _ | .tst _ _ | .stsp =>
    if p = .o ∨ (leafNc a.attr ∧ p = .i) then .own else .write m false
  | .stm => .write m true
  | .load _ _ | .lds _ | .ldp _ | .ldsp _ | .tld _ _ =>
    match p with
    | .w => if leafNc a.attr ∧ leafHome a.attr ≠ 3 ∧ routeOf a.va = 0 ∧ q.core < 64 then .sLoad else .wLoad
    | .s => .sLoad
    | .o => if leafNc a.attr then .sLoad else .oLoad
    | .i => if leafNc a.attr then .sLoad else .iLoad
  | _ => .rmw

/-- A copy of a granule as a core fills it from the home (09 R188). -/
def newLine (s : State) (q : Req) (a : Acc) (owned reg : Bool) : L1Line :=
  { core := q.core, ctx := q.ctx, va := granOf a.va, dpa := granOf a.dpa, data := homeGranule s (granOf a.dpa),
    valid := BitVec.allOnes 32, dirty := 0, owned := owned, reg := reg, nc := leafNc a.attr,
    stamp := if owned || reg || leafNc a.attr then none else stampOf s q.core a.dom, dom := a.dom, way := 0, age := true, stack := false }

/-- The bytes just read refresh the issuing core's unregistered copy (12 R264). -/
def refreshCopy (s : State) (core g off : Nat) (bs : List Byte) : State :=
  mapL1 s (fun l => l.core == core && l.dpa == g && !l.owned && !l.reg && !l.nc) fun l => linePut l off bs false

/-- The core owns the granule, and some word of the access is in WMASK: it is served at the home (15 R331). -/
def ownsMasked (s : State) (q : Req) (a : Acc) : Bool :=
  let e := dirOf s (granOf a.dpa)
  isOwner e q.core && wordMask (a.dpa % 128) a.size &&& e.wmask != 0

/-- An access passes the pasture at its home; one of route 01 that names this module is not cached there (13 R278). -/
def accPasture (s : State) (q : Req) (a : Acc) (write : Bool) : State :=
  if routeOf a.va = 0 then pastureAccess s a.attr q.ctx a.va a.dpa (dieOfCore q.core) write else s

/-- A load at the home (15 R330, R331): its value, and the copy that its policy leaves. -/
def homeLoad (s : State) (q : Req) (j : Nat) (a : Acc) (w : Want) : State :=
  let g := granOf a.dpa
  let p := partyOf s q a
  let bs := homeBytes s a.dpa a.size
  let s := if w = .oLoad ∧ (dirOf s g).st = .i ∧ isPlaced s a.attr = true then s else accPasture s q a false
  let e := dirOf s g
  let s :=
    if p.q = 128 ∨ isOwner e p.q ∨ (ownedLine s q.core g).isSome then s
    else
      match w with
      | .oLoad =>
        if e.st = .i then setDir (fillL1 s (newLine s q a true false)) { e with st := .o, owner := q.core, hown := false, wmask := 0 }
        else setDir (fillL1 s (newLine s q a false true)) { e with st := .s, sharers := e.sharers ||| (1#64 <<< q.core) }
      | .iLoad => setDir (fillL1 s (newLine s q a false true)) { e with st := .s, sharers := e.sharers ||| (1#64 <<< q.core) }
      | .sLoad => fillL1 s (newLine s q a false false)
      | _ => refreshCopy s q.core g (a.dpa % 128) bs
  finishAcc s q j a bs

/-- A load that the home takes. One of a non-coherent page that finds its core's copy by then reads it, with what has been written
there (12 R264, R275). -/
def applyLoad (s : State) (q : Req) (j : Nat) (a : Acc) (w : Want) : State :=
  match if leafNc a.attr then hitLine s q a else none with
  | some l => hitAcc s q j a l
  | none => homeLoad s q j a w

/-- Bytes to store. -/
def storeBytes (a : Acc) : List Byte := leBytes a.size a.x

/-- Ownership of a granule passes to core `c` (15 R330): no registered copy remains beside the owner's (15 R327), the replica
that was updated in the writer's die included. -/
def takeOwnership (s : State) (g c : Nat) : State :=
  let e := dirOf s g
  setDir (dropReplicas s g e.rdies) { e with st := .o, owner := c, hown := false, wmask := 0, sharers := 0, host := false, rdies := 0 }

/-- Writes an owner's bytes: words of WMASK at the home, the others in its copy (15 R331). -/
def ownerPut (s : State) (l : L1Line) (off : Nat) (bs : List Byte) : State :=
  let m := (dirOf s l.dpa).wmask
  bs.zipIdx.foldl (fun s (b, i) =>
    if m.getLsbD ((off + i) / 4) then onHbm s fun mem => memSet mem (l.dpa + off + i) b
    else mapL1 s (sameL1 l) fun x => linePut x (off + i) [b] true) s

/-- Bytes written at the home, and into the copies of the writer's own core (09 R188, 15 R330). -/
def homePutOwn (s : State) (core dpa : Nat) (bs : List Byte) : State :=
  let s := onHbm s fun m => memPut m dpa bs
  mapL1 s (fun l => l.core == core && l.dpa == granOf dpa && !l.owned) fun l => linePut l (dpa % 128) bs false

/-- A store at the home once its granule is settled (15 R330, R331). -/
def applyStore (s : State) (q : Req) (j : Nat) (a : Acc) (w : Want) : State :=
  let g := granOf a.dpa
  let p := partyOf s q a
  let bs := storeBytes a
  let off := a.dpa % 128
  let e := dirOf s g
  let s :=
    if p.track ∧ isOwner e p.q then
      let s := if wordMask off a.size &&& e.wmask = 0 then s else accPasture s q a true
      match ownedLine s q.core g with
      | some l => ownerPut s l off bs
      | none => onHbm s fun m => memPut m a.dpa bs
    else
      match w with
      | .own =>
        if p.q = 128 then homePutOwn (accPasture s q a true) q.core a.dpa bs
        else
          let s := if p.track && isPlaced s a.attr then s else accPasture s q a false
          let s := if !p.track && (findL1 s q.core q.ctx a.va).isSome then s else fillL1 s (newLine s q a p.track false)
          let s := if p.track then takeOwnership s g q.core else s
          mapL1 s (fun l => l.core == q.core && l.ctx == q.ctx && l.va == granOf a.va) fun l => linePut l off bs true
      | _ => homePutOwn (accPasture s q a true) q.core a.dpa bs
  onAcc s q.id j fun x => { x with st := .done }

/-- A prefetch at the home (09 R197): a copy, or only the virtual cache's line. -/
def applyPref (s : State) (q : Req) (j : Nat) (a : Acc) (w : Want) : State :=
  let p := partyOf s q a
  let g := granOf a.dpa
  let s := if w = .own ∧ p.track = true ∧ isPlaced s a.attr = true then s else accPasture s q a false
  let e := dirOf s g
  let s :=
    if p.q = 128 ∨ isOwner e p.q ∨ (ownedLine s q.core g).isSome then s
    else
      match w with
      | .own =>
        if p.track then takeOwnership (fillL1 s (newLine s q a true false)) g q.core
        else if (findL1 s q.core q.ctx a.va).isSome then s else fillL1 s (newLine s q a false false)
      | .iLoad => setDir (fillL1 s (newLine s q a false true)) { e with st := .s, sharers := e.sharers ||| (1#64 <<< q.core) }
      | .sLoad => if (findL1 s q.core q.ctx a.va).isSome then s else fillL1 s (newLine s q a false false)
      | _ => s
  onAcc s q.id j fun x => { x with st := .done }

/-- A store that its own L1 can take: an owned copy, outside WMASK, or a copy of a non-coherent page written back
(09 R188, 15 R331). -/
def l1Store (s : State) (q : Req) (j : Nat) (a : Acc) : Option State :=
  if a.st ≠ .sent ∨ heldBack s q j a ∨ leafEf a.attr ≠ 0 ∨ 64 ≤ q.core ∨ aetMeets s a.dpa a.size then none
  else
    match s.coh.l1.find? fun l => l.core == q.core && l.ctx == q.ctx && l.va == granOf a.va && l.dpa == granOf a.dpa with
    | none => none
    | some l =>
      let m := wordMask (a.dpa % 128) a.size
      if (!l.stack || inStackSpace s l) && ((l.owned && m &&& (dirOf s l.dpa).wmask = 0) || (l.nc && wantOf q a == .own)) then
        let s := mapL1 (unstack s l) (sameL1 l) fun x => linePut x (a.dpa % 128) (storeBytes a) true
        some (onAcc s q.id j fun x => { x with st := .done })
      else none

end Sys2Proof.Machine
end

