-- ==== Sys2Proof/Machine/Memory.lean ====
section
/-! DEFINITION. Loads, stores, prefetch, cache maintenance and fences, as their droves issue them (09 R181-R199). What
happens to the requests they leave is in Machine/MemEvents.lean. -/

namespace Sys2Proof.Machine

/-- An access before it leaves its core. -/
def Acc.fresh (s : State) (lane va size x : Nat) (helper : Bool) : Acc :=
  { lane := lane, va := va, size := size, x := x, y := 0, r := 0, st := .new, dpa := 0, attr := 0, page := 0, lowAttr := 0, lowPage := 0,
    dom := domainOf s va,
    helper := helper, aged := none }

/-- A request of the drove at the port, with the addresses and data of its issue (09 R181). -/
def Req.fresh (s : State) (kind : ReqKind) (size : Nat) (accs : List Acc) : Req :=
  { id := s.uid, kind := kind, drove := s.dr.uid, flock := s.dr.flock, ctx := s.dr.ctx, droveId := s.dr.droveId,
    core := s.dr.core, gen := s.dr.gen, pc := s.dr.pc, word := issueWord s, mode := s.dr.mode, dst := 0, dst2 := false, size := size,
    accs := accs, probing := false, split := s.dr.losplit, lows := [], turnAt := 0, priv := false }

/-- Posts a request. -/
def post (s : State) (q : Req) : State := { s with uid := s.uid + 1, reqs := s.reqs ++ [q] }

/-- A synchronising operation of a deterministic range takes its place in the range's order (19 R406). -/
def takeTurn (s : State) (q : Req) : State × Req :=
  if s.dr.det then
    let s := onRange s s.dr.range fun r => { r with turnCount := r.turnCount + 1 }
    (s, { q with turnAt := (rangeOf s s.dr.range).elim 0 (·.turnCount) })
  else (s, q)

/-- An acquiring atomic of the drove has not returned: later memory instructions wait (09 R202). -/
def acqPending (s : State) : Bool :=
  s.reqs.any fun q => q.drove == s.dr.uid && (match q.kind with | .atom _ acq => acq | _ => false)

/-- The wait of every memory instruction behind an acquiring atomic. -/
def memWait (s : State) : Verdict := waitIf (acqPending s) .returns

/-- A store-buffer entry is free (01 R30). -/
def entryWait (s : State) : Verdict := waitIf (decide (16 ≤ sbcnt s s.dr.uid)) .entry

/-- The address of a lane in M format (03 R77, 09 R181). -/
def laneAddr (d : Drove) (sb va l scale : Nat) : Nat :=
  (sreg d sb + (vlane d va l).signExtend 64 * BitVec.ofNat 64 scale).toNat

/-- The scale of M format's index. -/
def scaleOf (size : Nat) (sc : Bool) : Nat := if sc then size else 1

/-- A lane's fault at the core: its cause and the address reported (09 R182). -/
abbrev CoreFault := Option (BitVec 8 × Nat)

/-- A device, peer or host address (09 R181). -/
def plainFault (a size : Nat) : CoreFault :=
  if a % size ≠ 0 ∨ routeOf a = 3 ∨ inAperture a then some (0x14, a) else none

/-- A private offset (09 R193); ADDR is the lane's offset (09 R182). -/
def privFault (d : Drove) (o size : Nat) : CoreFault :=
  if o % size ≠ 0 then some (0x14, o)
  else if d.slim.toNat < o + size then some (0x0B, o)
  else none

/-- A scratchpad address (09 R194). -/
def spadFault (d : Drove) (a size : Nat) : CoreFault :=
  if a % size ≠ 0 then some (0x14, a)
  else if a < d.spb.toNat ∨ d.spl.toNat < a + size then some (0x0C, a)
  else none

/-- The address of byte `o` of lane `l` in private memory (09 R193). -/
def privAddr (d : Drove) (l o : Nat) : Nat :=
  (d.pbase.toNat + o / 4 * (d.width * 4) + l * 4 + o % 4) % 2 ^ 64

/-- The refusal at the core: the first of 0x14, 0x0B and 0x0C that an active lane meets, with the lowest such lane's
address (09 R182). -/
def coreVerdict (lanes : List Nat) (f : Nat → CoreFault) : Verdict :=
  firstOf ([0x14#8, 0x0B#8, 0x0C#8].map fun c =>
    match lanes.findSome? fun l => (f l).bind fun x => if x.1 = c then some x.2 else none with
    | some a => .stop c 0 a
    | none => .go)

/-- Lanes that a load performs, and the active lanes (09 R181). -/
def loadLanes (d : Drove) : List Nat := (List.range 64).filter (takesPart d)
def activeLanes (d : Drove) : List Nat := (List.range 64).filter fun l => (activeMask d).getLsbD l

/-- A lane of a load is a helper lane (01 R21). -/
def isHelper (d : Drove) (l : Nat) : Bool := !d.pres.getLsbD l

/-- Elements that a vector load decodes per lane, none where the combination is refused (09 R184). -/
def bxElems (et sz : Nat) : Option Nat :=
  match et, sz with
  | 0, 0 => some 1
  | 0, 1 => some 2
  | 1, 1 => some 2
  | 2, 1 => some 2
  | 1, 2 => some 4
  | 2, 2 => some 4
  | _, _ => none

/-- The load decodes into a pair of registers (09 R184): f32 with sz 1, a 16-bit type with sz 2. -/
def bxPair (et sz : Nat) : Bool := (et == 0 && sz == 1) || ((et == 1 || et == 2) && sz == 2)

/-- The element format of the page of a VA (13 R282). -/
def pageEf (s : State) (va : Nat) : Nat :=
  if routeOf (localOf s va) ≠ 0 ∨ inAperture va then 0
  else
    match leafAt s s.dr.ctx (localOf s va) with
    | some l => leafEf l.attr
    | none => 0

/-- Some lane's page is known at issue to decode, and so fills a second register: an odd vt is then the precise 0x04 of an
operand (assumption log 13). -/
def fillsPair (s : State) (sz : Nat) (addr : Drove → Nat → Nat) : Bool :=
  bxPair (modeET s.dr.mode) sz && (loadLanes s.dr).any fun l => pageEf s (addr s.dr l) != 0

/-- Marks a load's destinations empty (09 R183). -/
def emptyV (d : Drove) (n : Nat) (two : Bool) : Drove := if two then markV (markV d n false) (n + 1) false else markV d n false

/-- A vector load (09 R183, R193, R194): `fault` is what a lane meets at the core, `accs` the accesses that a lane makes
beyond it. A helper lane that faults at the core receives 0 at once. -/
def vecLoad (kind : ReqKind) (vt sb va sz : Nat) (addr : Drove → Nat → Nat) (fault : Drove → Nat → CoreFault)
    (accs : Drove → Nat → List (Nat × Nat × Nat)) (s : State) (priv : Bool := false) : Out :=
  let two := decide (sz = 3) || fillsPair s sz addr
  .next <| issueIf
    { uses := [srcS sb, srcV va, dstV vt false (if two then 2 else 1) (if two then 2 else 1)], masks := true,
      typ := !isBX (modeET s.dr.mode) }
    (fun s => firstOf [memWait s, coreVerdict (activeLanes s.dr) (fault s.dr)]) s fun s =>
      if activeMask s.dr = 0 then retire s
      else
        let d := s.dr
        let as := (loadLanes d).flatMap fun l =>
          if (fault d l).isSome then [{ Acc.fresh s l 0 0 0 true with st := .done }]
          else (accs d l).map fun (a, n, w) => { Acc.fresh s l a n 0 (isHelper d l) with y := w }
        let q := { Req.fresh s kind (2 ^ sz) as with dst := vt, dst2 := two, priv := priv }
        retire (post (onDr s fun d => emptyV d vt two) q)

/-- `ld` of policy `p` (09 R183). -/
def loadOp (p : Policy) (vt : BitVec 7) (sb : BitVec 6) (va : BitVec 7) (sz : BitVec 2) (ex sc : Bool) (s : State) : Out :=
  let n := 2 ^ sz.toNat
  let addr (d : Drove) (l : Nat) : Nat := laneAddr d sb.toNat va.toNat l (scaleOf n sc)
  vecLoad (.load p ex) vt.toNat sb.toNat va.toNat sz.toNat addr (fun d l => plainFault (addr d l) n)
    (fun d l => [(addr d l, n, 0)]) s

def execLdO (vt : BitVec 7) (sb : BitVec 6) (va : BitVec 7) (sz : BitVec 2) (ex sc : Bool) (s : State) : Out :=
  loadOp .o vt sb va sz ex sc s
def execLdW (vt : BitVec 7) (sb : BitVec 6) (va : BitVec 7) (sz : BitVec 2) (ex sc : Bool) (s : State) : Out :=
  loadOp .w vt sb va sz ex sc s
def execLdS (vt : BitVec 7) (sb : BitVec 6) (va : BitVec 7) (sz : BitVec 2) (ex sc : Bool) (s : State) : Out :=
  loadOp .s vt sb va sz ex sc s
def execLdI (vt : BitVec 7) (sb : BitVec 6) (va : BitVec 7) (sz : BitVec 2) (ex sc : Bool) (s : State) : Out :=
  loadOp .i vt sb va sz ex sc s

/-- The accesses of one lane to private memory: one for each 4-byte word (09 R193). -/
def privAccs (d : Drove) (l o size : Nat) : List (Nat × Nat × Nat) :=
  if size = 8 then [(privAddr d l o, 4, 0), (privAddr d l (o + 4), 4, 1)] else [(privAddr d l o, size, 0)]

/-- What a private access meets at the core: its offset, then the address it stands for (09 R181, R193). -/
def privCore (d : Drove) (l o size : Nat) : CoreFault :=
  (privFault d o size).or ((privAccs d l o size).findSome? fun a => plainFault a.1 a.2.1)

def execLdp (vt : BitVec 7) (sb : BitVec 6) (va : BitVec 7) (sz : BitVec 2) (ex sc : Bool) (s : State) : Out :=
  let n := 2 ^ sz.toNat
  let off (d : Drove) (l : Nat) : Nat := laneAddr d sb.toNat va.toNat l (scaleOf n sc)
  vecLoad (.ldp ex) vt.toNat sb.toNat va.toNat sz.toNat (fun d l => privAddr d l (off d l))
    (fun d l => privCore d l (off d l) n) (fun d l => privAccs d l (off d l) n) s (priv := true)

def execLdsp (vt : BitVec 7) (sb : BitVec 6) (va : BitVec 7) (sz : BitVec 2) (ex sc : Bool) (s : State) : Out :=
  let n := 2 ^ sz.toNat
  let addr (d : Drove) (l : Nat) : Nat := laneAddr d sb.toNat va.toNat l (scaleOf n sc)
  vecLoad (.ldsp ex) vt.toNat sb.toNat va.toNat sz.toNat (fun _ _ => apertureBase)
    (fun d l => spadFault d (addr d l) n) (fun d l => [(addr d l, n, 0)]) s

/-- The data a lane stores (09 R185): its low bytes go to a plain page, the whole lane to the encoder of a BX page (09 R186). -/
def laneData (d : Drove) (vt l size : Nat) : Nat :=
  if size = 8 then (vlane d vt l).toNat + 2 ^ 32 * (vlane d (vt + 1) l).toNat else (vlane d vt l).toNat

/-- A store of this policy to this address is a synchronising operation (19 R406). -/
def syncStore (s : State) (p : Policy) (va : Nat) : Bool :=
  s.dr.det && (p == .o || p == .w) && routeOf va != 3 && decide (2 ≤ domainOf s va)

/-- The wait of a synchronising store for its turn. -/
def turnWait (s : State) (b : Bool) : Verdict := waitIf (b && !s.dr.turn) .turn

/-- Posts a store's request, at its turn when it is synchronising. -/
def postStore (s : State) (q : Req) (sync : Bool) : State :=
  let (s, q) := if sync then takeTurn s q else (s, q)
  retire (post s q)

/-- A vector store (09 R185, R193, R194, R196): active lanes only, one store-buffer entry. `pos` gives a lane's place in the
entry's unfinished mask; `priv` is private memory. -/
def vecStore (kind : ReqKind) (gate : Option Policy) (vt sb va sz : Nat) (fault : Drove → Nat → CoreFault)
    (accs : Drove → Nat → List (Nat × Nat × Nat)) (s : State) (pos : Drove → Nat → Nat := fun _ l => l) (priv : Bool := false) : Out :=
  let two := decide (sz = 3)
  let k := if two then 2 else 1
  let sync (s : State) : Bool :=
    match gate with
    | some p => (activeLanes s.dr).any fun l => (accs s.dr l).any fun a => syncStore s p a.1
    | none => false
  .next <| issueIf { uses := [srcS sb, srcV va, srcV vt false k k], masks := true }
    (fun s => firstOf [memWait s, coreVerdict (activeLanes s.dr) (fault s.dr),
      if activeMask s.dr = 0 then .go else firstOf [entryWait s, turnWait s (sync s)]]) s fun s =>
      if activeMask s.dr = 0 then retire s
      else
        let d := s.dr
        let as := (activeLanes d).flatMap fun l => (accs d l).map fun (a, n, x) => Acc.fresh s (pos d l) a n x false
        postStore s { Req.fresh s kind (2 ^ sz) as with priv := priv } (sync s)

/-- `st` of policy `p`, and `stm` as a write-through store (09 R185, R196). -/
def storeOp (kind : ReqKind) (p : Policy) (vt : BitVec 7) (sb : BitVec 6) (va : BitVec 7) (sz : BitVec 2) (sc : Bool)
    (s : State) : Out :=
  let n := 2 ^ sz.toNat
  let addr (d : Drove) (l : Nat) : Nat := laneAddr d sb.toNat va.toNat l (scaleOf n sc)
  vecStore kind (some p) vt.toNat sb.toNat va.toNat sz.toNat (fun d l => plainFault (addr d l) n)
    (fun d l => [(addr d l, n, laneData d vt.toNat l n)]) s

def execStO (vt : BitVec 7) (sb : BitVec 6) (va : BitVec 7) (sz : BitVec 2) (sc : Bool) (s : State) : Out :=
  storeOp (.store .o) .o vt sb va sz sc s
def execStW (vt : BitVec 7) (sb : BitVec 6) (va : BitVec 7) (sz : BitVec 2) (sc : Bool) (s : State) : Out :=
  storeOp (.store .w) .w vt sb va sz sc s
def execStS (vt : BitVec 7) (sb : BitVec 6) (va : BitVec 7) (sz : BitVec 2) (sc : Bool) (s : State) : Out :=
  storeOp (.store .s) .s vt sb va sz sc s
def execStI (vt : BitVec 7) (sb : BitVec 6) (va : BitVec 7) (sz : BitVec 2) (sc : Bool) (s : State) : Out :=
  storeOp (.store .i) .i vt sb va sz sc s
def execStm (vt : BitVec 7) (sb : BitVec 6) (va : BitVec 7) (sz : BitVec 2) (sc : Bool) (s : State) : Out :=
  storeOp .stm .w vt sb va sz sc s

def execStp (vt : BitVec 7) (sb : BitVec 6) (va : BitVec 7) (sz : BitVec 2) (sc : Bool) (s : State) : Out :=
  let n := 2 ^ sz.toNat
  let off (d : Drove) (l : Nat) : Nat := laneAddr d sb.toNat va.toNat l (scaleOf n sc)
  vecStore (.store .o) none vt.toNat sb.toNat va.toNat sz.toNat (fun d l => privCore d l (off d l) n)
    (fun d l => (privAccs d l (off d l) n).map fun (a, m, w) =>
      (a, m, if n = 8 then (vlane d (vt.toNat + w) l).toNat else laneData d vt.toNat l n)) s (priv := true)

def execStsp (vt : BitVec 7) (sb : BitVec 6) (va : BitVec 7) (sz : BitVec 2) (sc : Bool) (s : State) : Out :=
  let n := 2 ^ sz.toNat
  let addr (d : Drove) (l : Nat) : Nat := laneAddr d sb.toNat va.toNat l (scaleOf n sc)
  vecStore .stsp none vt.toNat sb.toNat va.toNat sz.toNat (fun d l => spadFault d (addr d l) n)
    (fun d l => [(addr d l, n, laneData d vt.toNat l n)]) s

/-- `cst` (09 R195): the m-th active lane stores at A(0) + m × size, from the index of the lowest active lane; the entry
counts positions m. -/
def execCst (vt : BitVec 7) (sb : BitVec 6) (va : BitVec 7) (sz : BitVec 2) (sc : Bool) (s : State) : Out :=
  let n := 2 ^ sz.toNat
  let addr (d : Drove) (l : Nat) : Nat :=
    let ls := activeLanes d
    (laneAddr d sb.toNat va.toNat (ls.headD 0) (scaleOf n sc) + ls.idxOf l * n) % 2 ^ 64
  vecStore (.store .o) (some .o) vt.toNat sb.toNat va.toNat sz.toNat (fun d l => plainFault (addr d l) n)
    (fun d l => [(addr d l, n, laneData d vt.toNat l n)]) s (pos := fun d l => (activeLanes d).idxOf l)

/-- The address of a scalar access (03 R78). -/
def scalarAddr (d : Drove) (sb : BitVec 6) (imm : BitVec 10) : Nat := (sreg d sb.toNat + imm.signExtend 64 * 8).toNat

/-- The refusal of one address at the core. -/
def oneVerdict (f : CoreFault) : Verdict :=
  match f with
  | some (c, a) => .stop c 0 a
  | none => .go

/-- `lds` of policy `p` (09 R190). -/
def scalarLoad (p : Policy) (t sb : BitVec 6) (imm : BitVec 10) (sz : BitVec 2) (s : State) : Out :=
  let n := 2 ^ sz.toNat
  .next <| issueIf { uses := [srcS sb.toNat, dstS t.toNat] }
    (fun s => firstOf [memWait s, oneVerdict (plainFault (scalarAddr s.dr sb imm) n)]) s fun s =>
      let a := scalarAddr s.dr sb imm
      let q := { Req.fresh s (.lds p) n [Acc.fresh s 0 a n 0 false] with dst := t.toNat }
      retire (post (onDr s fun d => markS d t.toNat false) q)

def execLdsO (t sb : BitVec 6) (imm : BitVec 10) (sz : BitVec 2) (s : State) : Out := scalarLoad .o t sb imm sz s
def execLdsW (t sb : BitVec 6) (imm : BitVec 10) (sz : BitVec 2) (s : State) : Out := scalarLoad .w t sb imm sz s
def execLdsS (t sb : BitVec 6) (imm : BitVec 10) (sz : BitVec 2) (s : State) : Out := scalarLoad .s t sb imm sz s
def execLdsI (t sb : BitVec 6) (imm : BitVec 10) (sz : BitVec 2) (s : State) : Out := scalarLoad .i t sb imm sz s

/-- `sts` of policy `p` (09 R190). -/
def scalarStore (p : Policy) (t sb : BitVec 6) (imm : BitVec 10) (sz : BitVec 2) (s : State) : Out :=
  let n := 2 ^ sz.toNat
  let sync (s : State) : Bool := syncStore s p (scalarAddr s.dr sb imm)
  .next <| issueIf { uses := [srcS sb.toNat, srcS t.toNat] }
    (fun s => firstOf [memWait s, oneVerdict (plainFault (scalarAddr s.dr sb imm) n), entryWait s, turnWait s (sync s)]) s
    fun s =>
      let a := scalarAddr s.dr sb imm
      let x := (sreg s.dr t.toNat).toNat % 2 ^ (8 * n)
      postStore s (Req.fresh s (.store p) n [{ Acc.fresh s 0 a n x false with y := 1 }]) (sync s)

def execStsO (t sb : BitVec 6) (imm : BitVec 10) (sz : BitVec 2) (s : State) : Out := scalarStore .o t sb imm sz s
def execStsW (t sb : BitVec 6) (imm : BitVec 10) (sz : BitVec 2) (s : State) : Out := scalarStore .w t sb imm sz s
def execStsS (t sb : BitVec 6) (imm : BitVec 10) (sz : BitVec 2) (s : State) : Out := scalarStore .s t sb imm sz s
def execStsI (t sb : BitVec 6) (imm : BitVec 10) (sz : BitVec 2) (s : State) : Out := scalarStore .i t sb imm sz s

/-- `pref` (09 R197): a request with no destination; a lane that would fault is dropped. -/
def execPref (tgt : BitVec 2) (sb : BitVec 6) (va : BitVec 7) (sz : BitVec 2) (sc : Bool) (s : State) : Out :=
  let n := 2 ^ sz.toNat
  .next <| issueIf { uses := [srcS sb.toNat, srcV va.toNat], masks := true } memWait s fun s =>
    let d := s.dr
    let as := (activeLanes d).filterMap fun l =>
      let a := laneAddr d sb.toNat va.toNat l (scaleOf n sc)
      if (plainFault a n).isSome || routeOf a != 0 then none else some (Acc.fresh s l a n 0 false)
    if as.isEmpty then retire s else retire (post s (Req.fresh s (.pref tgt.toNat) n as))

/-- A copy meets the byte range of a maintenance instruction, which an empty range never does; `whole` is the whole L1, the
copies of every context (09 R198). -/
def inRange (whole : Bool) (ctx c : BitVec 16) (lo n va size : Nat) : Bool :=
  whole || (c == ctx && n != 0 && overlap va size lo n)

/-- `vinv` (09 R198): unregistered copies of the range leave the issuing core's L1, dirty ones written back, and the
issuing die's replicas leave their slices. -/
def execVinv (a l : BitVec 6) (s : State) : Out :=
  let whole := a.toNat == 0
  .next <| issueIf { uses := [srcS a.toNat, srcS l.toNat], bad := whole && l.toNat != 0 } memWait s fun s =>
    let lo := (sreg s.dr a.toNat).toNat
    let n := (sreg s.dr l.toNat).toNat
    let out := s.coh.l1.filter fun x => x.core == s.dr.core && !x.reg && !x.owned && inRange whole s.dr.ctx x.ctx lo n x.va 128
    let s := out.foldl leaveL1 s
    let die := dieOfCore s.dr.core
    let reps := s.vc.lines.filter fun x => x.die == die &&
      ((cdrOf s x.vc).map (·.place)) == some true &&
      inRange whole s.dr.ctx x.ctx lo n x.va (lineBytes ((cdrOf s x.vc).elim 0 fun c => if x.old then c.olsz else c.lsz))
    retire (reps.foldl leaveVLine s)

/-- `vwb` (09 R198): one store-buffer entry, held until every dirty copy of the range has been written back. -/
def execVwb (a l : BitVec 6) (s : State) : Out :=
  let whole := a.toNat == 0
  .next <| issueIf { uses := [srcS a.toNat, srcS l.toNat], bad := whole && l.toNat != 0 }
    (fun s => firstOf [memWait s, entryWait s]) s fun s =>
      let lo := (sreg s.dr a.toNat).toNat
      let n := (sreg s.dr l.toNat).toNat
      retire (post s (Req.fresh s (.vwb whole) 0 [{ Acc.fresh s 0 lo n 0 false with st := .done }]))

/-- An earlier load or returning atomic of the drove has not written its destination (09 R199). -/
def loadsOut (s : State) : Bool := s.reqs.any fun q => q.drove == s.dr.uid && readsFirst q.kind

/-- Waits of a release (09 R199, R202). -/
def releaseWait (s : State) : Verdict :=
  firstOf [waitIf (sbcnt s s.dr.uid != 0) .drain, waitIf (loadsOut s) .returns]

def execFenceAcq (s : State) : Out :=
  .next <| issueIf {} (fun s => waitIf (loadsOut s) .returns) s fun s => retire (acquireDrop s)
def execFenceRel (s : State) : Out := .next <| issueIf {} releaseWait s retire
def execFenceSc (s : State) : Out := .next <| issueIf {} releaseWait s fun s => retire (acquireDrop s)

end Sys2Proof.Machine
end

