-- ==== Sys2Proof/Machine/Atomic.lean ====
section
/-! DEFINITION. Atomics: their words, their checks at the core, and the translation probe that every one of them waits
for (09 R200-R206). -/

namespace Sys2Proof.Machine

/-- The types that an aop accepts (09 R200). -/
def aopTypes (p et : Nat) : Bool :=
  match p with
  | 0 => et == 3 || et == 4
  | 1 => et == 3 || et == 4
  | 2 => et == 3 || et == 4
  | 3 => et == 3 || et == 4 || et == 9
  | 4 => et == 3 || et == 4 || et == 9
  | 5 => et == 3 || et == 4 || et == 9
  | 6 => et == 3 || et == 4 || et == 9 || et == 0
  | 7 => et == 3 || et == 4 || et == 9 || et == 0
  | 8 => et == 4
  | _ => isF et

/-- Floating-point aops: RNE, subnormals kept, canonical NaNs (09 R200). -/
def atomFenv (et : Nat) : Fenv := { f := fmtOf et, rm := 0, ftz := false, cnan := true }

/-- One slot of a floating-point aop. -/
def atomSlot (p et m x : Nat) : Nat :=
  let c := atomFenv et
  match p with
  | 9 => (fpAdd c (c.f.read false m) (c.f.read false x)).1
  | 10 => (fpMinMax c false m x).1
  | _ => (fpMinMax c true m x).1

/-- The new word that an aop makes of the old word `m`, the operand `x` and the swap value `w` (09 R200). -/
def atomNew (p et m x w : Nat) : Nat :=
  let lt (a b : Nat) : Bool := decide (intVal et a < intVal et b)
  match p with
  | 0 => (m + x) % 2 ^ 32
  | 1 => if lt x m then x else m
  | 2 => if lt m x then x else m
  | 3 => m &&& x
  | 4 => m ||| x
  | 5 => m ^^^ x
  | 6 => x
  | 7 => if m = x then w else m
  | 8 => if x ≤ m then 0 else m + 1
  | _ => (packElems (elemWidth et) ((List.range (perLane et)).map fun j =>
      atomSlot p et (m / 2 ^ (elemWidth et * j) % 2 ^ elemWidth et) (x / 2 ^ (elemWidth et * j) % 2 ^ elemWidth et))).toNat

/-- The high word of a `catom` and the error that goes to its low word (09 R205). -/
def catomHigh (h x0 : Nat) : Nat × W32 :=
  let a := f32.read false h
  let b := f32.read false x0
  let hn := (fpAdd (atomFenv 0) a b).1
  match f32.read false hn with
  | .fin n m e => (hn, BitVec.ofNat 32 (f32.round 0 false false ((a.dy.add b.dy).sub (FV.fin n m e).dy)).1)
  | _ => (hn, 0)

/-- The low word of a `catom` (09 R205). -/
def catomLow (lo : Nat) (x1 e : W32) : Nat :=
  let a := f32.read false lo
  let b := f32.read false x1.toNat
  let d := f32.read false e.toNat
  if a.isFin && b.isFin then (f32.round 0 false (zeroSign 0 [a, b, d]) ((a.dy.add b.dy).add d.dy)).1
  else (fpAdd (atomFenv 0) a b).1

/-- What an atomic's address meets at the core (09 R181, R203): the grant is checked in the scratchpad aperture. -/
def atomFault (d : Drove) (a : Nat) : CoreFault :=
  if a % 4 ≠ 0 ∨ routeOf a = 3 then some (0x14, a)
  else if inAperture a ∧ (a - apertureBase < d.spb.toNat ∨ d.spl.toNat < a - apertureBase + 4) then some (0x0C, a)
  else none

/-- The low word of a `catom` (09 R205). -/
def lowAddr (split : W64) (a : Nat) : Nat := (a + split.toNat) % 2 ^ 64

/-- What a `catom`'s address meets at the core: neither word may lie in the aperture (09 R181). -/
def catomFault (d : Drove) (a : Nat) : CoreFault :=
  if a % 4 ≠ 0 ∨ routeOf a = 3 ∨ inAperture a ∨ routeOf (lowAddr d.losplit a) = 3 ∨ inAperture (lowAddr d.losplit a) then
    some (0x14, a)
  else none

/-- The drove's part of an atomic that leaves its core: the destination becomes empty, and the drove goes on
(09 R201, R206). The record operations of chapter 11 have theirs here too: `rtake` empties its pair, and the drove of an
`evpost` stays until the record is posted. -/
def departs (s : State) (q : Req) : State :=
  match q.kind with
  | .atom _ _ => retire (onDr s fun d => markV d q.dst false)
  | .satom _ => retire (onDr s fun d => markS d q.dst false)
  | .rtake => retire (onDr s fun d => markS (markS d q.dst false) (q.dst + 1) false)
  | .red _ => retire s
  | .catom => retire s
  | _ => s

/-- Starts an atomic (09 R203): the drove waits for the probe; one whose lanes all lie in the aperture needs none. -/
def startAtomic (s : State) (q : Req) : State :=
  if q.accs.all fun a => inAperture a.va then
    let (s, q) := takeTurn s q
    departs (post s { q with accs := q.accs.map fun a => { a with st := .sent } }) q
  else onDr (post s { q with probing := true }) fun d => { d with cond := .waiting .probe, since := s.cycle }

/-- The words of a per-lane atomic: operand and swap value (09 R200). -/
def atomAccs (s : State) (vd sb va : Nat) (two : Bool) : List Acc :=
  (activeLanes s.dr).map fun l =>
    { Acc.fresh s l (laneAddr s.dr sb va l 1) 4 (vlane s.dr vd l).toNat false with
      y := if two then (vlane s.dr (vd + 1) l).toNat else 0 }

/-- A per-lane atomic (09 R201, R202): `rel` waits as a release does, `entry` for a store-buffer entry. -/
def vecAtomic (kind : ReqKind) (vd sb va : Nat) (two typ rel entry : Bool) (pre : State → Verdict)
    (fault : Drove → Nat → CoreFault) (s : State) : Out :=
  let k := if two then 2 else 1
  .next <| issueIf { uses := [srcS sb, srcV va, srcV vd false k k], masks := true, typ := typ, sync := true }
    (fun s => firstOf [pre s, memWait s, coreVerdict (activeLanes s.dr) (fun l => fault s.dr (laneAddr s.dr sb va l 1)),
      if activeMask s.dr = 0 then .go
      else firstOf [if entry then entryWait s else .go, if rel then releaseWait s else .go]]) s fun s =>
      if activeMask s.dr = 0 then retire s
      else startAtomic s { Req.fresh s kind 4 (atomAccs s vd sb va two) with dst := vd }

/-- `atom.O.aop` (09 R201, R202). -/
def atomOp (acq rel : Bool) (vd : BitVec 7) (sb : BitVec 6) (va : BitVec 7) (p : BitVec 4) (s : State) : Out :=
  vecAtomic (.atom p.toNat acq) vd.toNat sb.toNat va.toNat (p == 7) (aopTypes p.toNat (modeET s.dr.mode)) rel false
    (fun _ => .go) atomFault s

def execAtomRlx (vd : BitVec 7) (sb : BitVec 6) (va : BitVec 7) (p : BitVec 4) (s : State) : Out := atomOp false false vd sb va p s
def execAtomAcq (vd : BitVec 7) (sb : BitVec 6) (va : BitVec 7) (p : BitVec 4) (s : State) : Out := atomOp true false vd sb va p s
def execAtomRel (vd : BitVec 7) (sb : BitVec 6) (va : BitVec 7) (p : BitVec 4) (s : State) : Out := atomOp false true vd sb va p s
def execAtomAr (vd : BitVec 7) (sb : BitVec 6) (va : BitVec 7) (p : BitVec 4) (s : State) : Out := atomOp true true vd sb va p s

/-- `red.O.aop` (09 R201, R202). -/
def redOp (rel : Bool) (vd : BitVec 7) (sb : BitVec 6) (va : BitVec 7) (p : BitVec 4) (s : State) : Out :=
  vecAtomic (.red p.toNat) vd.toNat sb.toNat va.toNat false (aopTypes p.toNat (modeET s.dr.mode)) rel true
    (fun _ => .go) atomFault s

def execRedRlx (vd : BitVec 7) (sb : BitVec 6) (va : BitVec 7) (p : BitVec 4) (s : State) : Out := redOp false vd sb va p s
def execRedRel (vd : BitVec 7) (sb : BitVec 6) (va : BitVec 7) (p : BitVec 4) (s : State) : Out := redOp true vd sb va p s

def execCatom (vd : BitVec 7) (sb : BitVec 6) (va : BitVec 7) (s : State) : Out :=
  vecAtomic .catom vd.toNat sb.toNat va.toNat true (modeET s.dr.mode == 0) false true
    (fun s => stopIf (s.dr.losplit == 0) 0x02) catomFault s

/-- `satom` (09 R206): once per drove, whatever the masks. -/
def execSatom (sd sb so : BitVec 6) (p : BitVec 4) (s : State) : Out :=
  let k := if p = 7 then 2 else 1
  let addr (s : State) : Nat := (sreg s.dr sb.toNat + sreg s.dr so.toNat).toNat
  .next <| issueIf
    { uses := [srcS sb.toNat, srcS so.toNat, { cls := .scl, base := sd.toNat, n := k, align := k }],
      typ := aopTypes p.toNat (modeET s.dr.mode), sync := true }
    (fun s => firstOf [memWait s, oneVerdict (atomFault s.dr (addr s))]) s fun s =>
      let a := { Acc.fresh s 0 (addr s) 4 ((sreg s.dr sd.toNat).toNat % 2 ^ 32) false with
                 y := if p = 7 then (sreg s.dr (sd.toNat + 1)).toNat % 2 ^ 32 else 0 }
      startAtomic s { Req.fresh s (.satom p.toNat) 4 [a] with dst := sd.toNat }

/-- The probe of one word (09 R203): its leaf, or the cause that refuses it. An address error is met later, when the
word is performed; a word on another device has been answered already. -/
def probeWord (s : State) (c : BitVec 16) (va : Nat) (ask : Ask) : (Option Leaf ⊕ BitVec 8) × State :=
  if isPeer s va ∨ inAperture va then (.inl none, s)
  else if routeOf va ≥ 2 then (.inr 0x18, s)
  else
    match dieAccess s c (localOf s va) ask false with
    | (.inl l, s) => (.inl (some l), s)
    | (.inr cause, s) =>
      if cause = 0x17 then
        match leafAt s c (localOf s va) with
        | some l => (.inl (some l), s)
        | none => (.inr cause, s)
      else (.inr cause, s)

/-- The probe of one access, the low word of a `catom` with it (09 R205). -/
def probeAcc (s : State) (q : Req) (a : Acc) : (Acc ⊕ BitVec 8 × Nat) × State :=
  match a.st with
  | .faulted cause => (.inr (cause, a.va), s)
  | _ =>
    match probeWord s q.ctx a.va (if q.kind = .catom then .catomHigh else .atomic) with
    | (.inr cause, s) => (.inr (cause, a.va), s)
    | (.inl l, s) =>
      let a := { a with st := .sent, dpa := (l.map (·.dpa)).getD 0, attr := (l.map (·.attr)).getD 0, page := (l.map (·.size)).getD 0 }
      if q.kind ≠ .catom then (.inl a, s)
      else
        let lo := lowAddr q.split a.va
        match probeWord s q.ctx lo .atomic with
        | (.inr cause, s) => (.inr (cause, lo), s)
        | (.inl l, s) =>
          (.inl { a with r := (l.map (·.dpa)).getD lo, lowAttr := (l.map (·.attr)).getD 0, lowPage := (l.map (·.size)).getD 0 }, s)

/-- The probes of every access, in lane order: the confirmed accesses, or the first refusal. Of lanes refused for different causes the
lowest decides, and of a `catom` lane the high word before the low (DESIGN CHOICE, assumption log 13). -/
def probeAll (s : State) (q : Req) : List Acc → (List Acc ⊕ BitVec 8 × Nat) × State
  | [] => (.inl [], s)
  | a :: as =>
    match probeAcc s q a with
    | (.inr e, s) => (.inr e, s)
    | (.inl a, s) =>
      match probeAll s q as with
      | (.inr e, s) => (.inr e, s)
      | (.inl as, s) => (.inl (a :: as), s)

/-- The probe waits for an answer from another device, or for a page that is being expanded. -/
def probeWaits (s : State) (q : Req) : Bool :=
  q.accs.any fun a =>
    match a.st with
    | .new => isPeer s a.va || (q.kind == .catom && isPeer s (lowAddr q.split a.va))
    | .faulted c => c == 0x12
    | _ => false

/-- The drove of a request that has been refused stands before its instruction again. -/
def standBefore (s : State) (u : Nat) : State := onDrove s u fun d => { d with cond := .ready, since := s.cycle }

end Sys2Proof.Machine
end

