-- ==== Sys2Proof/Machine/Binned.lean ====
section
/-! DEFINITION. Binned reproducible sums (02 R64, R65), shared by `lred` and collectives. -/

namespace Sys2Proof.Machine

/-- A finite nonzero contribution. -/
def contributes (x : FV) : Bool := x.isFin && !x.isZero

/-- Phase 1: the largest ⌊log2 |x|⌋ over the finite nonzero contributions. -/
def binEmax (xs : List FV) : Option Int :=
  (xs.filter contributes).foldl (fun m x => some (match m with | some e => max e x.dy.log | none => x.dy.log)) none

/-- trunc(x × 2^n), toward zero. -/
def truncScaled (x : Dy) (n : Int) : Int :=
  let e := x.e + n
  if 0 ≤ e then x.m * 2 ^ e.toNat else x.m.tdiv (2 ^ (-e).toNat)

/-- Phase 2: the three integers of a contribution. -/
def binSplit (emax : Int) (x : Dy) : List Int :=
  let t0 := truncScaled x (39 - emax)
  let t1 := truncScaled x (79 - emax)
  let t2 := truncScaled x (119 - emax)
  [t0, t1 - 2 ^ 40 * t0, t2 - 2 ^ 40 * t1]

/-- The bins of a list of contributions. -/
def binSum (emax : Int) (xs : List FV) : List Int :=
  (xs.filter contributes).foldl (fun b x => List.zipWith (· + ·) b (binSplit emax x.dy)) [0, 0, 0]

/-- The exact total of three bins. -/
def binTotal (emax : Int) (bs : List Int) : Dy :=
  bs.zipIdx.foldl (fun t (b, k) => t.add ⟨b, emax - 39 - 40 * (k : Int)⟩) .zero

/-- A contribution loses bits below 2^(emax − 119). -/
def binInexact (emax : Int) (x : FV) : Bool := contributes x && !(binTotal emax (binSplit emax x.dy)).eq x.dy

/-- What special values make of a block: a NaN, an infinity, or nothing (02 R64). -/
inductive BinSpecial where
  | nan | inf (neg : Bool) | none
  deriving DecidableEq, Repr

def binSpecial (xs : List FV) : BinSpecial :=
  let pos := xs.any (· == .inf false)
  let neg := xs.any (· == .inf true)
  if xs.any (·.isNan) || (pos && neg) then .nan else if pos then .inf false else if neg then .inf true else .none

end Sys2Proof.Machine
end

