-- ==== Sys2Proof/Machine/Control.lean ====
section
/-! DEFINITION. Branches, calls and the link stack, mode instructions, ganging, yielding, breakpoints, barriers' rounds
and the end of a drove (05 R114-R124, 11 R229). -/

namespace Sys2Proof.Machine

/-- The target of a B-format transfer: PC + 4 + 4 × off18 (03 R75). -/
def branchTarget (d : Drove) (off : BitVec 18) : W64 := d.pc + 4 + (sext 18 off <<< 2)

def execBra (off : BitVec 18) (s : State) : Out := .next <| issue {} s fun s => retireAt s (branchTarget s.dr off)

/-- A conditional branch on the whole of S[sc] (05 R114); its outcome is traced (19 R417). -/
def condBranch (c : BitVec 6) (off : BitVec 18) (ifZero : Bool) (s : State) : Out :=
  .next <| issue { uses := [srcS c.toNat] } s fun s =>
    let taken := (sreg s.dr c.toNat == 0) == ifZero
    let s := traceBranch s taken (if taken then branchTarget s.dr off else s.dr.pc + 4)
    if taken then retireAt s (branchTarget s.dr off) else retire s

def execBrz (c : BitVec 6) (off : BitVec 18) (s : State) : Out := condBranch c off true s
def execBrnz (c : BitVec 6) (off : BitVec 18) (s : State) : Out := condBranch c off false s

/-- VA of link entry `i` (05 R115). -/
def linkVa (d : Drove) (i : Nat) : Nat := (d.sbase + BitVec.ofNat 64 (8 * i)).toNat

/-- The link entries of a drove that the stack cache holds go to the link area (05 R117, 13 R294); an entry that cannot be written stays with
the drove. -/
def saveLinks (s : State) (d : Drove) : State × Drove :=
  let base := d.depth - d.links.length
  d.links.reverse.zipIdx.foldl (fun (x : State × Drove) (e, i) =>
    if x.2.links.length + i ≠ d.links.length then x
    else
      match vaPut x.1 d.ctx (linkVa d (base + i)) (leBytes 8 e.toNat) (some (dieOfCore d.core)) with
      | (none, s) => (s, { x.2 with links := x.2.links.dropLast })
      | (some _, s) => (s, x.2)) (s, d)

/-- Overflow of the link stack, then a misaligned target, then the wait for room in the stack cache (05 R115-R117). -/
def callVerdict (target : State → W64) (s : State) : Verdict :=
  firstOf [stopIf (s.dr.depth == 512) 0x0B 0 (s.dr.sbase + 0x1000).toNat, stopIf ((target s).toNat % 4 != 0) 0x14,
    waitIf (decide (16 ≤ s.dr.links.length)) .link]

/-- Pushes PC + 4 and transfers (05 R116). -/
def pushCall (target : W64) (s : State) : State :=
  let s := onDr s fun d => { d with links := (d.pc + 4) :: d.links, depth := d.depth + 1 }
  retireAt s target

def execCall (off : BitVec 18) (s : State) : Out :=
  .next <| issueIf {} (callVerdict fun s => branchTarget s.dr off) s fun s => pushCall (branchTarget s.dr off) s

def execCallr (a : BitVec 6) (ea : Bool) (s : State) : Out :=
  .next <| issueIf { uses := [srcS a.toNat ea] } (callVerdict fun s => sreg s.dr a.toNat) s fun s =>
    let t := sreg s.dr a.toNat
    pushCall t (traceIndirect s t)

/-- Underflow, the wait for the top entry to be in the stack cache, then a misaligned popped address, with the depth
unchanged (05 R116, R117). The record of a misaligned target or popped address has ADDR 0 (DESIGN CHOICE, assumption log
29). -/
def retVerdict (s : State) : Verdict :=
  if s.dr.depth = 0 then .stop 0x0B 0 (s.dr.sbase - 8).toNat
  else
    match s.dr.links with
    | [] => .wait .link
    | t :: _ => stopIf (t.toNat % 4 != 0) 0x14

def execRet (s : State) : Out :=
  .next <| issueIf {} retVerdict s fun s =>
    let t := s.dr.links.headD 0
    let s := onDr (traceIndirect s t) fun d => { d with links := d.links.tail, depth := d.depth - 1 }
    retireAt s t

def execJmpr (a : BitVec 6) (ea : Bool) (s : State) : Out :=
  .next <| issueIf { uses := [srcS a.toNat ea] } (fun s => stopIf ((sreg s.dr a.toNat).toNat % 4 != 0) 0x14) s fun s =>
    let t := sreg s.dr a.toNat
    retireAt (traceIndirect s t) t

/-- A background move of drove `d`'s link stack (05 R115, R117): the oldest cached entry is spilled when the cache is
full, the top entry is filled when it is empty. A fault loses nothing and parks the drove; its table entry has KIND 2 for a
spill and 1 for a fill (DESIGN CHOICE, assumption log 29). -/
def execLinkStackSpillFill (d : Nat) (s : State) : Out :=
  .next <|
    let s := select s d
    if s.dr.uid ≠ d ∨ s.dr.cond ≠ .waiting .link then s
    else if 16 ≤ s.dr.links.length then
      let va := linkVa s.dr (s.dr.depth - s.dr.links.length)
      match vaPut s s.dr.ctx va (leBytes 8 (s.dr.links.getLastD 0).toNat) (some (dieOfCore s.dr.core)) with
      | (none, s) => onDr s fun d => { d with links := d.links.dropLast }
      | (some cause, s) => park s 2 cause s.dr s.dr.pc va none true
    else if s.dr.links = [] ∧ 0 < s.dr.depth then
      let va := linkVa s.dr (s.dr.depth - 1)
      match vaRead s s.dr.ctx va 8 (some (dieOfCore s.dr.core)) with
      | (.inl bs, s) => onDr s fun d => { d with links := [BitVec.ofNat 64 (leNat bs)] }
      | (.inr cause, s) => park s 1 cause s.dr s.dr.pc va none true
    else s

/-- The members of the flock's barriers: its droves that have not exited (11 R229). -/
def members (f : Flock) : List Nat := (List.range f.droves).filter fun i => !f.exited.contains i

/-- Barrier `n` of a flock. -/
def barrierOf (f : Flock) (n : Nat) : Barrier :=
  ((f.bars.find? fun b => b.1 == n).map (·.2)).getD { arrived := [], contrib := [], released := [], left := [] }

/-- Writes barrier `n`. -/
def setBarrier (f : Flock) (n : Nat) (b : Barrier) : Flock :=
  { f with bars := (f.bars.filter fun x => x.1 != n) ++ [(n, b)] }

/-- The combination of 64-bit contributions under a `barv` op (11 R230). -/
def combineBarv (op : Nat) : List W64 → W64
  | [] => 0
  | [x] => x
  | x :: xs =>
    let y := combineBarv op xs
    match op with
    | 0 => x + y
    | 1 => x &&& y
    | 2 => x ||| y
    | _ => if x.slt y then y else x

/-- Changes the drove `u`, resident or saved. -/
def touchDrove (s : State) (u : Nat) (f : Drove → Drove) : State :=
  let s := onDrove s u f
  { s with sch := { s.sch with saved := s.sch.saved.map fun v => { v with droves := mapIf (fun d => d.uid == u) f v.droves } } }

/-- Droves of flock `f`, resident or saved. -/
def flockDroves (s : State) (f : Nat) : List Drove :=
  drovesOf s f ++ (s.sch.saved.filter fun v => v.flock.uid == f).flatMap (·.droves)

/-- A flock, resident or saved. -/
def flockHere (s : State) (u : Nat) : Option Flock :=
  match flockOf s u with
  | some f => some f
  | none => (s.sch.saved.find? fun v => v.flock.uid == u).map (·.flock)

/-- A waking operation performed at LCLK `w` reaches a drove that waits passively for what it brings (19 R407). -/
def wake (s : State) (u : Nat) (w : W64) (what : Wait → Bool) : State :=
  touchDrove s u fun d => if d.passive && d.wakeAt.isNone && d.await.any what then { d with wakeAt := some w } else d

/-- Releases barrier `n` when every member has arrived: each arrived drove may continue, with its result (11 R229, R230),
those of one sub-core with the same PC and MODE as a gang (01 R17). A drove that has been resumed elsewhere is not released
again (11 R232). They are ready from now on. `w` is the LCLK of the drove whose arrival or exit completes the round (19 R407). -/
def tryRelease (s : State) (n : Nat) (w : W64) : State :=
  let b := barrierOf s.fl n
  if b.arrived.isEmpty || !((members s.fl).all fun i => b.arrived.contains i) then s
  else
    let vals := b.contrib.map fun c => c.2.2
    let out := (b.arrived.filter (!b.left.contains ·)).map fun i =>
      match b.contrib.find? fun c => c.1 == i with
      | some (_, op, _) => (i, combineBarv op vals, true)
      | none => (i, 0, false)
    let s := onFl s fun f => setBarrier f n { arrived := [], contrib := [], released := b.released ++ out, left := [] }
    let waits (d : Drove) : Bool := d.flock == s.fl.uid && d.cond == .waiting (.barrier n) && out.any fun x => x.1 == d.idx
    let s := gangUp s ((drovesOf s s.fl.uid).filter fun d => waits d || (d.uid == s.dr.uid && out.any fun x => x.1 == d.idx))
    let s := ((drovesOf s s.fl.uid).filter fun d => b.arrived.contains d.idx && d.uid != s.dr.uid).foldl
      (fun s d => wake s d.uid w fun x => x == .barrier n) s
    { s with droves := mapIf waits (fun d => { d with cond := .ready, since := s.cycle }) s.droves }

/-- A producer leaves a chute, which closes when it has had one and has none left (11 R237). -/
def leaveChute (c : Chute) (i : Nat) : Chute :=
  let ps := c.producers.filter (· != i)
  { c with producers := ps, closed := c.closed || (c.everHad && ps.isEmpty) }

/-- Droves waiting for a chute that has just closed rejoin the minimum (19 R407). -/
def wakePops (s : State) (n : Nat) (w : W64) : State :=
  match s.fl.chutes[n]? with
  | some c => if c.closed then c.pops.foldl (fun s p => wake s p.drove w fun x => x == .reg .vec p.vd) s else s
  | none => s

/-- Work of a finished flock's droves that still ends: tile operations, `tld`s, copies, collectives and arrivals
(05 R118, 16 R350). Prefetches are no such work. -/
def flockWorks (s : State) (f : Flock) : Bool :=
  let pre (q : Req) : Bool := match q.kind with | .pref _ => true | _ => false
  (s.eng.tileOps.any fun p => p.flock == f.uid) || (s.eng.copies.any fun c => c.flock == f.uid) ||
    (s.eng.arrivals.any fun x => x.flock == f.uid) || (s.reqs.any fun q => q.flock == f.uid && !pre q) || !f.colls.isEmpty

/-- A flock finishes when its last drove has exited and every pass it reserved has completed (05 R118): its range counts
it. -/
def flockOver (s : State) (fl : Flock) : State :=
  if fl.isOver then s
  else onFlock (onRange s fl.range fun r => { r with finished := r.finished + 1 }) fl.uid fun f => { f with isOver := true, swapDue := none }

/-- Finishes a flock whose droves and passes have ended (05 R118). Its grant and tiles are free once no work of its
droves names them any more (16 R350; assumption log 30). -/
def finishFlock (s : State) (f : Nat) : State :=
  match flockOf s f with
  | none => s
  | some fl =>
    if !(members fl).isEmpty || s.eng.passes.any fun p => p.flock == f then s
    else
      let s := flockOver s fl
      if flockWorks s fl then s
      else
        let isOver (p : Park) : Bool := p.svc == 4 && (drovesOf s f).any fun d => d.uid == p.drove
        removeFlock { s with sch := { s.sch with parks := s.sch.parks.filter fun p => !isOver p } } f

/-- A request whose result the drove waits for before it exits or is saved: everything but loads and stores (05 R118,
01 R29). -/
def returning (r : Req) : Bool :=
  match r.kind with
  | .atom _ _ | .satom _ | .rtake | .abarr | .abinit | .sysrd _ | .barw | .evpost => true
  | _ => false

/-- The drove has a pop that no chute has served (11 R239). -/
def hasPop (s : State) : Bool := s.fl.chutes.any fun c => c.pops.any fun p => p.drove == s.dr.uid

/-- A request of the current drove that is a `tld` with a row parked on a fault (05 R118). -/
def parkedTld (r : Req) : Bool :=
  match r.kind with
  | .tld _ _ => r.accs.any fun a => match a.st with | .faulted _ => true | _ => false
  | _ => false

/-- A request is a load that fills registers of its drove (01 R27). -/
def isLoad (r : Req) : Bool :=
  match r.kind with
  | .load _ _ | .lds _ | .ldp _ | .ldsp _ => true
  | _ => false

/-- Cancels the drove's `tld`s that have a row parked: the parked entry is freed and the tile is left orphaned
(05 R118, 01 R29). -/
def cancelTlds (s : State) : State :=
  (s.reqs.filter fun r => r.drove == s.dr.uid && parkedTld r).foldl (fun s r =>
    let s := (s.sch.parks.filter fun p => p.req == some r.id).foldl dropPark s
    let s := onFl s fun f => { f with torphan := f.torphan ||| (1#16 <<< r.dst) }
    { s with reqs := s.reqs.filter fun x => x.id != r.id }) s

/-- Steps 4 to 6 of 05 R118: loads in flight are dropped, parked `tld`s cancelled, barriers and chutes left. -/
def leaveFlock (s : State) : State :=
  let i := s.dr.idx
  let w := s.dr.lclk
  let late := s.reqs.filter fun r => r.drove == s.dr.uid && isLoad r
  let s := late.foldl (fun s r => countCsb s r.ctx 0x48) { s with reqs := s.reqs.filter fun r => !(r.drove == s.dr.uid && isLoad r) }
  let s := cancelTlds s
  let s := onFl s fun f => { f with exited := f.exited ++ [i], chutes := f.chutes.map fun c => leaveChute c i }
  let s := (List.range 16).foldl (fun s n => tryRelease s n w) s
  (List.range 8).foldl (fun s n => wakePops s n w) s

/-- What `exit` waits for before it may end the drove (05 R118 steps 2 and 3). -/
def exitVerdict (s : State) : Verdict :=
  waitIf (sbcnt s s.dr.uid != 0 || s.reqs.any (fun r => r.drove == s.dr.uid && returning r) || hasPop s) .ending

/-- Other droves of the flock on the drove's sub-core that have not exited. -/
def subcoreSiblings (s : State) : List Drove :=
  s.droves.filter fun d => d.flock == s.dr.flock && d.core == s.dr.core && d.subc == s.dr.subc && d.cond != .exited

/-- A sibling has reached the PC of the drove at the port with the same MODE (01 R17). -/
def atRegang (s : State) (d : Drove) : Bool :=
  d.pc == s.dr.pc && d.mode == s.dr.mode && d.micro == s.dr.micro && !isParked s d.uid && !mustStop s d && (breakAt s d).isNone &&
    (match d.cond with | .ready | .waiting (.regang _) => true | _ => false)

/-- The drove's 64 cycles in `regang` are over. -/
def regangOver (s : State) : Bool := match s.dr.cond with
  | .waiting (.regang t) => decide (64 ≤ s.cycle - t)
  | _ => false

/-- The drove's wait in `regang` or `yield` is over: it is ready, and takes its place among the ready droves (16 R354). -/
def goOn (now : Nat) (d : Drove) : Drove := { d with cond := .ready, since := now, waited := true }

/-- A `regang` ends when every sibling has come, or after 64 cycles: those that stand there go on as gangs (01 R17). -/
def regangRelease (s : State) : State :=
  let ds := subcoreSiblings s
  let here := ds.filter (atRegang s)
  if s.dr.waited || !(regangOver s || here.length == ds.length) then s
  else
    let s := gangUp s (s.dr :: here)
    { s with dr := { s.dr with waited := true }
             droves := mapIf (fun d => here.any fun x => x.uid == d.uid) (goOn s.cycle) s.droves }

/-- What a drove at `regang` waits for (01 R17). -/
def regangVerdict (s : State) : Verdict :=
  match s.dr.cond with
  | .waiting (.regang t) => waitIf (!s.dr.waited) (.regang t)
  | _ => waitIf (!s.dr.waited) (.regang s.cycle)

/-- Waits up to 64 cycles for the siblings on its sub-core, then continues, as a gang with those that came (01 R17,
05 R120). -/
def execRegang (s : State) : Out := .next <| issueIf {} regangVerdict (regangRelease s) retire

def execNop (s : State) : Out := .next <| issue {} s retire

/-- Cause 0x08 with the code in INFO; RESUME is PC + 4 (05 R120, 17 R363). -/
def execBrk (c : BitVec 24) (s : State) : Out := .next <| stopAfter s 0x08 c.toNat

/-- Every other drove of the sub-core that was ready at cycle `t` has issued since (05 R120); one that is parked is not
ready. -/
def yielded (s : State) (t : Nat) : Bool :=
  !(s.droves.any fun d => d.core == s.dr.core && d.subc == s.dr.subc && d.cond == .ready && !isParked s d.uid && decide (d.since ≤ t))

/-- The drove's wait in `yield` is over: the others that were ready have issued once, or 256 cycles have passed (05 R120). -/
def yieldOver (s : State) : Bool :=
  match s.dr.cond with
  | .waiting (.yield t) => decide (256 ≤ s.cycle - t) || yielded s t
  | _ => false

/-- Not ready until the others that were ready have issued once, or 256 cycles have passed (05 R120). -/
def execYield (s : State) : Out :=
  .next <| if yieldOver s then onDr s (goOn s.cycle) else issueIf {} (fun s =>
    match s.dr.cond with
    | .waiting (.yield t) => .wait (.yield t)
    | _ => waitIf (!s.dr.waited && !yielded s s.cycle) (.yield s.cycle)) s retire

/-- A `regang` wait that has lasted 64 cycles ends (01 R17). -/
def execRegangTimeout (d : Nat) (s : State) : Out :=
  .next <|
    let s := select s d
    if s.dr.uid = d ∧ regangOver s then onDr (regangRelease s) (goOn s.cycle) else s

/-- A `yield` wait that has lasted 256 cycles ends (05 R120). -/
def execYieldTimeout (d : Nat) (s : State) : Out :=
  .next <|
    let s := select s d
    match s.dr.cond with
    | .waiting (.yield t) => if s.dr.uid = d ∧ 256 ≤ s.cycle - t then onDr s (goOn s.cycle) else s
    | _ => s

/-- A value that MODE accepts in a drove with `m` scalar registers (01 R32). -/
def modeOk (m : Nat) (x : BitVec 32) : Bool :=
  x.extractLsb' 29 3 == 0 && decide ((x.extractLsb' 8 3).toNat < 5) && x.extractLsb' 0 4 != 15 &&
  x.extractLsb' 4 4 != 15 && decide (modeD x < m) && decide (modeG x < m)

/-- A 64-bit value that a write to MODE accepts (05 R121, 11 R260). -/
def modeOk64 (d : Drove) (x : W64) : Bool := x.extractLsb' 32 32 == 0 && modeOk d.ns (x.setWidth 32)

def execModeSet (d a : BitVec 6) (ea ed : Bool) (s : State) : Out :=
  .next <| issueIf { uses := [srcS a.toNat ea, dstS d.toNat ed] } (fun s => stopIf (!modeOk64 s.dr (sreg s.dr a.toNat)) 0x02) s
    fun s => retire (onDr s fun r => { setS r d.toNat (r.mode.setWidth 64) with mode := (sreg r a.toNat).setWidth 32 })

/-- MODE with field number `fld` set to `v` (05 R123). -/
def modeWith (m : BitVec 32) (fld : Nat) (v : BitVec 6) : BitVec 32 :=
  let (lo, w) := [(0, 4), (4, 4), (8, 3), (11, 6), (17, 6), (23, 2), (25, 1), (26, 1), (27, 1), (28, 1)].getD fld (0, 0)
  let mask : BitVec 32 := BitVec.ofNat 32 ((2 ^ w - 1) * 2 ^ lo)
  (m &&& ~~~mask) ||| ((v.setWidth 32 <<< lo) &&& mask)

/-- The values a field of MODE accepts (05 R123). -/
def modeFldOk (ns fld : Nat) (v : BitVec 6) : Bool :=
  match fld with
  | 0 | 1 => decide (v.toNat < 15)
  | 2 => decide (v.toNat < 5)
  | 3 | 4 => decide (v.toNat < ns)
  | 5 => decide (v.toNat < 4)
  | 6 | 7 | 8 | 9 => decide (v.toNat < 2)
  | _ => false

def execModeFld (fld : BitVec 4) (v : BitVec 6) (s : State) : Out :=
  .next <| issue { bad := !modeFldOk s.dr.ns fld.toNat v } s fun s =>
    retire (onDr s fun d => { d with mode := modeWith d.mode fld.toNat v })

def execModeGet (d : BitVec 6) (ed : Bool) (s : State) : Out :=
  .next <| issue { uses := [dstS d.toNat ed] } s fun s =>
    retire (onDr s fun r => setS r d.toNat (r.mode.setWidth 64))

end Sys2Proof.Machine
end

