-- ==== Sys2Proof/Machine/SaveImage.lean ====
section
/-! DEFINITION. The user system registers as they read, and the image of a saved flock in its save slot (01 R34-R37,
17 R374). The layout of an entry's `kind`, and of a `tld`'s or `tst`'s rows in store-entry form, is the model's
(assumption log 24). -/

namespace Sys2Proof.Machine

/-- CSDIRTY of a context: it has written the control store (17 R361). -/
def csDirty (s : State) (c : BitVec 16) : Bool := bitAt (csbField s c 0 4) 1

/-- DSTAT (01 R36, R37): placement and ganging read 0 in a deterministic range. -/
def dstat (s : State) : Nat :=
  let d := s.dr
  let place := if d.det then 0 else (if d.shepherd then (Config.shepherdPlace (padOf d.core)).toNat else d.core * 4 + d.subc) * 2 ^ 24 + b2n d.gang * 16
  place + b2n (csDirty s d.ctx) * 128 + b2n d.pers * 64 + b2n d.det * 32 + b2n d.satd * 4 + b2n d.xoor * 2 + b2n d.rwrap

/-- A user system register of the drove at the port (01 R34). CYCLE is slow and is read when it returns. -/
def userRead (s : State) (n : Nat) : W64 :=
  let d := s.dr
  match n with
  | 0x00 => d.pc
  | 0x01 => d.mode.setWidth 64
  | 0x02 => d.flags.setWidth 64
  | 0x03 => BitVec.ofNat 64 (dstat s)
  | 0x04 => d.pres
  | 0x05 => d.slim
  | 0x06 => d.sbase
  | 0x07 => d.pbase
  | 0x08 => d.spb
  | 0x09 => d.spl
  | 0x0A => d.losplit
  | 0x0B => d.rkey
  | 0x0C => d.rctr
  | 0x0D => d.lclk
  | 0x0E => d.ctx.setWidth 64
  | 0x0F => d.frec
  | 0x10 => d.tctl
  | 0x11 => d.droveId.setWidth 64
  | 0x12 => BitVec.ofNat 64 s.cycle
  | 0x13 => BitVec.ofNat 64 (sbcnt s d.uid)
  | _ => 0

/-- Clears the low `n` bits. -/
def clearLow (n : Nat) (x : W64) : W64 := x &&& ~~~BitVec.ofNat 64 (2 ^ n - 1)

/-- The next multiple of 64. -/
def align64 (n : Nat) : Nat := (n + 63) / 64 * 64

/-- DSTRIDE: bytes of one drove section (17 R374). -/
def dstride (width vregs : Nat) : Nat := align64 (0x5520 + width * vregs * 4)

/-- The largest image that a flock of the range can have (17 R374). -/
def imageBound (r : Range) : Nat :=
  let t (n : Nat) : Nat := if r.tiles = 0 then 0 else n
  total ([256, r.droves * dstride (widthOf r.wcode) r.vregs, r.tiles * 65536, r.scratch, 128, t (16 * 9728), t (8 * 528), 256,
    t (r.droves * 16 * 65536)].map align64)

/-- Bytes filled up with zeros to `n`. -/
def padTo (n : Nat) (bs : List Byte) : List Byte := bs ++ List.replicate (n - bs.length) 0

/-- A section, filled up to a multiple of 64. -/
def section64 (bs : List Byte) : List Byte := padTo (align64 bs.length) bs

/-- The KIND of 17 R367 that a request's fault has. -/
def reqKindNo (k : ReqKind) : Nat :=
  match k with
  | .tld _ _ => 4
  | .tst _ _ => 5
  | k => if storeKind k then 2 else 1

/-- A request in store-entry form: PC, word, kind, unfinished mask, auxiliary word, 64 addresses, 64 data words. The mask of
rows 64 to 127 of a tile stands in data word 0. -/
def entryBytes (q : Req) (aux : Nat) : List Byte :=
  let left := accsMask (q.accs.filter fun a => a.st != .done)
  let at' (l : Nat) : Nat := ((q.accs.find? fun a => a.lane == l).map (·.va)).getD 0
  let val (l : Nat) : Nat :=
    if decide (4 ≤ reqKindNo q.kind) then if l = 0 then left / 2 ^ 64 else 0
    else ((q.accs.find? fun a => a.lane == l).map (·.x)).getD 0
  leBytes 8 q.pc.toNat ++ leBytes 4 q.word.toNat ++ leBytes 4 (reqKindNo q.kind) ++ leBytes 8 (left % 2 ^ 64) ++ leBytes 8 aux ++
    (List.range 64).flatMap (fun l => leBytes 8 (at' l)) ++ (List.range 64).flatMap fun l => leBytes 8 (val l)

/-- A park that holds no request, in store-entry form. -/
def parkBytes (p : Park) : List Byte :=
  padTo 1056 (leBytes 8 p.pc.toNat ++ leBytes 4 p.word.toNat ++ leBytes 4 p.kind ++ leBytes 8 p.mask ++ leBytes 8 0 ++ leBytes 8 p.va)

/-- The store-buffer entries of drove `u` among requests, oldest first. -/
def storesOf (qs : List Req) (u : Nat) : List Req := qs.filter fun q => q.drove == u && storeKind q.kind

/-- The request is kept as it stands because a fault of its own is recorded (09 R207). -/
def keptParked (s : State) (q : Req) : Bool :=
  s.sch.parks.any fun p => p.req == some q.id && p.cause != 0x12 && decide (p.svc < 4)

/-- Registers of a drove that are saved empty, with their producers' PCs: loads that were dropped, and pops (17 R371,
11 R241). -/
def reissues (s : State) (v : Saved) (u : Nat) : List (Nat × W64) :=
  let loads := v.reqs.flatMap fun q =>
    if q.drove == u && isLoad q && !keptParked s q then
      match q.kind with
      | .lds _ => if q.dst = 0 then [] else [(regInfo .scl q.dst, q.pc)]
      | _ => (regInfo .vec q.dst, q.pc) :: (if q.dst2 then [(regInfo .vec (q.dst + 1), q.pc)] else [])
    else []
  loads ++ v.flock.chutes.flatMap fun c => (c.pops.filter fun p => p.drove == u).map fun p => (regInfo .vec p.vd, p.pc)

/-- Offset of the data of each saved `tst`, from the start of the `tst` section. -/
def tstAux (v : Saved) (base : Nat) (q : Req) : Nat :=
  match q.kind with
  | .tst _ _ => base + 65536 * ((v.reqs.filter fun x => reqKindNo x.kind == 5).findIdx fun x => x.id == q.id)
  | _ => 0

/-- A drove section (17 R374). -/
def droveSection (s : State) (v : Saved) (tstBase : Nat) (d : Drove) : List Byte :=
  let own := { s with dr := d }
  let stores := storesOf v.reqs d.uid
  let again := reissues s v d.uid
  let sys (n : Nat) : Nat := if n = 0x12 then 0 else if n = 0x13 then stores.length else (userRead own n).toNat
  let held := s.sch.parks.find? fun p => p.drove == d.uid && p.blocks && decide (p.svc < 4)
  let parked := match held with
    | some p => (match v.reqs.find? fun q => p.req == some q.id with
      | some q => entryBytes q 0
      | none => parkBytes p)
    | none => []
  let flags := b2n (isParked s d.uid) + 2 * b2n (d.cond == .stopped) + 2 ^ 8 * (d.micro.elim 0xFF (·.step)) + 2 ^ 16 * d.depth +
    2 ^ 32 * stores.length + 2 ^ 40 * again.length
  section64 <|
    (List.range 20).flatMap (fun n => leBytes 8 (sys n)) ++ leBytes 8 flags ++ leBytes 16 d.vfull.toNat ++ leBytes 8 d.sfull.toNat ++
    List.replicate 64 0 ++ padTo 3072 (again.flatMap fun x => leBytes 8 x.1 ++ leBytes 8 x.2.toNat) ++ padTo 1056 parked ++
    padTo 16896 (stores.flatMap fun q => entryBytes q (tstAux v tstBase q)) ++
    (List.range 64).flatMap (fun n => leBytes 8 (sreg d n).toNat) ++
    (List.range d.nv).flatMap fun n => (List.range d.width).flatMap fun l => leBytes 4 (vlane d n l).toNat

/-- A scale record (10 R216). -/
def scaleBytes (r : ScaleRec) : List Byte :=
  padTo 528 (leBytes 8 r.base.toNat ++ leBytes 4 r.nblk ++ leBytes 4 r.corr.length ++ r.corr.flatMap fun x => leBytes 8 x.toNat)

/-- A pending pass: 9,728 bytes. -/
def passBytes (p : Pass) : List Byte :=
  let slab (x : Option (W64 × W64)) : List Byte := x.elim (List.replicate 16 0) fun y => leBytes 8 y.1.toNat ++ leBytes 8 y.2.toNat
  let regs (x : List W32) : List Byte := padTo 4096 (x.flatMap fun w => leBytes 4 w.toNat)
  let scale (x : Option ScaleRec) : List Byte := padTo 528 (x.elim [] scaleBytes)
  padTo 9728 (padTo 0x100 (leBytes 4 p.word.toNat ++ [BitVec.ofNat 8 p.et, BitVec.ofNat 8 p.st] ++ List.replicate 10 0 ++ slab p.slabA ++
    slab p.slabB) ++ regs p.regsA ++ regs p.regsB ++ scale p.scaleA ++ scale p.scaleB)

/-- The requests of a saved flock whose data stand in the `tst` section. -/
def savedTsts (v : Saved) : List Req := v.reqs.filter fun q => reqKindNo q.kind == 5

/-- Bytes of one drove section of a saved flock. -/
def savedStride (v : Saved) : Nat := dstride v.flock.width ((v.droves.head?).elim 8 (·.nv))

/-- Sizes of the sections: droves, tiles, scratchpad, chutes, pending passes, scale FIFO, barriers, `tst` data (17 R374). -/
def sectionSizes (v : Saved) : List Nat :=
  let f := v.flock
  [f.droves * savedStride v, 65536 * f.ntiles, align64 v.spad.length, 128, align64 (9728 * v.passes.length),
    align64 (528 * (f.fifoA.length + f.fifoB.length)), 256, 65536 * (savedTsts v).length]

/-- Offset of section `i` in the image, and the image's size. -/
def sectionOff (v : Saved) (i : Nat) : Nat := 256 + total ((sectionSizes v).take i)
def imageSize (v : Saved) : Nat := 256 + total (sectionSizes v)

/-- The image of a saved flock (17 R374). -/
def imageBytes (s : State) (v : Saved) : List Byte :=
  let f := v.flock
  let tiles := section64 ((List.range (16384 * f.ntiles)).flatMap fun k => leBytes 4 (mapGet 0 f.tiles k).toNat)
  let spad := section64 v.spad
  let mask (xs : List Nat) : Nat := total (xs.map (2 ^ ·))
  let chute (n : Nat) : List Byte := match f.chutes[n]? with
    | some c => leBytes 2 c.count ++ leBytes 2 c.head ++ leBytes 4 (mask c.producers) ++ leBytes 8 (b2n c.closed)
    | none => List.replicate 16 0
  let bar (n : Nat) : List Byte :=
    let b := barrierOf f n
    let part := match b.contrib with
      | [] => 0
      | (_, op, _) :: _ => (combineBarv op (b.contrib.map fun c => c.2.2)).toNat
    leBytes 8 (mask b.arrived) ++ leBytes 8 part
  let pend := section64 (v.passes.flatMap passBytes)
  let fifo := section64 ((f.fifoA ++ f.fifoB).flatMap scaleBytes)
  let tsts := (savedTsts v).flatMap fun q => padTo 65536 (q.accs.flatMap fun a => leBytes a.size a.x)
  let code := Nat.log2 (f.width / 8)
  let header := padTo 256 (leBytes 4 (imageSize v) ++ [v.reason, BitVec.ofNat 8 f.droves, BitVec.ofNat 8 code,
      BitVec.ofNat 8 (b2n !v.passes.isEmpty)] ++ leBytes 8 ((rangeOf s f.range).elim 0 (·.va.toNat)) ++ leBytes 4 f.lin ++
    leBytes 4 f.spb ++ leBytes 4 f.spl ++ [BitVec.ofNat 8 f.ntiles, BitVec.ofNat 8 v.passes.length, BitVec.ofNat 8 f.fifoA.length,
      BitVec.ofNat 8 f.fifoB.length] ++ (List.range 8).flatMap (fun i => leBytes 4 (sectionOff v i)) ++ leBytes 4 (savedStride v) ++
    leBytes 2 f.tfull.toNat)
  header ++ v.droves.flatMap (droveSection s v (sectionOff v 7)) ++ tiles ++ spad ++ (List.range 8).flatMap chute ++ pend ++ fifo ++
    (List.range 16).flatMap bar ++ tsts

/-- VA of save slot `n` of a context (17 R374). -/
def slotVa (s : State) (c : BitVec 16) (n : Nat) : Nat := csbField s c 0x28 8 + n * csbField s c 0x30 8

/-- Writes the image of a saved flock into its slot, or answers a cause and writes nothing. -/
def putImage (s : State) (v : Saved) : Option (BitVec 8) × State :=
  vaPut s v.flock.ctx (slotVa s v.flock.ctx v.slot) (imageBytes s v)

/-- A number in an image: `n` bytes at `off`. -/
def imageNat (bs : List Byte) (off n : Nat) : Nat := leNat ((bs.drop off).take n)

/-- The system registers of a drove from its section at `o` (17 R374). A MODE that no drove may hold is not taken. -/
def imageSys (bs : List Byte) (o : Nat) (d : Drove) : Drove :=
  let x (n : Nat) : W64 := BitVec.ofNat 64 (imageNat bs (o + 8 * n) 8)
  { d with
    pc := clearLow 2 (x 0), mode := if modeOk64 d (x 1) then (x 1).setWidth 32 else d.mode, flags := (x 2).setWidth 5,
    satd := (x 3).getLsbD 2, xoor := (x 3).getLsbD 1, rwrap := (x 3).getLsbD 0, slim := clearLow 2 (x 5),
    sbase := clearLow 8 (x 6), pbase := clearLow 8 (x 7), losplit := clearLow 3 (x 10), rkey := x 11, rctr := x 12, lclk := x 13,
    frec := clearLow 6 (x 15), tctl := x 16 &&& ~~~0xFFC }

/-- A drove from its section at `o` (17 R374, R375): its system registers, step, full/empty bits and registers. -/
def imageDrove (bs : List Byte) (o : Nat) (d : Drove) : Drove :=
  let d := imageSys bs o d
  let step := imageNat bs (o + 0xA1) 1
  let micro := d.micro.map fun m => if step < m.code.length then { m with step := step } else m
  let d := { d with
    micro := micro, vfull := BitVec.ofNat 128 (imageNat bs (o + 0xA8) 16), sfull := BitVec.ofNat 64 (imageNat bs (o + 0xB8) 8),
    s := ((List.range 64).drop 1).foldl (fun v n => v.setIfInBounds n (BitVec.ofNat 64 (imageNat bs (o + 0x5320 + 8 * n) 8))) d.s }
  (List.range d.nv).foldl (fun e n =>
    setV e n (mkLanes fun l => if l < d.width then BitVec.ofNat 32 (imageNat bs (o + 0x5520 + 4 * (n * d.width + l)) 4) else vlane d n l)) d

/-- A store-buffer entry from its 1,056 bytes at `o`: the address and data word of each lane (17 R374). -/
def imageEntry (bs : List Byte) (o : Nat) (q : Req) : Req :=
  let first (a : Acc) (i : Nat) : Bool := (q.accs.findIdx fun b => b.lane == a.lane) == i
  let read (a : Acc) : Acc :=
    if 4 ≤ reqKindNo q.kind then a
    else { a with va := imageNat bs (o + 32 + 8 * a.lane) 8, x := imageNat bs (o + 544 + 8 * a.lane) 8 }
  { q with accs := q.accs.zipIdx.map fun (a, i) => if first a i && decide (a.lane < 64) then read a else a }

/-- The rows of a saved `tst` from their 64 KiB at `o`. -/
def imageTst (bs : List Byte) (o : Nat) (q : Req) : Req :=
  { q with accs := q.accs.zipIdx.map fun (a, i) =>
      { a with x := imageNat bs (o + total ((q.accs.take i).map (·.size))) a.size } }

/-- A scale record from its 528 bytes at `o`. -/
def imageScale (bs : List Byte) (o : Nat) : ScaleRec :=
  { base := BitVec.ofNat 64 (imageNat bs o 8), nblk := imageNat bs (o + 8) 4,
    corr := (List.range (min 64 (imageNat bs (o + 12) 4))).map fun i => BitVec.ofNat 64 (imageNat bs (o + 16 + 8 * i) 8) }

/-- A pending pass from its 9,728 bytes at `o`. -/
def imagePass (bs : List Byte) (o : Nat) (p : Pass) : Pass :=
  let slab (x : Option (W64 × W64)) (n : Nat) : Option (W64 × W64) :=
    x.map fun _ => (BitVec.ofNat 64 (imageNat bs (o + n) 8), BitVec.ofNat 64 (imageNat bs (o + n + 8) 8))
  let regs (x : List W32) (n : Nat) : List W32 := (List.range x.length).map fun i => BitVec.ofNat 32 (imageNat bs (o + n + 4 * i) 4)
  { p with
    word := BitVec.ofNat 32 (imageNat bs o 4), et := imageNat bs (o + 4) 1, st := imageNat bs (o + 5) 1,
    slabA := slab p.slabA 0x10, slabB := slab p.slabB 0x20, regsA := regs p.regsA 0x100, regsB := regs p.regsB 0x1100,
    scaleA := p.scaleA.map fun _ => imageScale bs (o + 0x2100), scaleB := p.scaleB.map fun _ => imageScale bs (o + 0x2310) }

/-- What the flock itself holds, from the image: tiles, chutes, scale FIFO and barrier arrivals (17 R374, R375). -/
def imageFlock (v : Saved) (bs : List Byte) : Flock :=
  let f := v.flock
  let flag (m i : Nat) : Bool := bitAt m i
  let chute (c : Chute) (n : Nat) : Chute :=
    let o := sectionOff v 3 + 16 * n
    { c with count := imageNat bs o 2, head := imageNat bs (o + 2) 2, producers := (List.range 32).filter (flag (imageNat bs (o + 4) 4)),
             closed := flag (imageNat bs (o + 8) 1) 0 }
  let fifo (x : List ScaleRec) (n : Nat) : List ScaleRec := (List.range x.length).map fun i => imageScale bs (sectionOff v 5 + 528 * (n + i))
  let bar (b : Nat × Barrier) : Nat × Barrier :=
    let m := imageNat bs (sectionOff v 6 + 16 * b.1) 4
    (b.1, { b.2 with arrived := b.2.arrived.filter (flag m) ++ (List.range 32).filter fun i => flag m i && !b.2.arrived.contains i })
  { f with
    tiles := (List.range (16384 * f.ntiles)).foldl (fun t k => mapSet 0 t k (BitVec.ofNat 32 (imageNat bs (sectionOff v 1 + 4 * k) 4))) f.tiles
    tfull := BitVec.ofNat 16 (imageNat bs 0x44 2), chutes := f.chutes.zipIdx.map fun (c, n) => chute c n
    fifoA := fifo f.fifoA 0, fifoB := fifo f.fifoB f.fifoA.length, bars := f.bars.map bar }

/-- THE RESTORE reads the image (17 R375): a saved flock with the values that its image holds now; how many things of each kind
the image holds stands as it was saved (assumption log 24). -/
def fromImage (s : State) (v : Saved) : Saved :=
  match vaBytes s v.flock.ctx (slotVa s v.flock.ctx v.slot) (imageSize v) with
  | .inr _ => v
  | .inl bs =>
    let place (u : Nat) : Nat := v.droves.findIdx fun d => d.uid == u
    let entry (q : Req) : Req :=
      let o := sectionOff v 0 + savedStride v * place q.drove + 0x1120 + 1056 * ((storesOf v.reqs q.drove).findIdx fun x => x.id == q.id)
      let q' := if storeKind q.kind then imageEntry bs o q else q
      if reqKindNo q.kind = 5 then imageTst bs (tstAux v (sectionOff v 7) q) q' else q'
    { v with
      flock := imageFlock v bs
      droves := v.droves.zipIdx.map fun (d, k) => imageDrove bs (sectionOff v 0 + savedStride v * k) d
      reqs := v.reqs.map entry
      passes := v.passes.zipIdx.map fun (p, k) => imagePass bs (sectionOff v 4 + 9728 * k) p
      spad := (bs.drop (sectionOff v 2)).take v.spad.length }

/-- Changes a saved flock as its image holds it, and the image with it (17 R374). -/
def onSaved (s : State) (u : Nat) (f : Saved → Saved) : State :=
  match s.sch.saved.find? fun v => v.flock.uid == u with
  | none => s
  | some v =>
    let v := f (fromImage s v)
    let s := { s with sch := { s.sch with saved := mapIf (fun x => x.flock.uid == u) (fun _ => v) s.sch.saved } }
    (putImage s v).2

end Sys2Proof.Machine
end

