-- ==== Sys2Proof/Machine/Sync.lean ====
section
/-! DEFINITION. Barriers, async barrier objects, chutes, the crook and posted events, as their droves issue them
(11 R229-R243, R254). -/

namespace Sys2Proof.Machine

/-- The wait of a release (09 R199, 12 R268, R271; assumption log 15). -/
def releasePoint (s : State) : Verdict := firstOf [memWait s, releaseWait s]

/-- A barrier released the drove at the port: it continues, and logs a checksum first under TCTL.CSUM (19 R412). -/
def passBarrier (s : State) : State :=
  let pc := s.dr.pc
  let s := retire s
  if s.dr.tctl.getLsbD 1 then onDr s fun d => { d with csumPc := some pc } else s

/-- The drove's entry among those that barrier `n` has released. -/
def releasedAt (s : State) (n : Nat) : Option (Nat × W64 × Bool) :=
  (barrierOf s.fl n).released.find? fun x => x.1 == s.dr.idx

/-- The drove has arrived at barrier `n` and waits for its release (11 R229). -/
def awaits (f : Flock) (n i : Nat) : Bool := (barrierOf f n).arrived.contains i && !(barrierOf f n).left.contains i

/-- The drove arrives at barrier `n`, with a contribution for `barv` (11 R229, R230). An arrival that it made before a handler
resumed it elsewhere stays in the round, with its contribution (11 R232). -/
def arriveAt (s : State) (n : Nat) (contrib : Option (Nat × W64)) : State :=
  let i := s.dr.idx
  let s := onFl s fun f =>
    let b := barrierOf f n
    setBarrier f n { b with
      arrived := if b.arrived.contains i then b.arrived else b.arrived ++ [i]
      left := b.left.filter (· != i)
      contrib := match contrib with
        | some (op, x) => if b.arrived.contains i then b.contrib else b.contrib ++ [(i, op, x)]
        | none => b.contrib }
  tryRelease s n s.dr.lclk

/-- What a drove at a barrier instruction waits for (11 R229): first for a release of its own writes and reads, then, once
it has arrived, for the barrier. An arrival stays in its round whatever becomes of the drove (11 R232). -/
def barVerdict (n : Nat) (s : State) : Verdict :=
  if (releasedAt s n).isSome then .go
  else if awaits s.fl n s.dr.idx then .wait (.barrier n)
  else firstOf [releasePoint s, .wait (.barrier n)]

/-- `bar` and `barv` over registers `us`; `sd` takes the combination (11 R229, R230). -/
def barOp (us : List Use) (n : Nat) (contrib : Option (Nat × Nat)) (sd : Option Nat) (s : State) : Out :=
  .next <|
    let c : Chk := { uses := us, dog := true }
    let s := if verdict c s = .go ∧ (releasedAt s n).isNone ∧ !awaits s.fl n s.dr.idx ∧ releasePoint s = .go then
        arriveAt s n (contrib.map fun (op, a) => (op, sreg s.dr a))
      else s
    issueIf c (barVerdict n) s fun s =>
      let got := releasedAt s n
      let s := onFl s fun f =>
        let b := barrierOf f n
        setBarrier f n { b with released := b.released.filter fun x => x.1 != s.dr.idx }
      let s := match got, sd with
        | some (_, x, true), some d => onDr s fun r => setS r d x
        | _, _ => s
      passBarrier s

def execBar (n : BitVec 4) (s : State) : Out := barOp [] n.toNat none none s
def execBarv (d a : BitVec 6) (p : BitVec 2) (n : BitVec 4) (s : State) : Out :=
  barOp [srcS a.toNat, dstS d.toNat] n.toNat (some (p.toNat, a.toNat)) (some d.toNat) s

/-- No meeting (11 R231). -/
def WideMeet.empty : WideMeet := { members := [], req := none, gen := none, done := [], leave := [], left := [], fail := none }

/-- The flock's meeting at a wide barrier. -/
def meetOf (f : Flock) : WideMeet := f.wide.getD .empty

/-- Changes the meeting of the current flock. -/
def onMeet (s : State) (f : WideMeet → WideMeet) : State := onFl s fun x => { x with wide := some (f (meetOf x)) }

/-- The members that issued the `barw` do not agree on its operands. -/
def meetDiffers (m : WideMeet) : Bool :=
  match m.members with
  | [] => false
  | (_, a, b) :: ms => ms.any fun x => x.2.1 != a || x.2.2 != b

/-- Every member has come, and the last to come posts the flock's one arrival, whose word is probed first (11 R231). -/
def meetFull (s : State) : State :=
  let m := meetOf s.fl
  if !((members s.fl).all fun i => m.members.any fun x => x.1 == i) || m.req.isSome || m.gen.isSome || m.fail.isSome then s
  else if meetDiffers m then onMeet s fun m => { m with fail := some (0x02, 0) }
  else
    match m.members.getLast? with
    | some (i, a, b) =>
      if i = s.dr.idx then
        let q := Req.fresh s .barw 8 [Acc.fresh s 0 a.toNat 8 (b.toNat % 2 ^ 32) false]
        onMeet (post s { q with probing := true }) fun m => { m with req := some q.id }
      else s
    | none => s

/-- A word at a VA under the drove's translation, as a poll sees it; none while it cannot be read. -/
def pollWord (s : State) (va n : Nat) : Option Nat :=
  if routeOf (localOf s va) = 1 then some (memRead s.mem.peer (va % 2 ^ 62) n)
  else
    match (vaRead s s.dr.ctx va n).1 with
    | .inl bs => some (leNat bs)
    | .inr _ => none

/-- GEN is looked at (11 R231 step 3): once it has changed, every member may continue that has not been resumed elsewhere. -/
def meetPoll (s : State) : State :=
  let m := meetOf s.fl
  match m.gen, m.members with
  | some g, (_, a, _) :: _ =>
    match pollWord s a.toNat 8 with
    | some w =>
      if w / 2 ^ 32 = g.toNat then s
      else onMeet s fun m => { m with
        members := [], gen := none, left := [], done := m.done ++ (m.members.map (·.1)).filter (!m.left.contains ·) }
    | none => s
  | _, _ => s

/-- The drove takes its place in the meeting. In a deterministic range it leaves the minimum here, unless its request is
the one that makes the arrival (19 R406, R407; assumption log 16). -/
def meetJoin (s : State) (a b : W64) : State :=
  let s := meetFull (onMeet s fun m => { m with members := m.members ++ [(s.dr.idx, a, b)] })
  partGang (onDr s fun d => { d with cond := .waiting .wide, since := s.cycle, passive := d.det, await := some .wide,
                                     turn := d.turn && (meetOf s.fl).req.isSome }) s.dr.uid

/-- The drove has its place in the meeting, where it stands or where a handler resumed it elsewhere. -/
def inMeet (s : State) : Bool := (meetOf s.fl).members.any fun x => x.1 == s.dr.idx

/-- What one issue of `barw` changes before it is judged: a member joins, or a waiting one looks again. A member that a handler
had resumed elsewhere stands in its place again, as long as the round lasts (11 R232). -/
def meetStep (a b : Nat) (s : State) : State :=
  let s := if (meetOf s.fl).left.contains s.dr.idx then meetPoll s else s
  let m := meetOf s.fl
  let va := sreg s.dr a
  if inMeet s then
    meetPoll (meetFull (onMeet s fun m => { m with left := m.left.filter (· != s.dr.idx) }))
  else if m.done.contains s.dr.idx || m.leave.contains s.dr.idx || (sreg s.dr b).toNat % 2 ^ 32 == 0 ||
      (plainFault va.toNat 8).isSome || releasePoint s != .go then s
  else meetJoin s va (sreg s.dr b)

/-- What a drove at `barw` stops on or waits for (11 R231). -/
def barwVerdict (a b : Nat) (s : State) : Verdict :=
  let m := meetOf s.fl
  if m.done.contains s.dr.idx || m.leave.contains s.dr.idx then .go
  else if inMeet s then
    match m.fail with
    | some (c, va) => .stop c 0 va
    | none => .wait .wide
  else firstOf [stopIf ((sreg s.dr b).toNat % 2 ^ 32 == 0) 0x02, oneVerdict (plainFault (sreg s.dr a).toNat 8),
    releasePoint s, .wait .wide]

/-- A member that stops on the meeting's cause leaves it; the last one that stands there clears the cause. -/
def meetLeave (s : State) : State :=
  onMeet s fun m =>
    let ms := m.members.filter fun x => x.1 != s.dr.idx
    if ms.all fun x => m.left.contains x.1 then { m with members := [], left := [], fail := none } else { m with members := ms }

def execBarw (a b : BitVec 6) (s : State) : Out :=
  .next <|
    let m := meetOf s.fl
    let inside := inMeet s || m.done.contains s.dr.idx || m.leave.contains s.dr.idx
    let c : Chk := { uses := [srcS a.toNat, srcS b.toNat], sync := !inside, dog := true }
    if verdict c s ≠ .go then issue c s retire
    else
      let s := meetStep a.toNat b.toNat s
      match (meetOf s.fl).fail, inMeet s with
      | some (cause, va), true => stopHere (meetLeave s) cause 0 va
      | _, _ => issueIf { c with sync := false } (barwVerdict a.toNat b.toNat) s fun s =>
        let gone := (meetOf s.fl).leave.contains s.dr.idx
        let s := onMeet s fun m => { m with done := m.done.filter (· != s.dr.idx), leave := m.leave.filter (· != s.dr.idx) }
        if gone then retire s else passBarrier (acquireDrop s)

/-- What an object address meets at the core (11 R233). -/
def objVerdict (d : Drove) (a : Nat) : Verdict := oneVerdict (if a % 16 ≠ 0 then some (0x14, a) else spadFault d a 16)

/-- An object lies where its flock's grant lies: on the flock's paddock, or in the image of a saved flock. -/
def spadRead (s : State) (flock a n : Nat) : Nat :=
  match flockOf s flock with
  | some f => memRead s.mem.spad (spadBase (padOf f.core) + a) n
  | none =>
    match s.sch.saved.find? fun x => x.flock.uid == flock with
    | some x => leNat ((x.spad.drop (a - x.flock.spb)).take n)
    | none => 0
def spadWrite (s : State) (flock a n x : Nat) : State :=
  match flockOf s flock with
  | some f => onSpad s fun m => memWrite m (spadBase (padOf f.core) + a) n x
  | none => onSaved s flock fun v =>
      let i := a - v.flock.spb
      { v with spad := v.spad.take i ++ leBytes n x ++ v.spad.drop (i + n) }

/-- PHASE of an object (11 R233). -/
def objPhase (s : State) (flock a : Nat) : Nat := spadRead s flock (a + 8) 2

/-- Droves that wait passively for a phase of the object rejoin at the arrival that completes it (19 R407). -/
def wakeObject (s : State) (flock a : Nat) (w : W64) : State :=
  let p := objPhase s flock a
  (flockDroves s flock).foldl (fun s d => wake s d.uid w fun x => match x with
    | .object b t => b == a && t != p
    | _ => false) s

/-- AN ARRIVAL with a status code (11 R235): the phase it saw, and the object after it. -/
def objArrive (s : State) (flock a status : Nat) (w : W64) : Nat × State :=
  let phase := objPhase s flock a
  let pstat := max (spadRead s flock (a + 12) 1) status
  let old := spadRead s flock (a + 4) 4
  let pend := if old = 0 then 2 ^ 32 - 1 else old - 1
  if pend = 0 then
    let s := spadWrite s flock (a + 13) 1 pstat
    let s := spadWrite s flock (a + 12) 1 0
    let s := spadWrite s flock (a + 8) 2 (phase + 1)
    (phase, wakeObject (spadWrite s flock (a + 4) 4 (spadRead s flock a 4)) flock a w)
  else (phase, spadWrite (spadWrite s flock (a + 12) 1 pstat) flock (a + 4) 4 pend)

/-- `abinit` of an object (11 R235). -/
def objInit (s : State) (flock a expect : Nat) (w : W64) : State :=
  let s := spadWrite s flock a 8 (expect * (2 ^ 32 + 1))
  let s := spadWrite s flock (a + 8) 2 0
  wakeObject (spadWrite s flock (a + 12) 4 0) flock a w

/-- An accepted `cpy` or `coll` of the flock, older than `n`, names the object and has not arrived on it (11 R235). -/
def objDue (s : State) (flock a n : Nat) : Bool :=
  (s.eng.copies.any fun c => c.flock == flock && c.obj.toNat == a && !c.orphan && decide (c.id < n)) ||
    ((flockHere s flock).elim false fun f => f.colls.any fun c => decide (c.id < n) && c.args.any fun x => x.2.obj.toNat == a) ||
    s.eng.arrivals.any fun x => x.flock == flock && x.obj == a && x.req.isNone && decide (x.id < n)

/-- In a deterministic range, an arrival on the object that comes earlier in logical order is still on its way
(19 R408). The place of a collective whose group table is not yet read may still be that of its own last turn. -/
def objEarlier (s : State) (flock a t : Nat) : Bool :=
  let due (n : Nat) : Bool := n != 0 && decide (n < t)
  (s.eng.copies.any fun c => c.flock == flock && c.obj.toNat == a && due c.turnAt) ||
    ((flockHere s flock).elim false fun f => f.colls.any fun c =>
      (due c.turnAt || (c.started && c.table.isEmpty && !c.bad && c.turnAt == 0 && due c.issued)) && c.args.any fun x => x.2.obj.toNat == a) ||
    s.eng.arrivals.any fun x => x.flock == flock && x.obj == a && due x.turnAt

/-- An arrival may be applied (11 R235, 19 R408): arrivals of one drove come in program order, an `abinit` comes after
every engine arrival issued before it, and a deterministic range keeps its logical order. -/
def arrivalReady (s : State) (x : Arrival) : Bool :=
  let drove (y : Arrival) : Option Nat := y.req.bind fun r => (reqOf s r).map (·.drove)
  x.due && !(s.eng.arrivals.any fun y => decide (y.id < x.id) && y.flock == x.flock && y.obj == x.obj && (drove y).isSome &&
      drove y == drove x) &&
    !(x.init.isSome && objDue s x.flock x.obj x.id) && !(x.turnAt != 0 && objEarlier s x.flock x.obj x.turnAt)

/-- Droves that wait in `abwait` for a phase of the object other than their token have seen it, and are ready (11 R235,
16 R354). -/
def releaseObject (s : State) (flock a : Nat) : State :=
  let due (d : Drove) : Bool := d.flock == flock && (!d.det || d.passive) && (match d.cond with
    | .waiting (.object b t) => b == a && t != objPhase s flock a
    | _ => false)
  { s with dr := if due s.dr then goOn s.cycle s.dr else s.dr, droves := mapIf due (goOn s.cycle) s.droves }

/-- The object's bank unit applies an arrival (11 R235). -/
def execAsyncObjectArrival (k : Nat) (s : State) : Out :=
  .next <|
    let f := (s.eng.arrivals.find? fun x => x.id == k).elim 0 (·.flock)
    (finishFlock · f) <| match s.eng.arrivals.find? fun x => x.id == k with
    | none => s
    | some x =>
      if !arrivalReady s x then s
      else
        let s := { s with eng := { s.eng with arrivals := s.eng.arrivals.filter fun y => y.id != k } }
        match x.init, x.req.bind (reqOf s) with
        | some e, some q => retire (select (dropReq (releaseObject (objInit s x.flock x.obj e.toNat x.lclk) x.flock x.obj) q.id) q.drove)
        | some e, none => releaseObject (objInit s x.flock x.obj e.toNat x.lclk) x.flock x.obj
        | none, some q =>
          let (phase, s) := objArrive s x.flock x.obj x.status x.lclk
          let s := onDrove (dropReq s q.id) q.drove fun d => markS (setS d q.dst (BitVec.ofNat 64 phase)) q.dst true
          releaseObject s x.flock x.obj
        | none, none => releaseObject (objArrive s x.flock x.obj x.status x.lclk).2 x.flock x.obj

/-- Hands an arrival of the drove at the port to the object's bank: `kind` its request (11 R235). -/
def sendArrival (s : State) (kind : ReqKind) (dst a : Nat) (init : Option (BitVec 32)) : State :=
  let (s, q) := takeTurn s { Req.fresh s kind 16 [] with dst := dst }
  let s := post s q
  let x : Arrival := { id := s.uid, flock := s.dr.flock, obj := a, status := 0, lclk := s.dr.lclk, req := some q.id,
                       init := init, turnAt := q.turnAt, due := true }
  { s with uid := s.uid + 1, eng := { s.eng with arrivals := s.eng.arrivals ++ [x] } }

/-- `abinit` (11 R235): the drove waits until the bank has written the object. -/
def execAbinit (a b : BitVec 6) (s : State) : Out :=
  .next <| issueIf { uses := [srcS a.toNat, srcS b.toNat], sync := true } (fun s =>
    let e := (sreg s.dr b.toNat).toNat
    firstOf [stopIf (e == 0 || decide (2 ^ 32 ≤ e)) 0x02, objVerdict s.dr (sreg s.dr a.toNat).toNat]) s fun s =>
      let s := sendArrival s .abinit 0 (sreg s.dr a.toNat).toNat (some ((sreg s.dr b.toNat).setWidth 32))
      onDr s fun d => { d with cond := .waiting .command, since := s.cycle }

/-- `abarr` (11 R235). -/
def execAbarr (d a : BitVec 6) (s : State) : Out :=
  .next <| issueIf { uses := [srcS a.toNat, dstS d.toNat], sync := true }
    (fun s => firstOf [objVerdict s.dr (sreg s.dr a.toNat).toNat, releasePoint s]) s fun s =>
      let s := sendArrival s .abarr d.toNat (sreg s.dr a.toNat).toNat none
      retire (onDr s fun r => markS r d.toNat false)

/-- At its turn an `abwait` of a deterministic range still waits for earlier arrivals, as a counted wait, and then for the
phase, as a passive one (19 R407, R408). -/
def abwaitHold (s : State) (a token : Nat) (earlier : Bool) : State :=
  let s := hold s (.object a token)
  if s.dr.det && !earlier && s.dr.wakeAt.isNone then
    onDr s fun d => { d with passive := true, await := some (.object a token), turn := false }
  else s

/-- `abwait` (11 R235): until PHASE differs from the token, as it has where the object's bank has released the drove; then the
acquire of 09 R189. -/
def execAbwait (a b : BitVec 6) (s : State) : Out :=
  .next <|
    let c : Chk := { uses := [srcS a.toNat, srcS b.toNat], sync := !s.dr.passive, dog := true }
    let o := (sreg s.dr a.toNat).toNat
    let earlier := s.dr.det && s.dr.wakeAt.isNone && !s.dr.passive && objEarlier s s.dr.flock o ((rangeOf s s.dr.range).elim 0 (·.turnCount) + 1)
    let token := (sreg s.dr b.toNat).toNat % 2 ^ 16
    let same := objPhase s s.dr.flock o == token
    if verdict c s = .go ∧ objVerdict s.dr o = .go ∧ !s.dr.waited ∧ (earlier || same) = true then abwaitHold s o token earlier
    else issueIf c (fun s => objVerdict s.dr o) s fun s => retire (acquireDrop s)

/-- Chute `n` of a flock. -/
def chuteOf (f : Flock) (n : Nat) : Chute :=
  f.chutes.getD n { cap := 0, count := 0, head := 0, producers := [], everHad := false, closed := false, pops := [] }

/-- Changes chute `n`. -/
def setChute (s : State) (n : Nat) (c : Chute) : State :=
  onFl s fun f => { f with chutes := modNth (fun _ => c) f.chutes n }

/-- Paddock-memory address of element `k` of chute `n`, counted from its head: the rings stand at the top of the grant,
chute 0 highest (03 R100, 11 R236). -/
def ringAddr (f : Flock) (n k : Nat) : Nat :=
  let c := chuteOf f n
  spadBase (padOf f.core) + f.spl - 4 * total ((f.chutes.take (n + 1)).map (·.cap)) + 4 * ((c.head + k) % c.cap)

/-- The first `k` elements of a chute. -/
def ringTake (s : State) (n k : Nat) : List W32 :=
  (List.range k).map fun i => BitVec.ofNat 32 (memRead s.mem.spad (ringAddr s.fl n i) 4)

/-- A chute without its first `k` elements. -/
def ringDrop (s : State) (n k : Nat) : State :=
  let c := chuteOf s.fl n
  setChute s n { c with count := c.count - k, head := (c.head + k) % c.cap }

/-- Elements placed at the end of a chute. -/
def ringPut (s : State) (n : Nat) (xs : List W32) : State :=
  let c := chuteOf s.fl n
  let s := xs.zipIdx.foldl (fun s (x, i) => onSpad s fun m => memWrite m (ringAddr s.fl n (c.count + i)) 4 x.toNat) s
  setChute s n { c with count := c.count + xs.length }

/-- The first waiting pop of a chute is served when all its elements are present (11 R239): they go to its lanes, and the
register becomes full. `w` is the LCLK of the operation that supplied the last of them (19 R407). -/
def serveOne (s : State) (n : Nat) (w : W64) : State :=
  let c := chuteOf s.fl n
  match c.pops with
  | [] => s
  | p :: ps =>
    if c.count < p.lanes.length then s
    else
      let xs := ringTake s n p.lanes.length
      let s := ringDrop s n p.lanes.length
      let s := setChute s n { chuteOf s.fl n with pops := ps }
      let s := onDrove s p.drove fun d =>
        markV (setV d p.vd (mkLanes fun l => match p.lanes.idxOf? l with
          | some m => xs.getD m 0
          | none => vlane d p.vd l)) p.vd true
      wake s p.drove w fun x => x == .reg .vec p.vd

/-- Serves waiting pops as far as the elements reach; at most `k` of them. -/
def serveAll (s : State) (n : Nat) (w : W64) : Nat → State
  | 0 => s
  | k + 1 =>
    match (chuteOf s.fl n).pops with
    | [] => s
    | p :: _ => if (chuteOf s.fl n).count < p.lanes.length then s else serveAll (serveOne s n w) n w k

/-- A drove becomes a producer (11 R237). -/
def addProducer (s : State) (n : Nat) : State :=
  let c := chuteOf s.fl n
  let i := s.dr.idx
  setChute s n { c with producers := if c.producers.contains i then c.producers else c.producers ++ [i], everHad := true }

/-- Room for `k` more elements. -/
def chuteRoom (c : Chute) (k : Nat) : Bool := decide (c.count + k ≤ c.cap)

/-- The effect of a push (11 R238): the lanes' values join the ring in lane order, and the drove is a producer. In a
deterministic range the pops that they complete are served at this turn. -/
def pushNow (s : State) (n va : Nat) : State :=
  let xs := (activeLanes s.dr).map fun l => vlane s.dr va l
  let w := s.dr.lclk
  let s := addProducer (ringPut s n xs) n
  let s := if s.dr.det then serveAll s n w (chuteOf s.fl n).pops.length else s
  retire s

/-- `qpush` (11 R238). -/
def execQpush (a : BitVec 7) (n : BitVec 3) (s : State) : Out :=
  let n := n.toNat
  .next <| issueIf { uses := [srcV a.toNat], masks := true, sync := true, dog := true, bad := decide (s.fl.chutes.length ≤ n) } (fun s =>
    let c := chuteOf s.fl n
    let k := (activeLanes s.dr).length
    firstOf [stopIf (decide (c.cap < k)) 0x02, stopIf c.closed 0x24 n,
      waitIf (!chuteRoom c k) (.push n a.toNat)]) s fun s => pushNow s n a.toNat

/-- The drove waits in a `qpush` that now finds room. -/
def pushReady (s : State) (d : Drove) : Option (Nat × Nat) :=
  match d.cond with
  | .waiting (.push n va) =>
    match flockOf s d.flock with
    | some f =>
      if chuteRoom (chuteOf f n) (countLanes 64 fun l => (activeMask d).getLsbD l) && !(chuteOf f n).closed && !isParked s d.uid
      then some (n, va) else none
    | none => none
  | _ => none

/-- A waiting push finds room and places its elements (11 R238). -/
def placePush (s : State) (u : Nat) : State :=
  match (droveOf s u).bind (pushReady s) with
  | some (n, va) =>
    let s := select s u
    pushNow (account (fun _ => false) s 1) n va
  | none => s

def execChutePushRoom (d : Nat) (s : State) : Out := .next <| placePush s d

/-- Droves waiting to push into chute `n`, in the order of LCLK and DROVEID. -/
def waitingPushes (s : State) (n : Nat) : List Drove :=
  let ds := (allDroves s).filter fun d => d.flock == s.fl.uid && (match d.cond with | .waiting (.push m _) => m == n | _ => false)
  ds.mergeSort fun x y => decide (x.lclk.toNat < y.lclk.toNat) || (x.lclk == y.lclk && decide (x.droveId.toNat ≤ y.droveId.toNat))

/-- In a deterministic range, the pushes that a pop has made room for are placed at its turn (19 R407). -/
def placeWaiting (s : State) (n : Nat) (w : W64) : State :=
  if !s.dr.det then s
  else
    let me := s.dr.uid
    let s := (waitingPushes s n).foldl (fun s d =>
      if (pushReady s d).isSome then placePush (wake s d.uid w fun x => match x with | .push m _ => m == n | _ => false) d.uid else s) s
    select s me

/-- `qpop` (11 R239): the request joins the chute, and vd is empty until it is served. -/
def execQpop (d : BitVec 7) (n : BitVec 3) (s : State) : Out :=
  let n := n.toNat
  .next <| issueIf { uses := [dstV d.toNat], masks := true, sync := true, dog := true, bad := decide (s.fl.chutes.length ≤ n) }
    (fun s => stopIf (decide ((chuteOf s.fl n).cap < (activeLanes s.dr).length)) 0x02) s fun s =>
      let c := chuteOf s.fl n
      let w := s.dr.lclk
      let p : Pop := { drove := s.dr.uid, vd := d.toNat, lanes := activeLanes s.dr, pc := s.dr.pc }
      let s := setChute s n { c with pops := c.pops ++ [p] }
      let s := onDr s fun r => { markV r d.toNat false with popped := r.popped ++ [(d.toNat, n, r.pc.toNat)] }
      let s := retire s
      if s.dr.det then placeWaiting (serveAll s n w (chuteOf s.fl n).pops.length) n w else s

/-- A waiting pop is served (11 R239). -/
def execChutePopServed (f n : Nat) (s : State) : Out :=
  .next <|
    match (drovesOf s f).head? with
    | some d => serveOne (select s d.uid) n d.lclk
    | none => s

/-- `qtry` (11 R240). -/
def execQtry (d : BitVec 7) (t : BitVec 6) (n : BitVec 3) (s : State) : Out :=
  let n := n.toNat
  .next <| issue { uses := [dstV d.toNat, { cls := .scl, base := t.toNat, n := 2, align := 2, dest := true }], masks := true,
                   sync := true, dog := true, bad := decide (s.fl.chutes.length ≤ n) } s fun s =>
    let c := chuteOf s.fl n
    let k := if c.pops.isEmpty then min (activeLanes s.dr).length c.count else 0
    let got := (activeLanes s.dr).take k
    let xs := ringTake s n k
    let w := s.dr.lclk
    let s := if k = 0 then s else ringDrop s n k
    let m := BitVec.ofNat 64 (total (got.map (2 ^ ·)))
    let s := onDr s fun r =>
      let r := setVm r d.toNat m fun l => xs.getD (got.idxOf l) 0
      setS (setS r t.toNat m) (t.toNat + 1) (if c.closed then 1 else 0)
    placeWaiting (retire s) n w

/-- `qallow` (11 R237). -/
def execQallow (a : BitVec 6) (n : BitVec 3) (s : State) : Out :=
  let n := n.toNat
  .next <| issueIf { uses := [srcS a.toNat], sync := true, dog := true, bad := decide (s.fl.chutes.length ≤ n) }
    (fun s => stopIf (decide (1 < (sreg s.dr a.toNat).toNat)) 0x02) s fun s =>
      let w := s.dr.lclk
      if sreg s.dr a.toNat = 1 then retire (addProducer s n)
      else retire (wakePops (setChute s n (leaveChute (chuteOf s.fl n) s.dr.idx)) n w)

/-- The drove waits with PC unadvanced while its record operation is probed and performed (09 R203). -/
def startRecord (s : State) (q : Req) : State :=
  onDr (post s { q with probing := true }) fun d => { d with cond := .waiting .probe, since := s.cycle }

/-- `rtake` (11 R243): the record is at S[sa], or at the launch record's crook VA when sa names s0. -/
def execRtake (d a : BitVec 6) (ea ed : Bool) (s : State) : Out :=
  let va (s : State) : Nat := if a = 0 then s.dr.crook.toNat else (sreg s.dr a.toNat).toNat
  .next <| issueIf
    { uses := [srcS a.toNat ea, { cls := .scl, base := d.toNat, n := 2, align := 2, dest := true, trap := ed }], sync := true }
    (fun s => firstOf [oneVerdict (plainFault (va s) 32), memWait s]) s fun s =>
      startRecord s { Req.fresh s .rtake 32 [Acc.fresh s 0 (va s) 32 0 false] with dst := d.toNat, dst2 := true }

/-- The probe of a wide-barrier word is refused (11 R231): cause 0x18 stops every member; any other parks the member whose
issue completed the meeting, with the others waiting, and the probe is made again after service. -/
def meetRefused (s : State) (q : Req) (cause : BitVec 8) (va : Nat) : State :=
  let s := select (dropReq s q.id) q.drove
  if cause = 0x18 then onMeet s fun m => { m with req := none, fail := some (cause, va) }
  else parkMasked (onMeet s fun m => { m with req := none }) 3 cause va 1

/-- THE TRANSLATION PROBE COMPLETES (09 R203): every word confirmed, the atomic leaves the core; cause 0x18 is a precise
stop; 0x12 waits for the expansion of its page; any other cause, a 0x17 that the probe's own walk meets among them (assumption
log 13), parks the drove at the instruction, with one table entry of KIND 3. -/
def execAtomicProbeResult (r : Nat) (s : State) : Out :=
  .next <|
    match reqOf s r with
    | none => s
    | some q =>
      if !q.probing ∨ probeWaits s q ∨ (droveOf s q.drove).isNone then s
      else
        match probeAll s q q.accs with
        | (.inl as, s) =>
          let s := select s q.drove
          let (s, q) := takeTurn s q
          let q := { q with accs := as, probing := false }
          departs (onReq s r fun _ => q) q
        | (.inr (cause, va), s) =>
          if cause = 0x12 then
            onReq (countRecord s 0x1A12 0 64) r fun q =>
              { q with accs := mapIf (fun a => a.va == va || (q.kind == .catom && lowAddr q.split a.va == va))
                                     (fun a => { a with st := .faulted 0x12 }) q.accs }
          else if q.kind = .barw then meetRefused s q cause va
          else
            let s := standBefore (dropReq s r) q.drove
            let s := select s q.drove
            if cause = 0x18 then stopHere s 0x18 0 va
            else parkMasked (onDr s unhelp) 3 cause va (accsMask q.accs)

/-- The next chunk of a crook record given as a number (11 R243): the record after the take, its start and length. -/
def crookTake (rec : Nat) : Nat × Nat × Nat :=
  let next := bits rec 63 0
  let stop := bits rec 127 64
  let minc := max 1 (bits rec 159 128)
  let k := max 1 (bits rec 175 160)
  let parts := max 1 (bits rec 191 176)
  let takes := (bits rec 223 192 + 1) % 2 ^ 32
  let rem := stop - next
  let len := if stop ≤ next then 0 else min rem (max minc ((rem + k * parts - 1) / (k * parts)))
  (rec - next + (next + len) - bits rec 223 192 * 2 ^ 192 + takes * 2 ^ 192, next, len)

/-- `evpost` (11 R254). -/
def execEvpost (a b : BitVec 6) (s : State) : Out :=
  .next <| issueIf { uses := [srcS a.toNat, srcS b.toNat], sync := true }
    (fun s => firstOf [oneVerdict (plainFault (sreg s.dr a.toNat).toNat 64), releasePoint s]) s fun s =>
      startRecord s (Req.fresh s .evpost 64 [Acc.fresh s 0 (sreg s.dr a.toNat).toNat 64 (sreg s.dr b.toNat).toNat false])

/-- The 32 bytes of a posted record (11 R254, R441). -/
def eventBytes (typ f1 : BitVec 16) (id : BitVec 32) (pc pay stamp : W64) : List Byte :=
  leBytes 2 typ.toNat ++ leBytes 2 f1.toNat ++ leBytes 4 id.toNat ++ leBytes 8 pc.toNat ++ leBytes 8 pay.toNat ++ leBytes 8 stamp.toNat

/-- ENTRIES is one that an event queue may have, and RING is aligned (11 R254). -/
def queueOk (ring entries : Nat) : Bool :=
  ring % 32 == 0 && decide (16 ≤ entries) && decide (entries ≤ 65536) && entries == 2 ^ Nat.log2 entries

/-- The drove's checksum (19 R412): scalar registers but s0, then every vector register's present lanes. A register that a
`qpop` filled last and no instruction has read contributes one constant (assumption log 17). -/
def checksum (d : Drove) : W64 :=
  let mix (c x : W64) : W64 := c.rotateLeft 5 ^^^ x
  let c := ((List.range d.ns).drop 1).foldl (fun c n => mix c (sreg d n)) 0
  (List.range d.nv).foldl (fun c v =>
    if d.popped.any fun p => p.1 == v then mix c 0xA5A5A5A5A5A5A5A5
    else (List.range 64).foldl (fun c l => if d.pres.getLsbD l then mix c ((vlane d v l).setWidth 64) else c) c) c

/-- Every register of the drove is full, but those that a `qpop` emptied (19 R412). -/
def checksumReady (d : Drove) : Bool :=
  ((List.range d.ns).all fun n => n == 0 || d.sfull.getLsbD n) &&
    (List.range d.nv).all fun v => d.vfull.getLsbD v || d.popped.any fun p => p.1 == v

/-- The request is finished: it and its replayed park go. -/
def finishReq (s : State) (r : Nat) : State :=
  endParks (dropReq s r) fun p => p.req == some r && p.svc == 2

/-- VA of a drove's checksum log (19 R411). -/
def csumLog (d : Drove) : Nat := d.tctl.toNat / 4096 * 4096

/-- The stores of a checksum record with sequence number `q`, and of SEQ + 1 after it: address, bytes, data (19 R413). How many
stores make a record is the model's (DESIGN CHOICE, assumption log 17). -/
def csumStores (d : Drove) (pc : W64) (q : Nat) : List (Nat × Nat × Nat) :=
  let va := csumLog d + 32 * (1 + q % 127)
  [(va, 8, q + 2 ^ 32 * d.droveId.toNat), (va + 8, 8, pc.toNat), (va + 16, 8, (checksum d).toNat), (va + 24, 8, d.lclk.toNat),
    (csumLog d, 4, (q + 1) % 2 ^ 32)]

/-- The drove has read SEQ: what it read. -/
def csumSeq (s : State) (d : Drove) : Option Nat :=
  ((d.csumReq.bind (reqOf s)).filter fun q => q.accs.all fun a => a.st == .done).bind fun q => q.accs.head?.map (·.r)

/-- A step of the drove's checksum is due: its registers are full, or SEQ has come and the stores find entries. -/
def csumOpen (s : State) (d : Drove) : Bool :=
  match d.csumReq with
  | none => checksumReady d
  | some _ => (csumSeq s d).isSome && decide (sbcnt s d.uid + 5 ≤ 16)

/-- The checksum's accesses are refused at the core (09 R182): it stops before its next instruction, and logs nothing. -/
def csumStop (s : State) (pc : W64) (x : BitVec 8 × Nat) : State :=
  let s := onDr s fun d => { d with csumPc := none }
  let step := s.dr.micro.map (·.step)
  takeStop s { cause := x.1, addr := x.2, pc := pc, step := step, resume := s.dr.pc, after := step }

/-- The drove at the port reads SEQ as an `lds.o` does. -/
def csumLoad (s : State) (pc : W64) : State :=
  let a := csumLog s.dr
  match plainFault a 4 with
  | some x => csumStop s pc x
  | none =>
    let q := { Req.fresh s (.lds .o) 4 [Acc.fresh s 0 a 4 0 false] with pc := pc, word := 0 }
    onDr (post s q) fun d => { d with csumReq := some q.id }

/-- It makes one of its stores as an `sts.o` does, which has a place in a deterministic range's order (19 R406). -/
def csumStore (pc : W64) (s : State) (x : Nat × Nat × Nat) : State :=
  let q := { Req.fresh s (.store .o) x.2.1 [{ Acc.fresh s 0 x.1 x.2.1 x.2.2 false with y := 1 }] with pc := pc, word := 0 }
  let (s, q) := if syncStore s .o x.1 then takeTurn s q else (s, q)
  post s q

/-- SEQ has come: the record and SEQ + 1 are stored, at the drove's turn where the log is shared in a deterministic range. -/
def csumWrite (s : State) (pc : W64) (r seq : Nat) : State :=
  let xs := csumStores s.dr pc seq
  if xs.any (fun x => syncStore s .o x.1) && !s.dr.turn then onDr s fun d => { d with cond := .waiting .turn, since := s.cycle }
  else onDr (xs.foldl (csumStore pc) (finishReq s r)) fun d => { d with csumPc := none, csumReq := none, turn := false }

/-- A released drove logs its checksum before its next instruction (19 R412, R413): SEQ is read, the record written, and
SEQ raised, as accesses of the drove that can fault and park. -/
def execBarrierChecksum (u : Nat) (s : State) : Out :=
  .next <|
    match (droveOf s u).bind fun d => d.csumPc.map fun pc => (d, pc) with
    | none => s
    | some (d, pc) =>
      if !csumOpen s d ∨ isParked s u ∨ d.cond = .stopped ∨ mustStop s d then s
      else
        match d.csumReq, csumSeq s d with
        | some r, some q => csumWrite (select s u) pc r q
        | _, _ => csumLoad (select s u) pc

/-- A drove that a waking operation has reached rejoins the minimum (19 R407). -/
def execPassiveWake (u : Nat) (s : State) : Out :=
  .next <| onDrove s u fun d => if d.wakeAt.isSome then { d with passive := false } else d

end Sys2Proof.Machine
end

