-- ==== Sys2Proof/Machine/MemEvents.lean ====
section
/-! DEFINITION. What happens to memory requests after they have left their droves: the owning die, the home, the
scratchpad banks, peers and the host adapter, returns and acknowledgements (09 R183-R206, 13 R283, R298, 15 R328-R341,
18 R382, R394). -/

namespace Sys2Proof.Machine

/-- The leaf of an access as its owning die found it. -/
def accLeaf (a : Acc) : Leaf := { attr := a.attr, dpa := a.dpa, size := a.page, entry := 0 }

/-- Elements that a load decodes in each lane of a BX page, none where the load is refused (09 R184, R190). -/
def bxLoadElems (q : Req) : Option Nat :=
  match q.kind with
  | .load _ false => bxElems (modeET q.mode) (Nat.log2 q.size)
  | .ldp false => bxElems (modeET q.mode) (Nat.log2 q.size)
  | _ => none

/-- Elements that a store supplies in each lane of a BX page (09 R186, R190). -/
def bxStoreElems (q : Req) : Option Nat :=
  match q.kind with
  | .tst _ _ => none
  | _ =>
    if q.accs.any (fun a => a.y == 1) then none
    else
      match modeET q.mode, Nat.log2 q.size with
      | 0, 0 => some 1
      | 1, 1 => some 2
      | 2, 1 => some 2
      | _, _ => none

/-- The lanes of a store that fall into the block of 32 elements at `base` supply each of them exactly once (09 R186). -/
def coversBlock (q : Req) (k base : Nat) : Bool :=
  (List.range 32).all fun i =>
    (q.accs.filter fun a => decide (a.va ≤ base + i) && decide (base + i < a.va + k)).length == 1

/-- The load decodes into two registers: the pair that its form and type name (09 R184). -/
def bxTwo (q : Req) : Bool := bxPair (modeET q.mode) (Nat.log2 q.size)

/-- A load's lane is refused on its BX page (09 R184, R190). A page whose format is known only at the owning die may ask for a
second register that the form does not name as an even pair: the combination is refused (assumption log 13). -/
def bxLoadBad (q : Req) (va : Nat) (l : Leaf) : Bool :=
  match bxLoadElems q with
  | none => true
  | some k =>
    let (f, o) := frameOf l va
    decide (32 * f.blocks < o + k) || (bxTwo q && q.dst % 2 != 0)

/-- A store is refused as a whole on the BX page of this lane (09 R186). -/
def bxStoreBad (q : Req) (va : Nat) (l : Leaf) : Bool :=
  match bxStoreElems q with
  | none => true
  | some k =>
    let (f, o) := frameOf l va
    decide (32 * f.blocks < o + k) || !coversBlock q k (va / 32 * 32)

/-- A store's lane comes as far as check 6 of 13 R283. -/
def passesTo6 (s : State) (q : Req) (va : Nat) (l : Leaf) : Bool :=
  match leafCause s q.ctx va .write true l with
  | none => true
  | some c => c == 0x16 || c == 0x17

/-- Some lane of the store lies on a BX page and breaks the rules of 09 R186, no earlier check of 13 R283 having failed. -/
def bxRefused (s : State) (q : Req) : Bool :=
  q.accs.any fun a => routeOf (localOf s a.va) == 0 && !inAperture a.va &&
    (match leafAt s q.ctx (localOf s a.va) with
      | some l => leafEf l.attr != 0 && passesTo6 s q (localOf s a.va) l && bxStoreBad q a.va l
      | none => false)

/-- The refused store, whole: each lane takes the cause that it meets before check 6 of 13 R283, or cause 0x13 (09 R186). -/
def refuseStore (s : State) (q : Req) : State :=
  let cause (a : Acc) : BitVec 8 :=
    if routeOf (localOf s a.va) != 0 then 0x13
    else
      match (dieAccess s q.ctx (localOf s a.va) .write true).1 with
      | .inr c => if c = 0x16 ∨ c = 0x17 then 0x13 else c
      | .inl _ => 0x13
  onReq s q.id fun x => { x with accs := x.accs.map fun a => if a.st = .done then a else { a with st := .faulted (cause a) } }

/-- The access breaks check 6 of 13 R283, which comes before the causes 0x16 and 0x17. -/
def bxBreaks (s : State) (q : Req) (a : Acc) : Bool :=
  if writes q.kind then bxRefused s q
  else
    match leafAt s q.ctx (localOf s a.va) with
    | some l => leafEf l.attr != 0 && bxLoadBad q a.va l
    | none => false

/-- Every access of a request is done. -/
def allDone (q : Req) : Bool := q.accs.all fun a => a.st == .done

/-- A prefetch with nothing left to fetch is forgotten. -/
def dropPrefs (s : State) : State :=
  { s with reqs := s.reqs.filter fun q => !(match q.kind with | .pref _ => allDone q | _ => false) }

/-- A helper lane that cannot be loaded receives 0 in each register that its load fills (01 R21, 09 R184). -/
def zeroAcc (q : Req) (a : Acc) : Acc := { a with r := 0, size := if q.size = 8 then a.size else 0, st := .done }

/-- A lane of a prefetch is dropped, whatever it meets, and a helper lane receives 0 where its page cannot be brought in
(09 R191, R197, 13 R283); any other keeps its fault. -/
def accFault (s : State) (q : Req) (j : Nat) (a : Acc) (cause : BitVec 8) : State :=
  if (a.helper && cause != 0x12) || (match q.kind with | .pref _ => true | _ => false) then dropPrefs (onAcc s q.id j (zeroAcc q))
  else onAcc s q.id j fun x => { x with st := .faulted cause, aged := none }

/-- The access goes on to its home. -/
def sendAcc (s : State) (q : Req) (j : Nat) (l : Leaf) : State :=
  onAcc s q.id j fun x => { x with st := .sent, dpa := l.dpa, attr := l.attr, page := l.size }

/-- A walk that reaches C = 1 is recorded, and the drove of a load waits for the expansion (13 R298, 17 R363). -/
def meetCompressed (s : State) (q : Req) (a : Acc) : State :=
  let s := countRecord s 0x1A12 0 64
  if !readKind q.kind || (s.sch.parks.any fun p => p.req == some q.id && p.cause == 0x12) then s
  else
    match droveOf s q.drove with
    | some d => park s 1 0x12 d q.pc a.va (some q.id) true
    | none => s

/-- What the owning die does with one access of a load, store or prefetch (13 R283). -/
def dieTakes (s : State) (q : Req) (j : Nat) (a : Acc) : State :=
  match dieAccess s q.ctx (localOf s a.va) (if writes q.kind then .write else .read) true with
  | (.inr cause, s) =>
    if (cause = 0x16 ∨ cause = 0x17) ∧ bxBreaks s q a then
      (if writes q.kind then refuseStore s q else accFault s q j a 0x13)
    else accFault (if cause = 0x12 then meetCompressed s q a else s) q j a cause
  | (.inl l, s) =>
    if !bxBreaks s q a then sendAcc s q j l
    else if writes q.kind then refuseStore s q
    else accFault s q j a 0x13

/-- An access that its owning die may take now: neither in the scratchpad nor on another route. -/
def dieReady (s : State) (q : Req) (j : Nat) (a : Acc) : Bool :=
  a.st == .new && !q.probing && !spadAcc q.kind a && routeOf (localOf s a.va) == 0 && !heldBack s q j a

/-- A request reaches the owning die, unless the issuing core's L1 serves it (09 R188, 13 R283). -/
def execOwningDieAccess (r j : Nat) (s : State) : Out :=
  .next <|
    match accOf s r j with
    | none => s
    | some (q, a) =>
      if !dieReady s q j a then s
      else if !readKind q.kind then dieTakes s q j a
      else
        match hitLine s q a with
        | some l => if aetMeets s (l.dpa + a.va % 128) a.size then accFault s q j a 0x17 else hitAcc s q j a l
        | none => dieTakes s q j a

/-- The header, selector and payload of a block pass through the page's virtual cache. -/
def bxTouch (s : State) (q : Req) (a : Acc) (f : Frame) (n : Nat) (write : Bool) : State :=
  if routeOf a.va ≠ 0 then s
  else [f.hdr n, f.sel n, f.pay n].foldl (fun s d =>
    pastureAccess s a.attr q.ctx (a.va + d - (f.base + a.va % f.size)) d (dieOfCore q.core) write) s

/-- A load decodes the elements of a BX page (02 R53, 09 R184), its blocks taken as one group read (15 R336). The value carries the packed words, and the access its
flags. -/
def applyBxLoad (s : State) (q : Req) (j : Nat) (a : Acc) : State :=
  let t := modeET q.mode
  let (f, e) := frameOf (accLeaf a) a.va
  let k := (bxLoadElems q).getD 1
  let blocks := (List.range ((e + k - 1) / 32 + 1 - e / 32)).map (e / 32 + ·)
  let parts := blocks.flatMap (f.reads s)
  if blockInAet s parts then accFault s q j a 0x17
  else
    let es := (List.range k).map fun i => f.decode s (e + i)
    let rs := es.map (bxRound (fenvOf q.mode t))
    let s := takeBlock (blocks.foldl (fun s n => bxTouch s q a f n false) s) f parts
    let s := es.foldl (fun s x => countMismatch s (f.base / 2 ^ 37 % 4) x) s
    let x := total (rs.zipIdx.map fun (r, i) => r.1 * 2 ^ (elemWidth t * i))
    let fl := rs.foldl (fun fl r => fl ||| r.2) (0 : Fl)
    onAcc s q.id j fun y => { y with r := x, y := fl.toNat, st := .done }

/-- The value and f32 word of a stored element (02 R54). -/
def bxSource (t x : Nat) : FV × Nat :=
  let v := (fmtOf t).read false x
  (v, (fpCvt { f := f32, rm := 0, ftz := false, cnan := false } v).1)

/-- Element `base + i` as the lanes of a store supply it. -/
def bxElement (q : Req) (k va : Nat) : FV × Nat :=
  let t := modeET q.mode
  match q.accs.find? fun a => decide (a.va ≤ va) && decide (va < a.va + k) with
  | some a => bxSource t (a.x / 2 ^ (elemWidth t * (va - a.va)) % 2 ^ elemWidth t)
  | none => bxSource t 0

/-- A store encodes the whole block that this lane belongs to (02 R54, 09 R186, 15 R336); the block's granules leave every copy, those
that pass the pasture among them. -/
def applyBxStore (s : State) (q : Req) (j : Nat) (a : Acc) : State :=
  let k := (bxStoreElems q).getD 1
  let base := a.va / 32 * 32
  let (f, e) := frameOf (accLeaf a) a.va
  let b := bxEncode f.ef ((List.range 32).map fun i => bxElement q k (base + i))
  if blockInAet s (f.puts s (e / 32) b.outs.length) then accFault s q j a 0x17
  else
  let s := writeBlock (bxTouch s q a f (e / 32) true) f (e / 32) b
  onReq s q.id fun q => { q with accs := mapIf (fun b => b.va / 32 == base / 32) (fun b => { b with st := .done }) q.accs }

/-- After an atomic the issuing core's copies hold the granule as it now stands (15 R330). -/
def refreshGranule (s : State) (core g : Nat) : State :=
  mapL1 s (fun l => l.core == core && l.dpa == g && !l.owned && !l.nc) fun l =>
    { l with data := homeGranule s g, valid := BitVec.allOnes 32 }

/-- Writes the words of an atomic at the home. -/
def atomPut (s : State) (q : Req) (a : Acc) (bs : List Byte) : State :=
  let s := homePutOwn (accPasture s q a true) q.core a.dpa bs
  refreshGranule s q.core (granOf a.dpa)

/-- An access is done, with the value it returns. -/
def doneAcc (s : State) (q : Req) (j x : Nat) : State := onAcc s q.id j fun a => { a with r := x, st := .done }

/-- The operation of a request on one word of operand type `et`. -/
def atomWord (k : ReqKind) (et m x y : Nat) : Nat :=
  match k with
  | .atom p _ => atomNew p et m x y
  | .red p => atomNew p et m x y
  | .satom p => atomNew p et m x y
  | _ => m

/-- The high word of a `catom` lane has been performed: its low update is on its way (09 R205). -/
def sendLow (s : State) (q : Req) (j hdie : Nat) (a : Acc) (e : W32) : State :=
  let (n, s) := newId s
  let u : LowUp := { seq := n, lane := j, hdie := hdie, dpa := a.r, x1 := BitVec.ofNat 32 a.y, e := e, done := false }
  onReq s q.id fun q => { q with lows := q.lows ++ [u], accs := modNth (fun a => { a with aged := none }) q.accs j }

/-- GEN and ARRIVED after one arrival of N (11 R231), the GEN it read, and whether it completed the round. -/
def wideArrive (w n : Nat) : Nat × Nat × Bool :=
  let g := w / 2 ^ 32
  if (w + 1) % 2 ^ 32 = n then ((g + 1) % 2 ^ 32 * 2 ^ 32, g, true) else (g * 2 ^ 32 + (w + 1) % 2 ^ 32, g, false)

/-- The flock's arrival has been made: its members wait for GEN to change, and an arrival that changed it wakes the
droves that wait on the word (11 R231, 19 R407). -/
def wideArrived (s : State) (q : Req) (a : Acc) (g : Nat) (changed : Bool) : State :=
  let w := (droveOf s q.drove).elim (0 : W64) (·.lclk)
  let s := onFlock s q.flock fun f =>
    { f with wide := some { meetOf f with req := none, gen := some (BitVec.ofNat 32 g) } }
  let s := onDrove (dropReq s q.id) q.drove fun d => { d with turn := false }
  if !changed then s
  else
    ((allFlocks s ++ s.sch.saved.map (·.flock)).filter fun f => f.ctx == q.ctx).foldl (fun s f =>
      ((flockDroves s f.uid).filter fun d => (meetOf f).members.any fun m => m.1 == d.idx && m.2.1.toNat == a.va).foldl
        (fun s d => wake s d.uid w fun x => x == .wide) s) s

/-- The record of an `evpost` is written and TAIL raised (11 R254): `rd` reads the header, `wr` writes a field of it. -/
def evpostApply (s : State) (q : Req) (j : Nat) (a : Acc) (head : Nat) (raise : State → Nat → State) : State :=
  let ring := bits head 63 0
  let n := bits head 95 64
  let tail := bits head 191 128
  let s := select s q.drove
  if !queueOk ring n then stopHere (standBefore (dropReq s q.id) q.drove) 0x02 0 0
  else if n ≤ (tail + 2 ^ 64 - bits head 255 192) % 2 ^ 64 then onAcc s q.id j fun x => { x with aged := none }
  else
    let stamp := if s.dr.det then s.dr.lclk else BitVec.ofNat 64 s.cycle
    let bs := eventBytes 0x0001 q.ctx q.droveId q.pc (BitVec.ofNat 64 a.x) stamp
    let va := ring + 32 * (tail % n)
    if isPeer s va then
      let s := { s with mem := { s.mem with peer := memPut s.mem.peer (va % 2 ^ 62) bs } }
      retire (raise (dropReq s q.id) (tail + 1))
    else
      match vaPut s q.ctx va bs (some (dieOfCore q.core)) with
      | (none, s) => retire (raise (dropReq s q.id) (tail + 1))
      | (some cause, s) => parkMasked (standBefore (dropReq s q.id) q.drove) 3 cause va 1

/-- An atomic, a `catom` word, or a record operation, performed at the home on a settled granule (09 R201, R205,
11 R231, R243, R254). -/
def applyAtom (s : State) (q : Req) (j : Nat) (a : Acc) : State :=
  let m := leNat (homeBytes s a.dpa a.size)
  match q.kind with
  | .catom =>
    let (hn, e) := catomHigh m a.x
    sendLow (doneAcc (atomPut s q a (leBytes 4 hn)) q j a.r) q j (homeDie a.dpa) a e
  | .rtake =>
    let (rec, start, len) := crookTake m
    doneAcc (atomPut s q a (leBytes 32 rec)) q j (start + len * 2 ^ 64)
  | .barw =>
    let (w, g, changed) := wideArrive m a.x
    wideArrived (atomPut s q a (leBytes 8 w)) q a g changed
  | .evpost => evpostApply s q j a m fun s t => atomPut s q { a with dpa := a.dpa + 16 } (leBytes 8 t)
  | k => doneAcc (atomPut s q a (leBytes 4 (atomWord k (modeET q.mode) m a.x a.y))) q j m

/-- One access applied at its home; an error entered for its bytes meets it there (17 R377), but for a prefetch. -/
def applyAcc (r j : Nat) (w : Want) (s : State) : State :=
  match accOf s r j with
  | none => s
  | some (q, a) =>
    match q.kind with
    | .pref _ => dropPrefs (applyPref s q j a w)
    | k =>
      if aetMeets s a.dpa a.size then accFault s q j a 0x17
      else if atomicKind k then applyAtom s q j a else if readKind k then applyLoad s q j a w else applyStore s q j a w

/-- An access that may be served at its home now. -/
def homeReady (s : State) (q : Req) (j : Nat) (a : Acc) : Bool :=
  a.st == .sent && !q.probing && routeOf (localOf s a.va) == 0 && !spadAcc q.kind a && !heldBack s q j a

/-- A load of a BX page waits for older stores of its drove to a block that it decodes: their elements stand in the store
buffer unencoded (12 R264, 09 R186). -/
def bxBehind (s : State) (q : Req) (a : Acc) : Bool :=
  let k := (bxLoadElems q).getD 1
  (older s q).any fun x => writes x.kind && x.accs.any fun b =>
    b.st != .done && overlap (b.va / 32 * 32) 32 a.va k && !spadAcc x.kind b

/-- A request reaches its home (15 R328). A load of a non-coherent page that finds its core's copy by then reads it, with the
bytes that its drove has written there (12 R264). -/
def serveAcc (s : State) (r j : Nat) : State :=
  match accOf s r j with
  | none => s
  | some (q, a) =>
    if !homeReady s q j a then s
    else if leafEf a.attr = 0 ∧ aetMeets s a.dpa a.size = true then accFault s q j a 0x17
    else if leafEf a.attr ≠ 0 ∧ readKind q.kind then (if bxBehind s q a then s else applyBxLoad s q j a)
    else if leafEf a.attr ≠ 0 ∧ writes q.kind then applyBxStore s q j a
    else
      let w := wantOf q a
      match if readKind q.kind && leafNc a.attr then hitLine s q a else none with
      | some l => hitAcc s q j a l
      | none => arrive s (granOf a.dpa) (.acc r j) (partyOf s q a) w (applyAcc r j w)

/-- The low update of `catom` lane `j`, while it is on its way. -/
def lowOf (q : Req) (j : Nat) : Option LowUp := q.lows.find? fun u => u.lane == j && !u.done

/-- An earlier low update takes the same path (09 R205). -/
def lowBehind (s : State) (u : LowUp) : Bool :=
  s.reqs.any fun q => q.lows.any fun x => !x.done && decide (x.seq < u.seq) && x.hdie == u.hdie && homeDie x.dpa == homeDie u.dpa

/-- The leaf of the low word's page, which its translation keeps until the update is performed (11 R261). -/
def lowLeaf (q : Req) (j : Nat) : W64 := (q.accs[j]?).elim 0 (·.lowAttr)

/-- A low update goes to its home as an atomic of its core (09 R205, 15 R330). -/
def lowParty (s : State) (q : Req) (j : Nat) : Party :=
  { q := if q.core < 64 then q.core else 128, die := dieOfCore q.core, track := true,
    rep := mayReplicate s (lowLeaf q j) (dieOfCore q.core) &&
      (q.accs[j]?).any fun a => routeOf (lowAddr q.split a.va) == 0 && sliceHolds s (lowLeaf q j) q.ctx (lowAddr q.split a.va) (dieOfCore q.core) }

/-- The low word after its update, which passes the pasture at its home (14 R303), on route 00 alone (13 R278). -/
def lowPut (s : State) (q : Req) (u : LowUp) : State :=
  if 2 ^ 62 ≤ u.dpa then
    let a := u.dpa % 2 ^ 62
    { s with mem := { s.mem with peer := memWrite s.mem.peer a 4 (catomLow (memRead s.mem.peer a 4) u.x1 u.e) } }
  else
    let va := ((q.accs[u.lane]?).map fun a => lowAddr q.split a.va).getD 0
    let s := if routeOf va = 0 then pastureAccess s (lowLeaf q u.lane) q.ctx va u.dpa (dieOfCore q.core) true else s
    onHbm s fun m => memWrite m u.dpa 4 (catomLow (memRead m u.dpa 4) u.x1 u.e)

/-- The low update is applied at its home (09 R205). -/
def applyLow (r j : Nat) (s : State) : State :=
  match (reqOf s r).bind fun q => (lowOf q j).map fun u => (q, u) with
  | none => s
  | some (q, u) =>
    let s := lowPut s q u
    let s := if u.dpa < 2 ^ 62 then refreshGranule s q.core (granOf u.dpa) else s
    onReq s r fun q => { q with lows := mapIf (fun x => x.seq == u.seq) (fun x => { x with done := true }) q.lows }

/-- A low update reaches its home. -/
def serveLow (s : State) (r j : Nat) : State :=
  match (reqOf s r).bind fun q => (lowOf q j).map fun u => (q, u) with
  | none => s
  | some (q, u) =>
    if lowBehind s u then s
    else if 2 ^ 62 ≤ u.dpa then applyLow r j s
    else if inAet s u.dpa then onAcc s r j fun x => { x with st := .faulted 0x17 }
    else arrive s (granOf u.dpa) (.acc r j) (lowParty s q j) .rmw (applyLow r j)

def execCatomLowUpdate (r j : Nat) (s : State) : Out := .next <| serveLow s r j

/-- The home takes a request of one kind (15 R330, R331); a request of another kind is not its business. An access that
was refused earlier goes in by `requestRefusedResend`, unless it stands in the queue. -/
def homeTakes (s : State) (r j : Nat) (p : Req → Acc → Want → Bool) : State :=
  match accOf s r j with
  | none => s
  | some (q, a) => if p q a (wantOf q a) then serveAcc s r j else s

/-- A load of policy class `w` that is not the owner's access to a word of WMASK. -/
def loadEvent (s : State) (w : Want) (q : Req) (a : Acc) (x : Want) : Bool := x == w && !atomicKind q.kind && !ownsMasked s q a

def execHomeOLoadMiss (r j : Nat) (s : State) : Out := .next <| homeTakes s r j (loadEvent s .oLoad)
def execHomeILoadMiss (r j : Nat) (s : State) : Out := .next <| homeTakes s r j (loadEvent s .iLoad)
def execHomeSLoadMiss (r j : Nat) (s : State) : Out := .next <| homeTakes s r j (loadEvent s .sLoad)
def execHomeWLoad (r j : Nat) (s : State) : Out := .next <| homeTakes s r j (loadEvent s .wLoad)
def execHomeOwnershipRequest (r j : Nat) (s : State) : Out := .next <| homeTakes s r j (loadEvent s .own)
def execHomeWriteThrough (r j : Nat) (s : State) : Out :=
  .next <| homeTakes s r j fun q a w => (match w with | .write _ _ => true | _ => false) && !ownsMasked s q a
def execHomeAtomic (r j : Nat) (s : State) : Out := .next <| homeTakes s r j fun q _ _ => atomicKind q.kind
def execOwnerWmaskAccess (r j : Nat) (s : State) : Out :=
  .next <| homeTakes s r j fun q a _ => !atomicKind q.kind && ownsMasked s q a

/-- Some queue holds the access, or it is what an entry in T waits for. -/
def accQueued (s : State) (r j : Nat) : Bool :=
  s.coh.dir.any fun e => e.queue.contains (.acc r j) || (e.st == .t && e.cause == some (.acc r j))

/-- The flock's single arrival at its wide-barrier word (11 R231). -/
def execWideBarrierArrival (f : Nat) (s : State) : Out :=
  .next <|
    match (flockOf s f).bind fun x => (meetOf x).req with
    | some r => serveAcc s r 0
    | none => s

/-- A host request at the home: halves are promoted to whole granules (15 R335). -/
def hostWant : Nat → Want
  | 0 => .iLoad
  | 1 => .own
  | 2 => .hostWrite
  | _ => .hostWrite

def hostParty (op g : Nat) : Party := { q := if op = 2 then 128 else 64, die := homeDie g, track := true, rep := false }

/-- The bytes a host request carries, by address: those whose enable is 1, of the half that holds `dpa`. -/
def hostBytes (dpa : Nat) (data : List Byte) (en : BitVec 64) : List (Nat × Byte) :=
  (data.zipIdx.filter fun x => en.getLsbD x.2).map fun (b, i) => (dpa / 64 * 64 + i, b)

/-- A host request applied to a settled granule (15 R335). -/
def applyHost (op dpa : Nat) (data : List Byte) (en : BitVec 64) (s : State) : State :=
  let g := granOf dpa
  let e := dirOf s g
  match op with
  | 0 => if hasOwner e && e.hown then s else setDir s { e with st := .s, host := true }
  | 1 =>
    let own := if hasOwner e && e.hown then e else
      { e with st := .o, hown := true, owner := 0, sharers := 0, host := false, rdies := 0, wmask := 0, hostDirty := [] }
    let bs := hostBytes dpa data en
    let there (m : BitVec 32) (a : Nat) : Bool := m.getLsbD (a % 128 / 4)
    let s := onHbm s fun m => mergeBytes m (bs.filter fun b => there own.wmask b.1)
    let kept := bs.filter fun b => !there own.wmask b.1
    setDir s { own with hostDirty := (own.hostDirty.filter fun b => !kept.any fun x => x.1 == b.1) ++ kept }
  | _ => onHbm s fun m => mergeBytes m (hostBytes dpa data en)

/-- A host request reaches the home. -/
def serveHost (s : State) (c : Asker) : State :=
  match c with
  | .host op dpa data en _ => arrive s (granOf dpa) c (hostParty op (granOf dpa)) (hostWant op) (applyHost op dpa data en)
  | _ => s

/-- A host request arrives (15 R335, 18 R395). An address beyond device memory names nothing, and the request has no effect
(00 R11, 13 R279; assumption log 20). -/
def hostRequest (s : State) (op dpa : Nat) (data : List Byte) (en : BitVec 64) : Out :=
  .next <|
    if 2 ^ 39 ≤ dpa then s
    else
      let (n, s) := newId s
      serveHost s (.host op dpa data en n)

/-- A request that found a full queue is sent again with its age (15 R328): access `j` of request `r`, or, `r` being 0, the
`j`-th refused request of the host. -/
def execRequestRefusedResend (r j : Nat) (s : State) : Out :=
  .next <|
    if r = 0 then
      match s.coh.refused[j]? with
      | some c => serveHost { s with coh := { s.coh with refused := s.coh.refused.erase c } } c
      | none => s
    else
      match accOf s r j with
      | some (_, a) => if a.aged.isSome ∧ !accQueued s r j then serveAcc s r j else s
      | none => s

def execHrd (dpa : Nat) (s : State) : Out := hostRequest s 0 dpa [] 0
def execHrdx (dpa : Nat) (data : List Byte) (en : BitVec 64) (s : State) : Out := hostRequest s 1 dpa data en
def execHwr (dpa : Nat) (data : List Byte) (en : BitVec 64) (s : State) : Out := hostRequest s 2 dpa data en

/-- The host writes back its owned granule (15 R331, R335). -/
def execHwb (g : Nat) (s : State) : Out :=
  .next <|
    let e := dirOf s (granOf g)
    if hasOwner e && e.hown then toIdle (onHbm s fun m => mergeBytes m e.hostDirty) (granOf g) else s

/-- A message reaches its holder (15 R329). -/
def execRecallToShared (g : Nat) (s : State) : Out := .next <| ackMsg s g .recallShared
def execRecall (g : Nat) (s : State) : Out := .next <| ackMsg s g .recall
def execInvalidate (g h : Nat) (s : State) : Out := .next <| ackMsg s g (.invalidate h)
def execUpdate (g d : Nat) (s : State) : Out := .next <| ackMsg s g (.update d)
def execClaim (g : Nat) (s : State) : Out :=
  .next <|
    match (dirOf s g).msgs.find? fun m => match m with | .claim _ => true | _ => false with
    | some m => ackMsg s g m
    | none => s

/-- A request that the home has taken leaves the entry as it stands: it is no longer there to be applied. -/
def passOver (s : State) (g : Nat) (c : Asker) : State :=
  let e := dirOf s g
  placeEntry (putDir s { e with queue := e.queue.erase c }) g

/-- A request is taken by the home: the one that caused T, its messages answered (`settled`), or the first of the queue
(15 R328, R329). -/
def serveCause (s : State) (g : Nat) (c : Asker) (settled : Bool) : State :=
  match c with
  | .own _ => passOver s g c
  | .evict x =>
    let e := dirOf s g
    let s := passOver s g c
    if e.sf = true ∧ e.st = .i then giveWay s x e.way else s
  | .host op dpa data en _ => takeNow s g c (hostParty op g) (hostWant op) settled (applyHost op dpa data en)
  | .acc r j =>
    match accOf s r j with
    | none => passOver s g c
    | some (q, a) =>
      if a.st = .sent then takeNow s g c (partyOf s q a) (wantOf q a) settled (applyAcc r j (wantOf q a))
      else if (lowOf q j).isSome then takeNow s g c (lowParty s q j) .rmw settled (applyLow r j)
      else passOver s g c

/-- Every acknowledgement has arrived, and the request that caused T is applied (15 R329); or the entry is not in T and the home
takes the oldest request that waits in its queue (15 R328). -/
def execDirectoryTComplete (g : Nat) (s : State) : Out :=
  .next <|
    let e := dirOf s g
    if e.st = .t then
      if e.msgs ≠ [] then s
      else
        match leaveT s g with
        | (some c, s) => serveCause s g c true
        | (none, s) => placeEntry s g
    else
      match e.queue with
      | c :: _ => serveCause s g c false
      | [] => s

/-- An uncorrectable error in an entry (15 R332): every copy is recalled, and the entry takes I. -/
def execDirectoryEntryUe (g : Nat) (s : State) : Out := .next <| countRecord (recallAll s g) 0x1A49 0 64

/-- A replica line leaves its slice (14 R308, 15 R332). -/
def execReplicaLineLeave (g die : Nat) (s : State) : Out :=
  .next <|
    match s.vc.lines.find? fun l => l.die == die && !l.pin && (lineGranules l).contains g &&
      ((cdrOf s l.vc).map (·.place)) == some true with
    | some l => leaveVLine s l
    | none => s

/-- The host adapter drops a clean copy (15 R332). -/
def execHostCleanDrop (g : Nat) (s : State) : Out :=
  .next <|
    let e := dirOf s g
    if !e.host ∨ e.st = .t then s else setDir s { e with host := false, st := if e.st = .s then copiesSt { e with host := false } else e.st }

/-- An owner writes back its copy at eviction (15 R331). -/
def execOwnerWriteBack (core g : Nat) (s : State) : Out :=
  .next <|
    match ownedLine s core g with
    | some l => if evictable s l then leaveL1 s l else s
    | none => s

/-- A `vwb` in the store buffer covers the copy, and the drove's older entries have drained. -/
def vwbCovers (s : State) (l : L1Line) (q : Req) : Bool :=
  match q.kind, q.accs.head? with
  | .vwb whole, some a => q.core == l.core && inRange whole q.ctx l.ctx a.va a.size l.va 128 &&
      !(older s q).any fun x => storeKind x.kind
  | _, _ => false

/-- Write-back of a copy by `vwb` (09 R198, 15 R331). -/
def execOwnerVwbWriteBack (core g : Nat) (s : State) : Out :=
  .next <|
    match s.coh.l1.find? fun l => l.core == core && l.dpa == g && l.dirty != 0 && s.reqs.any (vwbCovers s l) with
    | some l => if evictable s l then vwbLine s l else s
    | none => s

/-- EPOCHPER, at least 4,096 cycles (15 R338), and whether a core's tick is due (15 R340). -/
def epochPeriod (s : State) : Nat := max 4096 (bits (privReg s 0xA5).toNat 31 0)
def epochDue (s : State) (core : Nat) : Bool := decide (epochPeriod s ≤ s.cycle - (coreOf s core).ticked)

/-- The epoch tick of a core (15 R340). A step that has taken more than one period owes a tick for each. -/
def execEpochTick (core : Nat) (s : State) : Out :=
  .next <|
    if epochDue s core then onCore (epochSweep s core) core fun c => { c with ticked := c.ticked + epochPeriod s } else s

/-- A drove is resident on the core. -/
def coreBusy (s : State) (core : Nat) : Bool := (allDroves s).any fun d => d.core == core && d.cond != .vacant

/-- An idle L1 gives up its owned granules and sleeps (15 R341). -/
def execRetentionSleepEnter (core : Nat) (s : State) : Out :=
  .next <|
    let own := s.coh.l1.filter fun l => l.core == core && l.owned
    if coreBusy s core || own.any (fun l => !evictable s l) || (coreOf s core).asleep || decide (64 ≤ core) then s
    else
      let s := own.foldl leaveL1 s
      let s := (s.coh.l1.filter fun l => l.core == core && l.dirty != 0).foldl vwbLine s
      onCore s core fun c => { c with asleep := true }

/-- A sleeping L1 wakes (15 R341). -/
def execRetentionWake (core : Nat) (s : State) : Out := .next <| wakeL1 s core

/-- The part of a load's value that one lane receives in word `w` of its destination (09 R183, R184, R193). -/
def loadLane (q : Req) (sext' : Bool) (w l : Nat) (old : W32) : W32 :=
  match q.accs.find? fun a => a.lane == l && (match q.kind with | .ldp _ => leafEf a.attr != 0 || a.y == w || a.size != 4 || q.size != 8 | _ => true) with
  | none => old
  | some a =>
    if a.helper && a.size == 0 then 0
    else if leafEf a.attr ≠ 0 then if w = 1 ∧ !bxPair (modeET q.mode) (Nat.log2 q.size) then old else BitVec.ofNat 32 (a.r / 2 ^ (32 * w))
    else
      match q.size, w with
      | 1, 0 => if sext' then (BitVec.ofNat 8 a.r).signExtend 32 else BitVec.ofNat 32 (a.r % 2 ^ 8)
      | 2, 0 => if sext' then (BitVec.ofNat 16 a.r).signExtend 32 else BitVec.ofNat 32 (a.r % 2 ^ 16)
      | 4, 0 => BitVec.ofNat 32 a.r
      | 8, w => match q.kind with
        | .ldp _ => BitVec.ofNat 32 a.r
        | _ => BitVec.ofNat 32 (a.r / 2 ^ (32 * w))
      | _, _ => old

/-- The drove with a load's data in its registers, which become full (09 R183). -/
def loadInto (q : Req) (d : Drove) : Drove :=
  let vec (x : Bool) (d : Drove) : Drove :=
    let d := markV (setV d q.dst (mkLanes fun l => loadLane q x 0 l (vlane d q.dst l))) q.dst true
    if q.dst2 || (bxTwo q && q.accs.any fun a => leafEf a.attr != 0) then markV (setV d (q.dst + 1) (mkLanes fun l => loadLane q x 1 l (vlane d (q.dst + 1) l))) (q.dst + 1) true else d
  let fl := q.accs.foldl (fun fl a => if leafEf a.attr ≠ 0 && !a.helper then fl ||| BitVec.ofNat 5 a.y else fl) (0 : Fl)
  match q.kind with
  | .load _ x => raiseFlags (vec x d) fl false
  | .ldp x => raiseFlags (vec x d) fl false
  | .ldsp x => vec x d
  | .lds _ => markS (setS d q.dst (BitVec.ofNat 64 ((q.accs.head?).elim 0 (·.r)))) q.dst true
  | _ => d

/-- Load data return (01 R27, R29, 09 R183): a return whose tag no longer matches is dropped and counted. A checksum's own read
fills no register (19 R413). -/
def execLoadReturn (r : Nat) (s : State) : Out :=
  .next <|
    match reqOf s r with
    | none => s
    | some q =>
      if !isLoad q then s
      else
        match (droveOf s q.drove).filter fun d => d.gen == q.gen with
        | none => if dropsAtReturn q then countCsb (dropReq s r) q.ctx 0x48 else dropReq s r
        | some d => if allDone q && d.csumReq != some r then onDrove (finishReq s r) q.drove (loadInto q) else s

/-- The first access of a request that stands on a fault that is to be reported (09 R191). -/
def faultedAcc (q : Req) : Option (BitVec 8 × Acc) :=
  q.accs.findSome? fun a => match a.st with
    | .faulted c => if c = 0x12 then none else some (c, a)
    | _ => none

/-- A park of the request is outstanding, or waits for delivery. -/
def hasPark (s : State) (r : Nat) : Bool := s.sch.parks.any fun p => p.req == some r && p.cause != 0x12 && (p.svc == 1 || p.svc == 3)

/-- Parks a request on its first fault. -/
def parkReq (s : State) (q : Req) (kind : Nat) (blocks : Bool) : State :=
  match faultedAcc q, droveOf s q.drove with
  | some (c, a), some d =>
    if hasPark s q.id then s
    else
      let s := endParks s fun p => p.req == some q.id && p.svc == 2
      park s kind c d q.pc a.va (some q.id) blocks
  | _, _ => s

/-- A lane of a load, or of an atomic where it is performed, has faulted: the drove parks (09 R191, R203). -/
def execLoadLaneFault (r : Nat) (s : State) : Out :=
  .next <|
    match reqOf s r with
    | none => s
    | some q => if isLoad q || (atomicKind q.kind && !q.probing) then parkReq s q 1 true else s

/-- A lane of a store has faulted: the entry is held, and the drove goes on (09 R192). -/
def execStoreLaneFault (r : Nat) (s : State) : Out :=
  .next <|
    match reqOf s r with
    | none => s
    | some q =>
      match q.kind with
      | .store _ => parkReq s q 2 false
      | .stm => parkReq s q 2 false
      | .tst _ _ => parkReq s q 5 false
      | _ => s

/-- A `tld` of an exited drove whose row faults is cancelled: the tile is left orphaned (05 R118). -/
def cancelTld (s : State) (q : Req) : State :=
  let s := onFlock (dropReq s q.id) q.flock fun f =>
    { f with torphan := f.torphan ||| (1#16 <<< q.dst), tileOwner := f.tileOwner.filter fun o => o.2 != q.id }
  finishFlock s q.flock

/-- A row of a `tld` has faulted: the drove parks (10 R221), or, once it has exited, the `tld` is cancelled (05 R118). -/
def execTldRowFault (r : Nat) (s : State) : Out :=
  .next <|
    match reqOf s r with
    | none => s
    | some q =>
      match q.kind with
      | .tld _ _ => if (droveOf s q.drove).any fun d => d.cond == .exited then cancelTld s q else parkReq s q 4 true
      | _ => s

/-- A `vwb` still has a dirty copy to write back, or older entries before it. -/
def vwbOpen (s : State) (q : Req) : Bool :=
  match q.kind, q.accs.head? with
  | .vwb whole, some a =>
    ((older s q).any fun x => storeKind x.kind) ||
      s.coh.l1.any fun l => l.core == q.core && l.dirty != 0 && inRange whole q.ctx l.ctx a.va a.size l.va 128
  | _, _ => false

/-- Every byte of an entry has been acknowledged; for a `catom` both words of every lane but those abandoned at their high word
(09 R185, R198, R205, 17 R365). -/
def entryDone (s : State) (q : Req) : Bool := allDone q && !vwbOpen s q && q.lows.all (·.done)

/-- Stores that the issuing L1 can take are applied there; an entry all of whose bytes are acknowledged is freed, and a
`tst` has its tile read (01 R30, 09 R188, 15 R331). -/
def execStoreAck (r : Nat) (s : State) : Out :=
  .next <|
    match reqOf s r with
    | none => s
    | some q =>
      if !storeKind q.kind ∨ q.probing then s
      else
        let s := if atomicKind q.kind then s else
          (List.range q.accs.length).foldl (fun s j =>
            match accOf s r j with
            | some (q, a) => if routeOf a.va = 0 && !spadAcc q.kind a then (l1Store s q j a).getD s else s
            | none => s) s
        match reqOf s r with
        | some q => if entryDone s q then finishReq s r else s
        | none => s

/-- The old words of an atomic, or the chunk of an `rtake`, return (09 R201, R206, 11 R243). -/
def execAtomicReturn (r : Nat) (s : State) : Out :=
  .next <|
    match reqOf s r with
    | none => s
    | some q =>
      if q.probing ∨ !allDone q then s
      else
        match q.kind with
        | .atom _ acq =>
          let s := onDrove (finishReq s r) q.drove fun d =>
            markV (setV d q.dst (mkLanes fun l => match q.accs.find? fun a => a.lane == l && !a.helper with
              | some a => BitVec.ofNat 32 a.r
              | none => vlane d q.dst l)) q.dst true
          if acq then epochSweep s q.core else s
        | .satom _ =>
          onDrove (finishReq s r) q.drove fun d =>
            match q.accs.find? fun a => !a.helper with
            | some a => markS (setS d q.dst (BitVec.ofNat 64 a.r)) q.dst true
            | none => markS d q.dst true
        | .rtake =>
          onDrove (finishReq s r) q.drove fun d =>
            let d := markS (markS d q.dst true) (q.dst + 1) true
            match q.accs.find? fun a => !a.helper with
            | some a => setS (setS d q.dst (BitVec.ofNat 64 a.r)) (q.dst + 1) (BitVec.ofNat 64 (a.r / 2 ^ 64))
            | none => d
        | _ => s

/-- A scratchpad bank applies an access, in the order it receives them (09 R194, R204). -/
def execScratchpadBankAccess (r j : Nat) (s : State) : Out :=
  .next <|
    match accOf s r j with
    | none => s
    | some (q, a) =>
      if q.probing ∨ !spadAcc q.kind a ∨ (a.st ≠ .new ∧ a.st ≠ .sent) ∨ heldBack s q j a then s
      else
        let p := spadBase (padOf q.core) + spadAddr a
        let m := memRead s.mem.spad p a.size
        if readKind q.kind then finishAcc s q j a (memBytes s.mem.spad p a.size)
        else if atomicKind q.kind then
          doneAcc (onSpad s fun x => memWrite x p 4 (atomWord q.kind (modeET q.mode) m a.x a.y)) q j m
        else doneAcc (onSpad s fun x => memWrite x p a.size a.x) q j 0

/-- An operation of one access on a memory outside the module, by the memory's own address. -/
def farApply (s : State) (q : Req) (j : Nat) (a : Acc) (p : Nat) (get : State → Memory) (put : State → Memory → State) : State :=
  let m := memRead (get s) p a.size
  if readKind q.kind then finishAcc s q j a (memBytes (get s) p a.size)
  else
    match q.kind with
    | .catom =>
      let (hn, e) := catomHigh m a.x
      sendLow (doneAcc (put s (memWrite (get s) p 4 hn)) q j a.r) q j (4 + bits a.va 61 50) a e
    | .rtake =>
      let (rec, start, len) := crookTake m
      doneAcc (put s (memWrite (get s) p 32 rec)) q j (start + len * 2 ^ 64)
    | .barw =>
      let (w, g, changed) := wideArrive m a.x
      wideArrived (put s (memWrite (get s) p 8 w)) q a g changed
    | .evpost => evpostApply s q j a m fun s t => put s (memWrite (get s) (p + 16) 8 t)
    | k =>
      if atomicKind k then doneAcc (put s (memWrite (get s) p 4 (atomWord k (modeET q.mode) m a.x a.y))) q j m
      else doneAcc (put s (memWrite (get s) p a.size a.x)) q j 0

/-- Memory of other devices with bytes that other agents have written. -/
def peerWrites (s : State) (bs : List (Nat × Byte)) : State :=
  { s with mem := { s.mem with peer := bs.foldl (fun m (a, b) => memSet m (a % 2 ^ 62) b) s.mem.peer } }

/-- One of our accesses reaches a peer (18 R382): the peer refuses it with `cause`, confirms an atomic's probe, or
serves it. -/
def peerServes (s : State) (r j : Nat) (cause : BitVec 8) (ws : List (Nat × Byte)) : State :=
  match accOf s r j with
  | none => s
  | some (q, a) =>
    let va := if isPeer s a.va then a.va else lowAddr q.split a.va
    let near := peerLocal s q.ctx (bits va 61 52)
    let s := peerWrites s ws
    if q.probing then
      if a.st ≠ .new ∨ !isPeer s va then s
      else
        match near with
        | some c => onAcc s r j fun x => { x with st := .faulted c }
        | none => onAcc s r j fun x => { x with st := (if cause = 0 then .sent else .faulted cause) }
    else if !isPeer s a.va ∨ (a.st ≠ .new ∧ a.st ≠ .sent) ∨ heldBack s q j a then s
    else
      match near with
      | some c => accFault s q j a c
      | none =>
        if cause ≠ 0 then accFault s q j a cause
        else farApply s q j a (a.va % 2 ^ 62) (·.mem.peer) fun s m => { s with mem := { s.mem with peer := m } }

/-- An access of a peer's context to this module is served when the bindings are mutual (18 R382): it acts as a `.w`
access or an atomic of no core of this module, whole in one step (assumption log 9). -/
def peerIncoming (s : State) (dev peerCtx ctx va size : Nat) (op : PeerOp) : State :=
  let c := BitVec.ofNat 16 ctx
  let e := peerEntry s c dev
  let a := bits va 51 50 * 2 ^ 60 + bits va 49 0
  if !bitAt e 63 ∨ bits e 47 32 ≠ peerCtx ∨ inAperture a then s
  else
    let ask : Ask := match op with | .load => .read | .store _ => .write | .atomic _ _ _ _ => .atomic
    match dieAccess (openPage s c a) c a ask false with
    | (.inr _, s) => s
    | (.inl l, s) =>
      let nc := leafNc l.attr || leafHome l.attr == 3
      let at' (n : Nat) : List (Nat × Bool) := (List.range n).map fun i => (l.dpa + i, nc)
      match op with
      | .load => pastureAccess (takeRead s l.dpa size nc) l.attr c a l.dpa (homeDie l.dpa) false
      | .store x => putAt (pastureAccess s l.attr c a l.dpa (homeDie l.dpa) true) (at' size) (leBytes size x.toNat)
      | .atomic p et x y =>
        let m := homeRead s l.dpa 4
        let s := pastureAccess (takeGranule s (granOf l.dpa) nc) l.attr c a l.dpa (homeDie l.dpa) true
        putAt s (at' 4) (leBytes 4 (atomNew p.toNat et.toNat m x.toNat y.toNat))

def execPeerAccessRequest (x : PeerAccess) (s : State) : Out :=
  .next <|
    match x with
    | .outgoing r j cause ws => peerServes s r j cause ws
    | .incoming dev pc c va size op => peerIncoming s dev pc c va size op

/-- The host adapter performs a route-10 access (18 R394), host processors having written `ws` first. -/
def execRoute10Ack (r j : Nat) (ws : List (Nat × Byte)) (s : State) : Out :=
  .next <|
    match accOf s r j with
    | none => s
    | some (q, a) =>
      if q.probing ∨ routeOf a.va ≠ 2 ∨ a.st ≠ .new ∨ spadAcc q.kind a ∨ heldBack s q j a then s
      else
        let s := { s with mem := { s.mem with host := ws.foldl (fun m (a, b) => memSet m (a % 2 ^ 62) b) s.mem.host } }
        let p := a.va % 2 ^ 62
        if !readKind q.kind ∧ 0x3FFFFFFFFFFFFF00 ≤ p then
          let n := (p - 0x3FFFFFFFFFFFFF00) / 8
          let s := { s with dev := { s.dev with notify := s.dev.notify ||| (1#64 <<< n), hostInts := s.dev.hostInts + 1 } }
          doneAcc s q j 0
        else farApply s q j a p (·.mem.host) fun s m => { s with mem := { s.mem with host := m } }

/-- The 64 KiB page of a VA. -/
def page64 (va : Nat) : Nat := va / 65536

/-- The access waits for its compressed page. -/
def waitsExpansion (s : State) (c : BitVec 16) (va : Nat) (q : Req) (a : Acc) : Bool :=
  q.ctx == c && a.st == .faulted 0x12 &&
    (page64 (localOf s a.va) == page64 va || (q.kind == .catom && page64 (localOf s (lowAddr q.split a.va)) == page64 va))

/-- The park waits for the expansion of the page. -/
def parkExpands (s : State) (c : BitVec 16) (va : Nat) (p : Park) : Bool :=
  p.cause == 0x12 && p.ctx == c && p.svc == 1 && page64 (localOf s p.va) == page64 va

/-- The accesses that wait for a page go on: they are replayed, or take the cause that the expansion met; a helper lane whose page
could not be expanded receives 0 and is not reported (01 R21). The parks that waited with them end, but for a fetch's and a
collective's, which hold no access and take the cause themselves (13 R297, R298). -/
def expansionDone (s : State) (c : BitVec 16) (va : Nat) (fail : Option (BitVec 8)) : State :=
  let give (q : Req) (a : Acc) : Acc := match fail with
    | some cause => if a.helper then zeroAcc q a else { a with st := .faulted cause }
    | none => { a with st := .new }
  let go (q : Req) : Req := { q with accs := mapIf (waitsExpansion s c va q) (give q) q.accs }
  let stays (p : Park) : Bool := p.kind == 10 || (p.kind == 0 && fail.isSome)
  let parks := (s.sch.parks.filter fun p => !parkExpands s c va p || stays p).map fun p =>
    if parkExpands s c va p && fail.isSome then { p with cause := fail.getD p.cause } else p
  { s with reqs := s.reqs.map go, sch := { s.sch with parks := parks } }

end Sys2Proof.Machine
end

