-- ==== Sys2Proof/Machine/Matrix.lean ====
section
/-! DEFINITION. Tiles, the matrix engine's passes, scale records and tile operations (10, 02 R62, R63, 03 R80-R82,
16 R356, R357). -/

namespace Sys2Proof.Machine

/-- Element (i, j) of a tile of a flock (01 R25). -/
def tileAt (f : Flock) (t i j : Nat) : W32 := mapGet 0 f.tiles (16384 * t + 128 * i + j)

/-- A tile with element (i, j) replaced. -/
def tilePut (f : Flock) (t i j : Nat) (x : W32) : Flock := { f with tiles := mapSet 0 f.tiles (16384 * t + 128 * i + j) x }

/-- A tile whose elements are given by a function of their place. -/
def tileFill (f : Flock) (t : Nat) (g : Nat → W32) : Flock :=
  let lo := 16384 * t
  let new := (List.range 16384).filterMap fun k => if g k = 0 then none else some (lo + k, g k)
  { f with tiles := f.tiles.filter (fun x => decide (x.1 < lo)) ++ new ++ f.tiles.filter fun x => decide (lo + 16384 ≤ x.1) }

/-- The elements of tiles `t` and `t + 1`, by place. -/
def tileCopy (f : Flock) (t : Nat) : List (Nat × W32) :=
  (f.tiles.filter fun x => decide (16384 * t ≤ x.1) && decide (x.1 < 16384 * (t + 2))).map fun x => (x.1 - 16384 * t, x.2)

/-- The checks of `late` join those of `c`, its waits come later (10 R211). -/
def withLate (c : Chk) (d : Drove) (late : List Use) : Chk :=
  { c with bad := c.bad || late.any fun u => decide (allocOf d u.cls < u.base + u.n)
           odd := c.odd || late.any fun u => u.base % u.align != 0 }

/-- Bytes of an element of an operand, and elements that a register row or a K-block holds (10 R209, 03 R81). -/
def opdBytes (t : Nat) : Nat := elemWidth t / 8
def regK (t : Nat) : Nat := 32 / opdBytes t

/-- Fields of a slab descriptor (03 R81). -/
def slabKblk (w : W64) : Nat := bits w.toNat 47 36
def slabRot (w : W64) : Nat := bits w.toNat 35 32
def slabKpitch (w : W64) : Nat := bits w.toNat 31 16
def slabPitch (w : W64) : Nat := bits w.toNat 15 0

/-- Scratchpad address of word `j` of row `i` of K-block `q` (03 R81). -/
def slabWord (sl : W64 × W64) (q i j : Nat) : Nat :=
  let p := slabPitch sl.2
  sl.1.toNat + q * 64 * slabKpitch sl.2 + i * p + 4 * ((j + i * slabRot sl.2) % (p / 4))

/-- The fields of a slab descriptor are legal for type `t` (03 R81). -/
def slabOk (w : W64) (t : Nat) : Bool :=
  bits w.toNat 63 48 == 0 && decide (1 ≤ slabKblk w) && decide (slabKblk w ≤ 64) && !(slabKpitch w == 0 && slabKblk w != 1) &&
    slabPitch w % 4 == 0 && decide (128 * opdBytes t ≤ slabPitch w)

/-- Every word of the slab lies in the grant (03 R81). With ROT 0 a row's last words are not named. -/
def slabIn (d : Drove) (sl : W64 × W64) (t : Nat) : Bool :=
  (List.range (slabKblk sl.2)).all fun q => (List.range 128).all fun i =>
    (List.range (32 * opdBytes t)).all fun j =>
      let a := slabWord sl q i j
      decide (d.spb.toNat ≤ a) && decide (a + 4 ≤ d.spl.toNat)

/-- One operand of a pass: its type, and its registers or slab (10 R209). -/
structure Opd where
  t     : Nat
  regs  : List W32
  slab  : Option (W64 × W64)
  scale : Option ScaleRec
  deriving DecidableEq, Repr

/-- Elements along K (10 R209). -/
def Opd.k (o : Opd) : Nat :=
  match o.slab with
  | some sl => 128 * slabKblk sl.2
  | none => regK o.t

/-- The 16 registers of a register operand as 128 rows of 8 words; absent lanes read 0 (10 R209). -/
def opdRegs (d : Drove) (v : Nat) : List W32 :=
  (List.range 128).flatMap fun i => (List.range 8).map fun w =>
    if d.pres.getLsbD (i % 64) then vlane d (v + 8 * (i / 64) + w) (i % 64) else 0

/-- The bits of element `k` of row `i` (10 R209), read from paddock memory `m` based at `b`. -/
def Opd.raw (o : Opd) (m : Memory) (b i k : Nat) : Nat :=
  let n := opdBytes o.t
  match o.slab with
  | some sl => memRead m (b + slabWord sl (k / 128) i (k % 128 * n / 4)) 4 / 2 ^ (8 * (k * n % 4)) % 2 ^ (8 * n)
  | none => (o.regs.getD (8 * i + k * n / 4) 0).toNat / 2 ^ (8 * (k * n % 4)) % 2 ^ (8 * n)

/-- Element format number of a BX type (02 R50). -/
def bxOf (t : Nat) : Nat := t - 9

/-- The scale-stream entry of block `q` of row `i` (10 R216). -/
def ScaleRec.entry (r : ScaleRec) (m : Memory) (b i q : Nat) : Nat := memRead m (b + r.base.toNat + 8 * (i * r.nblk + q)) 8

/-- The value of element `k` of row `i` of a floating-point or BX operand (10 R214, R219); `none` is an escape with no
correction. -/
def Opd.value (o : Opd) (m : Memory) (b i k : Nat) : Option FV :=
  let x := o.raw m b i k
  if isF o.t then some ((fmtOf o.t).read false x)
  else
    match o.scale with
    | none => none
    | some r =>
      match r.corr.find? fun c => bits c.toNat 19 13 == i && bits c.toNat 12 0 == k with
      | some c => some (f32.read false (bits c.toNat 63 32))
      | none =>
        let e := r.entry m b i (k / 32)
        let c := x % 2 ^ bxBits (bxOf o.t)
        if bits e 7 0 = 0xFF ∨ bits e 15 8 = 0xFF then some (.nan false 0)
        else if c = bxEscape (bxOf o.t) then none
        else
          let (mag, ex) := bxMag (bxOf o.t) c (if bitAt e (32 + k % 32) then bits e 15 8 else bits e 7 0)
          some (.fin (bitAt c (bxBits (bxOf o.t) - 1)) mag ex)

/-- The value, an uncorrected escape being a NaN (10 R219). -/
def Opd.fp (o : Opd) (m : Memory) (b i k : Nat) : FV := (o.value m b i k).getD (.nan false 0)

/-- Escapes without a correction in the operand, each counted once (10 R219). -/
def Opd.escapes (o : Opd) (m : Memory) (b : Nat) : Nat :=
  if !isBX o.t then 0
  else total ((List.range 128).map fun i => countLanes o.k fun k => (o.value m b i k).isNone)

/-- An exact product or sum inside the engine: a number with the sign of its zero, or a special (10 R214). -/
inductive XV where
  | num (x : Dy) (zneg : Bool)
  | inf (neg : Bool)
  | nan
  deriving DecidableEq, Repr

/-- The value as the engine holds it. -/
def FV.xv : FV → XV
  | .fin neg m e => .num (FV.fin neg m e).dy neg
  | .inf neg => .inf neg
  | .nan _ _ => .nan

/-- The sign. -/
def XV.neg : XV → Bool
  | .num x z => if x.m = 0 then z else decide (x.m < 0)
  | .inf n => n
  | .nan => false

/-- The exact product. -/
def XV.mul (a b : XV) : XV :=
  match a, b with
  | .nan, _ => .nan
  | _, .nan => .nan
  | .num x _, .num y _ => .num (x.mul y) (a.neg != b.neg)
  | .num x _, .inf _ => if x.m = 0 then .nan else .inf (a.neg != b.neg)
  | .inf _, .num y _ => if y.m = 0 then .nan else .inf (a.neg != b.neg)
  | .inf _, .inf _ => .inf (a.neg != b.neg)

/-- The exact sum; an exact zero is −0 only when both addends are. -/
def XV.add (a b : XV) : XV :=
  match a, b with
  | .nan, _ => .nan
  | _, .nan => .nan
  | .inf m, .inf n => if m == n then .inf m else .nan
  | .inf m, _ => .inf m
  | _, .inf n => .inf n
  | .num x p, .num y q => .num (x.add y) ((x.m == 0 && p) && (y.m == 0 && q))

/-- RNE rounding to f32, NaNs canonical (10 R214). -/
def XV.round : XV → W32
  | .num x z => BitVec.ofNat 32 (f32.round 0 false z x).1
  | .inf n => BitVec.ofNat 32 (f32.infinity n)
  | .nan => 0x7FC00000

/-- The K-step's exact tree sum `t`, with +0 for the padding (02 R62, 10 R210). A sum of exact values has one value in any
order. -/
def stepSum (a b : Nat → XV) (k n st : Nat) : XV :=
  let ps := (List.range n).map fun i => if st + i < k then (a (st + i)).mul (b (st + i)) else .num .zero false
  match ps with
  | [] => .num .zero false
  | p :: ps => ps.foldl XV.add p

/-- One K-step of a floating-point pass: main and residual (02 R62, R63, 10 R214). -/
def fpStep (acc res : W32) (t : XV) : W32 × W32 :=
  let x := (f32.read false acc.toNat).xv.add t
  let a := x.round
  match f32.read false a.toNat, x with
  | .fin n m e, .num y _ =>
    let err := y.sub (FV.fin n m e).dy
    (a, ((f32.read false res.toNat).xv.add (.num err false)).round)
  | _, _ => (a, 0)

/-- The integer value of an element of an integer or binary pass, and its product with another (10 R215). -/
def intProduct (t x y tb : Nat) : Int :=
  match t with
  | 13 => countLanes 32 fun i => bitAt x i != bitAt y i
  | 14 => countLanes 32 fun i => bitAt x i && bitAt y i
  | _ => intVal t x * intVal tb y

/-- Starts of the K-steps (02 R62). -/
def kSteps (k n : Nat) : List Nat := (List.range ((k + n - 1) / n)).map (· * n)

/-- Main and residual of element (i, j) after a pass over K-steps of `n` (10 R214, R215). -/
def passElem (a b : Opd) (m : Memory) (base n : Nat) (acc res : W32) (i j : Nat) : W32 × W32 :=
  if isF a.t || isBX a.t then
    (kSteps a.k n).foldl (fun (acc, res) st =>
      fpStep acc res (stepSum (fun k => (a.fp m base i k).xv) (fun k => (b.fp m base j k).xv) a.k n st)) (acc, res)
  else
    let t : Int := (List.range a.k).foldl (fun t k => t + intProduct a.t (a.raw m base i k) (b.raw m base j k) b.t) 0
    (acc + BitVec.ofInt 32 t, res)

/-- The operand types of a pass word (03 R80). -/
def passTypes (w : BitVec 32) (et st : Nat) : Nat × Nat := (if w.getLsbD 3 then st else et, et)

/-- The operands of a pass. -/
def Pass.opdA (p : Pass) : Opd := { t := (passTypes p.word p.et p.st).1, regs := p.regsA, slab := p.slabA, scale := p.scaleA }
def Pass.opdB (p : Pass) : Opd := { t := (passTypes p.word p.et p.st).2, regs := p.regsB, slab := p.slabB, scale := p.scaleB }

/-- The destination tile of a pass, and whether it writes a pair. -/
def Pass.td (p : Pass) : Nat := (p.word.extractLsb' 20 4).toNat
def Pass.pair (p : Pass) : Bool := p.word.extractLsb' 24 8 == 0xD9

/-- Reservations of a paddock that wait, and passes that run on it. -/
def waitingPasses (s : State) (pad : Nat) : List Pass := s.eng.passes.filter fun p => p.pad == pad && !p.granted && p.posted
def runningPasses (s : State) (pad : Nat) : List Pass := s.eng.passes.filter fun p => p.pad == pad && p.granted

/-- A flock of a deterministic range is resident on the paddock. -/
def detOnPad (s : State) (pad : Nat) : Bool :=
  (liveFlocks s).any fun f => padOf f.core == pad && ((rangeOf s f.range).map (·.det)) == some true

/-- The reservation table has no room, or is closed for a change of mode (16 R356, R357). -/
def tableFull (s : State) (pad : Nat) : Bool :=
  decide (16 ≤ (waitingPasses s pad).length) || (s.eng.mxpend.getLsbD pad && !detOnPad s pad)

/-- No pass is in the reservation table or runs (16 R356). -/
def tableEmpty (s : State) (pad : Nat) : Bool := !s.eng.passes.any fun p => p.pad == pad && p.posted

/-- The restored pass of a paddock that comes next into the table (10 R226). -/
def nextPosted (s : State) (pad : Nat) : Option Pass := s.eng.passes.find? fun p => p.pad == pad && !p.posted

/-- Restored pass `k` takes its place in the table, in its turn and if there is room (10 R226, 16 R356, R357). -/
def postPass (s : State) (pad k : Nat) : State :=
  match nextPosted s pad with
  | some p =>
    if p.id ≠ k ∨ tableFull s pad then s
    else { s with eng := { s.eng with passes := mapIf (fun q => q.id == p.id) (fun q => { q with posted := true, since := s.cycle }) s.eng.passes } }
  | none => s

/-- The head record that a BX operand takes (10 R218). -/
def headRecord (t : Nat) (fifo : List ScaleRec) : Option ScaleRec := if isBX t then fifo.head? else none

/-- The record fits the pass (10 R218). -/
def recordOk (t k : Nat) (r : Option ScaleRec) : Bool :=
  !isBX t || (match r with
    | some r => r.nblk == k / 32 && r.corr.all fun c => decide (bits c.toNat 12 0 < k)
    | none => false)

/-- Earlier scratchpad stores and aperture atomics of the drove that have not been performed (10 R211, 12 R274). -/
def spadOut (s : State) : Bool :=
  s.reqs.any fun q => q.drove == s.dr.uid && (match q.kind with
    | .stsp => true
    | .tst _ _ => q.accs.any (spadAcc q.kind)
    | .atom _ _ => q.accs.any fun a => inAperture a.va && a.st != .done
    | .red _ => q.accs.any fun a => inAperture a.va && a.st != .done
    | .satom _ => q.accs.any fun a => inAperture a.va && a.st != .done
    | _ => false)

/-- The slab descriptor in a scalar pair. -/
def slabOf (d : Drove) (n : Nat) : W64 × W64 := (sreg d n, sreg d (n + 1))

/-- An operand as it stands at issue, without its scale record. -/
def opdAt (d : Drove) (t : Nat) (k : Bool) (x : Nat) : Opd :=
  { t := t, regs := if k then [] else opdRegs d x, slab := if k then some (slabOf d x) else none, scale := none }

/-- The checks of a pass at issue (10 R211): descriptors, equal K, the slab grant, the scale records. The place of cause 0x14
between the causes 0x02 and 0x0C is the model's choice (DESIGN CHOICE, assumption log 29). -/
def passVerdict (s : State) (a b : Opd) : Verdict :=
  let each (f : Opd → W64 × W64 → Bool) : Bool := [a, b].any fun o => match o.slab with
    | some sl => f o sl
    | none => false
  firstOf [stopIf (a.slab.isSome != b.slab.isSome || each fun o sl => !slabOk sl.2 o.t) 0x02,
    stopIf (a.k != b.k) 0x02,
    stopIf (each fun _ sl => sl.1.toNat % 4 != 0) 0x14,
    stopIf (each fun o sl => !slabIn s.dr sl o.t) 0x0C,
    stopIf (!recordOk a.t a.k (headRecord a.t s.fl.fifoA) || !recordOk b.t b.k (headRecord b.t s.fl.fifoB)) 0x20]

/-- Register fields of an operand. -/
def opdUse (k : Bool) (x : Nat) : Use := if k then { cls := .scl, base := x, n := 2, align := 2 } else srcV x false 16 16

/-- A pass instruction of opcode `op` (10 R211, R213): the reservation copies what the drove may change afterwards. -/
def passOp (op : Nat) (types : Nat → Nat → Bool) (td : BitVec 4) (ka : Bool) (a : BitVec 7) (kb : Bool) (b : BitVec 7)
    (eta : Bool) (s : State) : Out :=
  let et := modeET s.dr.mode
  let ta := if eta then modeST s.dr.mode else et
  let n := if op = 0xD9 then 2 else 1
  let all := [opdUse ka a.toNat, opdUse kb b.toNat, useT td.toNat true n n]
  let late := all.filter fun u => u.cls != .scl
  let c : Chk := { uses := all.filter fun u => u.cls == .scl, noShep := true, typ := types ta et, conv := true,
                   bad := (!ka || !kb) && s.dr.width != 64 }
  let pad := padOf s.dr.core
  .next <| issueIf (withLate c s.dr late) (fun s =>
    firstOf [passVerdict s (opdAt s.dr ta ka a.toNat) (opdAt s.dr et kb b.toNat), verdict { uses := late } s,
      waitIf (spadOut s) .returns, waitIf (tableFull s pad) .table]) s fun s =>
      let d := s.dr
      let oa := opdAt d ta ka a.toNat
      let ob := opdAt d et kb b.toNat
      let word : BitVec 32 := BitVec.ofNat 32 (op * 2 ^ 24 + td.toNat * 2 ^ 20 + b2n eta * 8)
      let (id, s) := newId s
      let p : Pass := { id := id, flock := d.flock, pad := pad, word := word, et := et, st := modeST d.mode, regsA := oa.regs,
                        regsB := ob.regs, slabA := oa.slab, slabB := ob.slab, scaleA := headRecord ta s.fl.fifoA,
                        scaleB := headRecord et s.fl.fifoB, prio := s.fl.prio, since := s.cycle, aged := 0, posted := true, granted := false,
                        quad := false, seen := [] }
      let s := onFl { s with eng := { s.eng with passes := s.eng.passes ++ [p] } } fun f =>
        let f := { f with fifoA := if isBX ta then f.fifoA.tail else f.fifoA, fifoB := if isBX et then f.fifoB.tail else f.fifoB }
        let f := markT f td.toNat false
        if n = 2 then markT f (td.toNat + 1) false else f
      retire (unpop s late)

/-- The type sets of the pass instructions (10 R213). -/
def isFX (t : Nat) : Bool := isF t || isBX t
def isI8 (t : Nat) : Bool := t == 7 || t == 8

def execMma (td : BitVec 4) (ka : Bool) (a : BitVec 7) (kb : Bool) (b : BitVec 7) (eta : Bool) (s : State) : Out :=
  passOp 0xD8 (fun x y => (isFX x && isFX y) || (isI8 x && isI8 y)) td ka a kb b eta s
def execMmar (td : BitVec 4) (ka : Bool) (a : BitVec 7) (kb : Bool) (b : BitVec 7) (eta : Bool) (s : State) : Out :=
  passOp 0xD9 (fun x y => isFX x && isFX y) td ka a kb b eta s
def execMmab (td : BitVec 4) (ka : Bool) (a : BitVec 7) (kb : Bool) (b : BitVec 7) (eta : Bool) (s : State) : Out :=
  passOp 0xDA (fun x y => x == y && (x == 13 || x == 14)) td ka a kb b eta s

/-- The arbiter's order of two reservations (16 R357): is `p` to be granted before `q`? -/
def grantBefore (now : Nat) (p q : Pass) : Bool :=
  let old (n : Nat) (x : Pass) : Bool := decide (n ≤ now - x.since)
  let first (x y : Pass) : Bool := decide (x.since < y.since) || (x.since == y.since && decide (x.id < y.id))
  if old 4096 p || old 4096 q then if old 4096 p && old 4096 q then first p q else old 4096 p
  else if p.prio != q.prio then decide (q.prio < p.prio)
  else first p q

/-- The arbiter grants a reservation when the engine, or a quadrant of it, is free (16 R357); a restored pass first becomes a
reservation (10 R226). -/
def execMatrixGrant (pad k : Nat) (s : State) : Out :=
  .next <|
    let quad := s.eng.mxmode.getLsbD pad
    let ws := waitingPasses s pad
    match ws.find? fun p => p.id == k with
    | none => postPass s pad k
    | some p =>
      if (if quad then 4 else 1) ≤ (runningPasses s pad).length ∨ ws.any (fun q => q.id != k && grantBefore s.cycle q p) then s
      else
        { s with eng := { s.eng with passes := mapIf (fun q => q.id == k) (fun q => { q with granted := true, quad := quad }) s.eng.passes } }

/-- Priority of the highest or the lowest class: a greater number goes first (16 R354). A reservation that has waited 1,024
or 4,096 cycles is marked so (16 R357). -/
def execReservationAging (pad k : Nat) (s : State) : Out :=
  .next <|
    let lvl (p : Pass) : Nat := if 4096 ≤ s.cycle - p.since then 2 else if 1024 ≤ s.cycle - p.since then 1 else 0
    let ps := mapIf (fun p => p.pad == pad && p.id == k && !p.granted) (fun p => { p with aged := max p.aged (lvl p) }) s.eng.passes
    { s with eng := { s.eng with passes := ps } }

/-- The scratchpad words stored to since the pass issued, each with the values that the pass may read in it, the present one
first (10 R212). -/
def Pass.open (p : Pass) (m : Memory) : List (Nat × List W32) :=
  (p.seen.map (·.1)).eraseDups.map fun a =>
    (a, BitVec.ofNat 32 (memRead m a 4) :: (p.seen.filter fun x => x.1 == a).map (·.2))

/-- The scratchpad as element `e` of the pass read it: each open word has one of its values, by a free choice (10 R212;
assumption log 2). -/
def passView (ws : List (Nat × List W32)) (free : Nat) (m : Memory) (e : Nat) : Memory :=
  ws.zipIdx.foldl (fun m ((a, vs), c) =>
    memWrite m a 4 (vs.getD (Config.free (free + 16384 * c + e) % vs.length) 0).toNat) m

/-- What a pass makes of its flock's tiles (10 R208, R214, R215); `m` is the scratchpad as each element read it. -/
def passTiles (p : Pass) (m : Nat → Memory) (f : Flock) : Flock :=
  let n := if p.quad then 4 else 16
  let elem (k : Nat) : W32 × W32 :=
    passElem p.opdA p.opdB (m k) (spadBase p.pad) n (tileAt f p.td (k / 128) (k % 128))
      (if p.pair then tileAt f (p.td + 1) (k / 128) (k % 128) else 0) (k / 128) (k % 128)
  let g := markT (tileFill f p.td fun k => (elem k).1) p.td true
  if p.pair then markT (tileFill g (p.td + 1) fun k => (elem k).2) (p.td + 1) true else g

/-- A pass completes (10 R211): every element is written, and the destination becomes full. -/
def execPassComplete (pad k : Nat) (s : State) : Out :=
  .next <|
    match (runningPasses s pad).find? fun p => p.id == k with
    | none => s
    | some p =>
      let ws := p.open s.mem.spad
      let m := passView ws s.fresh s.mem.spad
      let s := { s with fresh := s.fresh + 16384 * ws.length }
      let n := p.opdA.escapes (m 0) (spadBase pad) + p.opdB.escapes (m 0) (spadBase pad)
      let s := (List.range n).foldl (fun s _ => countLane16 s 0x8D (pad / 4)) s
      let s := onFlock s p.flock (passTiles p m)
      let s := { s with eng := { s.eng with passes := s.eng.passes.filter fun q => q.id != k } }
      finishFlock s p.flock

/-- A paddock whose mode bit changes applies it once it is free (16 R356). -/
def execMxmodeApply (pad : Nat) (s : State) : Out :=
  .next <|
    if !s.eng.mxpend.getLsbD pad || detOnPad s pad || !tableEmpty s pad then s
    else
      let m : BitVec 16 := 1#16 <<< pad
      { s with eng := { s.eng with mxmode := (s.eng.mxmode &&& ~~~m) ||| (s.eng.mxreq &&& m), mxpend := s.eng.mxpend &&& ~~~m } }

/-- Destination tiles that the operation waits for: an orphaned one is replaced without a wait (01 R29, 10 R220). -/
def destTiles (s : State) (td n : Nat) : List Use :=
  (List.range n).filterMap fun i => if s.fl.torphan.getLsbD (td + i) then none else some (useT (td + i) true)

/-- The checks of a tile operation with sources `us` and `n` destination tiles from `td`. -/
def tileChk (s : State) (us : List Use) (td n : Nat) (typ : Bool) : Chk :=
  { uses := us ++ destTiles s td n, noShep := true, conv := true, typ := typ,
    bad := decide (s.dr.ntiles < td + n), odd := td % n != 0 }

/-- Starts a tile operation (10 R220): its source is read, its destinations become empty. -/
def startTile (s : State) (op td ta sub n : Nat) : State :=
  let (id, s) := newId s
  let x : TileOp := { id := id, flock := s.dr.flock, op := op, td := td, ta := ta, sub := sub, mode := s.dr.mode,
                      data := if op = 0 ∨ op = 4 then [] else tileCopy s.fl ta }
  let s := { s with eng := { s.eng with tileOps := s.eng.tileOps ++ [x] } }
  onFl s fun f => (List.range n).foldl (fun f i => markT f (td + i) false) f

def execTzero (t : BitVec 4) (s : State) : Out :=
  .next <| issue (tileChk s [] t.toNat 1 true) s fun s => retire (startTile s 0 t.toNat 0 0 1)

def execTmov (t u : BitVec 4) (p : BitVec 7) (s : State) : Out :=
  .next <| issue (tileChk s [useT u.toNat] t.toNat 1 true) s fun s => retire (startTile s 1 t.toNat u.toNat p.toNat 1)

/-- ST and ET of `tcvt` (10 R221). -/
def tcvtType (t : Nat) : Bool := t == 0 || t == 3

def execTcvt (t u : BitVec 4) (s : State) : Out :=
  .next <| issue (tileChk s [useT u.toNat] t.toNat 1 (tcvtType (modeST s.dr.mode) && tcvtType (modeET s.dr.mode))) s fun s =>
    retire (startTile s 2 t.toNat u.toNat 0 1)

def execTfold (t u : BitVec 4) (p : BitVec 7) (s : State) : Out :=
  let n := if p = 0 then 2 else 1
  .next <| issue (tileChk s [useT u.toNat false 2 2] t.toNat n (modeET s.dr.mode == 0)) s fun s =>
    retire (startTile s 3 t.toNat u.toNat p.toNat n)

/-- A word of a `tcvt` (10 R224). -/
def tcvtWord (mode : BitVec 32) (x : W32) : W32 :=
  match modeST mode, modeET mode with
  | 3, 0 => BitVec.ofNat 32 (f32.round (modeRM mode) false false ⟨x.toInt, 0⟩).1
  | 0, 3 => BitVec.ofInt 32 (fpToInt (modeRM mode) (-(2 ^ 31)) (2 ^ 31 - 1) (f32.read false x.toNat)).1
  | _, _ => x

/-- Words 0 and 1 of a `tfold` (10 R225). -/
def foldWords (x y : W32) : W32 × W32 :=
  let a := f32.read false x.toNat
  let b := f32.read false y.toNat
  let c : Fenv := { f := f32, rm := 0, ftz := false, cnan := true }
  if a.isFin && b.isFin then
    let z := a.neg && b.neg
    let ws := (greedy c 2 z (a.dy.add b.dy)).1
    (BitVec.ofNat 32 (ws.getD 0 0), BitVec.ofNat 32 (ws.getD 1 0))
  else (BitVec.ofNat 32 (fpAdd c a b).1, 0)

/-- The flock after a tile operation (10 R221, R223-R225). -/
def tileApply (x : TileOp) (f : Flock) : Flock :=
  let src (t k : Nat) : W32 := mapGet 0 x.data (16384 * t + k)
  let done (f : Flock) (t : Nat) : Flock := { markT f t true with torphan := f.torphan &&& ~~~(1#16 <<< t) }
  match x.op with
  | 0 => done (tileFill f x.td fun _ => 0) x.td
  | 1 =>
    done (tileFill f x.td fun k =>
      let i := k / 128
      let j := k % 128
      match x.sub with
      | 0 => src 0 k
      | 1 => src 0 (128 * j + i)
      | 2 => src 0 (128 * i + (j + 64) % 128)
      | _ => src 0 (128 * ((i + 64) % 128) + j)) x.td
  | 2 => done (tileFill f x.td fun k => tcvtWord x.mode (src 0 k)) x.td
  | 3 =>
    let g := done (tileFill f x.td fun k => (foldWords (src 0 k) (src 1 k)).1) x.td
    if x.sub = 0 then done (tileFill g (x.td + 1) fun k => (foldWords (src 0 k) (src 1 k)).2) (x.td + 1) else g
  | _ => markT f x.td true

/-- The words of a tile that the rows of a `tld` have brought (10 R221). -/
def tldWord (q : Req) (k : Nat) : W32 :=
  match q.accs.find? fun a => a.lane == k / 128 && decide (a.y ≤ 4 * (k % 128)) && decide (4 * (k % 128) < a.y + a.size) with
  | some a => BitVec.ofNat 32 (a.r / 2 ^ (8 * (4 * (k % 128) - a.y)))
  | none => 0

/-- A tile operation completes (10 R220), or every row of a `tld` has arrived. -/
def execTileOpComplete (k : Nat) (s : State) : Out :=
  .next <|
    match s.eng.tileOps.find? fun x => x.id == k with
    | some x =>
      let s := onFlock s x.flock (tileApply x)
      finishFlock { s with eng := { s.eng with tileOps := s.eng.tileOps.filter fun y => y.id != k } } x.flock
    | none =>
      match reqOf s k with
      | some q =>
        match q.kind with
        | .tld t _ =>
          if !allDone q then s
          else
            let s := onFlock (finishReq s k) q.flock fun f =>
              { markT (tileFill f t (tldWord q)) t true with
                torphan := f.torphan &&& ~~~(1#16 <<< t), tileOwner := f.tileOwner.filter fun o => o.2 != k }
            finishFlock s q.flock
        | _ => s
      | none => s

/-- A row of 512 bytes cut at granules: addresses, sizes and offsets in the row. Each piece is performed as one access
(assumption log 9). -/
def rowPieces (a : Nat) : List (Nat × Nat × Nat) :=
  let first := 128 - a % 128
  let cuts := [(a, min first 512, 0)] ++ (List.range 3).map (fun i => (a + first + 128 * i, 128, first + 128 * i)) ++
    [(a + first + 384, 512 - first - 384, first + 384)]
  cuts.filter fun c => decide (0 < c.2.1) && decide (c.2.2 + c.2.1 ≤ 512)

/-- The row descriptor of `tld` and `tst` (10 R221). -/
def rowSpace (w : W64) : Bool := w.getLsbD 34
def rowPol (w : W64) : Policy := [Policy.o, .w, .s, .i].getD (bits w.toNat 33 32) .o
def rowPitch (w : W64) : Nat := bits w.toNat 31 0

/-- The pieces of the 128 rows. -/
def rowAccs (d : Drove) (n : Nat) : List (Nat × Nat × Nat × Nat) :=
  (List.range 128).flatMap fun i =>
    (rowPieces ((sreg d n).toNat + i * rowPitch (sreg d (n + 1)))).map fun (a, m, o) => (i, a % 2 ^ 64, m, o)

/-- Bytes that lie in the grant. -/
def inGrant (d : Drove) (a n : Nat) : Bool := decide (d.spb.toNat ≤ a) && decide (a + n ≤ d.spl.toNat)

/-- The first of `n` bytes at `a` outside the grant. -/
def firstOut (d : Drove) (a : Nat) : Nat := if a < d.spb.toNat then a else max a d.spl.toNat

/-- The checks of a row descriptor (10 R221). -/
def rowVerdict (n : Nat) (s : State) : Verdict :=
  let w := sreg s.dr (n + 1)
  let rows := if bits w.toNat 63 35 ≠ 0 then [] else rowAccs s.dr n
  firstOf [stopIf (bits w.toNat 63 35 != 0 || rowPitch w % 4 != 0 || decide (rowPitch w < 512)) 0x02,
    stopIf ((sreg s.dr n).toNat % 4 != 0) 0x14 0 (sreg s.dr n).toNat,
    if rowSpace w then
      match rows.find? fun x => !inGrant s.dr x.2.1 x.2.2.1 with
      | some x => .stop 0x0C 0 (firstOut s.dr x.2.1)
      | none => .go
    else
      match rows.find? fun x => (plainFault x.2.1 1).isSome with
      | some x => .stop 0x14 0 x.2.1
      | none => .go]

/-- The accesses of a `tld` or `tst`, with what each stores. -/
def tileAccs (s : State) (n : Nat) (data : Nat → Nat → Nat → Nat) : List Acc :=
  let sp := rowSpace (sreg s.dr (n + 1))
  (rowAccs s.dr n).map fun (i, a, m, o) =>
    { Acc.fresh s i a m (data i o m) false with y := o, attr := if sp then 1 else 0, dom := if sp then 0 else domainOf s a }

def execTld (t : BitVec 4) (n : BitVec 6) (s : State) : Out :=
  let pair : Use := { cls := .scl, base := n.toNat, n := 2, align := 2 }
  .next <| issueIf (tileChk s [pair] t.toNat 1 true) (fun s => firstOf [memWait s, rowVerdict n.toNat s]) s fun s =>
    let p := rowPol (sreg s.dr (n.toNat + 1))
    let q := { Req.fresh s (.tld t.toNat p) 4 (tileAccs s n.toNat fun _ _ _ => 0) with dst := t.toNat }
    let s := post s q
    retire (onFl s fun f => { markT f t.toNat false with tileOwner := f.tileOwner ++ [(t.toNat, q.id)] })

/-- Bytes `o` to `o + n - 1` of a row of a tile, as a number. -/
def rowBytes (f : Flock) (t i o n : Nat) : Nat :=
  total ((List.range (n / 4)).map fun w => (tileAt f t i (o / 4 + w)).toNat * 2 ^ (32 * w))

def execTst (t : BitVec 4) (n : BitVec 6) (s : State) : Out :=
  let pair : Use := { cls := .scl, base := n.toNat, n := 2, align := 2 }
  let sync (s : State) : Bool :=
    !rowSpace (sreg s.dr (n.toNat + 1)) && (rowAccs s.dr n.toNat).any fun x => syncStore s (rowPol (sreg s.dr (n.toNat + 1))) x.2.1
  .next <| issueIf { uses := [pair, useT t.toNat], noShep := true, conv := true }
    (fun s => firstOf [memWait s, rowVerdict n.toNat s, entryWait s, turnWait s (s.dr.det && sync s)]) s fun s =>
      let p := rowPol (sreg s.dr (n.toNat + 1))
      let q := { Req.fresh s (.tst t.toNat p) 4 (tileAccs s n.toNat fun i o m => rowBytes s.fl t.toNat i o m) with dst := t.toNat }
      let det := s.dr.det && sync s
      postStore (startTile s 4 t.toNat 0 0 1) { q with id := s.uid + 1 } det

/-- The slice of a tile that `trd` and `twr` reach: element `j` (03 R82). -/
def slicePlace (d : Drove) (rc : Bool) (r i j : Nat) : Nat × Nat :=
  let x := ((sreg d r).toNat + i) % 128
  if rc then (j, x) else (x, j)

def execTrd (t : BitVec 4) (rc : Bool) (r i : BitVec 6) (v : BitVec 7) (s : State) : Out :=
  .next <| issue { uses := [srcS r.toNat, useT t.toNat, dstV v.toNat], noShep := true, conv := true } s fun s =>
    retire (onDr s fun d => setVm d v.toNat d.pres fun j =>
      let (x, y) := slicePlace d rc r.toNat i.toNat j
      tileAt s.fl t.toNat x y)

def execTwr (t : BitVec 4) (rc : Bool) (r i : BitVec 6) (v : BitVec 7) (s : State) : Out :=
  .next <| issue { uses := [srcS r.toNat, useT t.toNat true, srcV v.toNat], noShep := true, conv := true } s fun s =>
    let d := s.dr
    let f := (List.range 64).foldl (fun f j =>
      if d.pres.getLsbD j then
        let (x, y) := slicePlace d rc r.toNat i.toNat j
        tilePut f t.toNat x y (vlane d v.toNat j)
      else f) s.fl
    retire (onFl s fun _ => f)

/-- The correction list of a `tscl` (10 R216, R217). -/
def corrList (s : State) (base n : Nat) : List W64 :=
  (List.range n).map fun i => BitVec.ofNat 64 (memRead s.mem.spad (spadBase (padOf s.dr.core) + base + 8 * i) 8)

/-- Entries strictly increasing in (row, k), reserved bits 0 (10 R217). -/
def corrOk : List W64 → Bool
  | [] => true
  | [x] => bits x.toNat 31 20 == 0
  | x :: y :: xs => bits x.toNat 31 20 == 0 && decide (bits x.toNat 19 0 < bits y.toNat 19 0) && corrOk (y :: xs)

/-- `tscl` (10 R217). Its list is read after the drove's earlier scratchpad stores, whose bytes it may hold (12 R264). -/
def execTscl (side : Bool) (n m : BitVec 6) (s : State) : Out :=
  let pair (x : BitVec 6) : Use := { cls := .scl, base := x.toNat, n := 2, align := 2 }
  .next <| issueIf { uses := [pair n, pair m], noShep := true, conv := true } (fun s =>
    let base := (sreg s.dr n.toNat).toNat
    let nb := sreg s.dr (n.toNat + 1)
    let list := (sreg s.dr m.toNat).toNat
    let cnt := sreg s.dr (m.toNat + 1)
    firstOf [stopIf (bits nb.toNat 63 9 != 0 || nb.toNat == 0 || decide (256 < nb.toNat) || bits cnt.toNat 63 16 != 0) 0x02,
      stopIf (base % 8 != 0 || list % 8 != 0) 0x14,
      stopIf (!inGrant s.dr base (1024 * nb.toNat) || (cnt.toNat != 0 && !inGrant s.dr list (8 * cnt.toNat))) 0x0C,
      stopIf (decide (64 < cnt.toNat)) 0x21,
      waitIf (cnt.toNat != 0 && spadOut s) .returns,
      stopIf (!corrOk (corrList s list cnt.toNat)) 0x20,
      waitIf (decide (4 ≤ (if side then s.fl.fifoB else s.fl.fifoA).length)) .table]) s fun s =>
      let r : ScaleRec := { base := sreg s.dr n.toNat, nblk := (sreg s.dr (n.toNat + 1)).toNat,
                            corr := corrList s (sreg s.dr m.toNat).toNat (sreg s.dr (m.toNat + 1)).toNat }
      retire (onFl s fun f => if side then { f with fifoB := f.fifoB ++ [r] } else { f with fifoA := f.fifoA ++ [r] })

end Sys2Proof.Machine
end

