-- ==== Sys2Proof/Machine/Fetch.lean ====
section
/-! DEFINITION. Instruction fetch, substitution into microprogram steps, and breakpoints (03 R69, R71, 11 R257-R259,
19 R410). -/

namespace Sys2Proof.Machine

/-- What a fetch finds: a word, a precise cause, or a park cause at the target (03 R69). -/
inductive Fetched where
  | word (w : BitVec 32)
  | stop (cause : BitVec 8)
  | park (cause : BitVec 8)
  deriving DecidableEq, Repr

/-- The line of the instruction cache that holds a VA (13 R296). -/
def iLine (s : State) (va : Nat) : Option ILine :=
  (coreOf s s.dr.core).icache.find? fun x => x.ctx == s.dr.ctx && x.va == granOf va

/-- The word of a line at a VA. -/
def iWord (x : ILine) (va : Nat) : BitVec 32 := x.data.extractLsb' (8 * (va % 128)) 32

/-- The line with the tag of `x` leaves the instruction cache. -/
def dropI (s : State) (x : ILine) : State :=
  onCore s s.dr.core fun c => { c with icache := c.icache.filter fun y => !(y.ctx == x.ctx && y.va == x.va) }

/-- A line enters the instruction cache, which holds 64 KiB (13 R296): of 512 lines one leaves, by a free choice. -/
def fillI (s : State) (x : ILine) : State :=
  let s := dropI s x
  let n := (coreOf s s.dr.core).icache.length
  let (k, s) := if n < 512 then (n, s) else
    let (k, s) := draw s
    (k % n, s)
  onCore s s.dr.core fun c => { c with icache := x :: c.icache.eraseIdx k }

/-- The line of a VA under a leaf of its own, through the pasture (14 R303). -/
def loadI (s : State) (va : Nat) (l : Leaf) : ILine × State :=
  let s := pastureAccess s l.attr s.dr.ctx va l.dpa (dieOfCore s.dr.core) false
  let x : ILine := { ctx := s.dr.ctx, va := granOf va, data := gOf (homeBytes s (granOf l.dpa) 128) }
  (x, fillI s x)

/-- Lines that the instruction cache takes ahead of their use, by a free choice, any that can be fetched: a word that is
rewritten later may still be executed as it was (03 R71, assumption log 2). -/
def prefetchI : Nat → State → State
  | 0, s => s
  | n + 1, s =>
    let (k, s) := draw s
    let va := k / 2 % 2 ^ 62
    if k % 2 = 0 then s
    else if inAperture va then prefetchI n s
    else
      match dieAccess s s.dr.ctx va .fetch true with
      | (.inr _, _) => prefetchI n s
      | (.inl l, s) => prefetchI n (loadI s va l).2

/-- Fetches through the owning die and fills the instruction cache. -/
def fetchMiss (s : State) (va : Nat) : Fetched × State :=
  match dieAccess s s.dr.ctx va .fetch true with
  | (.inr cause, s) => (.park cause, s)
  | (.inl l, s) =>
    let (x, s) := loadI s va l
    (.word (iWord x va), prefetchI 512 s)

/-- A line of the instruction cache may have been lost, so that its words are fetched anew (03 R71): a free choice. -/
def refetch (s : State) (x : ILine) (va : Nat) : Fetched × State :=
  let (k, s) := draw s
  if k % 2 = 0 then (.word (iWord x va), s) else fetchMiss (dropI s x) va

/-- The word at `va` (03 R69). A word that the instruction cache still holds is used, and where memory has another, or no
longer allows the fetch, it is used or fetched anew by a free choice (03 R71, assumption log 2). Route 11 is refused at the
core (13 R278); routes 01 and 10 have no fetch. -/
def fetchAt (s : State) (va : Nat) : Fetched × State :=
  if routeOf va = 3 then (.stop 0x14, s)
  else if routeOf va ≠ 0 then (.park 0x11, s)
  else if inAperture va then (.park 0x10, s)
  else
    match iLine s va with
    | none => fetchMiss s va
    | some x =>
      match dieAccess s s.dr.ctx va .fetch true with
      | (.inr _, _) => refetch s x va
      | (.inl l, _) => if BitVec.ofNat 32 (homeRead s l.dpa 4) = iWord x va then (.word (iWord x va), s) else refetch s x va

/-- One substitution of a step word: source [9:8], low bit [7:3], width minus one [2:0] (11 R258). None where the value
does not fit its field (11 R259). The value is added to the word, so bits of the word that stand under the field, or a
second substitution that overlaps it, carry (DESIGN CHOICE, assumption log 29: 03 R83 has such bits 0). -/
def substOne (m : Micro) (w sub : Nat) : Option Nat :=
  let v := match bits sub 9 8 with
    | 1 => m.pa.toNat
    | 2 => m.pb.toNat
    | 3 => m.k.toNat
    | _ => 0
  if bits sub 9 8 = 0 then some w
  else if v < 2 ^ (bits sub 2 0 + 1) then some (w + v * 2 ^ bits sub 7 3)
  else none

/-- The word of a step entry with its parameters in place (11 R257, R258). -/
def substWord (m : Micro) (e : W64) : Option (BitVec 32) :=
  let x := e.toNat
  (((substOne m (bits x 31 0) (bits x 41 32)).bind fun w => substOne m w (bits x 51 42)).bind
    fun w => substOne m w (bits x 61 52)).map (BitVec.ofNat 32)

/-- The instruction that a word is for the drove at the port. -/
def decodeHere (w : BitVec 32) : Instr := (decode w).getD (.illegalWord w)

/-- The instruction that the drove at the port is about to execute: the next step of its microprogram, or the word at its
PC; a helped word is the one that its `qhelp` fetched (08 R174). A value that does not fit its field makes the step word an
illegal one (11 R259). -/
def nextInstr (s : State) : Instr × State :=
  match s.dr.micro with
  | some m =>
    let e := m.code.getD m.step 0
    match substWord m e with
    | some w => (decodeHere w, s)
    | none => (.illegalWord (e.setWidth 32), s)
  | none =>
    match if s.dr.help then s.dr.helpWord else none with
    | some w => (decodeHere w, s)
    | none =>
      match fetchAt s s.dr.pc.toNat with
      | (.word w, s) => (decodeHere w, s)
      | (.stop cause, s) => (.instructionFetchFault cause, s)
      | (.park cause, s) => (.instructionFetchFault cause, s)

/-- An opcode that only privileged mode may issue (03 R86). -/
def privOpcode (op : Nat) : Bool := op == 0xF9 || op == 0xFB || op == 0xFE

/-- The system-register number field of `sysrd` and `syswr` (11 R227). -/
def sysNum (w : BitVec 32) : Nat := bits w.toNat 17 10

/-- A word that is not an instruction raises its cause precisely (03 R86, R87): an unassigned opcode 0x01, a privileged
opcode in user mode 0x0A, otherwise an illegal field 0x02. -/
def execIllegalWord (w : BitVec 32) (s : State) : Out :=
  let op := bits w.toNat 31 24
  let user := !privileged s
  .next <|
    if !opcodeAssigned op then stopIssue s 0x01 0 0
    else if decide (0xD8 ≤ op ∧ op ≤ 0xE3 ∨ op = 0xF4) && s.dr.shepherd then stopIssue s 0x01 0 0
    else if user && (privOpcode op || ((op == 0xFC || op == 0xFD) && decide (0x80 ≤ sysNum w))) then stopIssue s 0x0A 0 0
    else stopIssue s 0x02 0 0

/-- A fetch that faults parks the drove at the target with an entry of KIND 0 (03 R69, 17 R367); a reserved route is
refused at the core with cause 0x14 (13 R278). -/
def execInstructionFetchFault (cause : BitVec 8) (s : State) : Out :=
  .next <|
    if cause = 0x14 then stopHere s 0x14 0 s.dr.pc.toNat
    else
      let d := unhelp s.dr
      let s := if cause = 0x12 then countRecord s 0x1A12 0 64 else s
      park (onDr s fun _ => d) 0 cause d d.pc s.dr.pc.toNat none true

/-- The breakpoint that stops the drove at the port before its next instruction (19 R410). -/
def breakpoint (s : State) : Option Nat := breakAt s s.dr

/-- The stop of breakpoint `n`: cause 0x08 with INFO 0x1_0000_0000 + n (19 R410). -/
def breakStop (s : State) (n : Nat) : State := stopHere s 0x08 (0x100000000 + n) 0

end Sys2Proof.Machine
end

