-- ==== Sys2Proof/Machine/System.lean ====
section
/-! DEFINITION. Traps, the return from a stop, microprograms, system registers, invalidation of translations, and the
device's own event records (11 R254-R261, R440, R441, 17 R364-R366). -/

namespace Sys2Proof.Machine

/-- Cause 0x09 with the code in INFO; RESUME is PC + 4 (11 R256, 17 R363). -/
def execTrap (c : BitVec 24) (s : State) : Out := .next <| stopAfter s 0x09 c.toNat

/-- The step entries of a control-store slot, up to the first that is all zero (11 R259). -/
def slotEntries (bs : List Byte) : List W64 :=
  ((List.range 32).map fun j => BitVec.ofNat 64 (leNat ((bs.drop (8 * j)).take 8))).takeWhile (· != 0)

/-- A slot of the control-store image at CSIMG (11 R259); one that cannot be read holds nothing. -/
def imageSlot (s : State) (c : BitVec 16) (slot : Nat) : List W64 :=
  match vaBytes s c (csbField s c 0x40 8 + 256 * slot) 256 with
  | .inl bs => slotEntries bs
  | .inr _ => []

/-- The microprogram in a slot, as the drove's core finds it (11 R257, R259); none where the context never wrote it. -/
def slotCode (s : State) (slot : Nat) : List W64 :=
  let k := coreOf s s.dr.core
  if k.cstore = some s.dr.ctx then ((k.slots.find? fun x => x.1 == slot).map (·.2)).getD []
  else if csDirty s s.dr.ctx then imageSlot s s.dr.ctx slot
  else []

/-- `mcall` (11 R257): counts one itself; PC stays, and the steps follow one by one. -/
def execMcall (p a b : BitVec 7) (k : BitVec 3) (s : State) : Out :=
  .next <| issueIf {} (fun s => stopIf (slotCode s p.toNat).isEmpty 0x01) s fun s =>
    let m : Micro := { slot := p, pa := a, pb := b, k := k, step := 0, code := slotCode s p.toNat }
    let s := onDr s fun d => retireDr d d.pc (some m) s.cycle
    onFl s fun f => { f with lastIssue := s.cycle }

/-- What is wrong with step `j` of an image (03 R101, 04 R109, 11 R258, R259). The field of a slot with source 0, which
substitutes nothing, is not judged (assumption log 29). -/
def stepCause (e : Nat) : Option (BitVec 8) :=
  let op := bits e 31 24
  let sb (i : Nat) : Nat := bits e (41 + 10 * i) (32 + 10 * i)
  let beyond (x : Nat) : Bool := bits x 9 8 != 0 && decide (24 < bits x 7 3 + bits x 2 0 + 1)
  if !opcodeAssigned op then some 0x01
  else if decide (0x28 ≤ op ∧ op ≤ 0x2F) || decide (0xF8 ≤ op ∧ op ≤ 0xFE) then some 0x02
  else if bits e 63 62 != 0 || beyond (sb 0) || beyond (sb 1) || beyond (sb 2) then some 0x02
  else none

/-- A precise stop of `mcw` that names an image step in STEP (04 R109, 17 R364). -/
def stopStep (s : State) (cause : BitVec 8) (j : Nat) : State :=
  takeStop s { cause := cause, pc := s.dr.pc, step := some j, resume := s.dr.pc }

/-- A new version of a slot in every core that holds the context's store, or a drove of the context (11 R259). -/
def putSlot (s : State) (c : BitVec 16) (slot : Nat) (code : List W64) : State :=
  let load (k : CoreSt) : CoreSt :=
    if k.cstore = some c then { k with slots := (slot, code) :: k.slots.filter fun x => x.1 != slot } else k
  { s with coh := { s.coh with cores := s.coh.cores.map load } }

/-- A call of the slot with an earlier version is still running (11 R259). -/
def callRunning (s : State) (c : BitVec 16) (slot : Nat) (code : List W64) : Bool :=
  (allDroves s).any fun d => d.ctx == c && d.micro.any fun m => m.slot.toNat == slot && m.code != code

/-- Loads an image that has passed its checks (11 R259). -/
def loadImage (s : State) (slot : Nat) (code : List W64) : State :=
  let c := s.dr.ctx
  let bytes := code.flatMap (fun e => leBytes 8 e.toNat) ++ List.replicate (256 - 8 * code.length) 0
  let va := csbField s c 0x40 8 + 256 * slot
  match vaPut s c va bytes with
  | (some cause, s) => stopHere s cause 0 va
  | (none, s) =>
    let s := setCsbField s c 0 4 (csbField s c 0 4 ||| 2)
    let s := putSlot s c slot code
    if callRunning s c slot code then onDr s fun d => { d with cond := .waiting (.calls slot), since := s.cycle } else retire s

/-- Reads and checks the image at `va` (11 R258, R259). Of several refused steps the lowest is the one reported (assumption log 29). -/
def takeImage (s : State) (va : Nat) : State :=
  match vaRead s s.dr.ctx va 8 with
  | (.inr cause, s) => stopHere s cause 0 va
  | (.inl h, s) =>
    let h := leNat h
    if h &&& (2 ^ 64 - 1 - 0x1F7F) ≠ 0 then stopHere s 0x02 0 0
    else
      let n := bits h 12 8 + 1
      match vaRead s s.dr.ctx (va + 8) (8 * n) with
      | (.inr cause, s) => stopHere s cause 0 va
      | (.inl bs, s) =>
        let code := (List.range n).map fun j => BitVec.ofNat 64 (leNat ((bs.drop (8 * j)).take 8))
        match code.zipIdx.findSome? fun (e, j) => (stepCause e.toNat).map fun c => (c, j) with
        | some (cause, j) => stopStep s cause j
        | none => loadImage s (bits h 6 0) code

/-- `mcw` (11 R259, R440). -/
def execMcw (a : BitVec 6) (s : State) : Out :=
  .next <| issueIf { uses := [srcS a.toNat], priv := true } (fun s =>
    let va := (sreg s.dr a.toNat).toNat
    match s.dr.cond with
    | .waiting (.calls slot) =>
      waitIf (callRunning s s.dr.ctx slot (imageSlot s s.dr.ctx slot)) (.calls slot)
    | _ => firstOf [stopIf (va % 8 != 0) 0x14 0 va, stopIf (csbField s s.dr.ctx 0x40 8 == 0) 0x02]) s fun s =>
      match s.dr.cond with
      | .waiting (.calls _) => retire s
      | _ => takeImage s (sreg s.dr a.toNat).toNat

/-- The privileged numbers that are assigned (13 R285, 14 R312, 15 R338, 16 R348, 17 R362, 18 R381, 19 R410). -/
def privAssigned (n : Nat) : Bool :=
  (decide (0x80 ≤ n ∧ n ≤ 0x92) && n != 0x83) || decide (0xA0 ≤ n ∧ n ≤ 0xA5) || decide (0xB0 ≤ n ∧ n ≤ 0xB5) ||
    decide (0xC0 ≤ n ∧ n ≤ 0xC5) || decide (0xD0 ≤ n ∧ n ≤ 0xD3) || decide (0xE0 ≤ n ∧ n ≤ 0xE9)

/-- The checks of a system-register number (11 R260). -/
def sysBad (n : Nat) : Bool := if n < 0x80 then decide (0x14 ≤ n) else !privAssigned n

/-- A drove with a user system register written; none where the value is refused (01 R34-R36, 11 R260, 13 R293).
Read-only registers keep their values. -/
def userWrite (d : Drove) (n : Nat) (x : W64) : Option Drove :=
  match n with
  | 0x01 => if modeOk64 d x then some { d with mode := x.setWidth 32 } else none
  | 0x02 => some { d with flags := x.setWidth 5 }
  | 0x03 => some { d with satd := x.getLsbD 2, xoor := x.getLsbD 1, rwrap := x.getLsbD 0 }
  | 0x05 => some { d with slim := clearLow 2 x }
  | 0x06 => if d.depth = 0 then some { d with sbase := clearLow 8 x } else none
  | 0x07 => some { d with pbase := clearLow 8 x }
  | 0x0A => some { d with losplit := clearLow 3 x }
  | 0x0B => some { d with rkey := x }
  | 0x0C => some { d with rctr := x }
  | 0x0F => some { d with frec := clearLow 6 x }
  | 0x10 => some { d with tctl := x &&& ~~~0xFFC }
  | _ => some d

/-- A slow system register (01 R27). -/
def slowSys (n : Nat) : Bool := n == 0x12 || decide (0x80 ≤ n)

/-- `sysrd` (11 R260). A slow register empties S[sd]; its request carries LCLK, which CYCLE reads as in a deterministic
range (01 R37). -/
def execSysrd (d : BitVec 6) (n : BitVec 8) (s : State) : Out :=
  .next <| issue { uses := [dstS d.toNat], priv := decide (0x80 ≤ n.toNat), bad := sysBad n.toNat } s fun s =>
    if slowSys n.toNat then
      let q := { Req.fresh s (.sysrd n.toNat) 8 [] with dst := d.toNat, split := s.dr.lclk }
      retire (post (onDr s fun r => markS r d.toNat false) q)
    else retire (onDr s fun r => setS r d.toNat (userRead s n.toNat))

/-- The alignment of the record that a write to a command register names (11 R440, 13 R286, 14 R313, 17 R369, R373,
18 R396). -/
def recordAlign (n : Nat) : Nat :=
  match n with
  | 0x8C => 64
  | 0x90 => 64
  | 0xC3 => 32
  | 0xC4 => 32
  | 0xD2 => 64
  | _ => 1

/-- `syswr` (11 R260). A privileged register is written by an event of its own, and the drove waits for it. -/
def execSyswr (a : BitVec 6) (n : BitVec 8) (s : State) : Out :=
  let n := n.toNat
  .next <| issueIf { uses := [srcS a.toNat], priv := decide (0x80 ≤ n), bad := sysBad n } (fun s =>
    let x := sreg s.dr a.toNat
    if n < 0x80 then stopIf (userWrite s.dr n x).isNone 0x02
    else stopIf (x.toNat % recordAlign n != 0) 0x14 0 x.toNat) s fun s =>
      let x := sreg s.dr a.toNat
      if n < 0x80 then retire (onDr s fun d => (userWrite d n x).getD d)
      else onDr s fun d => { d with cond := .waiting (.write n x), since := s.cycle }

/-- The register that a drove waits to write, with the value. -/
def writeOf (d : Drove) : Option (Nat × W64) :=
  match d.cond with
  | .waiting (.write n x) => some (n, x)
  | _ => none

/-- The value that drove `u` waits to write to privileged register `n`. -/
def pendingWrite (s : State) (u n : Nat) : Option W64 :=
  match (droveOf s u).bind writeOf with
  | some (m, x) => if m = n then some x else none
  | none => none

/-- The write of drove `u` has been performed: the drove goes on. -/
def writeDone (s : State) (u : Nat) : State := retire (select s u)

/-- A status that a drove reads back as that of its own last command. -/
def setStatus (s : State) (u n x : Nat) : State :=
  onDrove s u fun d => { d with status := mapSet 0 d.status n (BitVec.ofNat 64 x) }

/-- The region table of a context is loaded anew in the cores for which `p` holds (13 R285, R290). -/
def reloadRegions (s : State) (p : BitVec 16 → Bool) : State :=
  let fresh (c : BitVec 16) := tableOf s c
  let load (k : CoreSt) : CoreSt := { k with regions := k.regions.map fun (c, r) => if p c then (c, fresh c) else (c, r) }
  { s with coh := { s.coh with cores := s.coh.cores.map load } }

/-- The contexts that a `tlbi` reaches (11 R261). -/
def tlbiCtx (c : BitVec 2) (x : W64) (k : BitVec 16) : Bool := c == 2 || k == x.setWidth 16

/-- An access issued before `upto` uses a translation that a `tlbi` of scope `c` invalidates: it has left its core and is not yet
performed, or its probe has confirmed the translation (11 R261, 09 R203). Under scope `.p` that is one of the page that holds `va`. -/
def usesOld (s : State) (upto : Nat) (c : BitVec 2) (va : Nat) (x : W64) : Bool :=
  (allReqs s).any fun q => decide (q.id < upto) && tlbiCtx c x q.ctx && (usedPages q).any fun (a, n) =>
    c != 0 || (routeOf va == 0 && routeOf (localOf s a) == 0 && n != 0 && localOf s a / n == va / n)

/-- The entries that a `tlbi` drops (11 R261): under scope `.p` the page, of whatever size, that holds the address. -/
def tlbiHits (c : BitVec 2) (va : Nat) (x : W64) (t : Tlb) : Bool :=
  tlbiCtx c x t.ctx && (c != 0 || (routeOf va == 0 && decide (t.va ≤ va) && decide (va < t.va + t.size)))

/-- `tlbi` (11 R261): drops the entries at once, then waits for the accesses that may have used one. -/
def execTlbi (a b : BitVec 6) (c : BitVec 2) (s : State) : Out :=
  .next <|
    let k : Chk := { uses := [srcS a.toNat, srcS b.toNat], priv := true, bad := c == 3 }
    let va := (sreg s.dr a.toNat).toNat
    let x := sreg s.dr b.toNat
    let refused (s : State) : Verdict := stopIf (decide (2 ^ 16 ≤ (sreg s.dr b.toNat).toNat)) 0x02
    match s.dr.cond, verdict k s, refused s with
    | .waiting (.flush upto), .go, .go =>
      issueIf k (fun s => waitIf (usesOld s upto c va x) (.flush upto)) s retire
    | _, .go, .go =>
      let s := { s with coh := { s.coh with tlb := s.coh.tlb.filter fun t => !tlbiHits c va x t } }
      let s := if c = 0 then s else reloadRegions s (tlbiCtx c x)
      issueIf k (fun s => waitIf (usesOld s s.uid c va x) (.flush s.uid)) s retire
    | _, _, _ => issueIf k refused s retire

/-- Snoop-filter entries of a die now in use (15 R337, R338). -/
def sfOcc (s : State) (die : Nat) : Nat := (s.coh.dir.filter fun e => e.sf && homeDie e.g == die).length

/-- The lane-cycle count that LCIDX selects (19 R410, R415). -/
def laneDataReg (s : State) : W64 :=
  let x := (privReg s 0xE2).toNat
  let c := bits x 14 12
  if c = 7 then 0 else mapGet 0 s.dev.lanes (4096 * c + 64 * bits x 9 8 + (if 5 ≤ c then 0 else bits x 5 0))

/-- A privileged register as drove `d` reads it. -/
def privRead (s : State) (d : Drove) (n : Nat) : W64 :=
  let own := mapGet 0 d.status n
  let refused (a : Nat) : W64 := BitVec.ofNat 64 a ||| (privReg s n &&& (1#64 <<< 63))
  match n with
  | 0x81 => refused (((ctxOf s ((privReg s 0x80).setWidth 16)).bind (·.tcr)).getD 0)
  | 0x8C => own
  | 0x90 => own
  | 0xA1 => mapGet 0 s.priv.perDie (8 * (privReg s 0xA0).toNat)
  | 0xA2 => mapGet 0 s.priv.perDie (8 * (privReg s 0xA0).toNat + 1)
  | 0xA3 => mapGet 0 s.priv.perDie (8 * (privReg s 0xA0).toNat + 2)
  | 0xA4 => BitVec.ofNat 64 (sfOcc s (privReg s 0xA0).toNat)
  | 0xB1 => (s.sch.queues.getD (privReg s 0xB0).toNat .atReset).cfg
  | 0xB3 => (ctxOf s ((privReg s 0xB2).setWidth 16)).elim 0 (·.budget)
  | 0xB5 => s.eng.mxreq.setWidth 64 ||| (s.eng.mxpend.setWidth 64 <<< 16)
  | 0xC1 => refused (((ctxOf s ((privReg s 0xC0).setWidth 16)).bind (·.csb)).getD 0)
  | 0xC3 => own
  | 0xC5 => BitVec.ofNat 64 s.dev.aet.length
  | 0xD1 => s.dev.ports.setWidth 64
  | 0xD3 => s.dev.profReq.setWidth 64 ||| (s.dev.profCur.setWidth 64 <<< 8)
  | 0xE3 => laneDataReg s
  | 0xE8 => 0
  | _ => privReg s n

/-- A slow system register returns, and its destination becomes full (01 R27); a tag that no longer matches drops it
(01 R29). -/
def execSlowSysrdReturn (r : Nat) (s : State) : Out :=
  .next <|
    match reqOf s r with
    | none => s
    | some q =>
      match q.kind, (droveOf s q.drove).filter fun d => d.gen == q.gen with
      | .sysrd n, some d =>
        let x := if n = 0x12 then (if d.det then q.split else BitVec.ofNat 64 s.cycle) else privRead s d n
        onDrove (dropReq s r) q.drove fun d => markS (setS d q.dst x) q.dst true
      | .sysrd _, none => countCsb (dropReq s r) q.ctx 0x48
      | _, _ => s

/-- The bits of a privileged register that a write sets, where the register only holds its value (00 R8, R9). -/
def privMask (n : Nat) : W64 :=
  match n with
  | 0x80 => 0xFFFF
  | 0x92 => 0x1FFFF
  | 0xA0 => 3
  | 0xA5 => 0xFFFFFFFF
  | 0xB0 => 0x3F
  | 0xB2 => 0xFFFF
  | 0xB4 => 0xFFFFFFFFFFFF
  | 0xC0 => 0xFFFF
  | 0xC2 => 0xFFFF0000FFFFFFFF
  | 0xD0 => 0x3FF
  | 0xE0 => 0xFFFF0000003F0001
  | 0xE1 => 0xFFFFFFFFFFFFFFFC
  | 0xE2 => 0x733F
  | 0xE4 => 0xFFFFFFFFFFFFFFFD
  | 0xE5 => 0xFFFFFFFFFFFFFFFD
  | 0xE6 => 0xFFFFFFFFFFFFFFFD
  | 0xE7 => 0xFFFFFFFFFFFFFFFD
  | _ => BitVec.allOnes 64

/-- A write to a register with no behaviour of its own (11 R260). -/
def plainWrite (s : State) (n : Nat) (x : W64) : State :=
  let perDie (k : Nat) : State :=
    { s with priv := { s.priv with perDie := mapSet 0 s.priv.perDie (8 * (privReg s 0xA0).toNat + k) x } }
  match n with
  | 0x82 => setPriv s n (privReg s n &&& ~~~x)
  | 0xA1 => perDie 0
  | 0xA2 => perDie 1
  | 0xA3 => perDie 2
  | 0xA4 => s
  | 0xB3 => onCtx s ((privReg s 0xB2).setWidth 16) fun c => { c with budget := x &&& 0xFFFFFFFFFFFF }
  | 0xD0 => if s.sch.ctxs.any fun c => c.peert != 0 then s else setPriv s n (x &&& privMask n)
  | 0xD1 => s
  | 0xE3 => s
  | _ => setPriv s n (x &&& privMask n)

/-- Registers whose write has a row of the opcode table of its own. -/
def ownRow (n : Nat) (x : W64) : Bool :=
  n == 0x81 || decide (0x84 ≤ n ∧ n ≤ 0x87) || n == 0x8C || n == 0x8F || n == 0x90 || n == 0xB1 || n == 0xB5 || n == 0xC1 ||
    n == 0xC3 || n == 0xC4 || n == 0xC5 || n == 0xD2 || n == 0xD3 || n == 0xE8 || (n == 0xE0 && x.getLsbD 1)

def execSysregWrite (c : Nat) (s : State) : Out :=
  .next <|
    match (droveOf s c).bind writeOf with
    | some (n, x) => if ownRow n x then s else writeDone (plainWrite s n x) c
    | none => s

/-- LCCTL.CLR sets every lane-cycle count to 0 (19 R414); the rest of the register is written. -/
def execLcctlClr (c : Nat) (s : State) : Out :=
  .next <|
    match pendingWrite s c 0xE0 with
    | some x =>
      if x.getLsbD 1 then
        let s := plainWrite s 0xE0 x
        writeDone { s with dev := { s.dev with lanes := [] } } c
      else s
    | none => s

/-- The command is carried out at the drove that waits to write `n`: `run` answers the state in which it goes on, or
a cause that stops it precisely (03 R88). -/
def command (s : State) (c n : Nat) (run : State → W64 → State ⊕ BitVec 8 × Nat) : State :=
  match pendingWrite s c n with
  | none => s
  | some x =>
    match run s x with
    | .inl s => writeDone s c
    | .inr (cause, va) => stopHere (select s c) cause 0 va

/-- The record of a stopped drove, or an empty one where it cannot be read. -/
def faultRecord (s : State) (d : Drove) : Nat × State :=
  match vaRead s d.ctx d.frec.toNat 128 with
  | (.inl bs, s) => (leNat bs, s)
  | (.inr _, s) => (0, s)

/-- Bytes `off` to `off + n - 1` of a record given as a number. -/
def recField (x off n : Nat) : Nat := x / 256 ^ off % 256 ^ n

/-- The registers that PNUM may name (17 R366). -/
def patchable (n : Nat) : Bool :=
  [0x01, 0x02, 0x03, 0x05, 0x06, 0x07, 0x0A, 0x0B, 0x0C, 0x0F, 0x10].contains n

/-- THE RETURN FROM A STOP, at the drove (17 R365, R366): it goes on at RESUME; RESUME unchanged keeps the microprogram
step; a delivered park whose instruction performed nothing is executed again under ACTION 0. -/
def resumeDr (d : Drove) (st : Stop) (resume : W64) (action now : Nat) : Drove :=
  let same := resume == st.resume
  let again := st.again && action == 0
  let cont := if same then (match st.step, d.micro with
    | some k, some m => if k < m.code.length then some { m with step := k } else none
    | _, _ => none) else none
  let pc := if again || cont.isSome then d.pc else resume
  { d with pc := pc, micro := if again then d.micro else cont, after := if again && !same then some resume else none,
           cond := .ready, since := now, stop := none, passive := d.passive && pc == d.pc,
           await := if pc = d.pc then d.await else none, wakeAt := if pc = d.pc then d.wakeAt else none,
           brkSkip := action == 0 && pc == d.pc }

/-- A parked request after its service (17 R365, R368): ACTION 0 replays the unfinished lanes, ACTION 1 abandons them. A
`catom` lane whose high word is done replays its low word only (09 R205). -/
def settleReq (action : Nat) (q : Req) : Req :=
  let low (j : Nat) : Bool := q.lows.any fun u => u.lane == j && !u.done
  let give (a : Acc) (j : Nat) : Acc :=
    if action = 0 then { a with st := if low j then .done else if atomicKind q.kind then .sent else .new }
    else if atomicKind q.kind then { a with helper := true, st := .done }
    else { a with r := 0, st := .done }
  let hit (a : Acc) : Bool := match a.st with
    | .faulted c => c != 0x12
    | _ => false
  { q with
    accs := q.accs.zipIdx.map fun (a, j) => if hit a then give a j else a
    lows := if action = 0 then q.lows else q.lows.map fun u =>
      if q.accs.zipIdx.any fun (a, j) => j == u.lane && hit a then { u with done := true } else u }

/-- Changes a drove wherever it is, resident or saved. -/
def onAnyDrove (s : State) (d : Drove) (f : Drove → Drove) : State :=
  if (droveOf s d.uid).isSome then onDrove s d.uid f
  else onSaved s d.flock fun v => { v with droves := mapIf (fun x => x.uid == d.uid) f v.droves }

/-- Changes a flock wherever it is, resident or saved. -/
def onAnyFlock (s : State) (u : Nat) (f : Flock → Flock) : State :=
  if (flockOf s u).isSome then onFlock s u f else onSaved s u fun v => { v with flock := f v.flock }

/-- ACTION 1 on a park that holds no request (17 R365): a `barw` makes no arrival and every other member goes on (11 R231), a
link entry that could not be filled is 0 and one that could not be spilled is dropped. -/
def abandonPlain (s : State) (d : Drove) (kind : Nat) : State :=
  match kind with
  | 3 => onAnyFlock s d.flock fun f =>
    match f.wide with
    | some m =>
      if m.gen.isNone && m.members.any fun x => x.1 == d.idx then
        { f with wide := some { m with members := [], left := [],
                                       leave := (m.members.map (·.1)).filter fun i => i != d.idx && !m.left.contains i } }
      else f
    | none => f
  | 1 => onAnyDrove s d fun d => { d with links := [0] }
  | 2 => onAnyDrove s d fun d => { d with links := d.links.dropLast }
  | _ => s

/-- The request of a park is settled, in residence or in the image. -/
def settleAny (s : State) (p : Park) (d : Drove) (action : Nat) : State :=
  let hit (q : Req) : Bool := p.req == some q.id
  if (droveOf s d.uid).isSome then { s with reqs := mapIf hit (settleReq action) s.reqs }
  else onSaved s d.flock fun v => { v with reqs := mapIf hit (settleReq action) v.reqs }

/-- The delivered park is settled (17 R365): under ACTION 0 its drove waits until the replay has finished; a checksum whose read is
abandoned is not logged (19 R413). -/
def settlePark (s : State) (d : Drove) (k action : Nat) : State :=
  match s.sch.parks.find? fun p => p.id == k with
  | none => s
  | some p =>
    if p.req.isNone then
      let s := endParks s fun x => x.id == k
      if action = 1 then abandonPlain s d p.kind else s
    else
      let s := settleAny s p d action
      let s := if action = 1 ∧ d.csumReq = p.req then onAnyDrove s d fun d => { d with csumPc := none, csumReq := none } else s
      if action = 1 then endParks s fun x => x.id == k
      else { s with sch := { s.sch with parks := mapIf (fun x => x.id == k) (fun x => { x with svc := 2 }) s.sch.parks } }

/-- The drove of the context in HSEL whose current stop has the SEQ in HSEL (17 R362, R366). -/
def stoppedDrove (s : State) (h : W64) : Option (Drove × Stop) :=
  (allDroves s ++ s.sch.saved.flatMap (·.droves)).findSome? fun d =>
    match d.stop with
    | some st => if d.ctx == h.extractLsb' 48 16 && d.cond == .stopped && st.seq == h.toNat % 2 ^ 32 then some (d, st) else none
    | none => none

/-- The drove has been resumed away from the barrier instruction at which it stood (11 R232): its arrival stays in the round,
and no release waits for it there. -/
def leaveRounds (f : Flock) (i : Nat) : Flock :=
  { f with
    bars := f.bars.map fun b => (b.1, { b.2 with left := if b.2.arrived.contains i && !b.2.left.contains i then i :: b.2.left else b.2.left
                                                 released := b.2.released.filter fun x => x.1 != i })
    wide := f.wide.map fun m => { m with left := if (m.members.any fun x => x.1 == i) && !m.left.contains i then i :: m.left else m.left
                                         done := m.done.filter (· != i), leave := m.leave.filter (· != i) } }

/-- `eret` (11 R256, 17 R366): applies the stopped drove's fault record. -/
def execEret (s : State) : Out :=
  .next <| issue { priv := true } s fun s =>
    let h := privReg s 0xC2
    match stoppedDrove s h with
    | none => stopHere s 0x02 0 0
    | some (d, st) =>
      let (fr, s) := faultRecord s d
      let resume := BitVec.ofNat 64 (recField fr 0x38 8 / 4 * 4)
      let action := recField fr 0x38 8 % 4
      let pnum := recField fr 0x40 1
      let patched := if pnum = 0 then some d else if patchable pnum then userWrite d pnum (BitVec.ofNat 64 (recField fr 0x48 8)) else none
      if recField fr 6 2 ≠ csbField s d.ctx 4 2 ∨ recField fr 0x0C 4 ≠ h.toNat % 2 ^ 32 ∨ action = 3 then stopHere s 0x02 0 0
      else
        match patched with
        | none => stopHere s 0x02 0 0
        | some x =>
          let s := retire s
          if action = 2 then
            if (droveOf s d.uid).isSome then terminate s d.flock 2 else terminateSaved s d.flock 2
          else
            let y := resumeDr x st resume action s.cycle
            let s := onAnyDrove s d fun _ => y
            let s := if y.pc = d.pc ∧ y.micro = d.micro then s else onAnyFlock s d.flock fun f => leaveRounds f d.idx
            match st.deliver with
            | some k => settlePark s d k action
            | none => s

/-- Two records for the same event queue. -/
def sameQueue (a b : DevEvent) : Bool := a.vcq == b.vcq && a.va == b.va && (a.vcq || a.ctx == b.ctx)

/-- The bytes of an event queue's header or ring, under the owner's translation, or at a DPA for VCEVQ (11 R441). -/
def queueRead (s : State) (e : DevEvent) (a n : Nat) : Option (List Byte) × State :=
  if e.vcq then
    let bad := (List.range n).any fun i => inAet s (a + i) || decide (2 ^ 39 ≤ a + i)
    (if bad then none else some (homeBytes s a n), s)
  else
    match vaRead s e.ctx a n with
    | (.inl bs, s) => (some bs, s)
    | (.inr _, s) => (none, s)
def queuePut (s : State) (e : DevEvent) (a : Nat) (bs : List Byte) : Option State :=
  if e.vcq then
    if (List.range bs.length).any fun i => inAet s (a + i) || decide (2 ^ 39 ≤ a + i) then none else some (homePut s a bs)
  else
    match vaPut s e.ctx a bs with
    | (none, s) => some s
    | (some _, _) => none

/-- What becomes of a posting (11 R441). -/
inductive Posting where
  | full | unusable | posted (s : State)
  deriving DecidableEq, Repr

/-- Posts a record: the slot is written, then TAIL is raised (11 R254, R441). -/
def tryPost (s : State) (e : DevEvent) : Posting :=
  let q := e.va.toNat
  match queueRead s e q 32 with
  | (none, _) => .unusable
  | (some bs, s) =>
    let h := leNat bs
    let ring := recField h 0 8
    let n := recField h 8 4
    let tail := recField h 16 8
    if !queueOk ring n ∨ q % 64 ≠ 0 then .unusable
    else if n ≤ (tail + 2 ^ 64 - recField h 24 8) % 2 ^ 64 then .full
    else
      match queuePut s e (ring + 32 * (tail % n))
          (eventBytes e.typ e.f1 e.id e.pc e.pay (e.stamp.getD (BitVec.ofNat 64 s.cycle))) with
      | none => .unusable
      | some s =>
        match queuePut s e (q + 16) (leBytes 8 (tail + 1)) with
        | none => .unusable
        | some s => .posted s

/-- The record at index `k` may be posted: no earlier one waits for the same queue, and VCEVQ names the queue of a virtual
cache record as it now stands (11 R441, 14 R319). -/
def postable (s : State) (k : Nat) : Option DevEvent :=
  match s.sch.events[k]? with
  | none => none
  | some e =>
    let e := if e.vcq then { e with va := privReg s 0x91 } else e
    if (s.sch.events.take k).any (fun x => if e.vcq then x.vcq else sameQueue x e) || (e.vcq && e.va == 0) then none else some e

end Sys2Proof.Machine
end

