-- ==== Sys2Proof/Machine/Mapping.lean ====
section
/-! DEFINITION. Map commands, the binding of translation contexts, SRAM windows and compressed zones (13 R284-R298), and the
pins of virtual caches (14 R309). -/

namespace Sys2Proof.Machine

/-- A map command record (13 R286). -/
structure MapRec where
  va     : Nat
  op     : Nat
  nspare : Nat
  ctx    : BitVec 16
  pte0   : Nat
  pte1   : Nat
  spare  : Nat
  resv   : Bool
  deriving DecidableEq, Repr

/-- The record's 64 bytes, given as one number. -/
def parseMap (x : Nat) : MapRec :=
  { va := recField x 0 8, op := recField x 8 1, nspare := recField x 9 1, ctx := BitVec.ofNat 16 (recField x 10 2),
    pte0 := recField x 0x10 8, pte1 := recField x 0x18 8, spare := recField x 0x20 8,
    resv := recField x 0x0C 4 != 0 || recField x 0x2C 4 != 0 }

/-- The row of the opcode table that performs a record's OP; an OP without one is refused by the row of op 0. -/
def mapRow (op : Nat) : Nat := if op < 5 then op else 0

/-- Level of a page size code, and the entries that hold its leaf (13 R280). -/
def sizeLevel (sz : Nat) : Nat := [5, 5, 4, 4, 3, 3].getD sz 5
def sizeSlots (sz : Nat) : Nat := [1, 16, 2, 32, 4, 64].getD sz 1

/-- The size code of a leaf. -/
def leafSz (w0 : Nat) : Nat := bits w0 10 8

/-- A present page: its leaf's two words, its size and its first table entry. -/
structure Page where
  w0    : Nat
  w1    : Nat
  size  : Nat
  first : Nat
  deriving DecidableEq, Repr

/-- The page present at a VA, whatever its size. -/
def pageOf (s : State) (c : BitVec 16) (va : Nat) : Option Page :=
  match walk s c va with
  | .fail _ _ => none
  | .leaf l =>
    let n := 16 * sizeSlots (leafSz l.attr.toNat)
    some { w0 := l.attr.toNat, w1 := homeRead s (l.entry + 8) 8, size := l.size, first := l.entry / n * n }

/-- Every entry of a present page. -/
def Page.entries (p : Page) : List Nat := (List.range (sizeSlots (leafSz p.w0))).map fun i => p.first + 16 * i

/-- DPA of a leaf's frame. -/
def frameDpa (die w1 : Nat) : Nat := die * 2 ^ 37 + bits w1 36 12 * 4096

/-- Writes the two words of an entry. -/
def putEntry (s : State) (a w0 w1 : Nat) : State := homeWrite (homeWrite s a 8 w0) (a + 8) 8 w1

/-- The way to the table page of a level (13 R281). -/
inductive Path where
  | found (table : Nat)
  | missing (entry pages : Nat)   -- the entry to link, and how many table pages the walk lacks
  | blocked
  deriving DecidableEq, Repr

/-- Walks from a table page, `fuel` levels above the target. -/
def pathFrom (s : State) (die va target : Nat) : Nat → Nat → Path
  | 0, table => .found table
  | fuel + 1, table =>
    let level := target - (fuel + 1)
    let a := table + 16 * bits va (59 - 8 * level) (52 - 8 * level)
    let w0 := homeRead s a 8
    if !bitAt w0 0 then .missing a (fuel + 1)
    else if bitAt w0 7 then .blocked
    else pathFrom s die va target fuel (frameDpa die (homeRead s (a + 8) 8))

/-- Links `n` spare pages below entry `a`, one per level from `level` on, and answers the last (13 R286). -/
def linkTables (va : Nat) : Nat → State → Nat → Nat → Nat → Nat → State × Nat
  | 0, s, _, _, _, last => (s, last)
  | n + 1, s, a, spare, level, _ =>
    linkTables va n (putEntry s a 1 (spare % 2 ^ 37)) (spare + 16 * bits va (59 - 8 * (level + 1)) (52 - 8 * (level + 1)))
      (spare + 4096) (level + 1) spare

/-- A die's compressed zone: base DPA and bytes (13 R297). -/
def zoneOf (s : State) (die : Nat) : Nat × Nat :=
  let z := (privReg s (0x84 + die)).toNat
  if bitAt z 0 then (die * 2 ^ 37 + bits z 36 24 * 2 ^ 24, bits z 49 37 * 2 ^ 24) else (0, 0)

/-- The bytes overlap the die's compressed zone. -/
def inZone (s : State) (die a n : Nat) : Bool := overlap a n (zoneOf s die).1 (zoneOf s die).2

/-- Dies whose slices hold the lines of a page (14 R303). -/
def sliceDies (c : Cdr) (die : Nat) : List Nat := if c.place then diesOf c.rdies else [die]

/-- The lines of a geometry that hold `n` bytes of a context, at `va` and DPA `dpa`: by tag, and with the DPA that gives the set. -/
def tagsOf (g : Geo) (ctx : BitVec 16) (va dpa n : Nat) : List (BitVec 16 × Nat × Nat) :=
  (basesOf g dpa n).map fun b => (ctx, lineBase g (va + (b - dpa)), b)

/-- The lines, in a geometry, of everything that is pinned in a VC's slice on a die. -/
def pinnedTags (s : State) (c : Cdr) (g : Geo) (die : Nat) : List (BitVec 16 × Nat × Nat) :=
  ((s.vc.lines.filter fun l => l.vc == c.id && l.die == die && l.pin).flatMap fun l =>
    tagsOf g l.ctx l.va l.dpa (lineBytes (if l.old then c.olsz else c.lsz))).eraseDups

/-- Some set of the geometry would hold as many pinned lines as it has ways (14 R309). -/
def pinsFull (g : Geo) (tags : List (BitVec 16 × Nat × Nat)) : Bool :=
  g.sets != 0 && tags.any fun b => decide (g.ways ≤ (tags.filter fun x => g.set x.2.2 == g.set b.2.2).length)

/-- The pins of a page would fill the last way of some set, in the geometry or, while migrating, in the old one. -/
def pinRefused (s : State) (c : Cdr) (die : Nat) (ctx : BitVec 16) (va dpa size : Nat) : Bool :=
  (sliceDies c die).any fun d =>
    let full (old : Bool) : Bool :=
      let g := geoOf s c old d
      pinsFull g ((pinnedTags s c g d ++ tagsOf g ctx va dpa size).eraseDups)
    full false || (migrating c && full true)

/-- Reserves a way for each line of a pinned page (14 R309). -/
def reservePins (s : State) (c : Cdr) (ctx : BitVec 16) (va dpa size : Nat) : State :=
  (sliceDies c (dpa / 2 ^ 37)).foldl (fun s d =>
    let g := geoOf s c false d
    if g.sets = 0 then s
    else (basesOf g dpa size).foldl (fun s b =>
      match makeWay s c false d (g.set b) with
      | (some w, s) => addVLine s { vc := c.id, old := false, die := d, set := g.set b, way := w, ctx := ctx, va := va + (b - dpa),
                                    dpa := b, valid := 0, dirty := 0, age := true, pin := true }
      | (none, s) => s) s) s

/-- The present pages below a table page: VA and the leaf's two words (13 R280, R281). -/
def leavesUnder (s : State) (die : Nat) : Nat → Nat → Nat → List (Nat × Nat × Nat)
  | 0, _, _ => []
  | fuel + 1, table, va =>
    (List.range 256).flatMap fun i =>
      let a := table + 16 * i
      let w0 := homeRead s a 8
      let w1 := homeRead s (a + 8) 8
      let va := va + i * 2 ^ (12 + 8 * fuel)
      if !bitAt w0 0 then []
      else if bitAt w0 7 then (if i % sizeSlots (leafSz w0) = 0 then [(va, w0, w1)] else [])
      else leavesUnder s die fuel (frameDpa die w1) va

/-- The present pages of a context on a die. -/
def leavesOf (s : State) (x : Ctx) (die : Nat) : List (Nat × Nat × Nat) :=
  let root := x.roots.getD die 0
  if root = 0 then [] else leavesUnder s die 6 root (die * 2 ^ 60)

/-- MAPCNT (14 R301): the present pages of every context whose home is the VC. -/
def mapCount (s : State) (vc : Nat) : Nat :=
  total (s.sch.ctxs.map fun x => total ((List.range 4).map fun d =>
    ((leavesOf s x d).filter fun p => decide (leafHome (BitVec.ofNat 64 p.2.1) < 2) && leafVc (BitVec.ofNat 64 p.2.1) == vc).length))

/-- Counts a leaf in, or out of, what its home keeps (14 R309, 13 R292): pins of a VC, bytes of a window. -/
def countLeaf (s : State) (w0 size : Nat) (add : Bool) : State :=
  let a := BitVec.ofNat 64 w0
  let f (x n : Nat) : Nat := if add then x + n else x - n
  if leafHome a = 1 then onCdr s (leafVc a) fun c => { c with pinuse := f c.pinuse (size / 4096) }
  else if leafHome a = 2 then onCore s (leafCore a) fun c => { c with winuse := f c.winuse size }
  else s

/-- Lies in a page. -/
def inPage (va size x : Nat) : Bool := decide (va ≤ x) && decide (x < va + size)

/-- The lines of the instruction caches that satisfy `p` are gone. -/
def dropILines (s : State) (p : ILine → Bool) : State :=
  { s with coh := { s.coh with cores := s.coh.cores.map fun k => { k with icache := k.icache.filter fun x => !p x } } }

/-- Step 4 of 13 R288: every cached copy of a page is written back to its frame and invalidated; its pins are released. -/
def sweepPage (s : State) (c : BitVec 16) (va size : Nat) : State :=
  let s := dropILines s fun x => x.ctx == c && inPage va size x.va
  let s := (s.coh.l1.filter fun l => l.ctx == c && inPage va size l.va).foldl leaveL1 s
  (s.vc.lines.filter fun l => l.ctx == c && inPage va size l.va).foldl leaveVLine s

/-- No translation of the page is cached (13 R288 step 2). -/
def dropTlb (s : State) (c : BitVec 16) (va size : Nat) : State :=
  { s with coh := { s.coh with tlb := s.coh.tlb.filter fun t => !(t.ctx == c && overlap t.va t.size va size) } }

/-- The page is quiet (13 R288 step 3, R298): no access that used its translation is still to be performed, none waits for
an expansion of it, and no directory entry of its frame is in transition. -/
def pageQuiet (s : State) (c : BitVec 16) (va size frame : Nat) : Bool :=
  let at' (q : Req) (a : Acc) : Bool := inPage va size (localOf s a.va) || (q.kind == .catom && inPage va size (localOf s (lowAddr q.split a.va)))
  !((allReqs s).any fun q => q.ctx == c && ((usedPages q).any (fun u => inPage va size (localOf s u.1)) ||
      q.accs.any fun a => at' q a && a.st == .faulted 0x12)) &&
    !(s.sch.parks.any fun p => p.cause == 0x12 && p.svc == 1 && p.ctx == c && inPage va size (localOf s p.va)) &&
    !(s.coh.dir.any fun e => e.st == .t && inPage frame size e.g)

/-- What a map command leaves: its status, the leaf that was there, the spare run left over. -/
structure MapDone where
  s      : State
  status : Nat := 0
  old0   : Nat := 0
  old1   : Nat := 0
  spare  : Nat × Nat

/-- The outcome of a command: it must wait, or it is done. -/
abbrev MapOut := Option MapDone

/-- A refused command changes nothing (13 R287). -/
def mapRefuse (s : State) (m : MapRec) (st : Nat) : MapOut := some { s := s, status := st, spare := (m.nspare, m.spare) }

/-- Checks of a record that every op makes (13 R287): route, reserved fields, spare count. -/
def mapCommon (m : MapRec) (size : Nat) : Nat :=
  if routeOf m.va ≠ 0 ∨ inAperture m.va ∨ m.va % size ≠ 0 then 1
  else if m.resv ∨ 5 ≤ m.op then 2
  else if 5 < m.nspare then 8
  else 0

/-- A present page leaves: its copies are swept, its leaf is no longer present, its counts and translations go (13 R288). -/
def removePage (s : State) (c : BitVec 16) (va : Nat) (p : Page) : State :=
  let s := sweepPage s c va p.size
  let s := p.entries.foldl (fun s a => homeWrite s a 8 (homeRead s a 8 / 2 * 2)) s
  let s := countLeaf (dropTlb s c va p.size) p.w0 p.size false
  { s with vc := { s.vc with unhoused := s.vc.unhoused.filter fun u => !(u.1 == c && inPage va p.size u.2.1) } }

/-- Unmaps the page present at the record's VA (13 R286 op 1, R288). -/
def unmapPage (s : State) (m : MapRec) : MapOut :=
  match pageOf s m.ctx m.va with
  | none => if mapCommon m 4096 ≠ 0 then mapRefuse s m (mapCommon m 4096) else mapRefuse s m 0
  | some p =>
    if mapCommon m p.size ≠ 0 then mapRefuse s m (mapCommon m p.size)
    else if !pageQuiet s m.ctx m.va p.size (frameDpa (bits m.va 61 60) p.w1) then none
    else some { s := removePage s m.ctx m.va p, old0 := p.w0, old1 := p.w1, spare := (m.nspare, m.spare) }

/-- The fields of a new leaf (13 R287 status 2). -/
def leafBad (m : MapRec) : Bool :=
  let a := BitVec.ofNat 64 m.pte0
  decide (2 ^ 34 ≤ m.pte0) || decide (2 ^ 37 ≤ m.pte1) || m.pte1 % 512 != 0 || (!leafC a && bits m.pte1 11 9 != 0) ||
    decide (5 < leafSz m.pte0) || decide (3 < leafEf a) || bitAt (leafGeo a) 3 || (leafWr a && !leafRd a) ||
    (leafHome a == 2 && dieOfCore (leafCore a) != bits m.va 61 60) || !bitAt m.pte0 7

/-- The old leaf differs in a way that needs step 4 of 13 R288. -/
def needsSweep (p : Page) (w0 w1 : Nat) : Bool :=
  let a := BitVec.ofNat 64 p.w0
  let b := BitVec.ofNat 64 w0
  bits p.w1 36 9 != bits w1 36 9 || leafNc a != leafNc b || leafHome a != leafHome b || leafVc a != leafVc b ||
    leafCore a != leafCore b || (leafRd a && !leafRd b) || (leafWr a && !leafWr b) || (leafSh a && !leafSh b) || leafEf a != leafEf b

/-- The slots of the span hold a leaf of another size, or a pointer (13 R287 status 10). -/
def spanConflict (s : State) (table va sz : Nat) : Bool :=
  let lv := sizeLevel sz
  let first := table + 16 * bits va (59 - 8 * lv) (52 - 8 * lv)
  (List.range (sizeSlots sz)).any fun i =>
    let w := homeRead s (first + 16 * i) 8
    bitAt w 0 && (!bitAt w 7 || leafSz w != sz)

/-- Statuses 3 to 7 of a new leaf, in order, on a state in which the page's old pins and window bytes are released. -/
def leafStatus (s : State) (m : MapRec) (size : Nat) : Nat :=
  let a := BitVec.ofNat 64 m.pte0
  let die := bits m.va 61 60
  let frame := frameDpa die m.pte1
  let vc := cdrOf s (leafVc a)
  if leafEf a ≠ 0 ∧ min size 0x200000 / 2 < 8 * bxCap (leafGeo a) then 3
  else if leafHome a < 2 ∧ !(vc.any fun c => (c.state == 1 || c.state == 2) && (c.id == 0 || c.ctx == m.ctx)) then 4
  else if leafHome a = 1 ∧ vc.any (fun c => decide (c.pinq < c.pinuse + size / 4096)) then 5
  else if leafHome a = 1 ∧ vc.any (fun c => pinRefused s c die m.ctx m.va frame size) then 6
  else if leafHome a = 2 ∧ (65536 < size ∨ [0, 0x8000, 0x10000, 0x20000].getD (coreOf s (leafCore a)).window 0 < (coreOf s (leafCore a)).winuse + size) then 7
  else 0

/-- Writes the leaf into every slot of its span, linking the table pages that the walk lacks (13 R286). -/
def writeLeaf (s : State) (m : MapRec) (path : Path) : State × Nat :=
  let sz := leafSz m.pte0
  let lv := sizeLevel sz
  let (s, table, used) := match path with
    | .found t => (s, t, 0)
    | .missing a n =>
      let (s, t) := linkTables m.va n s a m.spare (lv - n) 0
      (s, t, n)
    | .blocked => (s, 0, 0)
  let first := table + 16 * bits m.va (59 - 8 * lv) (52 - 8 * lv)
  ((List.range (sizeSlots sz)).foldl (fun s i => putEntry s (first + 16 * i) m.pte0 m.pte1) s, used)

/-- A page is mapped: what the old leaf had is given back, the new leaf is written, and its pins are reserved (13 R286-R288). -/
def mapEnter (s : State) (m : MapRec) (path : Path) (old : Option Page) (size frame : Nat) : MapDone :=
  let a := BitVec.ofNat 64 m.pte0
  let s := match old with
    | some p =>
      let s := if needsSweep p m.pte0 m.pte1 || leafHome a == 1 then sweepPage s m.ctx m.va size else s
      countLeaf s p.w0 size false
    | none => s
  let (s, used) := writeLeaf s m path
  let s := countLeaf (dropTlb s m.ctx m.va size) m.pte0 size true
  let s := match cdrOf s (leafVc a) with
    | some c => if leafHome a = 1 then reservePins s c m.ctx m.va frame size else s
    | none => s
  let s := { s with vc := { s.vc with unhoused := s.vc.unhoused.filter fun u => !(u.1 == m.ctx && inPage m.va size u.2.1) } }
  { s := s, old0 := old.elim 0 (·.w0), old1 := old.elim 0 (·.w1),
    spare := (m.nspare - used, if m.nspare = 0 then m.spare else if m.nspare = used then 0 else m.spare + 4096 * used) }

/-- Op 0 with P = 1 (13 R286-R288). -/
def mapPage (s : State) (m : MapRec) : MapOut :=
  let die := bits m.va 61 60
  let sz := leafSz m.pte0
  let size := if 5 < sz then 4096 else pageSize sz
  let a := BitVec.ofNat 64 m.pte0
  let root := (ctxOf s m.ctx).elim 0 (·.roots.getD die 0)
  let path := pathFrom s die m.va (sizeLevel sz) (sizeLevel sz) root
  let old := (pageOf s m.ctx m.va).filter fun p => p.size == size
  let bare := match old with
    | some p => countLeaf (if leafHome (BitVec.ofNat 64 p.w0) = 1 then { s with vc := { s.vc with
        lines := s.vc.lines.filter fun l => !(l.ctx == m.ctx && l.pin && inPage m.va size l.va) } } else s) p.w0 size false
    | none => s
  let st := leafStatus bare m size
  let frame := frameDpa die m.pte1
  if mapCommon m size = 1 then mapRefuse s m 1
  else if mapCommon m size = 2 ∨ leafBad m then mapRefuse s m 2
  else if st ≠ 0 then mapRefuse s m st
  else if 5 < m.nspare ∨ root = 0 ∨ (match path with | .missing _ n => decide (m.nspare < n) | _ => false) = true then mapRefuse s m 8
  else if !leafC a ∧ (bits m.pte1 36 12 * 4096 % size ≠ 0 ∨ 2 ^ 37 < bits m.pte1 36 12 * 4096 + size ∨ inZone s die frame size) ∨
      (match path with | .missing _ _ => m.spare % 4096 != 0 || m.spare / 2 ^ 37 != die | _ => false) = true then mapRefuse s m 9
  else
    match path with
    | .blocked => mapRefuse s m 10
    | _ =>
      if (match path with | .found t => spanConflict s t m.va sz | _ => false) = true then mapRefuse s m 10
      else if old.any fun p => !pageQuiet s m.ctx m.va size (frameDpa die p.w1) then none
      else
        some (mapEnter s m path old size frame)

/-- Clears the accessed bit in every leaf (13 R286 op 3). -/
def clearAccessed (s : State) (m : MapRec) : MapOut :=
  match pageOf s m.ctx m.va with
  | none => mapRefuse s m (mapCommon m 4096)
  | some p =>
    if mapCommon m p.size ≠ 0 then mapRefuse s m (mapCommon m p.size)
    else if !pageQuiet s m.ctx m.va p.size (frameDpa (bits m.va 61 60) p.w1) then none
    else
      let s := p.entries.foldl (fun s a => let w := homeRead s a 8; homeWrite s a 8 (if bitAt w 11 then w - 2 ^ 11 else w)) s
      some { s := dropTlb s m.ctx m.va p.size, old0 := p.w0, old1 := p.w1, spare := (m.nspare, m.spare) }

/-- Answers the leaf and changes nothing (13 R286 op 4). -/
def queryPage (s : State) (m : MapRec) : MapOut :=
  match pageOf s m.ctx m.va with
  | none => mapRefuse s m (mapCommon m 4096)
  | some p =>
    if mapCommon m p.size ≠ 0 then mapRefuse s m (mapCommon m p.size)
    else some { s := s, old0 := p.w0, old1 := p.w1, spare := (m.nspare, m.spare) }

/-- Room for an image of `n` units of 512 bytes in a die's zone, by a free choice (13 R297, assumption log 2). -/
def zoneRoom (s : State) (die n : Nat) : Option Nat × State :=
  let (base, size) := zoneOf s die
  let free (a : Nat) : Bool := decide (base ≤ a) && decide (a + 512 * n ≤ base + size) &&
    !(s.vc.zimages.any fun z => overlap a (512 * n) z.dpa (512 * z.units))
  let (k, s) := draw s
  let at' := base + 512 * (k % (size / 512))
  let ends := base :: s.vc.zimages.map fun z => z.dpa + 512 * z.units
  (if free at' then some at' else ends.find? free, s)

/-- Pushes a frame at the TAIL of a die's frame pool; none when the pool is full or not set (13 R297). Bytes from
2^39 on are kept (assumption log 20). -/
def pushFrame (s : State) (die frame : Nat) : Option State :=
  let h := (privReg s (0x88 + die)).toNat
  let n := homeRead s (h + 8) 4
  let tail := homeRead s (h + 24) 8
  if h = 0 ∨ n = 0 ∨ n ≤ tail - homeRead s (h + 16) 8 then none
  else some (homeWrite (homeWrite s (homeRead s h 8 + 8 * (tail % n)) 8 (frame % 2 ^ 37)) (h + 24) 8 (tail + 1))

/-- Op 2 (13 R298): the page's frame is compressed into the zone and given to the pool. -/
def compressPage (s : State) (m : MapRec) : MapOut :=
  match pageOf s m.ctx m.va with
  | none => mapRefuse s m (if mapCommon m 4096 ≠ 0 then mapCommon m 4096 else 13)
  | some p =>
    let die := bits m.va 61 60
    let a := BitVec.ofNat 64 p.w0
    let frame := frameDpa die p.w1
    if mapCommon m p.size ≠ 0 then mapRefuse s m (mapCommon m p.size)
    else if p.size ≠ 65536 ∨ leafC a ∨ leafHome a = 1 ∨ leafHome a = 2 then mapRefuse s m 13
    else if !pageQuiet s m.ctx m.va p.size frame then none
    else
      let raw := homeBytes (sweepPage s m.ctx m.va p.size) frame 65536
      let n := max 1 (Config.compressedUnits raw)
      if 112 ≤ n then mapRefuse s m 11
      else
        match zoneRoom s die n with
        | (none, s) => mapRefuse s m 12
        | (some z, s) =>
          match pushFrame (sweepPage s m.ctx m.va p.size) die frame with
          | none => mapRefuse s m 12
          | some s =>
            let image : ZImage := { die := die, dpa := z, units := n, raw := raw, ctx := m.ctx, va := m.va }
            let bs := ((Config.compressedBytes raw) ++ List.replicate (512 * n) 0).take (512 * n)
            let s := homePut { s with vc := { s.vc with zimages := s.vc.zimages ++ [image] } } z bs
            let s := p.entries.foldl (fun s e => putEntry s e (homeRead s e 8 ||| 2) (z % 2 ^ 37 / 512 * 512)) s
            some { s := dropTlb s m.ctx m.va p.size, old0 := p.w0, old1 := p.w1, spare := (m.nspare, m.spare) }

/-- An access waits for an expansion of the 64 KiB page that holds a VA (13 R298). -/
def expanding (s : State) (c : BitVec 16) (va : Nat) : Bool :=
  let at' (x : Nat) : Bool := localOf s x / 65536 == va / 65536
  (s.reqs.any fun q => q.ctx == c && q.accs.any fun a => a.st == .faulted 0x12 && (at' a.va || (q.kind == .catom && at' (lowAddr q.split a.va)))) ||
    s.sch.parks.any fun p => p.cause == 0x12 && p.svc == 1 && p.ctx == c && at' p.va

/-- A map command (13 R286): the record is read under the issuing context, carried out by `run`, and its device fields are
written; a page under expansion is waited for (13 R298); a record that cannot be read or written stops the `syswr` with the cause found (assumption log 19). -/
def mapCommand (s : State) (c row : Nat) (run : State → MapRec → MapOut) : State :=
  match pendingWrite s c 0x8C, droveOf s c with
  | some x, some d =>
    match vaRecord s d.ctx x.toNat 64 with
    | (.inr cause, s) => stopHere (select s c) cause 0 x.toNat
    | (.inl (bs, ds), s) =>
      let m := parseMap (leNat bs)
      if mapRow m.op ≠ row ∨ expanding s m.ctx m.va then s
      else
        match run s m with
        | none => s
        | some r =>
          let put (s : State) (off : Nat) (bs : List Byte) : State := putPlaces s (ds.drop off) bs
          let s := put r.s 0x09 [BitVec.ofNat 8 r.spare.1]
          let s := put s 0x20 (leBytes 8 r.spare.2)
          let s := put s 0x28 (leBytes 4 r.status)
          let s := put s 0x30 (leBytes 8 r.old0 ++ leBytes 8 r.old1)
          writeDone (setStatus s c 0x8C r.status) c
  | _, _ => s

/-- Op 0 maps, or unmaps when the new leaf is not present; an OP outside the set gives status 2 (13 R286, R287). -/
def execMapcmdMap (c : Nat) (s : State) : Out :=
  .next <| mapCommand s c 0 fun s m => if m.op = 0 ∧ bitAt m.pte0 0 then mapPage s m else unmapPage s m
def execMapcmdUnmap (c : Nat) (s : State) : Out := .next <| mapCommand s c 1 unmapPage
def execMapcmdCompress (c : Nat) (s : State) : Out := .next <| mapCommand s c 2 compressPage
def execMapcmdClearAccessed (c : Nat) (s : State) : Out := .next <| mapCommand s c 3 clearAccessed
def execMapcmdQuery (c : Nat) (s : State) : Out := .next <| mapCommand s c 4 queryPage

/-- What a TCR holds: roots, region table and peer table (13 R284); none where it is malformed (13 R285), or its DPA
is 2^39 or above (assumption log 20). -/
def readTcr (s : State) (a : Nat) : Option (List Nat × Nat × Nat) :=
  let w (i : Nat) : Nat := homeRead s (a + 8 * i) 8
  let roots := (List.range 4).map w
  let rootOk (d r : Nat) : Bool := r == 0 || (r % 4096 == 0 && r / 2 ^ 37 == d)
  if a % 64 ≠ 0 ∨ 2 ^ 39 ≤ a ∨ !((List.range 4).all fun d => rootOk d (w d)) ∨ w 4 % 1024 ≠ 0 ∨ w 6 ≠ 0 ∨ w 7 ≠ 0 then none
  else some (roots, w 4, w 5)

/-- A context can be rebound (13 R285 step 1): no access that has left its core is still to be performed, and no copy of
its that an owner holds is being recalled. -/
def ctxQuiet (s : State) (c : BitVec 16) : Bool :=
  !((allReqs s).any fun q => q.ctx == c && (!(usedPages q).isEmpty || q.accs.any fun a => a.st == .faulted 0x12)) &&
    !(s.coh.l1.any fun l => l.ctx == c && l.owned && (dirOf s l.dpa).st == .t)

/-- The link entries of a drove that the stack cache holds go to its link area (13 R285, R294). -/
def sweepLinks (s : State) (d : Drove) : State :=
  let (s, x) := saveLinks s d
  onDrove s d.uid fun y => { y with links := x.links }

/-- Every cached copy tagged with the context is written back and invalidated (13 R285 step 2); pins keep their ways. -/
def sweepCtx (s : State) (c : BitVec 16) : State :=
  let s := ((allDroves s).filter fun d => d.ctx == c && d.cond != .vacant).foldl sweepLinks s
  let s := dropILines s fun x => x.ctx == c
  let s := (s.coh.l1.filter fun l => l.ctx == c).foldl leaveL1 s
  let s := (s.vc.lines.filter fun l => l.ctx == c && !l.pin).foldl leaveVLine s
  let s := (s.vc.lines.filter fun l => l.ctx == c).foldl reportLeave s
  { s with vc := { s.vc with lines := mapIf (fun l => l.ctx == c) (fun l => { l with valid := 0, dirty := 0 }) s.vc.lines } }

/-- A write to XTCR (13 R285). -/
def execXtcrBind (c : Nat) (s : State) : Out :=
  .next <|
    match pendingWrite s c 0x81 with
    | none => s
    | some x =>
      let k := (privReg s 0x80).setWidth 16
      match readTcr s x.toNat with
      | none => writeDone (setPriv s 0x81 (1#64 <<< 63)) c
      | some (roots, regt, peert) =>
        if !ctxQuiet s k then s
        else
          let s := sweepCtx s k
          let s := onCtx s k fun y => { y with tcr := some x.toNat, roots := roots, regt := regt, peert := peert }
          let s := { s with coh := { s.coh with tlb := s.coh.tlb.filter fun t => t.ctx != k } }
          writeDone (setPriv (reloadRegions s (· == k)) 0x81 0) c

/-- Bytes of a window size code (13 R292). -/
def windowBytes (n : Nat) : Nat := [0, 0x8000, 0x10000, 0x20000].getD n 0

/-- A write to SRAMWIN (13 R292): the copies in the ways that the window takes leave the L1. -/
def execSramwinWrite (c : Nat) (s : State) : Out :=
  .next <|
    match pendingWrite s c 0x8F with
    | none => s
    | some x =>
      let core := bits x.toNat 5 0
      let n := bits x.toNat 9 8
      if windowBytes n < (coreOf s core).winuse then writeDone (setPriv s 0x8F (privReg s 0x8F ||| (1#64 <<< 63))) c
      else
        let s' := onCore s core fun k => { k with window := n }
        let out := s.coh.l1.filter fun l => l.core == core && decide (l1Ways s' core ≤ l.way)
        if !(out.all (evictable s)) then s
        else writeDone (setPriv (out.foldl leaveL1 s') 0x8F (x &&& 0x33F)) c

/-- A write to a CZONE register (13 R297): ignored when it changes BASE or SIZE of a zone that holds an image. -/
def execCzoneWrite (c : Nat) (s : State) : Out :=
  .next <|
    match (droveOf s c).bind writeOf with
    | some (n, x) =>
      if n < 0x84 ∨ 0x87 < n then s
      else
        let x := x &&& 0x3FFFFFF000001
        let moved := bits x.toNat 49 24 != bits (privReg s n).toNat 49 24
        if moved && s.vc.zimages.any fun z => z.die == n - 0x84 then writeDone s c else writeDone (setPriv s n x) c
    | none => s

end Sys2Proof.Machine
end

