-- ==== Sys2Proof/Machine/VCache.lean ====
section
/-! DEFINITION. The commands of virtual caches, live migration, freeing and the retirement of shares (14 R312-R323), and
the errors of the memories (17 R377). -/

namespace Sys2Proof.Machine

/-- A VC command record (14 R313). -/
structure VcRec where
  op    : Nat
  vc    : Nat
  ctx   : BitVec 16
  cfg   : Nat
  pinq  : Nat
  sel   : Nat
  smap  : Nat
  out   : Nat
  token : W64
  resv  : Bool
  deriving DecidableEq, Repr

/-- The record's 64 bytes, given as one number. -/
def parseVc (x : Nat) : VcRec :=
  { op := recField x 0 1, vc := recField x 1 1, ctx := BitVec.ofNat 16 (recField x 2 2), cfg := recField x 8 8,
    pinq := recField x 0x10 8, sel := recField x 0x18 8, smap := recField x 0x20 8, out := recField x 0x30 8,
    token := BitVec.ofNat 64 (recField x 0x38 8), resv := recField x 4 4 != 0 || recField x 0x2C 4 != 0 }

/-- The row of the opcode table that performs a record's OP; an OP without one is refused by the row of op 0. -/
def vcRow (op : Nat) : Nat := if op < 8 then op else 0

/-- COUNT and NEAR of SEL. -/
def VcRec.count (m : VcRec) : Nat := bits m.sel 44 32
def VcRec.near (m : VcRec) : BitVec 16 := BitVec.ofNat 16 m.sel

/-- Fields of CFG. -/
def VcRec.lsz (m : VcRec) : Nat := bits m.cfg 3 2
def VcRec.ways (m : VcRec) : Nat := bits m.cfg 8 4 + 1
def VcRec.wpol (m : VcRec) : Nat := bits m.cfg 10 9
def VcRec.repl (m : VcRec) : Nat := bits m.cfg 12 11
def VcRec.place (m : VcRec) : Bool := bitAt m.cfg 13
def VcRec.rdies (m : VcRec) : BitVec 4 := BitVec.ofNat 4 (bits m.cfg 19 16)
def VcRec.bww (m : VcRec) : Nat := bits m.cfg 31 24

/-- Bits [31:2] of a record's first word as CFG gives them (14 R301). -/
def cfgOf (c : Cdr) : Nat :=
  c.lsz * 2 ^ 2 + (c.ways - 1) * 2 ^ 4 + c.wpol * 2 ^ 9 + c.repl * 2 ^ 11 + b2n c.place * 2 ^ 13 + c.rdies.toNat * 2 ^ 16 + c.bww * 2 ^ 24

/-- The VC from 1 to 63 that owns a share; 0 is the commons. -/
def ownerOf (s : State) (share : Nat) : Nat :=
  ((s.vc.cdrs.find? fun c => c.id != 0 && (c.shares ++ c.oshares).contains share).map (·.id)).getD 0

/-- The paddock whose near bank holds a share (14 R299). -/
def nearPad (share : Nat) : Nat := 4 * (share / 1536) + share % 1536 / 16 / 24

/-- Candidate shares lie in a near bank of a paddock set in NEAR (14 R314): with NEAR 0, which only named shares allow, none is
one. -/
def isCandidate (s : State) (near : BitVec 16) (i : Nat) : Bool :=
  decide (i < 6144) && !(awayShares s).contains i && !isFenced s i && near.getLsbD (nearPad i)
def candidates (s : State) (near : BitVec 16) : List Nat :=
  let out := awayShares s ++ (s.vc.retiring.filter fun r => r.stage != 0).map (·.share)
  (List.range 6144).filter fun i => !out.contains i && near.getLsbD (nearPad i)

/-- The bank that holds the most candidates, the lowest among equals. -/
def fullestBank (banks : List (List Nat)) : Nat :=
  (banks.zipIdx.foldl (fun (best : Nat × Nat) (x : List Nat × Nat) => if best.1 < x.1.length then (x.1.length, x.2) else best) (0, 0)).2

/-- Takes `n` shares one at a time, each the lowest candidate of the fullest bank (14 R314). -/
def takeShares : Nat → List (List Nat) → List Nat
  | 0, _ => []
  | n + 1, banks =>
    let b := fullestBank banks
    match banks.getD b [] with
    | [] => []
    | i :: _ => i :: takeShares n (modNth (·.drop 1) banks b)

/-- Shares in increasing order. -/
def sortShares (xs : List Nat) : List Nat := (List.range 6144).filter fun i => xs.contains i

/-- `n` shares chosen by NEAR; none where there are too few candidates (14 R314). -/
def freshShares (s : State) (near : BitVec 16) (n : Nat) : Option (List Nat) :=
  let cs := candidates s near
  let xs := takeShares n ((List.range 384).map fun b => cs.filter fun i => i / 16 == b)
  if xs.length < n then none else some xs

/-- The share set that a define, resize or move asks for (14 R314). -/
def chooseShares (s : State) (c : Cdr) (m : VcRec) (named : List Nat) : Option (List Nat) :=
  if m.smap ≠ 0 then
    if named.all fun i => isCandidate s m.near i || c.shares.contains i then some named else none
  else
    let kept := if m.op = 1 then c.shares.filter fun i => m.near.getLsbD (nearPad i) else []
    if m.count ≤ kept.length then some ((sortShares kept).take m.count)
    else (freshShares s m.near (m.count - kept.length)).map fun xs => sortShares (kept ++ xs)

/-- Holds a record for the VC event queue (14 R319). -/
def vcEvent (s : State) (typ : BitVec 16) (c : Cdr) (share : Nat) (token pay : W64) : State :=
  queueEvent s { ctx := c.ctx, va := 0, vcq := true, typ := typ, f1 := c.ctx, id := BitVec.ofNat 32 (c.id + 65536 * share),
                 pc := token, pay := pay, stamp := none }

/-- 64 records wait for the VC event queue (14 R319). -/
def vcEventsFull (s : State) : Bool := decide (64 ≤ (s.sch.events.filter (·.vcq)).length)

/-- The page of a pinned line is marked unhoused, and event 0x0102 names its VA (14 R323). -/
def unhouse (s : State) (c : Cdr) (l : VLine) : State :=
  let size := ((pageOf s l.ctx l.va).map (·.size)).getD 4096
  let va := l.va / size * size
  if s.vc.unhoused.contains (l.ctx, va, size) then s
  else
    let s := { s with vc := { s.vc with unhoused := s.vc.unhoused ++ [(l.ctx, va, size)] } }
    vcEvent s 0x0102 c 0xFFFF 0 (BitVec.ofNat 64 va)

/-- A line of the commons takes an invalid way of its new set, or leaves. A pinned one never leaves for shares that only change
hands (14 R310): it then has a way above WAYS (assumption log 31); a share that retires unhouses its page (14 R323). -/
def placeCommons (retires : Bool) (c : Cdr) (s : State) (l : VLine) : State :=
  let g := geoOf s c false l.die
  let set := g.set l.dpa
  let kept := l.pin && !retires
  match (if g.sets = 0 ∧ kept = false then none else emptyWay (setLines s 0 false l.die set) (if kept then 6144 * 16 else g.ways)) with
  | some w => addVLine s { l with set := set, way := w }
  | none => if l.pin then unhouse s c l else s

/-- The commons' sets after its shares have changed (14 R302, R318): pinned lines first, then the lines of the shares that
stay, then the dirty lines of those that leave; their clean lines are dropped. -/
def rehouseCommons (retires : Bool) (before s : State) : State :=
  match cdrOf s 0 with
  | none => s
  | some c =>
    let mine := s.vc.lines.filter fun l => l.vc == 0
    if mine.isEmpty then s
    else
      let keep := (List.range 4).map (commonsShares s)
      let stays (l : VLine) : Bool := (keep.getD l.die []).contains (shareOfSet before c false l.die l.set)
      let s := { s with vc := { s.vc with lines := s.vc.lines.filter fun l => l.vc != 0 } }
      let order := (mine.filter fun l => l.pin) ++ (mine.filter fun l => !l.pin && stays l) ++
        (mine.filter fun l => !l.pin && !stays l && l.dirty != 0)
      order.foldl (placeCommons retires c) s

/-- A change of shares, after which the commons is in order. -/
def withCommons (s : State) (f : State → State) : State := rehouseCommons false s (f s)

/-- Reserves the ways of the pinned lines in a migration's new geometry (14 R318). -/
def reserveMoved (s : State) (vc : Nat) : State :=
  match cdrOf s vc with
  | none => s
  | some c =>
    (s.vc.lines.filter fun l => l.vc == vc && l.old && l.pin).foldl (fun s l =>
      let g' := geoOf s c true l.die
      let g := geoOf s c false l.die
      if g.sets = 0 then s
      else (basesOf g l.dpa g'.lsz).foldl (fun s b =>
        let va := lineBase g (l.va + (b - l.dpa))
        if (findVLine s vc false l.die l.ctx va).isSome then s
        else
          match emptyWay (setLines s vc false l.die (g.set b)) g.ways with
          | some w => addVLine s { l with old := false, set := g.set b, way := w, va := va, dpa := b, valid := 0, dirty := 0 }
          | none => s) s) s

/-- A MIGRATION starts (14 R317): the old geometry is kept aside, and new shares leave the commons at once. -/
def startMigration (s : State) (c : Cdr) (lsz ways : Nat) (shares : List Nat) (token : W64) : State :=
  let f (s : State) : State :=
    let s := { s with vc := { s.vc with lines := mapIf (fun l => l.vc == c.id) (fun l => { l with old := true }) s.vc.lines } }
    onCdr s c.id fun x => { x with
      state := 2, olsz := x.lsz, oways := x.ways, oshares := x.shares, lsz := lsz, ways := ways, shares := shares, token := token,
      swept := (List.range 4).map fun d => (d, 0) }
  reserveMoved (withCommons s f) c.id

/-- Starts the retirement migrations that may start (14 R321, R322): of a fenced share whose VC is live. -/
def startRetiring (s : State) : State :=
  let s := if vcEventsFull s then s
    else { s with vc := { s.vc with retiring := s.vc.retiring.map fun r => if r.stage = 0 then { r with stage := 1 } else r } }
  s.vc.retiring.foldl (fun s r =>
    match cdrOf s (ownerOf s r.share) with
    | some c =>
      if r.stage = 1 ∧ c.id ≠ 0 ∧ c.state = 1 then
        let mark (x : Retire) : Retire := { x with stage := 2, vc := c.id }
        let s := { s with vc := { s.vc with retiring := mapIf (fun x => x.share == r.share) mark s.vc.retiring } }
        startMigration s c c.lsz c.ways (c.shares.filter fun i => i != r.share) 0
      else s
    | none => s) s

/-- A share is to be retired by a command (14 R315 op 6), or by its errors (14 R322): one that is on its way already answers
each command with its own event. -/
def orderRetire (s : State) (share : Nat) (token : W64) : State :=
  startRetiring { s with vc := { s.vc with retiring := s.vc.retiring ++ [{ share := share, vc := 0, token := token, stage := 0 }] } }
def retireShare (s : State) (share : Nat) : State :=
  if s.vc.retired.contains share ∨ s.vc.retiring.any fun r => r.share == share then s else orderRetire s share 0

/-- A geometry with given shares, on a die. -/
def geoWith (lsz ways : Nat) (shares : List Nat) (die : Nat) : Geo :=
  { lsz := lineBytes lsz, ways := ways, shares := (shares.filter fun i => i / 1536 == die).length }

/-- Statuses 5 and 6 of a new geometry (14 R316): too few ways in a slice for its pinned lines, or a set without an
unpinned way. -/
def pinStatus (s : State) (c : Cdr) (lsz ways : Nat) (shares : List Nat) : Nat :=
  let slices := (List.range 4).map fun d => let g := geoWith lsz ways shares d; (g, pinnedTags s c g d)
  if slices.any fun (g, bs) => decide (g.sets * g.ways < bs.length) then 5
  else if slices.any fun (g, bs) => pinsFull g bs then 6
  else 0

/-- The same statuses for the commons without the shares that a command takes from it: its pinned lines leave by no command
(14 R310). -/
def commonsPinStatus (s : State) (taken : List Nat) : Nat :=
  match cdrOf s 0 with
  | some c =>
    if s.vc.lines.any fun l => l.vc == 0 && l.pin then
      pinStatus s c c.lsz c.ways (((List.range 4).flatMap (commonsShares s)).filter fun i => !taken.contains i)
    else 0
  | none => 0

/-- Status 2 of a record (14 R316), except for what its bitmap says. -/
def vcBad (c : Cdr) (m : VcRec) : Bool :=
  let values := m.lsz == 3 || m.repl != 0 || m.bww == 0 || (m.place && (m.wpol == 0 || m.rdies == 0))
  decide (7 < m.op) || decide (63 < m.vc) || m.resv || m.cfg &&& (2 ^ 64 - 1 - 0xFF0F3FFC) != 0 || decide (2 ^ 21 ≤ m.pinq) ||
    (if m.op = 6 then decide (6144 ≤ m.sel) else m.op != 5 && m.sel &&& (2 ^ 64 - 1 - 0x1FFF0000FFFF) != 0) ||
    ((m.op == 0 || m.op == 1 || m.op == 5) && values) ||
    (decide (m.op < 3) && (m.count == 0 || decide (6144 < m.count) || (m.smap == 0 && m.near == 0))) ||
    (m.op == 5 && bits m.cfg 23 0 != bits (cfgOf c) 23 0) ||
    (m.op == 1 && (m.wpol != c.wpol || m.repl != c.repl || m.place != c.place || m.rdies != c.rdies))

/-- Status 9 (14 R316). -/
def vcMisplaced (m : VcRec) : Bool :=
  let off (a n : Nat) : Bool := a % 64 != 0 || decide (2 ^ 39 < a + n)
  (decide (m.op < 3) && m.smap != 0 && off m.smap 768) || (m.op == 4 && off m.out 64) || (m.op == 7 && off m.out 768)

/-- The shares that the record's bitmap names. -/
def namedShares (s : State) (m : VcRec) : List Nat :=
  if 2 < m.op ∨ m.smap = 0 then []
  else
    let x := homeRead s m.smap 768
    (List.range 6144).filter fun i => bitAt x i

/-- Statuses 8, 3 and 7 (14 R315, R316). -/
def vcDenied (s : State) (c : Cdr) (m : VcRec) : Nat :=
  let own := m.op == 1 || m.op == 2 || m.op == 3 || m.op == 5
  if own ∧ m.ctx ≠ c.ctx then 8
  else if m.op < 4 ∧ (c.id = 0 ∨ c.state ≠ (if m.op = 0 then 0 else 1)) then 3
  else if m.op = 5 ∧ c.state ≠ 1 ∧ c.state ≠ 2 then 3
  else if m.op = 6 ∧ s.vc.retired.contains m.sel then 3
  else if m.op = 0 ∧ mapCount s c.id ≠ 0 then 7
  else 0

/-- The 64 bytes of a record, with its count of mappings (14 R301). -/
def cdrImage (c : Cdr) (maps : Nat) : List Byte :=
  let old := c.state == 2
  leBytes 8 (c.state + cfgOf c + c.ctx.toNat * 2 ^ 32 + c.gen.toNat * 2 ^ 48) ++ leBytes 8 c.pinq ++
  leBytes 8 (c.near.toNat + c.shares.length * 2 ^ 32) ++
  leBytes 8 (if old then c.olsz * 4 + (c.oways - 1) * 16 + c.oshares.length * 2 ^ 32 else 0) ++
  leBytes 8 (c.pinuse + maps % 2 ^ 32 * 2 ^ 32) ++ leBytes 8 c.hits.toNat ++ leBytes 8 c.misses.toNat ++ leBytes 8 0

/-- The image of a VC; the commons' share count is that of the shares it holds (14 R299). -/
def vcImage (s : State) (c : Cdr) : List Byte :=
  cdrImage (if c.id = 0 then { c with shares := (List.range 4).flatMap (commonsShares s) } else c) (mapCount s c.id)

/-- The bitmap of a VC's current shares (14 R315 op 7). -/
def shareMap (s : State) (c : Cdr) : List Byte :=
  let xs := if c.id = 0 then (List.range 4).flatMap (commonsShares s) else c.shares
  (List.range 768).map fun i => (List.range 8).foldl (fun (b : Byte) j => if xs.contains (8 * i + j) then b ||| (1#8 <<< j) else b) 0

/-- What an accepted command does, with its status (14 R315). -/
def vcPerform (s : State) (c : Cdr) (m : VcRec) (shares : List Nat) : State × Nat :=
  match m.op with
  | 0 =>
    let f (s : State) : State := onCdr s c.id fun x => { x with
      state := 1, lsz := m.lsz, ways := m.ways, wpol := m.wpol, repl := m.repl, place := m.place, rdies := m.rdies,
      bww := m.bww, ctx := m.ctx, gen := x.gen + 1, pinq := m.pinq, near := m.near, shares := shares, pinuse := 0, hits := 0,
      misses := 0 }
    (withCommons s f, 0)
  | 1 =>
    let s := startMigration s c m.lsz m.ways shares m.token
    (onCdr s c.id fun x => { x with bww := m.bww, near := m.near }, 1)
  | 2 =>
    let s := startMigration s c c.lsz c.ways shares m.token
    (onCdr s c.id fun x => { x with near := m.near }, 1)
  | 3 => (onCdr s c.id fun x => { x with state := 3, token := m.token, swept := (List.range 4).map fun d => (d, 0) }, 1)
  | 4 => (homePut s m.out (vcImage s c), 0)
  | 5 => (onCdr s c.id fun x => { x with bww := m.bww, pinq := m.pinq }, 0)
  | 6 => (orderRetire s m.sel m.token, 1)
  | _ => (homePut s m.out (shareMap s c), 0)

/-- A VC command on a parsed record: none where it waits for event room (14 R319), else its state and status. Statuses
are judged in the order 2, 9, 8, 3, 7, 4, 5, 6 (14 R316). -/
def vcRun (s : State) (m : VcRec) : Option (State × Nat) :=
  match cdrOf s m.vc with
  | none => some (s, 2)
  | some c =>
    let named := namedShares s m
    if vcBad c m then some (s, 2)
    else if vcMisplaced m then some (s, 9)
    else if m.op < 3 ∧ m.smap ≠ 0 ∧ named.length ≠ m.count then some (s, 2)
    else if vcDenied s c m ≠ 0 then some (s, vcDenied s c m)
    else if vcEventsFull s ∧ (m.op = 1 ∨ m.op = 2 ∨ m.op = 3 ∨ m.op = 6) then none
    else if m.op = 5 then if m.pinq < c.pinuse then some (s, 5) else some (vcPerform s c m [])
    else if 2 < m.op then some (vcPerform s c m [])
    else
      match chooseShares s c m named with
      | none => some (s, 4)
      | some xs =>
        let own := if m.op = 0 then 0 else pinStatus s c (if m.op = 1 then m.lsz else c.lsz) (if m.op = 1 then m.ways else c.ways) xs
        let st := if own = 0 then commonsPinStatus s xs else own
        if st ≠ 0 then some (s, st) else some (vcPerform s c m xs)

/-- A VC command (14 R313): the record is read under the issuing context, carried out, and its STATUS written; a record
that cannot be read or written stops the `syswr` with the cause found (assumption log 19). -/
def vcCommand (s : State) (c row : Nat) : State :=
  match pendingWrite s c 0x90, droveOf s c with
  | some x, some d =>
    match vaRecord s d.ctx x.toNat 64 with
    | (.inr cause, s) => stopHere (select s c) cause 0 x.toNat
    | (.inl (bs, ds), s) =>
      let m := parseVc (leNat bs)
      if vcRow m.op ≠ row then s
      else
        match vcRun s m with
        | none => s
        | some (s, st) => writeDone (setStatus (putPlaces s (ds.drop 0x28) (leBytes 4 st)) c 0x90 st) c
  | _, _ => s

/-- Op 0 (14 R315); an OP outside the set gives status 2 (14 R313). -/
def execVcDefine (c : Nat) (s : State) : Out := .next <| vcCommand s c 0
def execVcResize (c : Nat) (s : State) : Out := .next <| vcCommand s c 1
def execVcMove (c : Nat) (s : State) : Out := .next <| vcCommand s c 2
def execVcFree (c : Nat) (s : State) : Out := .next <| vcCommand s c 3
def execVcRead (c : Nat) (s : State) : Out := .next <| vcCommand s c 4
def execVcModify (c : Nat) (s : State) : Out := .next <| vcCommand s c 5
def execVcRetireShare (c : Nat) (s : State) : Out := .next <| vcCommand s c 6
def execVcShareMap (c : Nat) (s : State) : Out := .next <| vcCommand s c 7

/-- The sweep meets one line of an old set (14 R318, R320, R323). -/
def sweepLine (c : Cdr) (s : State) (l : VLine) : State :=
  let g := geoOf s c false l.die
  let g' := geoOf s c true l.die
  let retires := s.vc.retiring.any fun r => r.stage == 2 && r.vc == c.id && c.oshares.contains r.share
  if c.state = 3 then leaveVLine s l
  else if l.pin then
    let lacks := g.sets = 0 || (basesOf g l.dpa g'.lsz).any fun b =>
      (findVLine s c.id false l.die l.ctx (lineBase g (l.va + (b - l.dpa)))).isNone &&
        (emptyWay (setLines s c.id false l.die (g.set b)) g.ways).isNone
    if lacks then leaveVLine (if retires then unhouse s c l else s) l
    else
      let s := moveVLine (fun _ s set => (emptyWay (setLines s c.id false l.die set) g.ways, s)) s c l
      { s with vc := { s.vc with lines := s.vc.lines.map fun x =>
        if x.vc = c.id && !x.old && x.die = l.die && x.ctx = l.ctx && decide (l.dpa < x.dpa + g.lsz) && decide (x.dpa < l.dpa + g'.lsz)
        then { x with pin := true } else x } }
  else if l.dirty ≠ 0 then moveVLine (fun _ s set => spareWay c l.die s set) s c l
  else leaveVLine s l

/-- The next set of a sweep in a die's slice, and whether the walk is of the old geometry (14 R318, R320). -/
def sweepAt (c : Cdr) (die : Nat) : Nat := ((c.swept.find? fun x => x.1 == die).map (·.2)).getD 0
def sweepLeft (s : State) (c : Cdr) (die : Nat) : Bool := decide (sweepAt c die < (geoOf s c (migrating c) die).sets)

/-- The sweep handles the lines of one set (14 R318). -/
def execVcSweepSet (vc die : Nat) (s : State) : Out :=
  .next <|
    match cdrOf s vc with
    | none => s
    | some c =>
      if (c.state = 2 ∨ c.state = 3) ∧ die < 4 ∧ sweepLeft s c die = true then
        let s := (setLines s vc (migrating c) die (sweepAt c die)).foldl (sweepLine c) s
        onCdr s vc fun x => { x with swept := x.swept.map fun (d, n) => if d = die then (d, n + 1) else (d, n) }
      else s

/-- Every set of the walk has been swept. -/
def sweptOut (s : State) (c : Cdr) : Bool := (List.range 4).all fun d => !sweepLeft s c d

/-- Shares join the retired set, which the field record keeps (14 R322, 19 R421). -/
def joinRetired (s : State) (xs : List Nat) : State :=
  let mark (m : List (Nat × W64)) : List (Nat × W64) := xs.foldl (fun m i => mapSet 0 m i (mapGet 0 m i ||| (1#64 <<< 48))) m
  { s with
    vc := { s.vc with retired := s.vc.retired ++ xs.filter fun i => !s.vc.retired.contains i }
    dev := { s.dev with record := mark s.dev.record, stored := mark s.dev.stored } }

/-- A migration completes (14 R319): the old geometry is gone, its other shares return to the commons, or to the retired set,
GEN advances and event 0x0100 is held; a retirement that waited starts (14 R321). -/
def execVcMigrationComplete (vc : Nat) (s : State) : Out :=
  .next <|
    match cdrOf s vc with
    | none => s
    | some c =>
      if c.state = 2 ∧ sweptOut s c = true then
        let f (s : State) : State := onCdr s vc fun x => { x with
          state := 1, olsz := 0, oways := 0, oshares := [], gen := x.gen + 1, token := 0, swept := [] }
        let gone := (s.vc.retiring.filter fun r => r.stage == 2 && r.vc == vc && c.oshares.contains r.share).map (·.share)
        let s := withCommons s fun s => joinRetired (f s) gone
        startRetiring (vcEvent s 0x0100 c 0xFFFF c.token ((c.gen + 1).setWidth 64))
      else s

/-- Freeing finishes (14 R320): the shares return to the commons and event 0x0103 is held. -/
def execVcFreeComplete (vc : Nat) (s : State) : Out :=
  .next <|
    match cdrOf s vc with
    | none => s
    | some c =>
      if c.state = 3 ∧ sweptOut s c = true then
        let f (s : State) : State := onCdr s vc fun x => { x with state := 0, shares := [], token := 0, swept := [] }
        startRetiring (vcEvent (withCommons s f) 0x0103 c 0xFFFF c.token (c.gen.setWidth 64))
      else s

/-- A retirement completes once no VC from 1 to 63 holds the share (14 R322): one of the commons leaves it, its lines moving into
the commons' other sets; the share is in the retired set, and event 0x0101 is held. -/
def execShareRetireComplete (share : Nat) (s : State) : Out :=
  .next <|
    match s.vc.retiring.find? fun r => r.share == share with
    | none => s
    | some r =>
      if r.stage = 0 ∨ ownerOf s share ≠ 0 then s
      else
        let s := if s.vc.retired.contains share then s else rehouseCommons true s (joinRetired s [share])
        let s := { s with vc := { s.vc with retiring := s.vc.retiring.erase r } }
        match cdrOf s r.vc with
        | some c => vcEvent s 0x0101 c share r.token (c.gen.setWidth 64)
        | none => s

/-- A corrected error of a share is counted; at RETTHR.CE of them the share is retired (14 R322, 19 R421). An operand from 0x1800 to
0x18FF stands for an HBM channel, whose corrected errors are counted alone (19 R420; assumption log 31). -/
def execCorrectedError (share : Nat) (s : State) : Out :=
  .next <|
    let s := if share < 0x1900 then countRecord s share 0 32 else s
    let ce := (privReg s 0x92).toNat % 65536
    if share < 6144 ∧ ce ≠ 0 ∧ ce ≤ (mapGet (0 : W64) s.dev.record share).toNat % 2 ^ 32 then retireShare s share else s

/-- The HBM channel of a DPA, as a field-record entry (13 R279, 19 R420). -/
def channelEntry (dpa : Nat) : Nat :=
  let pa := dpa % 2 ^ 37
  let stack := 2 * (dpa / 2 ^ 37) + (bits pa 8 8 ^^^ bits pa 17 17)
  0x1800 + 32 * stack + (bits pa 13 9 ^^^ bits pa 22 18)

/-- VAs of the present pages of a context on a die, whose frames hold a granule. -/
def pagesOver (s : State) (x : Ctx) (die g : Nat) : List Nat :=
  (leavesOf s x die).filterMap fun (va, w0, w1) =>
    let f := frameDpa die w1
    if !bitAt w0 1 && decide (f ≤ g) && decide (g < f + pageSize (leafSz w0)) then some va else none

/-- A granule is unmapped from every context (17 R377). -/
def unmapGranule (s : State) (g : Nat) : State :=
  let die := g / 2 ^ 37
  s.sch.ctxs.foldl (fun s x =>
    (pagesOver s x die g).foldl (fun s va =>
      match pageOf s x.id va with
      | some p => removePage s x.id va p
      | none => s) s) s

/-- Words of a granule enter its die's address error table of 4,096 entries; the oldest of a full one makes room (15 R343,
17 R377). -/
def enterAet (s : State) (g : Nat) (m : BitVec 32) : State :=
  let mine := s.dev.aet.filter fun a => a.1 / 2 ^ 37 == g / 2 ^ 37
  if s.dev.aet.any fun a => a.1 == g then
    { s with dev := { s.dev with aet := mapIf (fun a => a.1 == g) (fun a => (a.1, a.2 ||| m)) s.dev.aet } }
  else
    let s := if mine.length < 4096 then s else
      match mine with
      | old :: _ =>
        let s := unmapGranule s old.1
        { s with dev := { s.dev with aet := s.dev.aet.filter fun a => a.1 != old.1 } }
      | [] => s
    { s with dev := { s.dev with aet := s.dev.aet ++ [(g, m)] } }

/-- An uncorrectable error in the dirty word at `dpa` that its owner returns, core `c` or the host as 64 (15 R343): the word enters
the table where a message asks for it, else with the write-back that finds it. -/
def ownerError (s : State) (dpa c : Nat) : State :=
  let g := granOf dpa
  let w := wordMask (dpa % 128) 1
  let e := dirOf s g
  let asked := e.msgs.any fun m => match m with
    | .claim x => x &&& w != 0
    | .recall | .recallShared => true
    | _ => false
  if c = 64 then
    if !e.hown ∨ !(e.hostDirty.any fun b => b.1 / 4 == dpa / 4) then s
    else if e.st = .t then (if asked then enterAet s g w else s)
    else if hasOwner e then enterAet (recallAll s g) g w
    else s
  else
  match ownedLine s c g with
  | none => s
  | some l =>
    if l.dirty &&& bytesOf w = 0 ∨ w &&& e.wmask ≠ 0 then s
    else if e.st = .t then (if asked then enterAet s g w else s)
    else enterAet (leaveL1 s l) g w

/-- An uncorrectable error of a line of a share, or of HBM, is counted and its granule entered (17 R377, 19 R420); a share
is retired under RETTHR.UE, and the line that was hit is not moved (14 R322). `share` 6,144 + c stands for the dirty words of
core c, and 6,208 for those of the host (15 R343). -/
def execUncorrectableError (dpa : Nat) (share : Option Nat) (s : State) : Out :=
  .next <|
    if 2 ^ 39 ≤ dpa then s
    else if share.any fun i => 6144 ≤ i then ownerError s dpa (share.getD 0 - 6144)
    else
      let g := granOf dpa
      let s := enterAet s g (BitVec.allOnes 32)
      match share with
      | none => countRecord s (channelEntry dpa) 32 16
      | some i =>
        let hit (l : VLine) : Bool :=
          match cdrOf s l.vc with
          | some c => decide (l.dpa ≤ g) && decide (g < l.dpa + (geoOf s c l.old l.die).lsz) && shareOfSet s c l.old l.die l.set == i
          | none => false
        let s := (s.vc.lines.filter hit).foldl (fun s l =>
          if l.pin then setVLine (reportLeave s l) { l with valid := 0, dirty := 0 } else leaveVLine s l) s
        let s := countRecord s i 32 16
        if bitAt (privReg s 0x92).toNat 16 then retireShare s i else s

/-- A write to AETCLR removes a granule from its error table (17 R377). -/
def execAetclrWrite (c : Nat) (s : State) : Out :=
  .next <|
    match pendingWrite s c 0xC5 with
    | some x => writeDone { s with dev := { s.dev with aet := s.dev.aet.filter fun a => a.1 != granOf x.toNat } } c
    | none => s

/-- A device record is posted once its queue has room (11 R441); one whose header is unusable is counted and dropped, or
held for VCEVQ. -/
def execDeviceEventPost (k : Nat) (s : State) : Out :=
  .next <|
    match postable s k with
    | none => s
    | some e =>
      let drop (s : State) : State := { s with sch := { s.sch with events := s.sch.events.eraseIdx k } }
      match tryPost s e with
      | .full => s
      | .posted s => if e.vcq then startRetiring (drop s) else drop s
      | .unusable => if e.vcq then s else drop (countRecord s 0x1A4A 0 64)

end Sys2Proof.Machine
end

