-- ==== Sys2Proof/Machine/Copy.lean ====
section
/-! DEFINITION. The copy engine (11 R244-R250). A copy runs, as far as it comes without a fault, in one step
(assumption log 9). -/

namespace Sys2Proof.Machine

/-- The fields of a copy descriptor (11 R244). -/
def copyMode (d2 : W64) : Nat := bits d2.toNat 63 60
def copySsp (d2 : W64) : Bool := d2.getLsbD 57
def copyDsp (d2 : W64) : Bool := d2.getLsbD 56
def copyNblk (d2 : W64) : Nat := bits d2.toNat 47 39
def copyRows (d2 : W64) : Nat := bits d2.toNat 38 32 + 1
def copyLen (d2 : W64) : Nat := bits d2.toNat 31 0

/-- Fields outside their sets (11 R244). -/
def copyBad (d0 d1 d2 d3 : W64) : Bool :=
  let n := copyLen d2
  let m := copyMode d2
  bits d2.toNat 55 48 != 0 || decide (2 < m) ||
    (m == 0 && (d3 != 0 || (copySsp d2 == copyDsp d2 && overlap d0.toNat n d1.toNat n && n != 0))) ||
    (m != 0 && (copyNblk d2 == 0 || decide (256 < copyNblk d2))) ||
    (m == 1 && (copySsp d2 || !copyDsp d2)) || (m == 2 && copyDsp d2)

/-- The scratchpad ranges of a copy: address and bytes (11 R244-R247). -/
def copyRanges (d0 d1 d2 d3 : W64) : List (Nat × Nat) :=
  let n := copyLen d2
  let blocks := copyRows d2 * copyNblk d2
  match copyMode d2 with
  | 0 => (if copySsp d2 then [(d0.toNat, n)] else []) ++ (if copyDsp d2 then [(d1.toNat, n)] else [])
  | 1 => [(d1.toNat, 32 * blocks), (d3.toNat, 8 * blocks + 520)]
  | _ => if copySsp d2 then (List.range (copyRows d2)).map fun i => (d0.toNat + i * d3.toNat, 128 * copyNblk d2) else []

/-- The device addresses of a copy: address and bytes. -/
def copyDeviceRanges (d0 d1 d2 d3 : W64) : List (Nat × Nat) :=
  let n := copyLen d2
  match copyMode d2 with
  | 0 => (if copySsp d2 then [] else [(d0.toNat, n)]) ++ (if copyDsp d2 then [] else [(d1.toNat, n)])
  | 1 => [(d0.toNat, 1)]
  | _ => (d1.toNat, 1) :: if copySsp d2 then [] else
      (List.range (copyRows d2)).map fun i => ((d0.toNat + i * d3.toNat) % 2 ^ 64, 128 * copyNblk d2)

/-- A range of addresses has a byte in the scratchpad aperture or on the reserved route (09 R181, 13 R278). -/
def offDevice (x n : Nat) : Bool := n != 0 && (overlap x n apertureBase 0x140000 || decide (3 * 2 ^ 62 < x + n))

/-- Alignment of a copy's addresses (11 R244). -/
def copyMisaligned (d0 d1 d2 d3 : W64) : Bool :=
  match copyMode d2 with
  | 0 => false
  | 1 => d3.toNat % 8 != 0 || d1.toNat % 4 != 0
  | _ => d3.toNat % 4 != 0 || (copySsp d2 && d0.toNat % 4 != 0)

/-- The checks and waits of `cpy`: SBCNT first, then the descriptor, the object and the core's queue of 8 (11 R244). -/
def copyVerdict (a b : Nat) (s : State) : Verdict :=
  let r (i : Nat) : W64 := sreg s.dr (a + i)
  firstOf [waitIf (decide (0 < sbcnt s s.dr.uid)) .drain,
    stopIf (copyBad (r 0) (r 1) (r 2) (r 3)) 0x02,
    firstOf ((copyRanges (r 0) (r 1) (r 2) (r 3)).map fun (x, n) => stopIf (n != 0 && !inGrant s.dr x n) 0x0C 0 x),
    stopIf (copyMisaligned (r 0) (r 1) (r 2) (r 3)) 0x14,
    firstOf ((copyDeviceRanges (r 0) (r 1) (r 2) (r 3)).map fun (x, n) => stopIf (offDevice x n) 0x14 0 x),
    objVerdict s.dr (sreg s.dr b).toNat,
    waitIf (decide (8 ≤ (s.eng.copies.filter fun c => c.core == s.dr.core).length)) .table]

/-- `cpy` (11 R244): the descriptor is copied, and the drove continues. -/
def execCpy (a b : BitVec 6) (s : State) : Out :=
  .next <| issueIf { uses := [{ cls := .scl, base := a.toNat, n := 4, align := 4 }, srcS b.toNat], sync := true }
    (copyVerdict a.toNat b.toNat) s fun s =>
      let r (i : Nat) : W64 := sreg s.dr (a.toNat + i)
      let (s, q) := takeTurn s (Req.fresh s .abarr 16 [])
      let c : CopyJob :=
        { id := q.id, flock := s.dr.flock, range := s.dr.range, ctx := s.dr.ctx, core := s.dr.core, drove := s.dr.uid,
          droveId := s.dr.droveId, pc := s.dr.pc, lclk := s.dr.lclk, d0 := r 0, d1 := r 1, d2 := r 2, d3 := r 3,
          obj := sreg s.dr b.toNat, spb := s.dr.spb.toNat, spl := s.dr.spl.toNat, prog := 0, parked := false, orphan := false,
          turnAt := q.turnAt }
      retire { s with uid := s.uid + 1, eng := { s.eng with copies := s.eng.copies ++ [c] } }

/-- Base of the copy's scratchpad: that of the paddock on which its flock is resident. -/
def copyPad (s : State) (c : CopyJob) : Nat := spadBase (padOf ((flockOf s c.flock).elim c.core (·.core)))

/-- `n` device bytes of a copy, in one granule, as their owning die grants them: a compressed page is expanded first (11 R248). -/
def copyLeaf (s : State) (c : CopyJob) (va n : Nat) (ask : Ask) (bx : Bool) : (Leaf ⊕ BitVec 8) × State :=
  match dieAccess (openPage s c.ctx va) c.ctx va ask bx with
  | (.inr cause, s) => (.inr (if cause = 0x12 then 0x10 else cause), s)
  | (.inl l, s) => if leafEf l.attr = 0 ∧ aetMeets s l.dpa n = true then (.inr 0x17, s) else (.inl l, s)

/-- The page of a leaf is outside the directory (15 R339). -/
def copyNc (l : Leaf) : Bool := leafNc l.attr || leafHome l.attr == 3

/-- A copy's access to device memory passes the page's virtual cache, on route 00 alone (13 R278). -/
def copyPasture (s : State) (c : CopyJob) (l : Leaf) (a va : Nat) (write : Bool) : State :=
  if routeOf a = 0 then pastureAccess s l.attr c.ctx va l.dpa (dieOfCore c.core) write else s

/-- Up to a granule of source bytes from `va` (11 R245): those of device memory as the home serves a `.w` load. -/
def copyRead (s : State) (c : CopyJob) (spad : Bool) (a n : Nat) : (List Byte ⊕ BitVec 8) × State :=
  let va := localOf s a
  if spad then (.inl (memBytes s.mem.spad (copyPad s c + a) n), s)
  else
    match routeOf va with
    | 0 =>
      match copyLeaf s c va n .read false with
      | (.inr cause, s) => (.inr cause, s)
      | (.inl l, s) =>
        let s := copyPasture (takeRead s l.dpa n (copyNc l)) c l a va false
        (.inl (homeBytes s l.dpa n), s)
    | 1 =>
      let s := (draw s).2
      match peerCause s c.ctx (bits va 61 52) with
      | some cause => (.inr cause, s)
      | none => (.inl (memBytes s.mem.peer (va % 2 ^ 62) n), s)
    | 2 => (.inl (memBytes s.mem.host (va % 2 ^ 62) n), s)
    | _ => (.inr 0x14, s)

/-- Writes up to a granule of bytes, or answers a cause. The engine keeps no copy, so DPOL changes nothing that it does: each
policy's write reaches the home (09 R188, DEDUCED, assumption log 9). -/
def copyWrite (s : State) (c : CopyJob) (spad : Bool) (a : Nat) (bs : List Byte) : Option (BitVec 8) × State :=
  let va := localOf s a
  if spad then (none, onSpad s fun m => memPut m (copyPad s c + a) bs)
  else
    match routeOf va with
    | 0 =>
      match copyLeaf s c va bs.length .write false with
      | (.inr cause, s) => (some cause, s)
      | (.inl l, s) =>
        let s := copyPasture s c l a va true
        (none, putAt s ((List.range bs.length).map fun i => (l.dpa + i, copyNc l)) bs (some (dieOfCore c.core)))
    | 1 =>
      let s := (draw s).2
      match peerCause s c.ctx (bits va 61 52) with
      | some cause => (some cause, s)
      | none => (none, { s with mem := { s.mem with peer := memPut s.mem.peer (va % 2 ^ 62) bs } })
    | 2 => (none, hostPut s (va % 2 ^ 62) bs)
    | _ => (some 0x14, s)

/-- How far a copy has come, and the cause with its address that stops it there; none when it is complete. -/
abbrev CopyRun := State × Nat × Option (BitVec 8 × Nat)

/-- Source bytes that may span granules. -/
def copyReads (c : CopyJob) : Nat → State → Nat → Nat → (List Byte ⊕ BitVec 8 × Nat) × State
  | 0, s, _, _ => (.inl [], s)
  | fuel + 1, s, a, n =>
    let a := a % 2 ^ 64
    let k := min n (128 - a % 128)
    if k = 0 then (.inl [], s)
    else
      match copyRead s c (copySsp c.d2) a k with
      | (.inr cause, s) => (.inr (cause, a), s)
      | (.inl bs, s) =>
        match copyReads c fuel s (a + k) (n - k) with
        | (.inl cs, s) => (.inl (bs ++ cs), s)
        | r => r

/-- A plain copy from byte `pos` on, granule by granule of the destination: each is written once all of its source bytes have been
read, so no aligned word of it is written in part (11 R245, R250). -/
def plainRun (c : CopyJob) : Nat → State → Nat → CopyRun
  | 0, s, pos => (s, pos, none)
  | fuel + 1, s, pos =>
    let a := (c.d0.toNat + pos) % 2 ^ 64
    let b := (c.d1.toNat + pos) % 2 ^ 64
    let n := min (copyLen c.d2 - pos) (128 - b % 128)
    if n = 0 then (s, pos, none)
    else
      match copyReads c 2 s a n with
      | (.inr (cause, x), s) => (s, pos, some (cause, x))
      | (.inl bs, s) =>
        match copyWrite s c (copyDsp c.d2) b bs with
        | (some cause, s) => (s, pos, some (cause, b))
        | (none, s) => plainRun c fuel s (pos + n)

/-- The frame that a staging or encoding copy works in, and the number of its first element (11 R246, R247): an address off
route 00, or a page without a block format, is refused as a format is. -/
def copyFrame (s : State) (c : CopyJob) (a : Nat) (ask : Ask) : ((Frame × Nat × Leaf) ⊕ BitVec 8) × State :=
  let va := localOf s a
  if routeOf va ≠ 0 then (.inr 0x13, s)
  else
    match copyLeaf s c va 1 ask true with
    | (.inr cause, s) => (.inr cause, s)
    | (.inl l, s) =>
      let (f, e) := frameOf l va
      if leafEf l.attr = 0 then (.inr 0x13, s) else (.inl (f, e, l), s)

/-- Block number of block `q` of row `i`. -/
def copyBlock (c : CopyJob) (e i q : Nat) : Nat := (e + i * copyLen c.d2) / 32 + q

/-- The copy breaks the element rules of its frame: e0 or SROW not a multiple of 32, or a block beyond the frame. -/
def copyOutside (c : CopyJob) (f : Frame) (e : Nat) : Bool :=
  e % 32 != 0 || copyLen c.d2 % 32 != 0 ||
    decide (f.blocks < copyBlock c e (copyRows c.d2 - 1) (copyNblk c.d2 - 1) + 1)

/-- The header, selector and payload of a block pass through the page's virtual cache. -/
def copyTouch (s : State) (c : CopyJob) (f : Frame) (l : Leaf) (va n : Nat) (write : Bool) : State :=
  if routeOf va ≠ 0 then s
  else [f.hdr n, f.sel n, f.pay n].foldl (fun s d =>
    pastureAccess s l.attr c.ctx (va - va % f.size + (d - f.base)) d (dieOfCore c.core) write) s

/-- The f32 word of an escape, as its side-list entry holds it, and whether it mismatched (11 R246). -/
def escapeWord (s : State) (f : Frame) (n i : Nat) : W32 × Bool :=
  let ol := bits (f.header s n) 31 16
  let k := countLanes i fun j => f.code s n j == bxEscape f.ef
  match f.decode s (32 * n + i) with
  | .val _ => (BitVec.ofNat 32 (bits (homeRead s (f.side (ol + k)) 8) 63 32), false)
  | .nan => (0x7FC00000, false)
  | .mismatch => (0x7FC00000, true)

/-- STAGING of one block (11 R246), a group read (15 R336): codes, its scale-stream entry, and its escapes in the correction
area. -/
def stageBlock (s : State) (c : CopyJob) (f : Frame) (n i q : Nat) : State :=
  let s := takeBlock s f (f.reads s n)
  let nb := copyNblk c.d2
  let esc := bxEscape f.ef
  let codes := (List.range 32).map fun m => f.code s n m
  let base := copyPad s c
  let corr := base + c.d3.toNat + 8 * copyRows c.d2 * nb
  let count := if i = 0 ∧ q = 0 then 0 else memRead s.mem.spad corr 8
  let lows := codes.map fun x => BitVec.ofNat 8 (if x = esc then 0 else x)
  let s' := onSpad s fun m =>
    let m := memPut m (base + c.d1.toNat + i * 32 * nb + 32 * q) lows
    memWrite m (base + c.d3.toNat + 8 * (i * nb + q)) 8 (f.header s n + f.selector s n * 2 ^ 32)
  let outs := (List.range 32).filter fun m => codes.getD m 0 == esc
  let (s', count) := outs.foldl (fun (acc : State × Nat) m =>
    let (s', k) := acc
    let (w, bad) := escapeWord s f n m
    let s' := if bad then countLane16 s' 0x8D (f.base / 2 ^ 37 % 4) else s'
    let s' := if k < 64 then onSpad s' fun x => memWrite x (corr + 8 + 8 * k) 8 (w.toNat * 2 ^ 32 + i * 2 ^ 13 + 32 * q + m) else s'
    (s', min (k + 1) 0xFFFF)) (s', count)
  onSpad s' fun m => memWrite m corr 8 count

/-- A staging copy from block `pos` on, row by row (11 R246). -/
def stageRun (c : CopyJob) (f : Frame) (e : Nat) (l : Leaf) : Nat → State → Nat → CopyRun
  | 0, s, pos => (s, pos, none)
  | fuel + 1, s, pos =>
    let i := pos / copyNblk c.d2
    let q := pos % copyNblk c.d2
    let n := copyBlock c e i q
    if copyRows c.d2 ≤ i then (s, pos, none)
    else if blockInAet s (f.reads s n) then (s, pos, some (0x17, c.d0.toNat))
    else stageRun c f e l fuel (stageBlock (copyTouch s c f l c.d0.toNat n false) c f n i q) (pos + 1)

/-- The 32 source values of block `q` of row `i` (11 R247). -/
def encodeSource (s : State) (c : CopyJob) (i q : Nat) : (List (FV × Nat) ⊕ BitVec 8 × Nat) × State :=
  match copyReads c 3 s (c.d0.toNat + i * c.d3.toNat + 128 * q) 128 with
  | (.inl bs, s) => (.inl ((List.range 32).map fun k =>
      let w := leNat ((bs.drop (4 * k)).take 4)
      (f32.read false w, w)), s)
  | (.inr x, s) => (.inr x, s)

/-- An encoding copy from block `pos` on, row by row (11 R247). -/
def encodeRun (c : CopyJob) (f : Frame) (e : Nat) (l : Leaf) : Nat → State → Nat → CopyRun
  | 0, s, pos => (s, pos, none)
  | fuel + 1, s, pos =>
    let i := pos / copyNblk c.d2
    let q := pos % copyNblk c.d2
    let n := copyBlock c e i q
    if copyRows c.d2 ≤ i then (s, pos, none)
    else
      match encodeSource s c i q with
      | (.inr x, s) => (s, pos, some x)
      | (.inl xs, s) =>
        let b := bxEncode f.ef xs
        if blockInAet s (f.puts s n b.outs.length) then (s, pos, some (0x17, c.d1.toNat))
        else encodeRun c f e l fuel (writeBlock (copyTouch s c f l c.d1.toNat n true) f n b) (pos + 1)

/-- The sources of every block, in row order, before any is written. -/
def encodeGather (c : CopyJob) (e : Nat) : Nat → State → Nat → (List (Nat × List (FV × Nat)) ⊕ BitVec 8 × Nat) × State
  | 0, s, _ => (.inl [], s)
  | fuel + 1, s, pos =>
    let i := pos / copyNblk c.d2
    let q := pos % copyNblk c.d2
    if copyRows c.d2 ≤ i then (.inl [], s)
    else
      match encodeSource s c i q with
      | (.inr x, s) => (.inr x, s)
      | (.inl xs, s) =>
        match encodeGather c e fuel s (pos + 1) with
        | (.inl ys, s) => (.inl ((copyBlock c e i q, xs) :: ys), s)
        | r => r

/-- The blocks of a frame are all written by the copy (02 R55). -/
def encodesAll (c : CopyJob) (f : Frame) (e : Nat) : Bool :=
  (List.range f.blocks).all fun n => (List.range (copyRows c.d2)).any fun i =>
    let b := copyBlock c e i 0
    decide (b ≤ n) && decide (n < b + copyNblk c.d2)

/-- The bytes of every block of a frame and of its side list. -/
def Frame.whole (f : Frame) : List (Nat × Nat) := ((List.range f.blocks).flatMap f.parts) ++ [(f.side 0, 8 * bxCap f.geo)]

/-- The side list of a frame is emptied: no block has a run, and the fill count is 0 (02 R55). -/
def clearSide (s : State) (f : Frame) : State :=
  if bxCap f.geo = 0 then s
  else
    let s := takeBlock s f f.whole
    let s := (List.range f.blocks).foldl (fun s n => rawWrite s (f.hdr n) 4 (f.header s n ||| 0xFFFF0000)) s
    let s := (List.range (bxCap f.geo - 1)).foldl (fun s k => rawWrite s (f.side k) 8 0xFFFFFF) s
    rawWrite s f.trailer 2 0

/-- An encoding copy that writes every block of a frame lays the runs out from entry 0 in block order (02 R55); it writes
once every source has been read. -/
def encodeWhole (s : State) (c : CopyJob) (f : Frame) (e : Nat) (l : Leaf) : CopyRun :=
  let n := copyRows c.d2 * copyNblk c.d2
  if blockInAet s f.whole then (s, 0, some (0x17, c.d1.toNat))
  else
    match encodeGather c e (n + 1) s 0 with
    | (.inr x, s) => (s, 0, some x)
    | (.inl xs, s) =>
      let s := clearSide s f
      let s := (List.range f.blocks).foldl (fun s b =>
        match xs.reverse.find? fun x => x.1 == b with
        | some (_, ys) => writeBlock (copyTouch s c f l c.d1.toNat b true) f b (bxEncode f.ef ys)
        | none => s) s
      (s, n, none)

/-- A copy runs as far as it comes. -/
def copyRun (s : State) (c : CopyJob) : CopyRun :=
  let blocks := copyRows c.d2 * copyNblk c.d2
  match copyMode c.d2 with
  | 0 => plainRun c (copyLen c.d2 + 1) s c.prog
  | 1 =>
    match copyFrame s c c.d0.toNat .read with
    | (.inr cause, s) => (s, c.prog, some (cause, c.d0.toNat))
    | (.inl (f, e, l), s) =>
      if copyOutside c f e then (s, c.prog, some (0x13, c.d0.toNat)) else stageRun c f e l (blocks + 1) s c.prog
  | _ =>
    match copyFrame s c c.d1.toNat .write with
    | (.inr cause, s) => (s, c.prog, some (cause, c.d1.toNat))
    | (.inl (f, e, l), s) =>
      if copyOutside c f e then (s, c.prog, some (0x13, c.d1.toNat))
      else if c.prog = 0 ∧ encodesAll c f e = true then encodeWhole s c f e l
      else encodeRun c f e l (blocks + 1) s c.prog

/-- The copy may run: it is not parked, and one that uses the scratchpad has its flock resident (11 R249). -/
def copyReady (s : State) (c : CopyJob) : Bool := !c.parked && (!copyUsesSpad c || (flockOf s c.flock).isSome)

/-- A copy has ended: its arrival with a status is due on its object, unless its flock is terminated (11 R250, 17 R372). -/
def endCopy (s : State) (c : CopyJob) (status : Nat) : State :=
  let s := { s with eng := { s.eng with copies := s.eng.copies.filter fun x => x.id != c.id } }
  if c.orphan then s
  else
    let x : Arrival := { id := c.id, flock := c.flock, obj := c.obj.toNat, status := status, lclk := c.lclk, req := none,
                         init := none, turnAt := c.turnAt, due := true }
    { s with eng := { s.eng with arrivals := s.eng.arrivals ++ [x] } }

/-- A copy's writes are acknowledged, and it arrives on its object (11 R250). -/
def execCopyComplete (k : Nat) (s : State) : Out :=
  .next <|
    match s.eng.copies.find? fun c => c.id == k with
    | none => s
    | some c =>
      if !copyReady s c then s
      else
        match copyRun s c with
        | (s', _, none) => endCopy s' c 0
        | _ => s

/-- A fault of a copy (11 R248): causes 0x10 and 0x16 wait for service under KIND 6, any other ends the copy; what it has
written stays written. -/
def execCopyFault (k : Nat) (s : State) : Out :=
  .next <|
    match s.eng.copies.find? fun c => c.id == k with
    | none => s
    | some c =>
      if !copyReady s c then s
      else
        match copyRun s c with
        | (_, _, none) => s
        | (s, pos, some (cause, va)) =>
          if cause = 0x10 ∨ cause = 0x16 then
            let s := enterPark s { Park.start 6 cause c.ctx va with drove := c.drove, droveId := c.droveId, pc := c.pc, req := some c.id }
            { s with eng := { s.eng with copies := mapIf (fun x => x.id == k) (fun x => { x with prog := pos, parked := true }) s.eng.copies } }
          else endCopy s c (if cause = 0x13 then 5 else 4)

end Sys2Proof.Machine
end

