-- ==== Sys2Proof/Machine/Admit.lean ====
section
/-! DEFINITION. The state of a drove and a flock at first admission (01 R38, 13 R293), and the context that the firmware
sets up at boot (18 R401). -/

namespace Sys2Proof.Machine

/-- The present mask of drove `idx` when `k` lanes of its flock are present (01 R38). -/
def presMask (w idx k : Nat) : W64 := BitVec.ofNat 64 (2 ^ (min w (k - min k (idx * w))) - 1)

/-- Lane `l` is absent and another lane of its quad is present: a helper lane (01 R21). -/
def helperLane (pres : W64) (w l : Nat) : Bool :=
  decide (l < w) && !pres.getLsbD l && ((List.range 4).any fun i => pres.getLsbD (l / 4 * 4 + i))

/-- Lanes present in flock `lin` of a range (01 R38, 16 R344). -/
def lanesOf (r : Range) (w lin : Nat) : Nat :=
  let k := if lin + 1 = r.nx * r.ny * r.nz ∧ r.llanes ≠ 0 then r.llanes else r.flanes
  if k = 0 then r.droves * w else k

/-- Bytes of one drove's stack area (13 R293). -/
def stackStride (r : Range) : Nat := 0x1000 + (widthOf r.wcode * r.stack + 0xFFF) / 0x1000 * 0x1000

/-- A drove at first admission (01 R38, 13 R293). -/
def freshDrove (r : Range) (f : Flock) (uid idx subc : Nat) (frbase now : Nat) : Drove :=
  let w := widthOf r.wcode
  let id := f.lin * 32 + idx
  let pres := if f.shepherd then 1 else presMask w idx (lanesOf r w f.lin)
  let sbase : W64 := if r.stkbase = 0 then 0 else r.stkbase + BitVec.ofNat 64 (id * stackStride r)
  let vals : List W64 := [0, BitVec.ofNat 64 (f.lin % r.nx), BitVec.ofNat 64 (f.lin / r.nx % r.ny),
    BitVec.ofNat 64 (f.lin / (r.nx * r.ny)), BitVec.ofNat 64 idx, r.args, BitVec.ofNat 64 w, pres]
  { Drove.vacant with
    uid := uid, flock := f.uid, range := r.uid, idx := idx, ctx := r.ctx, droveId := BitVec.ofNat 32 id, width := w,
    nv := r.vregs, ns := r.sregs, ntiles := r.tiles, core := f.core, subc := subc, shepherd := f.shepherd, prio := r.prio,
    pc := r.entry, pers := r.pers, det := r.det, pres := pres, slim := BitVec.ofNat 64 r.stack, sbase := sbase,
    pbase := if r.stkbase = 0 then 0x1000 else sbase + 0x1000, spb := BitVec.ofNat 64 f.spb, spl := BitVec.ofNat 64 f.spl,
    frec := BitVec.ofNat 64 (frbase + 128 * id),
    s := vals.zipIdx.foldl (fun v (x, i) => v.setIfInBounds i x) (Vector.replicate 64 0),
    v := (Vector.replicate 128 (mkLanes fun _ => 0)).setIfInBounds 0
      (mkLanes fun l => if pres.getLsbD l || helperLane pres w l then BitVec.ofNat 32 (idx * w + l) else 0)
    cond := .ready, since := now, crook := r.crook }

/-- A flock at first admission: tiles 0 and full, chutes empty and open (01 R38, 11 R236). -/
def freshFlock (r : Range) (uid lin core tileBase spb now : Nat) : Flock :=
  { Flock.vacant with
    uid := uid, range := r.uid, ctx := r.ctx, lin := lin, droves := r.droves, width := widthOf r.wcode, core := core,
    prio := r.prio, tileBase := tileBase, ntiles := r.tiles, spb := spb, spl := spb + r.scratch,
    tfull := BitVec.ofNat 16 (2 ^ r.tiles - 1)
    chutes := r.chutes.map fun b => { cap := b / 4, count := 0, head := 0, producers := [], everHad := false,
                                      closed := false, pops := [] }
    admitted := now, lastIssue := now }

/-- The leaf entries of the boot area's L4 table: 64 slots, in pairs, 2 MiB leaves with word 0 0x29D (18 R401). -/
def bootLeaves : List Host.Cell :=
  (List.range 64).flatMap fun i =>
    let a := 0x14000 + 16 * i
    let k := i / 2
    [(a, 0x9D#8), (a + 1, 0x02#8)] ++
    (if k * 32 % 256 = 0 then [] else [(a + 10, BitVec.ofNat 8 (k * 32))]) ++
    (if k / 8 = 0 then [] else [(a + 11, BitVec.ofNat 8 (k / 8))])

/-- The nonzero bytes that the firmware writes into the boot area (18 R401), with CGEN 1 after the write of CSBADDR
(17 R361). -/
def bootCells : List Host.Cell :=
  [(0x00, 0x01), (0x04, 0x01), (0x09, 0x40), (0x11, 0x30), (0x19, 0x20), (0x20, 0x40),
   (0x82, 0x01), (0xA1, 0x04),
   (0x1000, 0x40), (0x1001, 0x10), (0x1008, 0x10),
   (0x3000, 0x40), (0x3001, 0x30), (0x3008, 0x10),
   (0x10000, 0x01), (0x10009, 0x10), (0x1000A, 0x01),
   (0x11000, 0x01), (0x11009, 0x20), (0x1100A, 0x01),
   (0x12000, 0x01), (0x12009, 0x30), (0x1200A, 0x01),
   (0x13000, 0x01), (0x13009, 0x40), (0x1300A, 0x01)] ++ bootLeaves

/-- The firmware's context 0: the boot area written, its CSB and TCR bound, launch queue 0 enabled (18 R401). -/
def bootContext (s : State) : State :=
  let c : Ctx := { Ctx.new 0 with csb := some 0, tcr := some 0x80, roots := [0x10000, 0, 0, 0], regt := 0x400 }
  let q : LQueue := { cfg := 0x8000000000001000, tail := 0, stall := none }
  let s := onHbm s fun m => bootCells ++ m.filter fun x => decide (0x4000000 ≤ x.1)
  { s with sch := { s.sch with ctxs := [c], queues := modNth (fun _ => q) s.sch.queues 0 } }

/-- A launch of one drove of privileged context 0 at the first free byte of the boot area, as the host could place there
(18 R401): 64 lanes, every register and sixteen tiles, 64 KiB of scratchpad. -/
def placedRange : Range :=
  { uid := 1, ctx := 0, va := 0x200000, entry := 0x100000, args := 0, nx := 1, ny := 1, nz := 1, wcode := 3, droves := 1,
    prio := 0, det := false, pers := false, matrix := true, vregs := 128, sregs := 64, tiles := 16, scratch := 0x10000,
    stack := 0, priv := 0, chutes := [], flanes := 0, llanes := 0, evq := 0, crook := 0, stkbase := 0, held := 0,
    nextFlock := 1, finished := 0, ended := 0, retired := 0, order := 0, turnCount := 0 }

/-- The cached translation of the boot area's first page, as the die keeps it once a fetch has walked there (13 R289). -/
def bootTlb : Tlb := { die := 0, ctx := 0, va := 0, size := 0x200000, attr := 0xA9D, pa := 0 }

/-- The module running context 0, with that drove at the issue port; its page has been walked, and the accessed bit of the
page's leaf is set (13 R281). -/
def placed (s : State) : State :=
  let s := onHbm (bootContext s) fun m => memSet m 0x14011 0x0A
  let s := { s with coh := { s.coh with tlb := bootTlb :: s.coh.tlb.filter fun t => t.ctx != 0 } }
  let f := freshFlock placedRange 2 0 0 0 0 s.cycle
  let d := freshDrove placedRange f 3 0 0 0x4000 s.cycle
  { s with dr := d, fl := f, uid := max s.uid 4, sch := { s.sch with ranges := placedRange :: s.sch.ranges },
           dev := { s.dev with bootState := 1 } }

end Sys2Proof.Machine
end

