-- ==== Sys2Proof/Machine/Launch.lean ====
section
/-! DEFINITION. Launch records, launch queues, dependences, placement, admission and the completion of ranges
(11 R255, 16 R344-R354, 01 R12-R14, 12 R274, 13 R295, R296). -/

namespace Sys2Proof.Machine

/-- A launch record's 128 bytes, given as one number, as a range (16 R344). -/
def parseLaunch (x : Nat) (ctx : BitVec 16) (va : Nat) : Range :=
  let f (off n : Nat) : Nat := recField x off n
  let flags := f 0x1F 1
  { uid := 0, ctx := ctx, va := BitVec.ofNat 64 va, entry := BitVec.ofNat 64 (f 0 8), args := BitVec.ofNat 64 (f 8 8),
    nx := f 0x10 4, ny := f 0x14 4, nz := f 0x18 4, wcode := f 0x1C 1, droves := f 0x1D 1, prio := f 0x1E 1,
    det := bitAt flags 0, pers := bitAt flags 1, matrix := bitAt flags 2, vregs := f 0x20 2, sregs := f 0x22 1,
    tiles := f 0x23 1, scratch := f 0x24 4, stack := f 0x28 4, priv := f 0x2C 4,
    chutes := (List.range (f 0x30 1)).map fun n => 64 * f (0x50 + 2 * n) 2, flanes := f 0x31 2, llanes := f 0x4C 2,
    evq := BitVec.ofNat 64 (f 0x38 8), crook := BitVec.ofNat 64 (f 0x40 8), stkbase := BitVec.ofNat 64 (f 0x60 8),
    held := f 0x48 4, nextFlock := 0, finished := 0, ended := 0, retired := 0, order := 0, turnCount := 0 }

/-- Flocks of a range. -/
def Range.flocks (r : Range) : Nat := r.nx * r.ny * r.nz

/-- Flocks of a range that an idle package holds at once: droves, registers, tiles and scratchpad (16 R353). -/
def idleFlocks (r : Range) : Nat :=
  let regs := r.droves * widthOf r.wcode * r.vregs * 4
  let core := min (128 / r.droves) (min (0x200000 / regs) (if r.tiles = 0 then 128 else 16 / r.tiles))
  16 * min (4 * core) (if r.scratch = 0 then 512 else 0x140000 / r.scratch)

/-- A multiple of `n` on route 00. -/
def onDevice (a n : Nat) : Bool := a % n == 0 && routeOf a == 0

/-- The first status that refuses a record, 0 for none (16 R344, R345). -/
def launchStatus (s : State) (x : Nat) (r : Range) : Nat :=
  let f (off n : Nat) : Nat := recField x off n
  let lanes := r.droves * widthOf r.wcode
  let ch := f 0x30 1
  let size (n : Nat) : Nat := f (0x50 + 2 * n) 2
  if f 0x1F 1 / 8 ≠ 0 ∨ f 0x33 5 ≠ 0 ∨ f 0x4E 2 ≠ 0 ∨ f 0x68 24 ≠ 0 then 2
  else if 3 < r.wcode ∨ r.droves = 0 ∨ 32 < r.droves ∨ 1024 < lanes ∨ r.flocks = 0 ∨ 2 ^ 27 < r.flocks ∨ lanes < r.flanes ∨
      lanes < r.llanes then 3
  else if r.vregs < 8 ∨ 128 < r.vregs ∨ r.vregs % 8 ≠ 0 ∨ !([16, 32, 64].contains r.sregs) ∨ 16 < r.tiles ∨ r.tiles % 2 ≠ 0 then 4
  else if 327680 < r.scratch ∨ r.scratch % 64 ≠ 0 ∨ 1048576 < r.stack ∨ r.stack % 4 ≠ 0 ∨ r.priv % 4 ≠ 0 ∨ r.stack < r.priv ∨
      8 < ch ∨ ((List.range 8).any fun n => if n < ch then size n == 0 || decide (1024 < size n) else size n != 0) = true ∨
      r.scratch < total r.chutes then 5
  else if !onDevice r.entry.toNat 4 ∨ !onDevice r.evq.toNat 64 ∨ !onDevice r.crook.toNat 32 ∨ !onDevice r.stkbase.toNat 4096 ∨
      3 < r.prio then 6
  else if (r.pers || r.det) && decide (idleFlocks r < r.flocks) then 7
  else if 256 ≤ (s.sch.ranges.filter fun y => y.ctx == r.ctx && y.held != 0).length then 8
  else 0

/-- What the distributor's copy of a record finds (16 R345, R347). -/
inductive Copied where
  | bytes (x : Nat) | absent | bad
  deriving DecidableEq, Repr

/-- The distributor reads a record under a context; a compressed page is expanded first (16 R347). -/
def copyLaunch (s : State) (ctx : BitVec 16) (va : Nat) : Copied × State :=
  if routeOf va ≠ 0 ∨ inAperture va then (.bad, s)
  else
    match vaRead s ctx va 128 with
    | (.inl bs, s) => (.bytes (leNat bs), s)
    | (.inr cause, s) => (if cause = 0x10 then .absent else .bad, s)

/-- A completion or refusal record for EVQ (16 R350). -/
def rangeEvent (r : Range) (typ : BitVec 16) (pay : Nat) : DevEvent :=
  { ctx := r.ctx, va := r.evq, vcq := false, typ := typ, f1 := r.ctx, id := 0xFFFFFFFF, pc := r.va, pay := BitVec.ofNat 64 pay,
    stamp := if r.det then some (BitVec.ofNat 64 r.retired) else none }

/-- Posts to EVQ, if the record names one. -/
def postRange (s : State) (r : Range) (typ : BitVec 16) (pay : Nat) : State :=
  if r.evq = 0 then s else queueEvent s (rangeEvent r typ pay)

/-- Accepts or refuses a copied record (16 R345, R349). -/
def acceptLaunch (s : State) (ctx : BitVec 16) (va x : Nat) : State :=
  let r := parseLaunch x ctx va
  let st := launchStatus s x r
  if st ≠ 0 then postRange s r 0x0003 st
  else
    let (id, s) := newId s
    { s with sch := { s.sch with ranges := s.sch.ranges ++ [{ r with uid := id, order := id }] } }

/-- A held launch of the context from this record takes one decrement; at 0 it is released (16 R349). -/
def decrement (s : State) (r : Range) : State :=
  let (id, s) := newId s
  onRange s r.uid fun r => { r with held := r.held - 1, order := id }

/-- Presents the record at `va` to the package distributor: the state after it, or none where the record's page is absent
(16 R346, R347, R349). -/
def present (s : State) (ctx : BitVec 16) (va : Nat) : Option State × State :=
  match s.sch.ranges.find? fun r => r.ctx == ctx && r.va.toNat == va && r.held != 0 with
  | some r => (some (decrement s r), s)
  | none =>
    match copyLaunch s ctx va with
    | (.bytes x, s) => (some (acceptLaunch s ctx va x), s)
    | (.bad, s) => (some s, s)
    | (.absent, s) => (none, s)

/-- `rlaunch` (11 R255, 16 R346): a release, then the distributor's copy; an absent page parks the drove at the
`rlaunch`, with an entry of KIND 9. -/
def execRlaunch (a : BitVec 6) (s : State) : Out :=
  .next <| issueIf { uses := [srcS a.toNat] } (fun s =>
    let va := (sreg s.dr a.toNat).toNat
    firstOf [stopIf (va % 128 != 0) 0x14 0 va, releasePoint s]) s fun s =>
      let va := (sreg s.dr a.toNat).toNat
      match present s s.dr.ctx va with
      | (some s, _) => retire s
      | (none, s) => parkMasked (onDr s fun d => { d with cond := .ready }) 9 0x10 va 0

/-- Changes a launch queue. -/
def onQueue (s : State) (q : Nat) (f : LQueue → LQueue) : State :=
  { s with sch := { s.sch with queues := modNth f s.sch.queues q } }

/-- A launch queue. -/
def queueOf (s : State) (q : Nat) : LQueue := s.sch.queues.getD q .atReset

/-- LQCFG's fields (16 R348). -/
def lqEn (x : W64) : Bool := x.getLsbD 63
def lqCtx (x : W64) : BitVec 16 := x.extractLsb' 40 16
def lqHdr (x : W64) : Nat := bits x.toNat 38 6 * 64

/-- A host write to a queue's doorbell (16 R347). -/
def execLaunchQueueDoorbell (q v : Nat) (s : State) : Out :=
  .next <|
    let x := queueOf s q
    let h := lqHdr x.cfg
    if 64 ≤ q ∨ !lqEn x.cfg ∨ v < x.tail.toNat ∨ homeRead s (h + 16) 8 + homeRead s (h + 8) 4 < v ∨ 2 ^ 64 ≤ v then
      countRecord s 0x1A46 0 64
    else onQueue s q fun x => { x with tail := BitVec.ofNat 64 v }

/-- HEAD advances past the entry at it (16 R347). -/
def queueAdvance (s : State) (q : Nat) : State :=
  let h := lqHdr (queueOf s q).cfg
  onQueue (homeWrite s (h + 16) 8 ((homeRead s (h + 16) 8 + 1) % 2 ^ 64)) q fun x => { x with stall := none }

/-- The DPA of the entry at HEAD, if the queue has one to take. -/
def queueEntry (s : State) (q : Nat) : Option Nat :=
  let x := queueOf s q
  let h := lqHdr x.cfg
  let head := homeRead s (h + 16) 8
  if lqEn x.cfg && x.stall.isNone && decide (head < x.tail.toNat) then some (homeRead s h 8 + 8 * (head % homeRead s (h + 8) 4))
  else none

/-- The 8 bytes of an entry; of one past device memory, whose bytes do not exist, a free value (13 R279; assumption
log 20). -/
def entryWord (s : State) (a : Nat) : Nat × State :=
  if a + 8 ≤ 2 ^ 39 then (homeRead s a 8, s)
  else
    let (x, s) := draw s
    (x % 2 ^ 64, s)

/-- The distributor takes a queue's next entry (16 R347): one whose low bits are not 0 is refused; one whose record is
absent stalls the queue, with an entry of KIND 8. -/
def execLaunchQueueEntryTake (q : Nat) (s : State) : Out :=
  match queueEntry s q with
  | none => .next s
  | some a =>
      let (va, s) := entryWord s a
      let ctx := lqCtx (queueOf s q).cfg
      .next <|
        if va % 128 ≠ 0 then queueAdvance s q
        else
          match present s ctx va with
          | (some s, _) => queueAdvance s q
          | (none, s) =>
            let t := enterPark s (Park.start 8 0x10 ctx va)
            onQueue t q fun x => { x with stall := some s.uid }

/-- A write to LQCFG (16 R348): ignored while EN is 1 unless it clears EN. A new binding starts at the header's HEAD
(assumption log 18). -/
def execLqcfgWrite (c : Nat) (s : State) : Out :=
  .next <| command s c 0xB1 fun s x =>
    let q := (privReg s 0xB0).toNat
    let x := x &&& 0x80FFFF7FFFFFFFC0
    if lqEn (queueOf s q).cfg ∧ lqEn x then .inl s
    else .inl (onQueue s q fun y => { y with cfg := x, tail := BitVec.ofNat 64 (homeRead s (lqHdr x + 16) 8) })

/-- What a flock needs of a core (16 R353); `spb` is the scratchpad base that a saved flock must have. -/
structure Need where
  ctx    : BitVec 16
  droves : Nat
  width  : Nat
  vregs  : Nat
  tiles  : Nat
  scratch : Nat
  det    : Bool
  args   : W64
  spb    : Option Nat
  deriving DecidableEq, Repr

/-- The need of a flock of a range. -/
def Range.need (r : Range) (spb : Option Nat) : Need :=
  { ctx := r.ctx, droves := r.droves, width := widthOf r.wcode, vregs := r.vregs, tiles := r.tiles, scratch := r.scratch,
    det := r.det, args := r.args, spb := spb }

/-- Droves that hold resources of a core. -/
def coreDroves (s : State) (core : Nat) : List Drove :=
  (allDroves s).filter fun d => d.core == core && d.cond != .vacant && d.cond != .exited

/-- Resident flocks of a core, and of a paddock. -/
def coreFlocks (s : State) (core : Nat) : List Flock := (allFlocks s).filter fun f => f.uid != 0 && f.core == core
def padFlocks (s : State) (pad : Nat) : List Flock :=
  (allFlocks s).filter fun f => f.uid != 0 && padOf f.core == pad && !f.shepherd

/-- Bytes of vector registers in use on a core (01 R14). -/
def usedRegs (s : State) (core : Nat) : Nat := total ((coreDroves s core).map fun d => d.width * d.nv * 4)

/-- Drove slots in use on a sub-core. -/
def usedSlots (s : State) (core sub : Nat) : Nat := ((coreDroves s core).filter fun d => d.subc == sub).length

/-- A free run of tiles starting at an even tile (01 R25). -/
def tileRun (s : State) (core n : Nat) : Option Nat :=
  ((List.range 8).map (2 * ·)).find? fun b => decide (b + n ≤ 16) &&
    !((coreFlocks s core).any fun f => f.ntiles != 0 && n != 0 && decide (f.tileBase < b + n) && decide (b < f.tileBase + f.ntiles))

/-- The scratchpad run of `n` bytes at `b` is free (13 R295). -/
def spadFree (s : State) (pad n b : Nat) : Bool :=
  decide (b + n ≤ 0x140000) && (n == 0 || !((padFlocks s pad).any fun f => decide (f.spb < b + n) && decide (b < f.spl)))

/-- Some run of `n` bytes is free, or the one at the given base. -/
def spadRoom (s : State) (pad n : Nat) (at' : Option Nat) : Bool :=
  match at' with
  | some b => spadFree s pad n b
  | none => (0 :: (padFlocks s pad).map (·.spl)).any (spadFree s pad n)

/-- A core may hold the context's control store: no drove of another context that has written its own is on it (11 R259). -/
def storeRoom (s : State) (ctx : BitVec 16) (core : Nat) : Bool :=
  !csDirty s ctx || !((coreDroves s core).any fun d => d.ctx != ctx && csDirty s d.ctx)

/-- A core can hold the flock now (16 R353). -/
def fitsCore (s : State) (n : Need) (core : Nat) : Bool :=
  let pad := padOf core
  decide ((coreDroves s core).length + n.droves ≤ 128) && decide (usedRegs s core + n.droves * n.width * n.vregs * 4 ≤ 0x200000) &&
    (tileRun s core n.tiles).isSome && spadRoom s pad n.scratch n.spb && storeRoom s n.ctx core &&
    (!n.det || (!s.eng.mxmode.getLsbD pad && !s.eng.mxpend.getLsbD pad))

/-- The lowest core of a die that can hold the flock. -/
def dieCore (s : State) (n : Need) (die : Nat) : Option Nat := ((List.range 16).map (16 * die + ·)).find? (fitsCore s n)

/-- Free bytes of vector registers on a die. -/
def dieFree (s : State) (die : Nat) : Nat := total ((List.range 16).map fun i => 0x200000 - usedRegs s (16 * die + i))

/-- The die with the most free vector registers, ties to the lower. -/
def freestDie (s : State) : Nat :=
  (List.range 4).foldl (fun b d => if dieFree s b < dieFree s d then d else b) 0

/-- The die that the package distributor takes a flock to, and the core it finds there (16 R353). -/
def chooseCore (s : State) (n : Need) : Nat × Option Nat :=
  let home := bits n.args.toNat 61 60
  let near := if routeOf n.args.toNat = 0 then dieCore s n home else none
  match near with
  | some c => (home, some c)
  | none => (freestDie s, dieCore s n (freestDie s))

/-- The lowest free base for a scratchpad run. -/
def lowSpad (s : State) (pad n : Nat) : Nat := ((0 :: (padFlocks s pad).map (·.spl)).find? (spadFree s pad n)).getD 0

/-- A stand-in for a flock placed on a core: what it takes away from the flocks placed after it. -/
def reserve (s : State) (n : Need) (core : Nat) : State :=
  let b := n.spb.getD (lowSpad s (padOf core) n.scratch)
  let f := { Flock.vacant with uid := s.uid, core := core, tileBase := (tileRun s core n.tiles).getD 0, ntiles := n.tiles, spb := b,
                               spl := b + n.scratch }
  let d := { Drove.vacant with uid := s.uid, flock := s.uid, ctx := n.ctx, core := core, width := n.width, nv := n.vregs, cond := .ready }
  { s with uid := s.uid + 1, flocks := f :: s.flocks, droves := List.replicate n.droves d ++ s.droves }

/-- The cores that the needs find one after another, none when some need finds none. -/
def placeAll (s : State) : List Need → Option (List Nat)
  | [] => some []
  | n :: ns =>
    match chooseCore s n with
    | (_, some c) => (placeAll (reserve s n c) ns).map (c :: ·)
    | (_, none) => none

/-- A base for the scratchpad run of a flock, by a free choice among those that are free (assumption log 2). One that would
leave no place for the flocks of `rest`, which must be admitted with it, is not chosen (16 R352). -/
def chooseSpad (s : State) (core : Nat) (n : Need) (rest : List Need) : Nat × State :=
  if n.scratch = 0 then (0, s)
  else
    let (k, s) := draw s
    let pad := padOf core
    let b := (((List.range 0x5000).map fun i => 64 * ((i + k) % 0x5000)).find? (spadFree s pad n.scratch)).getD 0
    (if (placeAll (reserve s { n with spb := some b } core) rest).isSome then b else lowSpad s pad n.scratch, s)

/-- The sub-core with the most free slots, ties to the lower (16 R353). -/
def freestSub (s : State) (core : Nat) : Nat :=
  (List.range 4).foldl (fun b k => if usedSlots s core k < usedSlots s core b then k else b) 0

/-- A core made ready for the first drove of a flock: its L1 is awake and has made the drop of 12 R274, its instruction
cache holds nothing of the context (13 R296), the context's control store and region table are loaded. -/
def readyCore (s : State) (ctx : BitVec 16) (core : Nat) : State :=
  let s := admissionDrop (wakeL1 s core) core
  let k := coreOf s core
  let load := csDirty s ctx && k.cstore != some ctx
  let slots := if load then (List.range 128).map fun n => (n, imageSlot s ctx n) else k.slots
  let regs := if k.regions.any fun r => r.1 == ctx then k.regions
    else (ctx, tableOf s ctx) :: k.regions
  onCore s core fun k => { k with
    icache := k.icache.filter fun x => x.ctx != ctx
    cstore := if load then some ctx else k.cstore
    slots := slots.filter fun x => !x.2.isEmpty
    regions := regs }

/-- Adds a drove of a flock, on the sub-core with the most free slots. -/
def addDrove (r : Range) (f : Flock) (s : State) (i : Nat) : State :=
  let (id, s) := newId s
  let d := freshDrove r f id i (if f.shepherd then 0 else freestSub s f.core) (csbField s r.ctx 0x08 8) s.cycle
  { s with droves := s.droves ++ [d] }

/-- Admits flock `lin` of a range on a core, `rest` more flocks of it being admitted with it (01 R38, 13 R295). -/
def admitAt (s : State) (r : Range) (lin core rest : Nat) (shepherd : Bool) : State :=
  let s := readyCore s r.ctx core
  let (b, s) := chooseSpad s core (r.need none) (List.replicate rest (r.need none))
  let s := if r.scratch = 0 then s else onSpad s fun m => memPut m (spadBase (padOf core) + b) (List.replicate r.scratch 0)
  let (id, s) := newId s
  let f := { freshFlock r id lin core ((tileRun s core r.tiles).getD 0) b s.cycle with shepherd := shepherd }
  let s := { s with flocks := s.flocks ++ [f] }
  let s := (List.range r.droves).foldl (addDrove r f) s
  onRange s r.uid fun r => { r with nextFlock := r.nextFlock + 1 }

/-- A flock, or all flocks that must enter together, waiting to be placed: its class and order, and the needs. -/
structure Waiter where
  prio  : Nat
  order : Nat
  saved : Bool
  id    : Nat
  needs : List Need
  deriving DecidableEq, Repr

/-- Saved flocks of a range that may re-enter, oldest first. -/
def readySaved (s : State) (u : Nat) : List Saved := s.sch.saved.filter fun v => v.ready && v.flock.range == u

/-- Everything that waits for a place (16 R352, 17 R375). Flocks of a deterministic range re-enter together (19 R404). -/
def waiters (s : State) : List Waiter :=
  let fresh := s.sch.ranges.filterMap fun r =>
    if r.held = 0 ∧ r.nextFlock < r.flocks then
      let n := if r.pers || r.det then r.flocks - r.nextFlock else 1
      some { prio := r.prio, order := r.order, saved := false, id := r.uid, needs := List.replicate n (r.need none) }
    else none
  let back := s.sch.saved.filterMap fun v =>
    match rangeOf s v.flock.range with
    | some r =>
      let mates := if r.det then readySaved s r.uid else [v]
      if v.ready ∧ !v.flock.shepherd ∧ (!r.det ∨ mates.length = (s.sch.saved.filter fun x => x.flock.range == r.uid).length) then
        some { prio := r.prio, order := v.order, saved := true, id := v.id, needs := mates.map fun x => r.need (some x.flock.spb) }
      else none
    | none => none
  fresh ++ back

/-- May the waiter be placed now, before the others that wait? (16 R352) A flock of a higher class goes first, or keeps its
die to itself; an earlier one of the same class goes first when it fits. -/
def mayEnter (s : State) (w : Waiter) (cores : List Nat) : Bool :=
  (waiters s).all fun v =>
    if w.prio < v.prio then
      (placeAll s v.needs).isNone && (match v.needs with
        | n :: _ => !(cores.any fun c => dieOfCore c == (chooseCore s n).1)
        | [] => true)
    else v.prio != w.prio || decide (w.order ≤ v.order) || (placeAll s v.needs).isNone

/-- The cores on which a waiter is placed now, if it may. -/
def entry (s : State) (saved : Bool) (id : Nat) : Option (List Nat) :=
  if s.dev.ckpt.isSome then none
  else
    match (waiters s).find? fun w => w.saved == saved && w.id == id with
    | none => none
    | some w =>
      match placeAll s w.needs with
      | some cs => if mayEnter s w cs then some cs else none
      | none => none

/-- The distributors place the next flock of range `g`, or all that must enter together (16 R352, R353). -/
def execFlockAdmit (g : Nat) (s : State) : Out :=
  .next <|
    match entry s false g, rangeOf s g with
    | some cs, some r => (cs.zipIdx).foldl (fun s (_, i) =>
        match chooseCore s (r.need none) with
        | (_, some c) => admitAt s r (r.nextFlock + i) c (cs.length - 1 - i) false
        | (_, none) => s) s
    | _, _ => s

/-- A flock has a collective or an arrival that is still to be made. -/
def arrives (s : State) (f : Flock) : Bool := !f.colls.isEmpty || s.eng.arrivals.any fun x => x.flock == f.uid

/-- Every flock of a range has finished, and every copy and collective of its droves has arrived (16 R350). -/
def rangeDone (s : State) (r : Range) : Bool :=
  r.held == 0 && decide (r.flocks ≤ r.finished) && !(s.eng.copies.any fun c => c.range == r.uid) &&
    !(allFlocks s).any fun f => f.range == r.uid && f.uid != 0 && arrives s f

/-- A range completes: its record is posted to EVQ (16 R350). -/
def execRangeComplete (g : Nat) (s : State) : Out :=
  .next <|
    match rangeOf s g with
    | some r =>
      if rangeDone s r then
        let s := { s with sch := { s.sch with ranges := s.sch.ranges.filter fun x => x.uid != g } }
        let s := { s with eng := { s.eng with held := s.eng.held.filter fun h => !(h.ptype == 0x13 && (h.range == g || (h.range == 0 && h.pkt.ctx == r.ctx.toNat && !(s.sch.ranges.any fun x => x.ctx == r.ctx)))) } }
        postRange s r 0x0002 (r.ended % 2 ^ 32)
      else s
    | none => s

/-- A drove that has been ready for 128 cycles without issuing is promoted (16 R354). -/
def execDrovePromote (d : Nat) (s : State) : Out :=
  .next <| onDrove s d fun d => if d.cond = .ready ∧ 128 ≤ s.cycle - d.since then { d with promoted := true } else d

end Sys2Proof.Machine
end

