-- ==== Sys2Proof/Machine/Coll.lean ====
section
/-! DEFINITION. Collectives: contribution, phase 0, the combining tree and its packets (11 R251-R253, 18 R384-R391), and
`exit`, which may complete a contribution. A node (k, i) is held by the member whose rank is its lowest, i × 2^k
(18 R389). -/

namespace Sys2Proof.Machine

/-- Fields of the descriptor (11 R251). -/
def CollArgs.rank (a : CollArgs) : Nat := bits a.d0.toNat 63 48
def CollArgs.ranks (a : CollArgs) : Nat := bits a.d0.toNat 47 32
def CollArgs.group (a : CollArgs) : BitVec 32 := a.d0.setWidth 32
def CollArgs.count (a : CollArgs) : Nat := bits a.d1.toNat 14 0
def CollArgs.pair (a : CollArgs) : Bool := a.d2.getLsbD 9
def CollArgs.exact (a : CollArgs) : Bool := a.d2.getLsbD 8
def CollArgs.op (a : CollArgs) : Nat := bits a.d2.toNat 7 4
def CollArgs.wire (a : CollArgs) : Nat := bits a.d2.toNat 3 0

/-- The tiles that a contribution names. -/
def CollArgs.tiles (a : CollArgs) : List Nat := if a.pair then [a.tile, a.tile + 1] else [a.tile]

/-- Fields outside their sets (11 R251). -/
def CollArgs.bad (a : CollArgs) (ntiles : Nat) : Bool :=
  bits a.d1.toNat 63 15 != 0 || bits a.d2.toNat 63 32 != 0 || bits a.d2.toNat 15 10 != 0 || a.count == 0 || decide (16384 < a.count) ||
    a.ranks == 0 || decide (1024 < a.ranks) || decide (a.ranks ≤ a.rank) || decide (3 < a.wire) || decide (2 < a.op) ||
    (a.exact && (a.op != 0 || a.wire == 3)) || (a.pair && (a.wire == 3 || decide (ntiles < a.tile + 2)))

/-- Tree depth, chunks, elements of a chunk, and 32-element blocks (18 R385). -/
def CollArgs.depth (a : CollArgs) : Nat := if a.ranks ≤ 1 then 0 else Nat.log2 (a.ranks - 1) + 1
def CollArgs.chunks (a : CollArgs) : Nat := (a.count + 255) / 256
def CollArgs.chunkLen (a : CollArgs) (c : Nat) : Nat := min 256 (a.count - 256 * c)
def CollArgs.blocks (a : CollArgs) : Nat := (a.count + 31) / 32

/-- The droves of the flock agree on every operand (11 R252). -/
def CollOp.agrees (c : CollOp) : Bool := c.args.all fun x => x.2 == c.arg

/-- Every flock that may have a collective: resident and saved (11 R253). -/
def collFlocks (s : State) : List Flock := allFlocks s ++ s.sch.saved.map (·.flock)

/-- A collective operation by its identity, with its flock. -/
def collOf (s : State) (id : Nat) : Option (Flock × CollOp) :=
  (collFlocks s).findSome? fun f => (f.colls.find? fun c => c.id == id).map fun c => (f, c)

/-- Changes a collective operation. -/
def onColl (s : State) (id : Nat) (f : CollOp → CollOp) : State :=
  match collOf s id with
  | some (fl, _) => onAnyFlock s fl.uid fun x => { x with colls := mapIf (fun c => c.id == id) f x.colls }
  | none => s

/-- The started operations of a collective on this module (18 R384). -/
def collMembers (s : State) (ctx : BitVec 16) (group seq : BitVec 32) : List (Flock × CollOp) :=
  (collFlocks s).flatMap fun f => if f.ctx = ctx then (f.colls.filter fun c => c.group == group && c.seq == seq).map fun c => (f, c) else []

/-- The member of a rank, once its phase 0 has begun. -/
def memberAt (s : State) (p : CollPacket) (rank : Nat) : Option (Flock × CollOp) :=
  (collMembers s (BitVec.ofNat 16 p.ctx) p.group p.seq).find? fun m => !m.2.table.isEmpty && !m.2.bad && m.2.arg.rank == rank

/-- Sends a packet of a member to the member of rank `to` (18 R389, R390). -/
def sendColl (s : State) (f : Flock) (c : CollOp) (dest ptype level node chunk : Nat) (payload : List W32) (n : Option CollNode) : State :=
  let p : CollPacket :=
    { ctx := f.ctx.toNat, srcCtx := f.ctx.toNat, special := n.elim [] (·.special), overflow := n.elim false (·.overflow), level := level, routine := c.arg.routine, group := c.group, seq := c.seq, node := node,
      chunk := chunk, srcDev := fabid s, opfld := c.arg.opfld, digest := c.digest, payload := payload }
  let dev := bits (c.table.getD dest 0).toNat 9 0
  if dev = fabid s then
    { s with eng := { s.eng with held := s.eng.held ++ [{ ptype := ptype, range := 0, pkt := p, node := n }] } }
  else sendPacket s f.ctx dev ptype p

/-- The sender's context and the packet's are bound to each other (18 R382, R388); a packet of this module is one on its way
here. -/
def packetBound (s : State) (p : CollPacket) : Bool :=
  if p.srcDev = fabid s then s.eng.held.any fun h => h.pkt == p
  else
    let e := peerEntry s (BitVec.ofNat 16 p.ctx) p.srcDev
    bitAt e 63 && bits e 47 32 == p.srcCtx

/-- The collective ends at a member (11 R252): its tiles are full, and its arrival is due on its object; in a
deterministic range both wait for the place of the collective to be known (19 R408). -/
def finishColl (s : State) (id status : Nat) : State :=
  match collOf s id with
  | none => s
  | some (f, c) =>
    let det := (rangeOf s f.range).elim false (·.det)
    if det ∧ c.turnAt = 0 then onColl s id fun c => { c with status := some status }
    else
      let ts := c.args.flatMap fun x => x.2.tiles
      let s := onAnyFlock s f.uid fun x =>
        let x := ts.foldl (fun x t => markT x t true) x
        { x with colls := x.colls.filter fun y => y.id != id, tileOwner := x.tileOwner.filter fun o => !(o.2 == 0 && ts.contains o.1) }
      let s := (s.sch.parks.filter fun p => p.req == some id).foldl dropPark s
      let x : Arrival := { id := c.id, flock := f.uid, obj := c.arg.obj.toNat, status := status, lclk := c.lclk, req := none,
                           init := none, turnAt := c.turnAt, due := true }
      { s with eng := { s.eng with arrivals := s.eng.arrivals ++ [x] } }

/-- A member finds a mismatch (18 R388): every member is cancelled, itself at once. -/
def mismatch (s : State) (id : Nat) : State :=
  match collOf s id with
  | none => s
  | some (f, c) => finishColl (onColl (cancelColl s f.ctx f.range c) id fun c => { c with bad := true }) id 1

/-- The greedy rule with RNE and canonical NaNs, as collectives round (11 R252, 18 R386). -/
def collEnv (f : Fmt) : Fenv := { f := f, rm := 0, ftz := false, cnan := true }

/-- The wire format of floating elements. -/
def wireFmt (w : Nat) : Fmt := [f32, f16, bf16].getD w f32

/-- An f32 word rounded to the wire type, and an encoding of that type widened (18 R386). -/
def toWire (w x : Nat) : Nat := if w = 0 then x else (fpCvt (collEnv (wireFmt w)) (f32.read false x)).1
def fromWire (w x : Nat) : Nat := if w = 0 then x else (fpCvt (collEnv f32) ((wireFmt w).read false x)).1

/-- The element as it travels: each word of a floating sum in exact mode takes its WIRE value, in every member alike (18 R390;
assumption log 21). -/
def wireElem (a : CollArgs) (x : W32 × W32) : W32 × W32 :=
  let r (v : W32) : W32 := if a.wire = 3 then v else BitVec.ofNat 32 (fromWire a.wire (toWire a.wire v.toNat))
  (r x.1, r x.2)

/-- The value that an element contributes: the tile's, or the exact sum of the pair (11 R252). -/
def contribution (pair : Bool) (x : W32 × W32) : List FV :=
  if pair then [f32.read false x.1.toNat, f32.read false x.2.toNat] else [f32.read false x.1.toNat]

/-- Two words of an exact sum; special values follow word 0 (02 R57). -/
def sumX2 (heads all : List FV) : List Nat :=
  if special all then
    let h := match heads with
      | [a] => (fpCvt (collEnv f32) a).1
      | a :: b :: _ => (fpAdd (collEnv f32) a b).1
      | [] => 0
    [h, 0]
  else (greedy (collEnv f32) 2 (zeroSign 0 all) (exactSum all)).1

/-- Word 0 overflowed, or became a NaN through ∞ − ∞ (18 R387). -/
def overflowed (ins : List FV) (out : Nat) : Bool :=
  match f32.read false out with
  | .fin _ _ _ => false
  | .inf _ => ins.all (·.isFin)
  | .nan _ _ => !ins.any (·.isNan)

/-- A leaf element's words before any exchange (18 R386): fast sum, then min and max. -/
def leafFast (a : CollArgs) (x : W32 × W32) : List Nat × Bool :=
  let ins := contribution a.pair x
  let ws := (if a.pair then sumX2 ins ins else [x.1.toNat, 0]).map fun w => fromWire a.wire (toWire a.wire w)
  (ws, overflowed ins (ws.headD 0))
def leafMin (a : CollArgs) (x : W32 × W32) : Nat × Bool :=
  let ins := contribution a.pair x
  let r := if a.pair then (sumX2 ins ins).headD 0 else x.1.toNat
  (toWire a.wire r, overflowed ins (fromWire a.wire (toWire a.wire r)))

/-- Words of a 64-bit integer, low first. -/
def binWords (x : Int) : List W32 := let n := (x % 2 ^ 64).toNat; [BitVec.ofNat 32 n, BitVec.ofNat 32 (n / 2 ^ 32)]
def binOf (lo hi : W32) : Int := ((hi ++ lo : BitVec 64)).toInt

/-- The agreed exponent of the block that holds element `e`; none where no finite nonzero element contributes. -/
def blockEmax (m : List (BitVec 16)) (e : Nat) : Option Int :=
  let x := m.getD (e / 32) 0x8000
  if x = 0x8000 then Option.none else some x.toInt

/-- A special value's code (02 R64), and what two of them make. -/
def specialOf (xs : List FV) : Nat :=
  match binSpecial xs with
  | .nan => 3
  | .inf neg => if neg then 2 else 1
  | .none => 0
def joinSpecial (x y : Nat) : Nat := if x = y ∨ y = 0 then x else if x = 0 then y else 3

/-- A contribution as one value: the pair's exact sum, or the sum of its special values. -/
def pairValue (xs : List FV) : FV :=
  match xs with
  | [a] => a
  | _ =>
    if special xs then f32.read false ((sumX2 xs xs).headD 0)
    else
      let d := exactSum xs
      .fin (decide (d.m < 0)) d.m.natAbs d.e

/-- Node (0, rank) of a chunk, from the contribution's elements of that chunk (18 R385, R386). -/
def leafNode (a : CollArgs) (agreed : List (BitVec 16)) (xs : List (W32 × W32)) (c : Nat) : CollNode :=
  let n (words : List W32) (special : List Nat) (overflow : Bool) : CollNode :=
    { level := 0, node := a.rank, chunk := c, words := words, special := special, overflow := overflow }
  if a.wire = 3 then n (xs.map (·.1)) [] false
  else if a.op ≠ 0 then
    let rs := xs.map (leafMin a)
    n (rs.map fun r => BitVec.ofNat 32 r.1) [] (rs.any (·.2))
  else if a.exact then
    let vs := xs.map fun x => pairValue (contribution a.pair (wireElem a x))
    let ws := vs.zipIdx.flatMap fun (v, i) =>
      match blockEmax agreed (256 * c + i) with
      | some e => if contributes v then (binSplit e v.dy).flatMap binWords else List.replicate 6 0
      | Option.none => List.replicate 6 0
    n ws ((List.range ((xs.length + 31) / 32)).map fun b => specialOf ((vs.drop (32 * b)).take 32)) false
  else
    let rs := xs.map (leafFast a)
    n (rs.flatMap fun r => r.1.map (BitVec.ofNat 32)) [] (rs.any (·.2))

/-- Words per element of a node's payload. -/
def nodeWidth (a : CollArgs) : Nat := if a.wire = 3 ∨ a.op ≠ 0 then 1 else if a.exact then 6 else 2

/-- One element of an internal node from its two children (18 R386), with its overflow. -/
def combineElem (a : CollArgs) (x y : List W32) : List W32 × Bool :=
  let w (l : List W32) (i : Nat) : W32 := l.getD i 0
  if a.wire = 3 then
    let r := match a.op with
      | 0 => w x 0 + w y 0
      | 1 => if (w y 0).slt (w x 0) then w y 0 else w x 0
      | _ => if (w x 0).slt (w y 0) then w y 0 else w x 0
    ([r], false)
  else if a.op ≠ 0 then ([BitVec.ofNat 32 (fpMinMax (collEnv (wireFmt a.wire)) (a.op == 2) (w x 0).toNat (w y 0).toNat).1], false)
  else if a.exact then
    ((List.range 3).flatMap fun k => binWords (binOf (w x (2 * k)) (w x (2 * k + 1)) + binOf (w y (2 * k)) (w y (2 * k + 1))), false)
  else
    let fv (v : W32) : FV := f32.read false v.toNat
    let hs := [fv (w x 0), fv (w y 0)]
    let r := sumX2 hs [fv (w x 0), fv (w x 1), fv (w y 0), fv (w y 1)]
    (r.map (BitVec.ofNat 32), overflowed hs (r.headD 0))

/-- Element `i` of a node. -/
def nodeElem (a : CollArgs) (n : CollNode) (i : Nat) : List W32 := (n.words.drop (nodeWidth a * i)).take (nodeWidth a)

/-- A node from its children; with one child it equals that child (18 R385). -/
def combineNode (a : CollArgs) (level node chunk : Nat) (kids : List CollNode) : Option CollNode :=
  match kids with
  | [] => Option.none
  | [x] => some { x with level := level, node := node }
  | x :: y :: _ =>
    let es := (List.range (a.chunkLen chunk)).map fun i => combineElem a (nodeElem a x i) (nodeElem a y i)
    some { level := level, node := node, chunk := chunk, words := es.flatMap (·.1), special := List.zipWith joinSpecial x.special y.special,
           overflow := x.overflow || y.overflow || es.any (·.2) }

/-- Elements of 16 bits packed two to a word, and unpacked (18 R390). -/
def pack16 : List Nat → List W32
  | [] => []
  | [x] => [BitVec.ofNat 32 x]
  | x :: y :: xs => BitVec.ofNat 32 (x + 65536 * y) :: pack16 xs
def unpack16 (ws : List W32) : List Nat := ws.flatMap fun w => [w.toNat % 65536, w.toNat / 65536]

/-- The payload of a leaf (18 R390): the chunk's elements in WIRE, two words per element under PAIR. -/
def leafPayload (a : CollArgs) (n : CollNode) (xs : List (W32 × W32)) : List W32 :=
  let units : List Nat :=
    if a.wire = 3 ∨ a.op ≠ 0 then n.words.map (·.toNat)
    else if a.exact then
      xs.flatMap fun x => (if a.pair then [x.1.toNat, x.2.toNat] else [x.1.toNat]).map (toWire a.wire)
    else (List.range (n.words.length / 2)).flatMap fun i =>
      let w (k : Nat) : Nat := toWire a.wire (n.words.getD (2 * i + k) 0).toNat
      if a.pair then [w 0, w 1] else [w 0]
  if a.wire = 1 ∨ a.wire = 2 then pack16 units else units.map (BitVec.ofNat 32)

/-- The payload of an internal node or a result (18 R390): its words. -/
def innerPayload (a : CollArgs) (n : CollNode) : List W32 :=
  if (a.wire = 1 ∨ a.wire = 2) ∧ a.op ≠ 0 then pack16 (n.words.map (·.toNat)) else n.words

/-- A leaf of another device as its packet gives it. -/
def leafFromPacket (a : CollArgs) (agreed : List (BitVec 16)) (p : CollPacket) : CollNode :=
  let units : List Nat := if a.wire = 1 ∨ a.wire = 2 then unpack16 p.payload else p.payload.map (·.toNat)
  let two := a.pair && a.op == 0
  let el (i : Nat) : W32 × W32 :=
    let u (k : Nat) : W32 := BitVec.ofNat 32 (fromWire (if a.wire = 3 ∨ a.op ≠ 0 then 0 else a.wire) (units.getD k 0))
    if two then (u (2 * i), u (2 * i + 1)) else (u i, 0)
  let xs := (List.range (a.chunkLen p.chunk)).map el
  let r := { a with d0 := (a.d0 &&& 0x0000FFFFFFFFFFFF) ||| (BitVec.ofNat 64 p.node <<< 48) }
  if a.exact then leafNode r agreed xs p.chunk
  else
    { level := 0, node := p.node, chunk := p.chunk, special := [], overflow := p.overflow,
      words := if nodeWidth a = 1 then xs.map (·.1) else xs.flatMap fun x => [x.1, x.2] }

/-- The node that a packet of another device carries, with the special values and the overflow below it (02 R64, 18 R387). -/
def nodeFromPacket (a : CollArgs) (agreed : List (BitVec 16)) (p : CollPacket) (leaf : Bool) : CollNode :=
  if leaf then leafFromPacket a agreed p
  else
    { level := p.level, node := p.node, chunk := p.chunk, overflow := p.overflow,
      special := if a.exact then (List.range ((a.chunkLen p.chunk + 31) / 32)).map fun b => p.special.getD b 0 else [],
      words := if (a.wire = 1 ∨ a.wire = 2) ∧ a.op ≠ 0 then (unpack16 p.payload).map (BitVec.ofNat 32) else p.payload }

/-- Writes one element of the result (11 R252): the values of `t` and, under PAIR, of `t + 1`; and its overflow. -/
def resultElem (a : CollArgs) (agreed : List (BitVec 16)) (n : CollNode) (i : Nat) : (W32 × W32) × Bool :=
  let ws := nodeElem a n i
  let w (k : Nat) : W32 := ws.getD k 0
  if a.wire = 3 then ((w 0, 0), false)
  else if a.op ≠ 0 then ((BitVec.ofNat 32 (fromWire a.wire (w 0).toNat), 0), false)
  else if a.exact then
    match n.special.getD (i / 32) 0, blockEmax agreed (256 * n.chunk + i) with
    | 3, _ => ((0x7FC00000, 0), false)
    | 2, _ => ((0xFF800000, 0), false)
    | 1, _ => ((0x7F800000, 0), false)
    | _, Option.none => ((0, 0), false)
    | _, some e =>
      let r := greedy (collEnv f32) 2 false (binTotal e ((List.range 3).map fun k => binOf (w (2 * k)) (w (2 * k + 1))))
      ((BitVec.ofNat 32 (r.1.getD 0 0), BitVec.ofNat 32 (r.1.getD 1 0)), r.2 &&& flOF != 0)
  else ((w 0, w 1), false)

/-- Every result chunk has come: the tiles are written, and the member arrives (18 R389). -/
def takeResults (s : State) (id : Nat) : State :=
  match collOf s id with
  | none => s
  | some (f, c) =>
    let a := c.arg
    let agreed := c.agreed.getD []
    if !((List.range a.chunks).all fun k => c.results.any fun n => n.chunk == k) ∨ c.status.isSome then s
    else
      let es := c.results.flatMap fun n => (List.range (a.chunkLen n.chunk)).map fun i => (256 * n.chunk + i, resultElem a agreed n i)
      let put (x : Flock) : Flock := es.foldl (fun x (e, r) =>
        let x := tilePut x a.tile (e / 128) (e % 128) r.1.1
        if a.pair then tilePut x (a.tile + 1) (e / 128) (e % 128) r.1.2 else x) x
      let status := if es.any fun e => e.2.2 then 3 else if c.results.any (·.overflow) then 2 else 0
      finishColl (onAnyFlock s f.uid put) id status

/-- A member passes a result chunk that it has as node (k, ·) to the right children below (18 R389). -/
def passDown (s : State) (f : Flock) (c : CollOp) (n : CollNode) (k : Nat) : State :=
  (List.range k).foldl (fun s j =>
    let dest := c.arg.rank + 2 ^ j
    if dest < c.arg.ranks then sendColl s f c dest 0x12 j (dest / 2 ^ j) n.chunk (innerPayload c.arg n) (some n) else s) s

/-- A result chunk reaches a member as node (k, ·). -/
def takeResult (s : State) (id : Nat) (n : CollNode) (k : Nat) : State :=
  match collOf s id with
  | none => s
  | some (f, c) =>
    if c.results.any fun x => x.chunk == n.chunk then s
    else takeResults (onColl (passDown s f c n k) id fun c => { c with results := c.results ++ [n] }) id

/-- A node's chunk is complete at the member that holds it: the root's is the result, a right child's goes to its sibling's
holder, a left child's stays (18 R389). -/
def raiseNode (s : State) (id : Nat) (n : CollNode) (xs : List (W32 × W32)) : State :=
  match collOf s id with
  | none => s
  | some (f, c) =>
    let s := onColl s id fun c => { c with nodes := c.nodes ++ [n] }
    if n.level = c.arg.depth then takeResult s id n n.level
    else if n.node % 2 = 1 then
      let ws := if n.level = 0 then leafPayload c.arg n xs else innerPayload c.arg n
      sendColl s f c ((n.node - 1) * 2 ^ n.level) 0x11 n.level n.node n.chunk ws (some n)
    else s

/-- Phase 0 is agreed at a member: its leaf chunks move (18 R388). -/
def beginData (s : State) (id : Nat) (agreed : List (BitVec 16)) : State :=
  match collOf s id with
  | none => s
  | some (_, c) =>
    if c.agreed.isSome then s
    else
      let s := onColl s id fun c => { c with agreed := some agreed }
      (List.range c.arg.chunks).foldl (fun s k =>
        let xs := (c.contrib.drop (256 * k)).take 256
        raiseNode s id (leafNode c.arg agreed xs k) xs) s

/-- The larger of two block maxima (18 R388). -/
def maxBlock (x y : BitVec 16) : BitVec 16 := if x.slt y then y else x

/-- Maxima in packets and out of them (18 R390). -/
def maximaWords (m : List (BitVec 16)) : List W32 := pack16 (m.map (·.toNat))
def maximaOf (n : Nat) (ws : List W32) : List (BitVec 16) := ((unpack16 ws).take n).map (BitVec.ofNat 16)

/-- The root broadcasts what is agreed: once to each other device, and to the members here (18 R388). -/
def broadcastAgreed (s : State) (f : Flock) (c : CollOp) (m : List (BitVec 16)) : State :=
  let devs := (c.table.map fun e => bits e.toNat 9 0).eraseDups
  let s := devs.foldl (fun s d =>
    match c.table.zipIdx.find? fun e => bits e.1.toNat 9 0 == d with
    | some (_, r) => if d = fabid s then s else sendColl s f c r 0x10 c.arg.depth 0 0 (maximaWords m) Option.none
    | Option.none => s) s
  let s := beginData s c.id m
  (collMembers s f.ctx c.group c.seq).foldl (fun s x => if x.2.table.isEmpty then s else beginData s x.2.id m) s

/-- Phase 0 climbs at a member as far as its children have been heard (18 R388). -/
def climb (id : Nat) : Nat → State → Nat → State
  | 0, s, _ => s
  | fuel + 1, s, k =>
    match collOf s id with
    | none => s
    | some (f, c) =>
      let i := c.arg.rank / 2 ^ k
      let heard (k i : Nat) : Option (List (BitVec 16)) := (c.maxima.find? fun x => x.1 == k && x.2.1 == i).map fun x => x.2.2
      match heard k i with
      | none => s
      | some m =>
        if k = c.arg.depth then (if c.agreed.isSome then s else broadcastAgreed s f c m)
        else if i % 2 = 1 then
          if c.sentUp then s
          else sendColl (onColl s id fun c => { c with sentUp := true }) f c ((i - 1) * 2 ^ k) 0x10 k i 0 (maximaWords m) Option.none
        else
          let up := if (i + 1) * 2 ^ k < c.arg.ranks then (heard k (i + 1)).map fun y => List.zipWith maxBlock m y else some m
          match up with
          | none => s
          | some y =>
            let s := if (heard (k + 1) (i / 2)).isSome then s else onColl s id fun c => { c with maxima := c.maxima ++ [(k + 1, i / 2, y)] }
            climb id fuel s (k + 1)

/-- DIGEST (18 R388). -/
def collDigest (a : CollArgs) (table : List Byte) : W64 :=
  let msg := leBytes 4 a.group.toNat ++ leBytes 2 a.ranks ++ leBytes 2 a.count ++ leBytes 8 a.d2.toNat ++ sha512 table
  BitVec.ofNat 64 (beNat ((sha512 msg).drop 56))

/-- A member's own block maxima (18 R388). -/
def ownMaxima (a : CollArgs) (xs : List (W32 × W32)) : List (BitVec 16) :=
  if !a.exact then []
  else (List.range a.blocks).map fun b =>
    match binEmax (((xs.drop (32 * b)).take 32).map fun x => pairValue (contribution a.pair (wireElem a x))) with
    | some e => BitVec.ofInt 16 e
    | Option.none => 0x8000

/-- The member's table entry names its device and flock (11 R252). -/
def ownEntry (s : State) (f : Flock) : W64 := BitVec.ofNat 64 (fabid s + 65536 * f.lin)

/-- The group table of a member, read through its context, or the cause and the address that stop the read; a page that is
compressed is expanded only once phase 0 has parked on it (18 R388). -/
def readTable (s : State) (ctx : BitVec 16) (a : CollArgs) : (List Byte ⊕ (BitVec 8 × Nat)) × State :=
  let va := a.d3.toNat
  let n := 8 * a.ranks
  let s := if routeOf (localOf s va) = 1 then (draw s).2 else s
  match firstStop s ctx va n, vaBytes s ctx va n with
  | some x, _ => (.inr x, s)
  | none, .inr cause => (.inr (cause, va), s)
  | none, .inl bs => (.inl bs, vaPasture (openPages s ctx va n) ctx va n false none)

/-- Phase 0 of a member whose group table can be read: a wrong own entry is a mismatch (18 R388). One whose table cannot
be read stays where it is. -/
def phase0 (s : State) (id : Nat) : State :=
  match collOf s id with
  | none => s
  | some (f, c) =>
    let a := c.arg
    match readTable s f.ctx a with
    | (.inr _, s) => s
    | (.inl bs, s) =>
      let table := (List.range a.ranks).map fun r => BitVec.ofNat 64 (leNat ((bs.drop (8 * r)).take 8))
      if table.getD a.rank 0 ≠ ownEntry s f then mismatch s id
      else
        let s := onColl s id fun c => { c with table := table, digest := collDigest a bs, maxima := [(0, a.rank, ownMaxima a c.contrib)] }
        climb id 12 s 0

/-- The deterministic place of a collective is known once the last member of the range has taken its turn (19 R407, R408): the last
turn of them all is given to every member of the range, and the droves that read their tiles rejoin. -/
def lastTurn (s : State) (id : Nat) : State :=
  match collOf s id with
  | none => s
  | some (f, c) =>
    match rangeOf s f.range with
    | none => s
    | some r =>
      let lins : List Nat := if c.table.isEmpty then [f.lin] else
        (c.table.filter fun e => bits e.toNat 9 0 == fabid s && decide (bits e.toNat 47 16 < r.nx * r.ny * r.nz)).map fun e => bits e.toNat 47 16
      let mine := (collMembers s f.ctx c.group c.seq).filter fun m => m.1.range == f.range && m.2.started && lins.contains m.1.lin
      if !r.det ∨ !(lins.all fun l => mine.any fun m => m.1.lin == l) then s
      else
        let (t, w) := mine.foldl (fun x m => if x.1 < m.2.issued then (m.2.issued, m.2.lclk) else x) (c.issued, c.lclk)
        mine.foldl (fun s m =>
          let s := onColl s m.2.id fun x => { x with turnAt := t, lclk := w }
          let ts := m.2.args.flatMap fun x => x.2.tiles
          let s := (flockDroves s m.1.uid).foldl (fun s d => wake s d.uid w fun x => match x with
            | .reg .tile n => ts.contains n
            | _ => false) s
          match m.2.status with
          | some st => finishColl s m.2.id st
          | Option.none => s) s

/-- A cancel for the collective was heard before the flock had started it. -/
def cancelHeld (s : State) (f : Flock) (c : CollOp) : Bool :=
  s.eng.held.any fun h => h.ptype == 0x13 && h.pkt.ctx == f.ctx.toNat && h.pkt.group == c.group && h.pkt.seq == c.seq &&
    (h.range == 0 || h.range == f.range)

/-- The elements of the contribution (11 R251, R252). -/
def gatherTiles (f : Flock) (a : CollArgs) : List (W32 × W32) :=
  (List.range a.count).map fun e => (tileAt f a.tile (e / 128) (e % 128), if a.pair then tileAt f (a.tile + 1) (e / 128) (e % 128) else 0)

/-- Every drove of the flock that has not exited has issued: the contribution is read, and phase 0 begins (11 R252). -/
def startColl (s : State) (id : Nat) : State :=
  match collOf s id with
  | none => s
  | some (f, c) =>
    if c.started ∨ !((members f).all fun i => c.args.any fun x => x.1 == i) then s
    else
      let s := onColl s id fun c => { c with started := true, contrib := gatherTiles f c.arg }
      let s := if cancelHeld s f c ∨ c.bad then finishColl (onColl s id fun c => { c with bad := true }) id 1
        else if !c.agrees then mismatch s id
        else phase0 s id
      lastTurn s id

/-- The operation that a drove's `coll` joins: the oldest of the flock that it has not issued yet (11 R252, 18 R384). -/
def joinable (f : Flock) (idx : Nat) : Option CollOp := f.colls.find? fun c => !c.started && !c.args.any fun x => x.1 == idx

/-- The flock's count of a group's collectives, and the flock with one more (18 R384). -/
def countGroup (f : Flock) (g : BitVec 32) : BitVec 32 × Flock :=
  let n : BitVec 32 := ((f.collSeq.find? fun x => x.1 == g).map (·.2)).getD 0
  (n, { f with collSeq := (g, n + 1) :: f.collSeq.filter fun x => x.1 != g })

/-- One more drove of the flock has issued its `coll`, of group `g`: it joins the operation `c`. A group that no other drove of the
operation names is counted too. -/
def joinColl (f : Flock) (c : CollOp) (g : BitVec 32) (mine : CollOp → CollOp) : Flock :=
  if ((c.group, c.seq) :: c.also).any fun x => x.1 == g then { f with colls := mapIf (fun x => x.id == c.id) mine f.colls }
  else
    let (n, f) := countGroup f g
    { f with colls := mapIf (fun x => x.id == c.id) (fun x => mine { x with also := x.also ++ [(g, n)] }) f.colls }

/-- The operands of a `coll` as its drove holds them. -/
def collArgs (d : Drove) (t sd sb : Nat) : CollArgs :=
  { tile := t, d0 := sreg d sd, d1 := sreg d (sd + 1), d2 := sreg d (sd + 2), d3 := sreg d (sd + 3), obj := sreg d sb }

/-- A tile that the operation to be joined has already emptied is not waited for (11 R252). -/
def collTiles (s : State) (a : CollArgs) : List Use :=
  let mine := (joinable s.fl s.dr.idx).elim [] fun c => c.args.flatMap fun x => x.2.tiles
  (a.tiles.filter fun t => !mine.contains t).map fun t => useT t

/-- The checks of a descriptor's contents (11 R251), and the waits for its tiles. -/
def collVerdict (t sd sb : Nat) (s : State) : Verdict :=
  let a := collArgs s.dr t sd sb
  let waits := match anyEmpty s (collTiles s a) with
    | some (u, n) => emptyVerdict s u n
    | none => .go
  firstOf [stopIf (a.bad s.dr.ntiles) 0x02, stopIf (a.pair && t % 2 == 1) 0x04,
    stopIf ((a.wire == 3) != (modeET s.dr.mode == 3)) 0x03, objVerdict s.dr a.obj.toNat, waits,
    waitIf (turnless s.dr) .turn]

/-- `coll` (11 R251): the drove marks its tiles empty and continues; the last drove starts the collective. -/
def execColl (t : BitVec 4) (d b : BitVec 6) (s : State) : Out :=
  let t := t.toNat
  let tile := modeET s.dr.mode
  .next <| issueIf { uses := [{ cls := .scl, base := d.toNat, n := 4, align := 4 }, srcS b.toNat], bad := decide (s.dr.ntiles ≤ t),
                     noShep := true, typ := tile == 0 || tile == 3, conv := true } (collVerdict t d.toNat b.toNat) s fun s =>
      let a := collArgs s.dr t d.toNat b.toNat
      let (s, q) := takeTurn s (Req.fresh s .abarr 16 [])
      let mine (c : CollOp) : CollOp := { c with
        args := c.args ++ [(s.dr.idx, a)], drove := s.dr.uid, droveId := s.dr.droveId, pc := s.dr.pc, lclk := s.dr.lclk, issued := q.turnAt }
      let (id, s) := match joinable s.fl s.dr.idx with
        | some c => (c.id, onFl s fun f => joinColl f c a.group mine)
        | none =>
          let c : CollOp :=
            { id := s.uid, group := a.group, seq := (countGroup s.fl a.group).1, also := [], args := [], drove := 0, droveId := 0, pc := 0, started := false, bad := false,
              table := [], digest := 0, parked := false, contrib := [], maxima := [], sentUp := false, agreed := Option.none,
              nodes := [], results := [], status := Option.none, lclk := 0, issued := 0, turnAt := 0 }
          (s.uid, onFl { s with uid := s.uid + 1 } fun f => { (countGroup f a.group).2 with colls := f.colls ++ [mine c] })
      let s := onFl s fun f =>
        let f := a.tiles.foldl (fun f x => markT f x false) f
        { f with tileOwner := a.tiles.map (fun x => (x, 0)) ++ f.tileOwner.filter fun (o : Nat × Nat) => !a.tiles.contains o.1 }
      startColl (retire s) id

/-- The drove ends (05 R118, R119); a collective that waited for it alone starts (11 R252). -/
def execExit (s : State) : Out :=
  .next <| issueIf { sync := true } exitVerdict s fun s =>
    let s := retire (leaveFlock s)
    let s := onDr s fun d => { d with cond := .exited, gen := d.gen + 1 }
    let s := onRange s s.fl.range fun r => { r with retired := r.retired + s.dr.retired }
    let s := s.fl.colls.foldl (fun s c => startColl s c.id) s
    finishFlock s s.fl.uid

/-- Takes a packet of this module out of its place, with the node it carries. -/
def unhold (s : State) (ptype : Nat) (p : CollPacket) : Option CollNode × State :=
  match takeFirst (fun h => h.ptype == ptype && h.pkt == p) s.eng.held with
  | some (h, hs) => (h.node, { s with eng := { s.eng with held := hs } })
  | none => (none, s)

/-- A packet that no member can take yet is kept. -/
def holdPacket (s : State) (ptype : Nat) (p : CollPacket) (n : Option CollNode) : State :=
  { s with eng := { s.eng with held := s.eng.held ++ [{ ptype := ptype, range := 0, pkt := p, node := n }] } }

/-- Cancels for everyone a collective that a packet shows to be a mismatch (18 R388). -/
def cancelBy (s : State) (p : CollPacket) : State :=
  match collMembers s (BitVec.ofNat 16 p.ctx) p.group p.seq with
  | (f, c) :: _ => cancelColl s f.ctx 0 c
  | [] => s

/-- A phase-0 packet (18 R388): the root's broadcast, or a child's digest and maxima. -/
def execCollPhase0Packet (p : CollPacket) (s : State) : Out :=
  .next <|
    let bound := packetBound s p
    let (_, s) := unhold s 0x10 p
    if !bound then cancelBy s p
    else
      let up := memberAt s p (p.node / 2 * 2 ^ (p.level + 1))
      let roots := (collMembers s (BitVec.ofNat 16 p.ctx) p.group p.seq).filter fun m => !m.2.table.isEmpty && m.2.arg.depth == p.level
      if p.node = 0 ∧ !roots.isEmpty then roots.foldl (fun s m => if m.2.bad then s else beginData s m.2.id (maximaOf m.2.arg.blocks p.payload)) s
      else
        match up with
        | none => holdPacket s 0x10 p none
        | some (_, c) =>
          if c.digest ≠ p.digest then mismatch s c.id
          else if c.maxima.any fun x => x.1 == p.level && x.2.1 == p.node then s
          else
            let m := if c.arg.exact then maximaOf c.arg.blocks p.payload else []
            climb c.id 12 (onColl s c.id fun c => { c with maxima := c.maxima ++ [(p.level, p.node, m)] }) 0

/-- The member that takes a data packet: the holder of the node itself, for a parent that a switch combined (18 R391), else
the holder of its parent. -/
def dataTaker (s : State) (p : CollPacket) : Option (Flock × CollOp × Bool) :=
  let own := if p.level = 0 then none else (memberAt s p (p.node * 2 ^ p.level)).filter fun m =>
    !m.2.nodes.any fun n => n.level == p.level && n.node == p.node && n.chunk == p.chunk
  match own with
  | some (f, c) => some (f, c, true)
  | none => (memberAt s p (p.node / 2 * 2 ^ (p.level + 1))).map fun (f, c) => (f, c, false)

/-- A data packet arrives at a node (18 R390): one of another digest is discarded and counted. -/
def takeData (s : State) (p : CollPacket) (n : Option CollNode) : State :=
  match dataTaker s p with
  | none => holdPacket s 0x11 p n
  | some (_, c, own) =>
    if c.digest ≠ p.digest then countRecord s 0x1A47 0 64
    else if c.agreed.isNone then holdPacket s 0x11 p n
    else
      let x := n.getD (nodeFromPacket c.arg (c.agreed.getD []) p (p.level == 0))
      if c.nodes.any fun y => y.level == p.level && y.node == p.node && y.chunk == p.chunk then s
      else if own then raiseNode s c.id x []
      else onColl s c.id fun c => { c with nodes := c.nodes ++ [x] }

def execCollDataPacket (p : CollPacket) (s : State) : Out :=
  .next <|
    let bound := packetBound s p
    let (n, s) := unhold s 0x11 p
    if bound then takeData s p n else cancelBy s p

/-- A result chunk arrives going down the tree (18 R389). -/
def execCollResultPacket (p : CollPacket) (s : State) : Out :=
  .next <|
    let bound := packetBound s p
    let (n, s) := unhold s 0x12 p
    if !bound then cancelBy s p
    else
      match memberAt s p (p.node * 2 ^ p.level) with
      | none => holdPacket s 0x12 p n
      | some (_, c) =>
        if c.digest ≠ p.digest then countRecord s 0x1A47 0 64
        else
          takeResult s c.id (n.getD (nodeFromPacket c.arg (c.agreed.getD []) p false)) p.level

/-- A cancel arrives (18 R388): every member of this module arrives with status 1; flocks that start the collective later
find it kept. -/
def execCollCancelPacket (p : CollPacket) (s : State) : Out :=
  .next <|
    if !packetBound s p then s
    else
      let s := if s.eng.held.any fun h => h.ptype == 0x13 && h.pkt == p then s else holdPacket s 0x13 p none
      let range := (s.eng.held.find? fun h => h.ptype == 0x13 && h.pkt == p).elim 0 (·.range)
      (collMembers s (BitVec.ofNat 16 p.ctx) p.group p.seq).foldl (fun s (f, c) =>
        if c.bad ∨ !(range = 0 ∨ f.range = range) then s
        else
          let s := onColl s c.id fun c => { c with bad := true }
          if c.started then finishColl s c.id 1 else s) s

/-- The children of a node that exist (18 R385). -/
def kidsOf (c : CollOp) (level node chunk : Nat) : Option (List CollNode) :=
  let kid (i : Nat) : Option CollNode := c.nodes.find? fun n => n.level + 1 == level && n.node == i && n.chunk == chunk
  match kid (2 * node) with
  | none => none
  | some x => if (2 * node + 1) * 2 ^ (level - 1) < c.arg.ranks then (kid (2 * node + 1)).map fun y => [x, y] else some [x]

/-- The launch counter of a node's chunk is 0: a reduce flock computes it (18 R389). -/
def reduceReady (c : CollOp) (level node chunk : Nat) : Bool :=
  c.agreed.isSome && !c.bad && level != 0 && decide (level ≤ c.arg.depth) && c.arg.rank == node * 2 ^ level && decide (chunk < c.arg.chunks) &&
    (kidsOf c level node chunk).isSome && !c.nodes.any fun n => n.level == level && n.node == node && n.chunk == chunk

def execReduceFlockDispatch (c level node chunk : Nat) (s : State) : Out :=
  .next <|
    match collOf s c with
    | none => s
    | some (_, x) =>
      if !reduceReady x level node chunk then s
      else
        match (kidsOf x level node chunk).bind (combineNode x.arg level node chunk) with
        | some n => raiseNode s c n []
        | none => s

/-- A group table that cannot be read (18 R388): causes 0x10 and 0x12 park phase 0 under KIND 10; any other cause is a mismatch
for every member. -/
def execCollGroupTableFault (c : Nat) (s : State) : Out :=
  .next <|
    match collOf s c with
    | none => s
    | some (f, x) =>
      if !x.started ∨ !x.table.isEmpty ∨ x.parked ∨ x.bad then s
      else
        match readTable s f.ctx x.arg with
        | (.inl _, s) => lastTurn (phase0 s c) c
        | (.inr (cause, va), s) =>
          if cause ≠ 0x10 ∧ cause ≠ 0x12 then lastTurn (mismatch s c) c
          else
            let s := if cause = 0x12 then countRecord s 0x1A12 0 64 else s
            let p : Park := { Park.start 10 cause f.ctx va with drove := x.drove, droveId := x.droveId, pc := x.pc, req := some c }
            onColl (enterPark s p) c fun x => { x with parked := true }

end Sys2Proof.Machine
end

