-- ==== Sys2Proof/Machine/Faults.lean ====
section
/-! DEFINITION. The fault table, its service, deliveries, halts, budgets and the watchdog (16 R358, R359, 17 R362-R370,
19 R410). -/

namespace Sys2Proof.Machine

/-- The lowest free slot of a context's fault table (17 R367). -/
def ftFree (s : State) (c : BitVec 16) : Option Nat :=
  (List.range (min 65536 (csbField s c 0x20 4))).find? fun k => ftWord s c k % 8 == 0

/-- The KIND that a table entry or a fault record shows: an unhoused page has its own (17 R367). -/
def Park.kindNo (p : Park) : Nat := if p.cause = 0x16 then 7 else p.kind

/-- The 32 bytes of a table entry in state 1 (17 R367). -/
def ftBytes (p : Park) (seq : Nat) : List Byte :=
  leBytes 8 (p.va / 4096 * 4096 + 1) ++ [p.cause, BitVec.ofNat 8 p.kindNo, 0, 0] ++ leBytes 4 p.droveId.toNat ++
    leBytes 8 p.pc.toNat ++ leBytes 4 seq ++ leBytes 4 0

/-- Changes park `k`. -/
def onPark (s : State) (k : Nat) (f : Park → Park) : State :=
  { s with sch := { s.sch with parks := mapIf (fun p => p.id == k) f s.sch.parks } }

/-- Software has freed the table entry of a park that is over (17 R367). -/
def entryFreed (s : State) (p : Park) : Bool := p.svc == 4 && p.slot.any fun n => ftWord s p.ctx n % 8 == 0

/-- A park fault is entered in the lowest free slot and event 0x0200 is held; with no slot free it waits, counted once in
FTWAIT (17 R367). An entry that cannot be written waits as well. An entry that software has freed no longer counts in FTFILL
(17 R361), and belongs to no other park once it is used again. -/
def execFaultTableEntryWrite (k : Nat) (s : State) : Out :=
  .next <|
    match s.sch.parks.find? fun p => p.id == k with
    | none => s
    | some p =>
      if entryFreed s p then refill { s with sch := { s.sch with parks := s.sch.parks.filter fun x => x.id != k } } p.ctx
      else if p.slot.isSome ∨ p.svc ≠ 1 ∨ (p.cause = 0x12 ∧ p.kind ≠ 10) then s
      else
        match ftFree s p.ctx with
        | none => if p.counted then s else onPark (countCsb s p.ctx 0x54) k fun p => { p with counted := true }
        | some n =>
          match vaPut s p.ctx (ftVa s p.ctx n) (ftBytes p ((ctxOf s p.ctx).elim 0 (·.parkSeq))) with
          | (some _, s) => s
          | (none, s) =>
            let s := refill (onCtx s p.ctx fun c => { c with parkSeq := (c.parkSeq + 1) % 2 ^ 32 }) p.ctx
            let mine (x : Park) : Bool := x.ctx == p.ctx && x.slot == some n
            let parks := (s.sch.parks.filter fun x => !(mine x && x.svc == 4)).map fun x => if mine x then { x with slot := none } else x
            let s := { s with sch := { s.sch with parks := parks } }
            let stamp := ((droveOf s p.drove).filter (·.det)).map (·.lclk)
            postFevq (onPark s k fun p => { p with slot := some n }) p.ctx 0x0200 p.droveId p.pc (BitVec.ofNat 64 (ftVa s p.ctx n)) stamp

/-- Changes a copy. -/
def onCopy (s : State) (k : Nat) (f : CopyJob → CopyJob) : State :=
  { s with eng := { s.eng with copies := mapIf (fun c => c.id == k) f s.eng.copies } }

/-- The queue that stalls on park `k` (16 R347). -/
def stalledQueue (s : State) (k : Nat) : Option Nat := (List.range 64).find? fun q => (queueOf s q).stall == some k

/-- A park that has passed to state 2 is replayed, in residence (17 R368): the request's unfinished lanes, the copy, the
queue's read of its record or the collective's phase 0; an instruction that performed nothing is executed again. -/
def replayPark (s : State) (p : Park) : State :=
  let ended := endParks s fun x => x.id == p.id
  match p.kind, p.req with
  | 6, some c => onCopy ended c fun c => { c with parked := false }
  | 8, _ =>
    match stalledQueue s p.id with
    | some q => onQueue ended q fun x => { x with stall := none }
    | none => ended
  | 10, some c => onColl ended c fun c => { c with parked := false }
  | _, some r => { s with reqs := mapIf (fun q => q.id == r) (settleReq 0) s.reqs }
  | _, none => ended

/-- A park that concerns no instruction has passed to state 3 (17 R368): a copy ends with status 4, a launch-queue record
is refused, a collective is a mismatch; its cause is counted (19 R420). Any other waits for its drove. -/
def deliverPark (s : State) (p : Park) : State :=
  let ended := endParks (countRecord s (0x1A00 + p.cause.toNat % 64) 0 64) fun x => x.id == p.id
  match p.kind, p.req with
  | 6, some k =>
    match s.eng.copies.find? fun c => c.id == k with
    | some c => endCopy ended c 4
    | none => ended
  | 8, _ =>
    match stalledQueue s p.id with
    | some q => queueAdvance ended q
    | none => ended
  | 10, some c => lastTurn (mismatch (onColl ended c fun c => { c with parked := false }) c) c
  | _, _ => s

/-- The flock of a drove is being swapped out. -/
def leaving (s : State) (d : Drove) : Bool := (flockOf s d.flock).any fun f => f.swapDue.isSome

/-- A park acts at once in residence; that of a saved drove acts at its resumption, and during a swap-out a reply changes only
the table (17 R369). -/
def parkActs (s : State) (p : Park) : Bool :=
  p.kind == 6 || p.kind == 8 || p.kind == 10 || (droveOf s p.drove).any fun d => !leaving s d

/-- What the state of a serviced park makes happen. -/
def actOn (s : State) (k : Nat) : State :=
  match s.sch.parks.find? fun p => p.id == k with
  | none => s
  | some p =>
    if !parkActs s p then s
    else if p.svc = 2 then replayPark s p
    else if p.svc = 3 then deliverPark s p
    else s

/-- The CAUSE of a table entry becomes `cause`. -/
def setFtCause (s : State) (c : BitVec 16) (k : Nat) (cause : BitVec 8) : State := (vaPut s c (ftVa s c k + 8) [cause]).2

/-- A collective's phase 0 that waits for an expansion goes on once the page is there, its table entry serviced; a failed one
leaves it waiting for software, with cause 0x10 (13 R297, 18 R388). -/
def tableExpanded (s : State) (fail : Option (BitVec 8)) (p : Park) : State :=
  match fail with
  | some cause => match p.slot with
    | some k => setFtCause s p.ctx k cause
    | none => s
  | none =>
    let s := match p.slot with
      | some k => setFtState s p.ctx k 2
      | none => s
    actOn (onPark s p.id fun p => { p with svc := 2 }) p.id

/-- A page has been expanded, or could not be: what is parked on it is replayed, or takes cause 0x10 (13 R297, R298). -/
def execPageExpansionComplete (ctx va : Nat) (s : State) : Out :=
  .next <|
    let c := BitVec.ofNat 16 ctx
    let (fail, s) := match translate s c va with
      | (.fail _ _, s) => (none, s)
      | (.leaf l, s) => if leafC l.attr then expandAt s (bits va 61 60) l.entry else (none, s)
    let tables := s.sch.parks.filter fun p => p.kind == 10 && parkExpands s c va p
    tables.foldl (fun s p => tableExpanded s fail p) (expansionDone s c va fail)

/-- The serviced parks of some droves act: their swap-out is over (17 R369, R375). -/
def actParks (s : State) (ds : List Drove) : State :=
  (s.sch.parks.filter fun p => p.svc == 2 && ds.any fun d => d.uid == p.drove).foldl (fun s p => actOn s p.id) s

/-- Flocks swapped out for slow service may re-enter once no entry of their droves is in state 1 (17 R370). -/
def releaseSlow (s : State) : State :=
  let waits (v : Saved) : Bool := s.sch.parks.any fun p => p.svc == 1 && v.droves.any fun d => d.uid == p.drove
  let (n, s) := newId s
  { s with sch := { s.sch with saved := s.sch.saved.map fun v =>
      if v.reason == 0x10 && !v.ready && !waits v then { v with ready := true, order := n } else v } }

/-- A record command at the drove that waits to write register `n`: its record of `size` bytes is read under the drove's
context, `run` answers none while the command waits, and else a state, the bytes it writes into the record, and STATUS. A
record that cannot be read or written stops the drove precisely (assumption log 19). -/
def recordCommand (s : State) (c n size : Nat) (run : State → Nat → Option (State × List (Nat × List Byte) × Nat)) : State :=
  match pendingWrite s c n, droveOf s c with
  | some x, some d =>
    match vaRecord s d.ctx x.toNat size with
    | (.inr cause, s) => stopHere (select s c) cause 0 x.toNat
    | (.inl (bs, ds), s) =>
      match run s (leNat bs) with
      | none => s
      | some (s, puts, status) =>
        let s := puts.foldl (fun s p => putPlaces s (ds.drop p.1) p.2) s
        writeDone (setStatus s c n status) c
  | _, _ => s

/-- A reply record (17 R369): 2 malformed, 1 stale, 0. -/
def replyStatus (s : State) (x : Nat) : Nat :=
  let ctx := BitVec.ofNat 16 x
  if ((ctxOf s ctx).bind (·.csb)).isNone ∨ 1 < recField x 4 1 ∨ recField x 5 3 ≠ 0 ∨ recField x 8 8 % 4096 ≠ 0 ∨
      recField x 16 8 % 4096 ≠ 0 ∨ recField x 16 8 = 0 then 2
  else if recField x 2 2 ≠ csbField s ctx 4 2 then 1
  else 0

/-- The parks of the context whose table entries a reply changes, in slot order: state 1, PAGE in the range. -/
def replyHits (s : State) (x : Nat) : List (Nat × Option Nat) :=
  let ctx := BitVec.ofNat 16 x
  let lo := recField x 8 8
  ((List.range (min 65536 (csbField s ctx 0x20 4))).filter fun k =>
    let w := ftWord s ctx k
    w % 8 == 1 && decide (lo ≤ w / 4096 * 4096) && decide (w / 4096 * 4096 < lo + recField x 16 8)).map fun k =>
      (k, (s.sch.parks.find? fun p => p.ctx == ctx && p.slot == some k && p.svc == 1).map (·.id))

/-- A reply is applied (17 R369): the entries change in the table, and the parks with them. -/
def applyReply (s : State) (x : Nat) : State × List (Nat × List Byte) × Nat :=
  let ctx := BitVec.ofNat 16 x
  let st := 2 + recField x 4 1
  match replyStatus s x with
  | 0 =>
    let hits := replyHits s x
    let s := hits.foldl (fun s h => setFtState s ctx h.1 st) s
    let ids := hits.filterMap (·.2)
    let s := ids.foldl (fun s k => onPark s k fun p => { p with svc := st }) s
    (releaseSlow (ids.foldl actOn s), [(0x18, leBytes 4 hits.length ++ leBytes 4 0)], 0)
  | 1 => (countCsb s ctx 0x4C, [(0x18, leBytes 4 0 ++ leBytes 4 1)], 1)
  | n => (s, [(0x18, leBytes 4 0 ++ leBytes 4 n)], n)

/-- A reply that the row `deliver` is for. -/
def reply (s : State) (c : Nat) (deliver : Bool) : State :=
  recordCommand s c 0xC3 32 fun s x => if (recField x 4 1 == 1) == deliver then some (applyReply s x) else none

/-- FREPLY with ACT 0 (17 R369); a malformed record is refused here. -/
def execFreplyReplay (c : Nat) (s : State) : Out := .next <| reply s c false

/-- FREPLY with ACT 1 (17 R369). -/
def execFreplyDeliver (c : Nat) (s : State) : Out := .next <| reply s c true

/-- The drove stands at an instruction boundary: it is not inside the effect of an instruction that has begun. An `mcw` that
waits for running calls, and a `tlbi` that waits for accesses, are begun anew after a stop, with the same effect. -/
def atBoundary (d : Drove) : Bool :=
  match d.cond with
  | .ready => true
  | .waiting .probe | .waiting .command | .waiting (.write _ _) => false
  | .waiting _ => true
  | _ => false

/-- The drove may take a stop now (17 R366, R368). -/
def stoppable (s : State) (d : Drove) : Bool := atBoundary d && !isParked s d.uid && !frecBusy s d

/-- The delivered park's instruction performed nothing, and ACTION 0 executes it again: KIND 3 and 9 (17 R365). -/
def Park.again (p : Park) : Bool := p.req.isNone && (p.kind == 3 || p.kind == 9)

/-- Where a delivered drove resumes (17 R365, R368): the next instruction, which for an instruction that performed nothing
is the one after it. PC, and the microprogram step at which RESUME unchanged continues. -/
def deliverResume (d : Drove) (again : Bool) : W64 × Option Nat :=
  match d.micro, again with
  | none, false => (d.pc, none)
  | none, true => (d.pc + 4, none)
  | some m, false => (d.pc, some m.step)
  | some m, true => if m.step + 1 < m.code.length then (d.pc, some (m.step + 1)) else (d.pc + 4, none)

/-- The unfinished lanes or rows of a park (17 R364). -/
def parkMask (s : State) (p : Park) : Nat :=
  match p.req.bind (reqOf s) with
  | some q => accsMask (q.accs.filter fun a => match a.st with | .faulted _ => true | _ => false)
  | none => p.mask

/-- DELIVERY of a park (17 R368): its drove stops at the instruction boundary where it stands. -/
def execParkDelivery (k : Nat) (s : State) : Out :=
  .next <|
    match s.sch.parks.find? fun p => p.id == k && p.svc == 3 with
    | none => s
    | some p =>
      match droveOf s p.drove with
      | none => s
      | some d =>
        if !stoppable s d || leaving s d then s
        else
          let s := onDr (select s d.uid) unhelp
          let (resume, after) := deliverResume s.dr p.again
          takeStop s { cause := p.cause, kind := BitVec.ofNat 8 p.kindNo, addr := p.va, mask := parkMask s p, pc := p.pc,
                       step := s.dr.micro.map (·.step), resume := resume, after := after, deliver := some p.id, again := p.again }

/-- DBGCMD asks the named droves to halt (19 R410): resident or saved, none that has exited. -/
def execDbgcmdWrite (c : Nat) (s : State) : Out :=
  .next <| command s c 0xE8 fun s x =>
    let named (d : Drove) : Bool := d.ctx == x.extractLsb' 48 16 && (x.getLsbD 32 || d.droveId == x.setWidth 32) &&
      d.cond != .exited && d.cond != .vacant
    let halt (d : Drove) : Drove := if named d then { d with haltReq := true } else d
    .inl { s with
      dr := halt s.dr
      droves := s.droves.map halt
      sch := { s.sch with saved := s.sch.saved.map fun v => { v with droves := v.droves.map halt } } }

/-- The halt of drove `u` (19 R410): at its next boundary, after a breakpoint that falls due there. -/
def execDbgcmdHalt (u : Nat) (s : State) : Out :=
  .next <|
    match droveOf s u with
    | none => s
    | some d =>
      if !d.haltReq ∨ !stoppable s d then s
      else
        let s := select s u
        if (breakpoint s).isSome then s
        else stopHere (onDr s fun d => { d with haltReq := false }) 0x08 0x200000000 0

/-- Free save slots of a context (17 R361). -/
def slotsFree (s : State) (c : BitVec 16) : List Nat :=
  (List.range (min 64 (csbField s c 6 1))).filter fun n => !bitAt (csbField s c 0x38 8) n

/-- Flocks of the context that are being swapped out. -/
def swapping (s : State) (c : BitVec 16) : Nat := ((liveFlocks s).filter fun f => f.ctx == c && f.swapDue.isSome).length

/-- The flock's image bound fits a slot (17 R374). -/
def fitsSlot (s : State) (f : Flock) : Bool :=
  match rangeOf s f.range with
  | some r => decide (imageBound r ≤ csbField s f.ctx 0x30 8)
  | none => false

/-- A free slot can be had for the flock (17 R374). -/
def slotFor (s : State) (f : Flock) : Bool := fitsSlot s f && decide (swapping s f.ctx < (slotsFree s f.ctx).length)

/-- The range has a flock that is swapped out. -/
def anySaved (s : State) (r : Nat) : Bool := s.sch.saved.any fun v => v.flock.range == r

/-- The flock's residency has reached its budget (16 R358), and the flock is not exempt (16 R351, 19 R404). -/
def budgetOver (s : State) (f : Flock) : Bool :=
  let b := ((ctxOf s f.ctx).elim 0 (·.budget)).toNat
  match rangeOf s f.range with
  | some r => b != 0 && decide (b ≤ s.cycle - f.admitted) && !r.det && !f.shepherd && !(r.pers && !anySaved s r.uid) && f.swapDue.isNone && !f.isOver
  | none => false

/-- The flock is to be swapped out, or, for want of a slot, stays: counted once in SAVEFAIL (17 R361). -/
def swapOrFail (s : State) (f : Flock) (reason : BitVec 8) : State :=
  if slotFor s f then onFlock s f.uid fun f => { f with swapDue := some reason }
  else if f.swapTried then s
  else onFlock (countCsb s f.ctx 0x50) f.uid fun f => { f with swapTried := true }

/-- A budget expires (16 R358): counted under cause 0x30 in the field record. -/
def execBudgetExpiry (f : Nat) (s : State) : Out :=
  .next <|
    match flockOf s f with
    | none => s
    | some fl =>
      if !budgetOver s fl then s
      else swapOrFail (if fl.swapTried then s else countRecord s 0x1A30 0 64) fl 0x30

/-- A drove of the flock has been parked for 180,000 cycles without service (17 R370). -/
def slowPark (s : State) (f : Flock) : Option Park :=
  s.sch.parks.find? fun p => p.svc == 1 && p.blocks && p.cause != 0x12 && decide (180000 ≤ s.cycle - p.since) &&
    (droveOf s p.drove).any fun d => d.flock == f.uid

/-- Slow service (17 R370): the flock is swapped out, or stays where no slot is free. -/
def execSlowFaultSwapout (f : Nat) (s : State) : Out :=
  .next <|
    match flockOf s f with
    | none => s
    | some fl =>
      match slowPark s fl with
      | none => s
      | some p =>
        if fl.swapDue.isSome ∨ (rangeOf s fl.range).any (·.det) then s
        else if slotFor s fl then onFlock s f fun f => { f with swapDue := some 0x10 }
        else if p.slow then s
        else onPark (countCsb s fl.ctx 0x50) p.id fun p => { p with slow := true }

/-- Droves of a range, resident and saved. -/
def rangeDroves (s : State) (u : Nat) : List Drove :=
  (allDroves s ++ s.sch.saved.flatMap (·.droves)).filter fun d => d.range == u && d.cond != .vacant

/-- A counted drove (19 R405, R407, R409): it has not exited, and it does not wait passively, has been woken, or is
stopped. -/
def counted (d : Drove) : Bool := d.cond != .exited && (!(d.passive && d.wakeAt.isNone) || d.cond == .stopped)

/-- The smaller of two droves in (LCLK, DROVEID). -/
def earlier (a b : Drove) : Drove :=
  if decide (b.lclk.toNat < a.lclk.toNat) || (a.lclk == b.lclk && decide (b.droveId.toNat < a.droveId.toNat)) then b else a

/-- The bellwether of a range (19 R406). -/
def bellwether (s : State) (u : Nat) : Option Drove :=
  match (rangeDroves s u).filter counted with
  | [] => none
  | d :: ds => some (ds.foldl earlier d)

/-- The drove waits for a store-buffer entry of its own that stands on a fault (09 R192). -/
def entryHeld (s : State) (d : Drove) : Bool :=
  (match d.cond with
    | .waiting .entry | .waiting .drain | .waiting .ending => true
    | _ => false) &&
    s.sch.parks.any fun p => p.drove == d.uid && (p.kind == 2 || p.kind == 5) && (p.svc == 1 || p.svc == 2)

/-- The drove is parked on a fault, or stopped (09 R192, 16 R359, 17 R366). -/
def heldUp (s : State) (d : Drove) : Bool := isParked s d.uid || d.cond == .stopped || entryHeld s d

/-- A wait that the watchdog ends (16 R359): for an empty register, or whatever a flock barrier, `barw`, `abwait` or chute operation
waits for. -/
def watched (d : Drove) : Bool :=
  match d.cond with
  | .waiting (.reg _ _) | .waiting .mask | .waiting (.barrier _) | .waiting .wide | .waiting (.object _ _) | .waiting (.push _ _) => true
  | .waiting _ => d.dog
  | _ => false

/-- The budget of the flock has expired and is still to be applied. -/
def budgetDue (s : State) (f : Flock) : Bool := budgetOver s f && (slotFor s f || !f.swapTried)

/-- The watchdog acts on the flock (16 R359); a budget that expires in the same cycle is applied first (16 R360). -/
def watchdogDue (s : State) (f : Flock) : Bool :=
  let ds := drovesOf s f.uid
  let wdog := max 65536 (bits (privReg s 0xB4).toNat 47 0)
  !budgetDue s f && decide (wdog ≤ s.cycle - f.lastIssue) && !f.shepherd && f.swapDue.isNone && !ds.any (heldUp s) && ds.any watched &&
    !ds.any fun d => d.cond == .waiting .turn && (bellwether s d.range).any (heldUp s)

/-- The watchdog stops every drove of the flock that waits, precisely, with cause 0x30 (16 R359). -/
def execWatchdogExpiry (f : Nat) (s : State) : Out :=
  .next <|
    match flockOf s f with
    | none => s
    | some fl =>
      if !watchdogDue s fl then s
      else ((drovesOf s f).filter watched).foldl (fun s d => stopHere (select s d.uid) 0x30 0 0) s

end Sys2Proof.Machine
end

