-- ==== Sys2Proof/Machine/Context.lean ====
section
/-! DEFINITION. Swap-out and resumption of flocks, the context commands, and the binding of context status blocks
(10 R226, 11 R241, R249, R253, 16 R351, 17 R361, R371-R375). -/

namespace Sys2Proof.Machine

/-- A request that is withdrawn at a save: a probe that has not completed, and an operation on a record or a wide-barrier
word that has not been performed; its drove is saved at the instruction (09 R207). -/
def withdrawn (s : State) (q : Req) : Bool :=
  match q.kind with
  | .barw | .evpost => !hasPark s q.id
  | k => atomicKind k && q.probing

/-- A request that the save waits for (17 R371): atomics, `rtake` and `abarr` already sent, slow `sysrd`, a `tld` that no
fault has parked, a write-back. -/
def holdsSave (s : State) (q : Req) : Bool :=
  match q.kind with
  | .abarr | .abinit | .sysrd _ | .vwb _ => true
  | .tld _ _ => !hasPark s q.id
  | k => atomicKind k && !withdrawn s q && !hasPark s q.id

/-- Copies of the flock's core that leave its L1 at the save (15 R331). -/
def savedLines (s : State) (f : Flock) : List L1Line :=
  s.coh.l1.filter fun l => l.core == f.core && l.ctx == f.ctx && (l.owned || l.dirty != 0)

/-- A drove is inside an instruction whose effect has begun, and is not withdrawn with a request. -/
def midway (d : Drove) : Bool :=
  match d.cond with
  | .waiting .command | .waiting (.write _ _) => true
  | _ => false

/-- Steps 1 to 3 of the save have ended (17 R371): every drove stands at a boundary, granted passes and tile operations have
completed, and everything that is waited for has returned. -/
def saveReady (s : State) (f : Flock) : Bool :=
  !(s.eng.passes.any fun p => p.flock == f.uid && p.granted) && !(s.eng.tileOps.any fun t => t.flock == f.uid) &&
    !(s.reqs.any fun q => q.flock == f.uid && holdsSave s q) && !((drovesOf s f.uid).any midway) &&
    (savedLines s f).all (evictable s)

/-- A request as the save keeps it (09 R207, 12 R276): a lane that has been performed keeps its value, also that of a load whose
other lanes start again (DEDUCED, assumption log 24); a lane that stands on a recorded fault keeps it. -/
def saveReq (q : Req) : Req :=
  let give (a : Acc) : Acc := match a.st with
    | .sent => if atomicKind q.kind then a else { a with st := .new, aged := none }
    | .faulted c => if c = 0x12 then { a with st := .new, aged := none } else a
    | _ => a
  { q with accs := q.accs.map give }

/-- The drove under a new generation tag, at its boundary (17 R371). -/
def saveDrove (d : Drove) : Drove :=
  let d := unhelp d
  { unGang d with gen := d.gen + 1, promoted := false, trace := { d.trace with bits := [] } }

/-- Takes a flock out of residence after its save. -/
def departFlock (s : State) (f : Nat) : State :=
  let mine (x : Asker) : Bool := match x with
    | .acc r _ => s.reqs.any fun q => q.id == r && q.flock == f
    | _ => false
  let clear (e : DirEntry) : DirEntry :=
    { e with queue := e.queue.filter fun x => !mine x, cause := e.cause.filter fun x => !mine x }
  let s := { s with
    coh := { s.coh with dir := s.coh.dir.map clear }
    droves := s.droves.filter fun d => d.flock != f
    reqs := s.reqs.filter fun r => r.flock != f
    flocks := s.flocks.filter fun x => x.uid != f
    eng := { s.eng with passes := s.eng.passes.filter fun p => p.flock != f } }
  if s.fl.uid = f then { s with fl := .vacant, dr := if s.dr.flock = f then .vacant else s.dr } else s

/-- Steps 4 and 5 of the save (17 R371): the image is written, the slot is marked, the flock leaves, event 0x0203 is held. A
slot that cannot be written counts as none (assumption log 25). -/
def saveFlock (s : State) (fl : Flock) (reason : BitVec 8) : State :=
  let stay := actParks (onFlock (countCsb s fl.ctx 0x50) fl.uid fun f => { f with swapDue := none, swapTried := true }) (drovesOf s fl.uid)
  match slotsFree s fl.ctx with
  | [] => stay
  | slot :: _ =>
    let mine := s.reqs.filter fun q => q.flock == fl.uid
    let gone := mine.filter (withdrawn s)
    let dropped := mine.filter fun q => isLoad q && !keptParked s q
    let s := gone.foldl (fun s q => standBefore (dropReq s q.id) q.drove) s
    let s := onFlock s fl.uid fun f => { f with wide := f.wide.map fun m => { m with req := none } }
    let pre (q : Req) : Bool := match q.kind with | .pref _ => true | _ => false
    let reqs := ((s.reqs.filter fun q => q.flock == fl.uid && !pre q).map saveReq)
    let s := { s with sch := { s.sch with parks := s.sch.parks.filter fun p => !(p.cause == 0x12 && mine.any fun q => p.req == some q.id) } }
    let s := (savedLines s fl).foldl leaveL1 s
    let s := keepBrs s (drovesOf s fl.uid)
    let (s, ds) := (drovesOf s fl.uid).foldl (fun (x : State × List Drove) d =>
      let (s, d) := saveLinks x.1 (saveDrove d)
      (s, x.2 ++ [d])) (s, [])
    let (id, s) := newId s
    let f := (flockOf s fl.uid).getD fl
    let waits := s.sch.parks.any fun p => p.svc == 1 && ds.any fun d => d.uid == p.drove
    let v : Saved :=
      { id := id, slot := slot, reason := reason, droves := ds, reqs := reqs,
        flock := { f with swapDue := none, swapTried := false, tgen := f.tgen + 1 }
        passes := (s.eng.passes.filter fun p => p.flock == fl.uid).mergeSort fun a b => decide (a.id ≤ b.id)
        spad := memBytes s.mem.spad (spadBase (padOf fl.core) + fl.spb) (fl.spl - fl.spb)
        ready := reason == 0x30 || (reason == 0x10 && !waits), order := id }
    match putImage s v with
    | (some _, _) => stay
    | (none, s) =>
      let s := departFlock s fl.uid
      let s := dropped.foldl (fun s q => countCsb s q.ctx 0x48) s
      let s := setCsbField s fl.ctx 0x38 8 (csbField s fl.ctx 0x38 8 ||| 2 ^ slot)
      let va := (rangeOf s fl.range).elim 0 (·.va)
      postFevq { s with sch := { s.sch with saved := s.sch.saved ++ [v] } } fl.ctx 0x0203 (BitVec.ofNat 32 (32 * fl.lin)) va
        (BitVec.ofNat 64 (slot + reason.toNat * 256)) none

/-- A swap-out ends (17 R371): the flock that was to go is saved. -/
def execSwapOut (f : Nat) (s : State) : Out :=
  .next <|
    match flockOf s f with
    | none => s
    | some fl =>
      match fl.swapDue with
      | none => s
      | some reason => if saveReady s fl then saveFlock s fl reason else s

/-- An `mcall` goes on with its parameters taken again from the word at its PC (11 R257). -/
def remicro (s : State) (d : Drove) : Option Micro :=
  d.micro.map fun m =>
    match vaBytes s d.ctx d.pc.toNat 4 with
    | .inl bs =>
      let w := leNat bs
      { m with pa := BitVec.ofNat 7 (bits w 16 10), pb := BitVec.ofNat 7 (bits w 9 3), k := BitVec.ofNat 3 (bits w 2 0) }
    | .inr _ => m

/-- A restored drove joins the core's sub-core with the most free slots (16 R353); one that stood in `regang` or `yield`
waits there anew (05 R120). The stream of another die has had no packet of it (19 R418). -/
def restoreDrove (core : Nat) (s : State) (d : Drove) : State :=
  let sub := if d.shepherd then 0 else freestSub s core
  let cond := match d.cond with
    | .waiting (.regang _) | .waiting (.yield _) => .ready
    | c => c
  let tr := if dieOfCore core = dieOfCore d.core then d.trace else .start
  { s with droves := s.droves ++ [{ d with core := core, subc := sub, since := s.cycle, micro := remicro s d, cond := cond, trace := tr }] }

/-- THE RESTORE of a saved flock on a core (17 R375): the core is made ready, with no copy of the context's non-coherent pages
older than the flock's own writes (12 R276), the scratchpad and tiles are restored, pending
passes reposted, droves and requests given to the new core, serviced parks acted on; event 0x0204 is held. -/
def restoreAt (s : State) (v : Saved) (core : Nat) : State :=
  let v := fromImage s v
  let f := v.flock
  let s := readyCore s f.ctx core
  let s := (s.coh.l1.filter fun l => l.core == core && l.ctx == f.ctx && l.nc).foldl leaveL1 s
  let s := onSpad s fun m => memPut m (spadBase (padOf core) + f.spb) v.spad
  let base := (tileRun s core f.ntiles).getD 0
  let s := { s with flocks := s.flocks ++ [{ f with core := core, tileBase := base, admitted := s.cycle, lastIssue := s.cycle }] }
  let s := v.droves.foldl (restoreDrove core) s
  let s := v.passes.foldl (fun s p =>
    let (id, s) := newId s
    { s with eng := { s.eng with passes := s.eng.passes ++ [{ p with id := id, pad := padOf core, since := s.cycle, aged := 0, posted := false, seen := [] }] } }) s
  let tag (q : Req) : BitVec 16 := ((v.droves.find? fun d => d.uid == q.drove).map (·.gen)).getD q.gen
  let reqs := v.reqs.map fun q => { q with core := core, gen := tag q }
  let s := { s with reqs := (s.reqs ++ reqs).mergeSort fun a b => decide (a.id ≤ b.id)
                    sch := { s.sch with saved := s.sch.saved.filter fun x => x.id != v.id } }
  let s := setCsbField s f.ctx 0x38 8 (csbField s f.ctx 0x38 8 &&& (2 ^ 64 - 1 - 2 ^ v.slot))
  let s := actParks s v.droves
  let va := (rangeOf s f.range).elim 0 (·.va)
  let s := postFevq s f.ctx 0x0204 (BitVec.ofNat 32 (32 * f.lin)) va (BitVec.ofNat 64 v.slot) none
  finishFlock s f.uid

/-- No drove of a Shepherd core is resident. -/
def coreFree (s : State) (core : Nat) : Bool := !(liveFlocks s).any fun f => f.core == core

/-- The flocks of a deterministic range re-enter together (19 R404); any other alone. -/
def matesOf (s : State) (v : Saved) : List Saved :=
  if (rangeOf s v.flock.range).any (·.det) then readySaved s v.flock.range else [v]

/-- A saved flock re-enters (17 R375); a Shepherd drove does on its own core. -/
def execFlockResume (k : Nat) (s : State) : Out :=
  .next <|
    match s.sch.saved.find? fun v => v.id == k with
    | none => s
    | some v =>
      if v.flock.shepherd then
        if v.ready && coreFree s v.flock.core && s.dev.ckpt.isNone then restoreAt s v v.flock.core else s
      else
        match entry s true k with
        | some cs => ((matesOf s v).zip cs).foldl (fun s x => restoreAt s x.1 x.2) s
        | none => s

/-- The flocks of a context that are resident. -/
def flocksOf (s : State) (c : BitVec 16) : List Flock := (liveFlocks s).filter fun f => f.ctx == c

/-- A drove of the flock waits for a context command. -/
def commanding (s : State) (f : Flock) : Bool :=
  (drovesOf s f.uid).any fun d => match d.cond with | .waiting (.write 0xC4 _) => true | _ => false

/-- Every flock of the context can be saved (17 R373). -/
def allSavable (s : State) (c : BitVec 16) : Bool :=
  let fs := flocksOf s c
  decide (fs.length ≤ (slotsFree s c).length) && fs.all (fitsSlot s)

/-- STATUS alone. -/
def ctxStatus (s : State) (n : Nat) : State × List (Nat × List Byte) × Nat := (s, [(0x1C, leBytes 4 n)], n)

/-- A context command whose fields are not as 17 R373 gives them. -/
def ctxMalformed (x : Nat) : Bool :=
  decide (3 < recField x 0 1) || recField x 4 4 != 0 || recField x 16 12 != 0 || (recField x 0 1 == 3 && decide (15 < recField x 1 1))

/-- The row of a context command; a malformed one is refused with op 0. -/
def ctxRow (x : Nat) : Nat := if 3 < recField x 0 1 then 0 else recField x 0 1

/-- A context command of a row: a malformed one is refused. -/
def ctxCommand (s : State) (c row : Nat) (run : State → Nat → Option (State × List (Nat × List Byte) × Nat)) : State :=
  recordCommand s c 0xC4 32 fun s x =>
    if ctxRow x ≠ row then none
    else
      let note (r : State × List (Nat × List Byte) × Nat) : State × List (Nat × List Byte) × Nat :=
        (setPriv r.1 0xC4 (BitVec.ofNat 64 r.2.2), r.2)
      if ctxMalformed x then some (note (ctxStatus s 2)) else (run s x).map note

/-- Op 0 (17 R373): every resident flock of the context is marked for its save, and STATUS waits until they are gone, but for
one that itself waits for a context command. -/
def preempt (s : State) (x : Nat) : Option (State × List (Nat × List Byte) × Nat) :=
  let c := BitVec.ofNat 16 (recField x 2 2)
  let open' := (ctxOf s c).any (·.held)
  if !open' && !allSavable s c then some (ctxStatus s 3)
  else if open' && !((flocksOf s c).any fun f => f.swapDue == some 0x31 && !commanding s f) then
    some (ctxStatus (onCtx s c fun y => { y with held := false }) 0)
  else none

/-- The marks of op 0. -/
def preemptMark (s : State) (c : BitVec 16) : State :=
  let s := (flocksOf s c).foldl (fun s f => onFlock s f.uid fun f => { f with swapDue := some 0x31 }) s
  onCtx s c fun y => { y with held := true }

/-- The context that the record of the waiting command names, when its op 0 is yet to begin. -/
def preemptStart (s : State) (c : Nat) : Option (BitVec 16) :=
  match pendingWrite s c 0xC4, droveOf s c with
  | some x, some d =>
    match (vaRead s d.ctx x.toNat 32).1 with
    | .inl bs =>
      let r := leNat bs
      let k := BitVec.ofNat 16 (recField r 2 2)
      if recField r 0 1 = 0 ∧ ctxMalformed r = false ∧ (ctxOf s k).any (·.held) = false ∧ allSavable s k = true then some k else none
    | .inr _ => none
  | _, _ => none

def execCtxPreempt (c : Nat) (s : State) : Out :=
  .next <|
    let s := match preemptStart s c with
      | some k => preemptMark s k
      | none => s
    ctxCommand s c 0 preempt

/-- Op 1 (17 R373): the flocks that op 0 saved may re-enter. -/
def execCtxResume (c : Nat) (s : State) : Out :=
  .next <| ctxCommand s c 1 fun s x =>
    let k := BitVec.ofNat 16 (recField x 2 2)
    let (n, s) := newId s
    some (ctxStatus { s with sch := { s.sch with saved := s.sch.saved.map fun v =>
      if v.flock.ctx == k && v.reason == 0x31 && !v.ready then { v with ready := true, order := n } else v } } 0)

/-- Terminates resident and saved flocks; those that wait for a context command last, after their STATUS. -/
def endAll (s : State) (fs : List Nat) (why : Nat) : State :=
  fs.foldl (fun s f => if (flockOf s f).isSome then terminate s f why else terminateSaved s f why) s

/-- The context of the record of the command that drove `c` waits for. -/
def commandCtx (s : State) (c : Nat) : Option (Flock × Nat) :=
  match pendingWrite s c 0xC4, droveOf s c with
  | some x, some d =>
    match (vaRead s d.ctx x.toNat 32).1, flockOf s d.flock with
    | .inl bs, some f => some (f, leNat bs)
    | _, _ => none
  | _, _ => none

/-- Op 2 (17 R373): every flock of the context is terminated; the issuing drove's own comes last. -/
def execCtxTerminate (c : Nat) (s : State) : Out :=
  .next <|
    let own := commandCtx s c
    let s' := ctxCommand s c 2 fun s x =>
      let k := BitVec.ofNat 16 (recField x 2 2)
      let fs := ((flocksOf s k).map (·.uid)) ++ ((s.sch.saved.filter fun v => v.flock.ctx == k).map fun v => v.flock.uid)
      some (ctxStatus (endAll s (fs.filter fun f => some f != own.map (·.1.uid)) 3) 0)
    match own with
    | some (f, x) =>
      if ctxRow x = 2 ∧ ctxMalformed x = false ∧ f.ctx = BitVec.ofNat 16 (recField x 2 2) ∧ (pendingWrite s' c 0xC4).isNone = true ∧
          (droveOf s' c).any (fun d => d.cond == .ready) = true then
        endAll s' [f.uid] 3
      else s'
    | none => s'

/-- The shape of a Shepherd drove's record (16 R351). -/
def shepherdShape (r : Range) : Bool :=
  r.nx == 1 && r.ny == 1 && r.nz == 1 && r.droves == 1 && r.wcode == 0 && r.tiles == 0 && r.scratch == 0 && r.chutes.isEmpty

/-- The launch that op 3 names, if its record is accepted (16 R351). -/
def shepherdRecord (s : State) (x : Nat) : Option Range × State :=
  let c := BitVec.ofNat 16 (recField x 2 2)
  let va := recField x 8 8
  if va % 128 ≠ 0 then (none, s)
  else
    match copyLaunch s c va with
    | (.bytes b, s) =>
      let r := parseLaunch b c va
      (if launchStatus s b r = 0 ∧ shepherdShape r = true then some { r with held := 0 } else none, s)
    | (_, s) => (none, s)

/-- The flock of a paddock's Shepherd core, resident or saved. -/
def shepherdsOf (s : State) (pad : Nat) : List Nat :=
  ((liveFlocks s).filter fun f => f.core == 64 + pad).map (·.uid) ++
    ((s.sch.saved.filter fun v => v.flock.core == 64 + pad).map fun v => v.flock.uid)

/-- The new Shepherd drove of a paddock takes the place of the old one (16 R351, 17 R373). -/
def placeShepherd (s : State) (r : Range) (pad : Nat) : State :=
  let s := endAll s (shepherdsOf s pad) 4
  let (id, s) := newId s
  let r := { r with uid := id, order := id }
  admitAt { s with sch := { s.sch with ranges := s.sch.ranges ++ [r] } } r 0 (64 + pad) 0 true

/-- Op 3 (17 R373): STATUS is written, then the Shepherd drove is replaced; a refused record leaves the old one. -/
def execCtxPlaceShepherd (c : Nat) (s : State) : Out :=
  .next <|
    let own := commandCtx s c
    let rec' := own.map fun o => (shepherdRecord s o.2).1
    let s' := ctxCommand s c 3 fun s x =>
      let (r, s) := shepherdRecord s x
      some (ctxStatus s (if r.isSome then 0 else 4))
    match own, rec' with
    | some (_, x), some (some r) =>
      if ctxRow x = 3 ∧ ctxMalformed x = false ∧ (pendingWrite s' c 0xC4).isNone = true ∧ (droveOf s' c).any (fun d => d.cond == .ready) = true then
        placeShepherd s' r (recField x 1 1)
      else s'
    | _, _ => s'

/-- CSBADDR (17 R361, R362): a misaligned address, or one of 2^39 or above (assumption log 20), is refused, and bit 63 then reads
1; otherwise the block is bound and CGEN
goes up by one. The cores no longer hold the context's control store. -/
def execCsbaddrWrite (c : Nat) (s : State) : Out :=
  .next <| command s c 0xC1 fun s x =>
    let bad : W64 := 1#64 <<< 63
    if x.toNat % 128 ≠ 0 ∨ 2 ^ 39 ≤ x.toNat then .inl (setPriv s 0xC1 (privReg s 0xC1 ||| bad))
    else
      let k := (privReg s 0xC0).setWidth 16
      let s := onCtx (setPriv s 0xC1 (privReg s 0xC1 &&& ~~~bad)) k fun y => { y with csb := some x.toNat }
      let s := setCsbField s k 4 2 ((csbField s k 4 2 + 1) % 2 ^ 16)
      let drop (y : CoreSt) : CoreSt := if y.cstore = some k then { y with cstore := none, slots := [] } else y
      .inl { s with coh := { s.coh with cores := s.coh.cores.map drop } }

end Sys2Proof.Machine
end

