-- ==== Sys2Proof/Machine/Device.lean ====
section
/-! DEFINITION. Module reset, boot and recovery, the checkpoint engine, attestation, links, ports and power, the field
record and the trace streams (16 R356, 18 R380-R383, R393-R403, 19 R406, R415-R421). -/

namespace Sys2Proof.Machine

/-- A request of MXMODE (16 R356): a paddock whose requested bit changes is pending. -/
def execMxmodeWrite (c : Nat) (s : State) : Out :=
  .next <| command s c 0xB5 fun s x =>
    let m : BitVec 16 := x.setWidth 16
    .inl { s with eng := { s.eng with mxreq := m, mxpend := s.eng.mxpend ||| (s.eng.mxreq ^^^ m) } }

/-- A power profile is requested (18 R403). -/
def execPwrprofWrite (c : Nat) (s : State) : Out :=
  .next <| command s c 0xD3 fun s x => .inl { s with dev := { s.dev with profReq := x.setWidth 2 } }

/-- Ports that a profile leaves trained (18 R403). -/
def portsOf (prof : BitVec 2) : BitVec 12 := if prof.getLsbD 0 then 0x249 else 0xFFF

/-- The requested profile comes into force (18 R403). -/
def execProfileChangeTakesEffect (s : State) : Out :=
  .next { s with dev := { s.dev with profCur := s.dev.profReq, ports := s.dev.ports &&& portsOf s.dev.profReq } }

/-- The arithmetic clock of a profile, in steps of 0.1 GHz (18 R403). -/
def profileClock (p : BitVec 2) : Nat := [36, 36, 28, 20].getD p.toNat 36

/-- A thermal or droop event lowers the clock by one step, which is counted; later the clock may rise again (18 R403,
19 R420). Whether it was a droop, and how deep, comes from outside: a free value (assumption log 26). -/
def execThermalClockStep (up : Bool) (s : State) : Out :=
  .next <|
    let n := s.dev.clockDown
    if up then { s with dev := { s.dev with clockDown := n - 1 } }
    else if profileClock s.dev.profCur ≤ n + 1 then s
    else
      let s := countRecord { s with dev := { s.dev with clockDown := n + 1 } } 0x1A44 0 64
      let (k, s) := draw s
      if k % 2 = 0 then s else countRecord s (0x1980 + k / 2 % 64) 0 64

/-- Retransmissions of a link within the last 1 ms, 3,600,000 cycles (00 R7, 18 R380). -/
def recentResends (s : State) (link : Nat) : List Nat :=
  (((s.dev.resends.find? fun x => x.1 == link).map (·.2)).getD []).filter fun t => decide (s.cycle - t ≤ 3600000)

/-- Writes the retransmissions of a link. -/
def setResends (s : State) (link : Nat) (ts : List Nat) : State :=
  { s with dev := { s.dev with resends := (link, ts) :: s.dev.resends.filter fun x => x.1 != link } }

/-- Links: 0 to 5 die pairs, 6 to 17 fabric ports, 18 the Bruoth link (19 R420). -/
def linkCount : Nat := 19

/-- A flit fails its CRC and is sent again (18 R380). -/
def execFlitCrcFail (link : Nat) (s : State) : Out :=
  .next <| if linkCount ≤ link then s else setResends s link (s.cycle :: (recentResends s link).take 63)

/-- A link with 64 retransmissions within 1 ms retrains; the retrain is counted (18 R380, 19 R420). -/
def execLinkRetrain (link : Nat) (s : State) : Out :=
  .next <|
    if linkCount ≤ link ∨ retraining s link ∨ (recentResends s link).length < 64 then s
    else
      let s := countRecord (setResends s link []) (0x19C0 + link) 0 64
      { s with dev := { s.dev with retrain := link :: s.dev.retrain } }

/-- The link has finished training, and what its senders held flows again (18 R380). -/
def execLinkRetrainEnd (link : Nat) (s : State) : Out :=
  .next { s with dev := { s.dev with retrain := s.dev.retrain.filter (· != link) } }

/-- A port goes down (18 R383). A request is performed at its home and acknowledged in one step, once: none of a lost port's
packets is left to be sent again, and what a resent one would wait for has been acknowledged (DEDUCED, assumption log 9). -/
def execPortDown (port : Nat) (s : State) : Out :=
  .next { s with dev := { s.dev with ports := s.dev.ports &&& ~~~(1#12 <<< port) } }

/-- Work parked for want of a port that now finds one trained (18 R383). -/
def portParks (s : State) : List Park :=
  s.sch.parks.filter fun p => p.svc == 1 && p.noPort && (peerLocal s p.ctx (bits p.va 61 52)).isNone

/-- Accesses that met no trained port in `old`, and are not yet parked, are made again where there is one now (18 R383). -/
def portAccs (old s : State) : State :=
  let again (q : Req) (a : Acc) : Bool :=
    a.st == .faulted 0x10 && !hasPark s q.id && wantsPort old q.ctx 0x10 a.va && (peerLocal s q.ctx (bits a.va 61 52)).isNone
  { s with reqs := s.reqs.map fun q => { q with accs := mapIf (again q) (fun a => { a with st := .new }) q.accs } }

/-- A port trains, unless the profile holds it down (18 R383, R403): accesses that parked for want of a port go on. -/
def execPortTrained (port : Nat) (s : State) : Out :=
  .next <|
    if 12 ≤ port ∨ !(portsOf s.dev.profCur).getLsbD port then s
    else
      let s := portAccs s { s with dev := { s.dev with ports := s.dev.ports ||| (1#12 <<< port) } }
      releaseSlow <| (portParks s).foldl (fun s p =>
        let s := match p.slot with
          | some k => setFtState s p.ctx k 2
          | none => s
        actOn (onPark s p.id fun p => { p with svc := 2 }) p.id) s

/-- W1C of NOTIFY by the host (18 R393). -/
def execNotifyClear (v : BitVec 64) (s : State) : Out :=
  .next { s with dev := { s.dev with notify := s.dev.notify &&& ~~~v } }

/-- Retired shares, by the field record (19 R420). -/
def retiredIn (rec' : List (Nat × W64)) : List Nat :=
  (rec'.filter fun x => decide (x.1 < 6144) && x.2.getLsbD 48).map (·.1)

/-- The boot count (19 R420). -/
def bootCount (s : State) : Nat := (mapGet (0 : W64) s.dev.record 0x1A48).toNat

/-- An attestation request (18 R402): the nonce, then the DPA of the reply area, which the device fills. A request or a reply
area that reaches past device memory has no effect (00 R11, 13 R279; assumption log 20). -/
def execAttestRequest (dpa : Nat) (s : State) : Out :=
  .next <|
    let nonce := homeBytes s dpa 64
    let reply := homeRead s (dpa + 64) 8
    if 2 ^ 39 < dpa + 72 ∨ 2 ^ 39 < reply + 1024 then s
    else
      let head := padTo 0x100 ((Config.serialNumber ++ List.replicate 16 0).take 16 ++ leBytes 8 s.dev.bootVer.toNat ++
        sha512 s.mem.flash ++ nonce ++ leBytes 8 (bootCount s) ++ leBytes 4 (retiredIn s.dev.record).length ++ leBytes 4 (fabid s))
      let sig := (Config.attestSignature head ++ List.replicate 512 0).take 512
      homePut { s with dev := { s.dev with attestdb := BitVec.ofNat 64 dpa } } reply (head ++ sig ++ List.replicate 256 0)

/-- The parts that outlive a reset of the module: other machines' memories, the safe store, the flash, the stored field
record with its retired shares, and HBM's contents where power has stayed on (assumption log 27). -/
def resetKeeping (s : State) (hbm : Memory) : State :=
  { State.reset with
    mem := { s.mem with hbm := hbm, spad := [] }
    vc := { State.reset.vc with retired := retiredIn s.dev.stored }
    dev := { State.reset.dev with snaps := s.dev.snaps, record := s.dev.stored, stored := s.dev.stored }
    uid := s.uid, fresh := s.fresh, inbox := s.inbox }

/-- The field record is committed (19 R421). -/
def commitRecord (s : State) : State := { s with dev := { s.dev with stored := s.dev.record, committed := s.cycle } }

/-- BOOTSTAT.STATE after die 0 has checked the firmware (18 R399). -/
def bootResult (s : State) : Nat :=
  if !Config.flashReadable (bootCount s) then 4
  else if !Config.signatureGood s.mem.flash then 2
  else if (Config.imageVersion s.mem.flash).toNat < Config.minVersion.toNat then 3
  else 1

/-- Boot (18 R399, R401): the boot is counted; a good image runs, and sets up context 0. -/
def boot (s : State) : State :=
  let s := countRecord s 0x1A48 0 64
  let st := bootResult s
  let s := { s with dev := { s.dev with bootState := st, bootVer := if st = 1 then Config.imageVersion s.mem.flash else 0 } }
  if st = 1 then bootContext s else s

/-- MODULE RESET (18 R399, R401): the counts are committed, everything else returns to its reset value, die 0 verifies the
firmware, and a verified firmware sets up context 0. -/
def execModuleReset (s : State) : Out :=
  .next <| boot (resetKeeping (if s.dev.bootState = 0 then s else commitRecord s) s.mem.hbm)

/-- Loss of supply (19 R421): uncommitted counts are lost, and so is everything volatile. -/
def execPowerLoss (s : State) : Out := .next (resetKeeping s [])

/-- The recovery loader (18 R400): an image that verifies is written to the flash, and the module is reset. -/
def execRecoveryImageWrite (image : List Byte) (s : State) : Out :=
  .next <|
    if s.dev.bootState < 2 ∨ !Config.signatureGood image ∨ (Config.imageVersion image).toNat < Config.minVersion.toNat then s
    else
      let s := commitRecord { s with mem := { s.mem with flash := image } }
      boot (resetKeeping s s.mem.hbm)

/-- A checkpoint record (18 R396): the bytes by DPA, and its 64 bytes as a number; none where they cannot be reached. -/
def ckptRecord (s : State) (c dpa : Nat) : Option (List (Nat × Bool) × Nat) × State :=
  if c = 0 then
    if 2 ^ 39 < dpa + 64 then (none, s) else (some ((List.range 64).map fun i => (dpa + i, false), homeRead s dpa 64), s)
  else
    match pendingWrite s c 0xD2, droveOf s c with
    | some x, some d =>
      match vaRecord s d.ctx x.toNat 64 with
      | (.inl (bs, ds), s) => (some (ds, leNat bs), s)
      | (.inr _, s) => (none, s)
    | _, _ => (none, s)

/-- Writes STATUS into the record, and into what CKPTCMD reads (18 R381, R396). -/
def ckptStatus (s : State) (rec' : List (Nat × Bool)) (n : Nat) : State :=
  setPriv (putPlaces s (rec'.drop 0x28) (leBytes 4 n)) 0xD2 (BitVec.ofNat 64 n)

/-- The completion event of a checkpoint that a drove started (18 R396, 17 R442). -/
def ckptEvent (s : State) (issuer : Option (BitVec 16 × BitVec 32 × W64)) (token : W64) : State :=
  match issuer with
  | some (c, id, pc) => postFevq s c 0x0300 id pc token none
  | none => s

/-- A malformed record (18 R396). -/
def ckptMalformed (x : Nat) : Bool :=
  decide (1 < recField x 0 1) || recField x 1 7 != 0 || recField x 8 8 % 4096 != 0 || recField x 0x2E 18 != 0

/-- A context whose flocks cannot all be saved (18 R397): free slots too few, or an image too large. -/
def ckptLacks (s : State) (c : BitVec 16) : Bool :=
  let fs := (flocksOf s c).filter fun f => !f.shepherd
  !fs.isEmpty && (decide ((slotsFree s c).length < fs.length) || !fs.all (fitsSlot s))

/-- The lowest context that fails the check of a save. -/
def ckptFailing (s : State) : Option Nat :=
  (((liveFlocks s).filter fun f => ckptLacks s f.ctx).map (·.ctx.toNat)).min?

/-- A command that cannot begin stops its drove precisely where the record cannot be reached; the host's, whose record lies
outside device memory, does nothing more (00 R11, 13 R279; assumption log 20). -/
def ckptStop (s : State) (c : Nat) : State :=
  match pendingWrite s c 0xD2, droveOf s c with
  | some x, some d =>
    let cause := match (vaRecord s d.ctx x.toNat 64).1 with
      | .inr cause => cause
      | .inl _ => 0x10
    stopHere (select s c) cause 0 x.toNat
  | _, _ => s

/-- The drove that started a checkpoint goes on (18 R396). -/
def ckptGoOn (s : State) (c : Nat) : State := if c = 0 then s else writeDone s c

/-- The issuer of a command. -/
def ckptIssuer (s : State) (c : Nat) : Option (BitVec 16 × BitVec 32 × W64) :=
  if c = 0 then none else (droveOf s c).map fun d => (d.ctx, d.droveId, d.pc)

/-- The command's own part once its record has been accepted. -/
def ckptBegin (s : State) (c x : Nat) (rec' : List (Nat × Bool)) (restore : Bool) : State :=
  let fs := (liveFlocks s).filter fun f => !f.shepherd && f.swapDue.isNone
  let k : Ckpt := { restore := restore, recAt := rec', issuer := ckptIssuer s c, store := recField x 8 8,
                    token := BitVec.ofNat 64 (recField x 16 8), began := s.cycle, flocks := fs.map (·.uid) }
  let s := ckptGoOn (ckptStatus s rec' 1) c
  { s with dev := { s.dev with ckpt := some k } }

/-- A checkpoint command of the row for `restore`: 2 malformed, 3 another in progress; a malformed record falls to the row
of a save. -/
def ckptCommand (s : State) (c dpa : Nat) (restore : Bool) (run : State → Nat → List (Nat × Bool) → State) : State :=
  let s := if c = 0 then { s with dev := { s.dev with ckptdb := BitVec.ofNat 64 dpa } } else s
  match ckptRecord s c dpa with
  | (none, s) => ckptStop s c
  | (some (rec', x), s) =>
    if (recField x 0 1 == 1) != restore then s
    else if ckptMalformed x then ckptGoOn (ckptStatus s rec' 2) c
    else if s.dev.ckpt.isSome then ckptGoOn (ckptStatus s rec' 3) c
    else run s x rec'

/-- A SAVE begins (18 R397): new work is held, every flock is checked, and all of them start to be swapped out. -/
def execCkptSave (c dpa : Nat) (s : State) : Out :=
  .next <| ckptCommand s c dpa false fun s x rec' =>
    match ckptFailing s with
    | some k =>
      let issuer := ckptIssuer s c
      let s := putPlaces (ckptStatus s rec' 5) (rec'.drop 0x2C) (leBytes 2 k)
      ckptEvent (ckptGoOn s c) issuer (BitVec.ofNat 64 (recField x 16 8))
    | none =>
      let s := ckptBegin s c x rec' false
      let due := ((s.dev.ckpt.map (·.flocks)).getD [])
      due.foldl (fun s f => onFlock s f fun f => { f with swapDue := some 0x31 }) s

/-- Every translation cache and L1 is invalidated, and every directory entry set to I (18 R398). -/
def dropCaches (s : State) : State :=
  clearDir { s with coh := { s.coh with l1 := [], tlb := [], cores := s.coh.cores.map fun k => { k with icache := [] } } }

/-- A RESTORE begins (18 R398): every resident flock and every Shepherd drove is terminated, and everything cached is
dropped. -/
def execCkptRestore (c dpa : Nat) (s : State) : Out :=
  .next <| ckptCommand s c dpa true fun s x rec' =>
    let s := ckptBegin s c x rec' true
    let s := endAll s ((liveFlocks s).map (·.uid)) 5
    dropCaches { s with vc := { s.vc with lines := [], unhoused := [] } }

/-- The device is quiet (18 R397): no flock but the Shepherds' is resident, their store buffers hold only entries that wait
on a fault, no copy can run, no virtual cache migrates. -/
def quiesced (s : State) : Bool :=
  !((liveFlocks s).any fun f => !f.shepherd) && !(s.reqs.any fun q => !hasPark s q.id) &&
    !(s.eng.copies.any fun c => copyReady s c) && !(s.vc.cdrs.any fun c => c.state == 2)

/-- Every dirty copy and every owner's words are written to HBM (18 R397). -/
def writeAllBack (s : State) : State :=
  let s := (s.coh.l1.filter fun l => l.owned || l.dirty != 0).foldl leaveL1 s
  let s := (s.coh.dir.filter fun e => e.hown).foldl (fun s e => recallAll s e.g) s
  { s with vc := { s.vc with lines := s.vc.lines.map fun l => { l with dirty := 0 } } }

/-- Cells with keys below `n`, moved by `off`. -/
def shifted (m : Memory) (lo n off : Nat) : Memory :=
  (m.filter fun x => decide (lo ≤ x.1) && decide (x.1 < lo + n)).map fun x => (x.1 - lo + off, x.2)

/-- A memory with the cells of `new` in place of its own from `lo` to `lo + n - 1`. -/
def splice (m new : Memory) (lo n : Nat) : Memory :=
  m.filter (fun x => decide (x.1 < lo)) ++ new ++ m.filter fun x => decide (lo + n ≤ x.1)

/-- The saved flocks' ranges keep only their saved flocks to finish. -/
def snapRange (saved : List Saved) (r : Range) : Range :=
  { r with nextFlock := r.flocks, finished := r.flocks - (saved.filter fun v => v.flock.range == r.uid).length }

/-- The end of a save's stream (18 R397): `n` bytes of HBM are in the safe store, held work resumes, and the flocks that the
save swapped out may re-enter. -/
def endSave (s : State) (k : Ckpt) (n : Nat) : State :=
  let s := writeAllBack s
  let saved := s.sch.saved
  let mine (r : Range) : Bool := saved.any fun v => v.flock.range == r.uid
  let snap : Snapshot :=
    { store := k.store, zimages := s.vc.zimages, saved := saved.map fun v => { v with ready := false, reason := 0x31 },
      ranges := (s.sch.ranges.filter mine).map (snapRange saved), parks := s.sch.parks.filter fun p => saved.any fun v =>
        v.droves.any fun d => d.uid == p.drove }
  let snaps := (s.dev.snaps.filter fun x => x.store != k.store) ++ (if n = 2 ^ 39 then [snap] else [])
  let safe := splice s.mem.safe (shifted s.mem.hbm 0 n k.store) k.store n
  let (o, s) := newId s
  { s with
    mem := { s.mem with safe := safe }
    dev := { s.dev with snaps := snaps }
    sch := { s.sch with saved := s.sch.saved.map fun v =>
      if k.flocks.contains v.flock.uid && v.reason == 0x31 then { v with ready := true, order := o } else v } }

/-- The end of a restore's stream (18 R398): HBM holds `n` bytes of the image; its saved flocks wait for CTXCMD op 1
(assumption log 28). -/
def endRestore (s : State) (k : Ckpt) (n : Nat) : State :=
  let s := endAll s (s.sch.saved.map fun v => v.flock.uid) 5
  let snap := if n = 2 ^ 39 then s.dev.snaps.find? fun x => x.store == k.store else none
  let s := dropCaches { s with
    mem := { s.mem with hbm := splice s.mem.hbm (shifted s.mem.safe k.store n 0) 0 n }
    sch := { s.sch with parks := [], queues := s.sch.queues.map fun (q : LQueue) => { q with stall := none } } }
  match snap with
  | some x =>
    let old (r : Range) : Bool := x.ranges.any fun y => y.uid == r.uid
    { s with
      vc := { s.vc with zimages := x.zimages }
      sch := { s.sch with saved := x.saved, parks := x.parks, ranges := (s.sch.ranges.filter fun r => !old r) ++ x.ranges } }
  | none => { s with vc := { s.vc with zimages := [] } }

/-- CHECKPOINT STREAM END (18 R396-R398): the record gets BYTES, CYCLES and STATUS, and its event is held. A stream that the
safe store refuses, or a lost link, stops after a free number of bytes (assumption log 2). -/
def execCheckpointStreamEnd (ok : Bool) (s : State) : Out :=
  .next <|
    match s.dev.ckpt with
    | none => s
    | some k =>
      if !quiesced s then s
      else
        let (r, s) := if ok then (2 ^ 39, s) else draw s
        let n := if ok then 2 ^ 39 else r % 2 ^ 33 * 64
        let s := if k.restore then endRestore s k n else endSave s k n
        let s := { s with dev := { s.dev with ckpt := none } }
        let s := putPlaces s (k.recAt.drop 0x18) (leBytes 8 n ++ leBytes 8 (s.cycle - k.began))
        ckptEvent (ckptStatus s k.recAt (if ok then 0 else 4)) k.issuer k.token

/-- A minute has passed (19 R420): the profile in force and each die's temperature, a free value, are counted. -/
def countMinute (s : State) : State :=
  let s := countRecord s (0x1A40 + s.dev.profCur.toNat) 0 64
  (List.range 4).foldl (fun s d =>
    let (k, s) := draw s
    countRecord s (0x1900 + 32 * d + k % 32) 0 64) s

/-- Cycles of a minute at 3.6 GHz (00 R7). -/
def minuteCycles : Nat := 216000000000

/-- Every 60 s the counts are committed (19 R421). -/
def execFieldRecordCommit (s : State) : Out :=
  .next <| if s.cycle - s.dev.committed < minuteCycles then s else commitRecord (countMinute s)

/-- A read of FRDATA (19 R421): entry FRIDX as committed, and FRIDX goes on. -/
def execFrdataRead (s : State) : Out :=
  .next <|
    let i := s.dev.fridx
    let x := if 0x1FFF < i.toNat then 0 else mapGet 0 s.dev.stored i.toNat
    { s with dev := { s.dev with frdata := x, fridx := i + 1 } }

/-- What a read of FRSTAT returns (19 R421): the seconds since the last commit, at 3.6 GHz, and whether FRIDX is past the
entries. -/
def frstat (s : State) : W64 :=
  BitVec.ofNat 64 ((s.cycle - s.dev.committed) / 3600000000 % 2 ^ 32 * 2 ^ 32 + b2n (decide (0x1FFF < s.dev.fridx.toNat)))

/-- The host's next access to the management window (18 R402, 19 R421): a write of FRIDX, or a read, whose data stand in `mgmtData`.
The read of FRDATA is a row of its own. -/
def takeMgmt (s : State) : State :=
  match s.dev.mgmt with
  | [] => s
  | m :: ms =>
    let give (bs : List Byte) : State := { s with dev := { s.dev with mgmt := ms, mgmtData := bs } }
    match m with
    | .writeFridx x => { s with dev := { s.dev with mgmt := ms, fridx := x } }
    | .readFridx => give (leBytes 8 s.dev.fridx.toNat)
    | .readFrstat => give (leBytes 8 (frstat s).toNat)
    | .readCertificate => give Config.identityCertificate
    | .readFrdata => { s with dev := { s.dev with mgmt := ms } }

/-- The first pending BR of die `die` that has waited 64 cycles (19 R417). -/
def dueBr (s : State) (die : Nat) : Option Drove := (pendingBrs s die).find? fun d => decide (64 ≤ s.cycle - d.trace.since)

def execTraceBrFlush (die : Nat) (s : State) : Out :=
  .next <|
    match dueBr s die with
    | none => s
    | some d => flushAll s die d (unhelp d).pc

/-- The drove of a die whose packet comes next, when a SYNC is forced (19 R418). -/
def dueSync (s : State) (die : Nat) : Option Drove := if syncDue s die then (pendingBrs s die).head? else none

def execTraceForcedSync (die : Nat) (s : State) : Out :=
  .next <|
    match dueSync s die with
    | none => s
    | some d => flushAll s die d (unhelp d).pc

/-- The stream drains by a free amount; once 4 KiB are free after drops it writes LOSS, and each drove's next packet follows
a SYNC (19 R418). -/
def execTraceLoss (die : Nat) (s : State) : Out :=
  .next <|
    if (streamOf s die).dropped = 0 then s
    else
      let (k, s) := draw s
      let s := onStream s die fun t => { t with room := min 65536 (t.room + k % 65537) }
      let t := streamOf s die
      if t.room < 4096 then s
      else
        let loss : List Byte := 0xE0 :: leBytes 2 (min t.dropped 65535)
        let s := onStream s die fun t =>
          { t with bytes := t.bytes ++ loss, room := t.room - 3, dropped := 0, sinceSync := t.sinceSync + 1 }
        let mark (d : Drove) : Drove := if dieOfCore d.core = die then { d with trace := { d.trace with resync := true } } else d
        let s := onStream s die fun t => { t with late := t.late.map mark }
        { s with dr := mark s.dr, droves := s.droves.map mark
                 sch := { s.sch with saved := s.sch.saved.map fun v => { v with droves := v.droves.map mark } } }

/-- A sub-core cycle in which nothing issues adds 64 to class 6 of its die (19 R415); which sub-core is a free choice. -/
def execEmptyIssueSlot (s : State) : Out :=
  .next <|
    if (privReg s 0xE0).getLsbD 0 then
      let (k, s) := draw s
      laneAdd s (k % 4) 6 0 64
    else s

/-- Synchronising operations of a range that have taken their turn and are not yet performed (19 R406): a stop of every later
turn. -/
def turnPending (s : State) (u : Nat) : Bool :=
  let flock (f : Nat) : Bool := (allFlocks s).any fun x => x.uid == f && x.range == u
  let left (q : Req) : Bool := q.turnAt != 0 && (q.accs.any fun a => a.st != .done) || q.lows.any fun l => !l.done
  (s.reqs.any fun q => flock q.flock && q.turnAt != 0 && left q) ||
    s.sch.saved.any fun v => v.flock.range == u && v.reqs.any fun q => q.turnAt != 0 && left q

/-- The drove is the bellwether of its range, at a synchronising operation, and every earlier turn has ended (19 R406). -/
def turnReady (s : State) (d : Drove) : Bool :=
  d.cond == .waiting .turn && !d.turn && !isParked s d.uid && (bellwether s d.range).any (fun x => x.uid == d.uid) &&
    !((rangeDroves s d.range).any (·.turn)) && !turnPending s d.range

/-- THE TURN of a bellwether (19 R406): its operation may be performed. -/
def execBellwetherTurn (u : Nat) (s : State) : Out :=
  .next <|
    match droveOf s u with
    | some d => if turnReady s d then onDrove s u fun d => { d with turn := true, cond := .ready } else s
    | none => s

end Sys2Proof.Machine
end

