-- ==== Sys2Proof/Machine/Lane.lean ====
section
/-! DEFINITION. Quad and lane instructions (08). -/

namespace Sys2Proof.Machine

/-- Lane `src` of a register as a lane instruction reads it: 0 at or beyond the drove width (08 R169). -/
def readLane (d : Drove) (n src : Nat) : W32 := if src < d.width then vlane d n src else 0

/-- A quad exchange (08 R172): position i reads position `p i` of its quad. -/
def quadOp (d a : BitVec 7) (ea ed bad : Bool) (p : Nat → Nat) (s : State) : Out :=
  vecOp { uses := useV2 d a ea ed, bad := bad } [d.toNat]
    (fun r l => { words := [readLane r a.toNat (l / 4 * 4 + p (l % 4))] }) s

def execQswh (d a : BitVec 7) (ea ed : Bool) (s : State) : Out := quadOp d a ea ed false (fun i => i ^^^ 1) s
def execQswv (d a : BitVec 7) (ea ed : Bool) (s : State) : Out := quadOp d a ea ed false (fun i => i ^^^ 2) s
def execQswd (d a : BitVec 7) (ea ed : Bool) (s : State) : Out := quadOp d a ea ed false (fun i => i ^^^ 3) s
/-- n is the value of the vb field and lies below 4 (08 R172). -/
def execQbc (d a n : BitVec 7) (ea ed : Bool) (s : State) : Out :=
  quadOp d a ea ed (decide (4 ≤ n.toNat)) (fun _ => n.toNat % 4) s

/-- A difference within the quad (08 R173): position `p i` minus position `q i`. -/
def quadDiff (d a : BitVec 7) (ea ed : Bool) (p q : Nat → Nat) (s : State) : Out :=
  let t := modeET s.dr.mode
  fpOp (useV2 d a ea ed) d.toNat (fun c r l j =>
    fpSub c (fpElem r t a.toNat (l / 4 * 4 + p (l % 4)) j) (fpElem r t a.toNat (l / 4 * 4 + q (l % 4)) j)) s

def execQddx (d a : BitVec 7) (ea ed : Bool) (s : State) : Out := quadDiff d a ea ed (fun i => i / 2 * 2 + 1) (fun i => i / 2 * 2) s
def execQddy (d a : BitVec 7) (ea ed : Bool) (s : State) : Out := quadDiff d a ea ed (fun i => i % 2 + 2) (fun i => i % 2) s

/-- The word that follows a `qhelp`, or what fetching it meets. -/
def helpedWord (s : State) : Fetched × State :=
  match s.dr.micro with
  | some m =>
    match m.next with
    | none => (.word 0, s)
    | some m' => (.word ((substWord m' (m'.code.getD m'.step 0)).getD ((m'.code.getD m'.step 0).setWidth 32)), s)
  | none => fetchAt s (s.dr.pc + 4).toNat

/-- Opcodes that `qhelp` may widen (08 R174). An unassigned opcode of that range counts as eligible, so it raises its own
cause 0x01 and not cause 0x02 (DESIGN CHOICE, assumption log 29). -/
def helpable (w : BitVec 32) : Bool := decide (0x40 ≤ bits w.toNat 31 24) && decide (bits w.toNat 31 24 ≤ 0x9D)

/-- `qhelp` (08 R174): the drove goes on at once to the helped instruction as fetched here, which is widened; the pair
retires as one. -/
def execQhelp (s : State) : Out :=
  .next <|
    match helpedWord s with
    | (.stop cause, s) => stopHere s cause 0 (s.dr.pc + 4).toNat
    | (.park cause, s) => park s 0 cause s.dr s.dr.pc (s.dr.pc + 4).toNat none true
    | (.word w, s) =>
      if helpable w then
        let s := onDr s fun d => match d.micro with
          | some m => { d with micro := some { m with step := m.step + 1 }, help := true, helpWord := none }
          | none => { d with pc := d.pc + 4, help := true, helpWord := some w }
        { s with port := true }
      else stopIssue s 0x02 0 0

/-- Issue of a lane instruction whose result is `run`, with nothing done when no lane is active (08 R170, 01 R19). -/
def laneIssue (c : Chk) (dyn : State → Verdict) (s : State) (run : Drove → Drove) : Out :=
  .next <| issueIf { c with masks := true } dyn s fun s =>
    if activeMask s.dr = 0 then retire s else retire (onDr s run)

/-- A move in which active lane L receives lane `src L` of va (08 R175). -/
def moveLanes (us : List Use) (d a : Nat) (src : Drove → Nat → Nat) (s : State) : Out :=
  laneIssue { uses := us } (fun _ => .go) s fun r =>
    let act := activeMask r
    let oor := (List.range 64).any fun l => act.getLsbD l && decide (r.width ≤ src r l)
    { setVm r d act (fun l => readLane r a (src r l)) with xoor := r.xoor || oor }

def execLshuf (d a b : BitVec 7) (ea eb ed : Bool) (s : State) : Out :=
  moveLanes (useV3 d a b ea eb ed false) d.toNat a.toNat (fun r l => (vlane r b.toNat l).toNat) s
def execLrot (d a b : BitVec 7) (ea eb ed : Bool) (s : State) : Out :=
  moveLanes (useV3 d a b ea eb ed false) d.toNat a.toNat (fun r l => (l + (vlane r b.toNat l).toNat) % r.width) s

/-- The lanes of a mask in increasing order. -/
def lanesIn (m : W64) : List Nat := (List.range 64).filter fun l => m.getLsbD l

/-- The m-th active lane reads the m-th present lane (08 R175). -/
def execLexpand (d a : BitVec 7) (ea ed : Bool) (s : State) : Out :=
  moveLanes (useV2 d a ea ed) d.toNat a.toNat (fun r l =>
    (lanesIn r.pres).getD ((lanesIn (activeMask r)).idxOf l) 0) s

/-- The values of the active lanes go to the low present lanes (08 R176). -/
def execLcompress (d a : BitVec 7) (ea ed : Bool) (s : State) : Out :=
  laneIssue { uses := useV2 d a ea ed } (fun _ => .go) s fun r =>
    let src := lanesIn (activeMask r)
    let dst := lanesIn r.pres
    setV r d.toNat (mkLanes fun l =>
      match src[dst.idxOf l]? with
      | some x => if r.pres.getLsbD l then vlane r a.toNat x else vlane r d.toNat l
      | none => vlane r d.toNat l)

/-- S[sd] := the lowest active lane of va (08 R175). -/
def execLfirst (a : BitVec 7) (d : BitVec 6) (ea : Bool) (s : State) : Out :=
  laneIssue { uses := [srcV a.toNat ea, dstS d.toNat] } (fun _ => .go) s fun r =>
    setS r d.toNat ((vlane r a.toNat ((lanesIn (activeMask r)).headD 0)).setWidth 64)

/-- Bit L when lane L is active and its word is not 0 (08 R177). -/
def execLballot (a : BitVec 7) (d : BitVec 6) (ea : Bool) (s : State) : Out :=
  laneIssue { uses := [srcV a.toNat ea, dstS d.toNat] } (fun _ => .go) s fun r =>
    setS r d.toNat (compareMask r fun l => (vlane r a.toNat l != 0, 0))

/-- The types a scan or reduction operation accepts (08 R178). -/
def scanType (op t : Nat) : Bool := if op < 3 then isI t || isF t else isI t || isBits t

/-- A value of a scan or reduction: an unbounded integer for integer types, else the encoding. -/
def scanRead (t x : Nat) : Int := if isI t then intVal t x else x

/-- Two partial results combined (08 R179); an integer sum is fitted at the end. -/
def combine (op t : Nat) (c : Fenv) (x y : Int) : Int × Fl :=
  if isF t then
    let r := match op with
      | 0 => fpAdd c (c.f.read c.ftz x.toNat) (c.f.read c.ftz y.toNat)
      | 1 => fpMinMax c false x.toNat y.toNat
      | _ => fpMinMax c true x.toNat y.toNat
    ((r.1 : Int), r.2)
  else
    let w := elemWidth t
    let bw := fun (f : Nat → Nat → Nat) => ((f (intWord w x) (intWord w y) : Nat) : Int)
    (match op with
      | 0 => x + y
      | 1 => min x y
      | 2 => max x y
      | 3 => bw (· &&& ·)
      | 4 => bw (· ||| ·)
      | _ => bw (· ^^^ ·), 0)

/-- A partial result as an element: an integer sum is fitted once (08 R179). -/
def scanOut (op t : Nat) (m : BitVec 32) (x : Int) : ElemOut :=
  if isI t && op == 0 then ofInt t m x else { x := intWord (elemWidth t) x }

/-- The first value of a floating-point scan: flushed under R44, and a signalling NaN quieted with NV (08 R179). A quiet NaN
keeps its word, whatever CNAN says (DESIGN CHOICE, assumption log 29). -/
def scanFirst (t : Nat) (c : Fenv) (x : Int) : Int × Fl :=
  if isF t then
    let a := c.f.read c.ftz x.toNat
    if a.isSnan then
      let r := nanOut c [a] false
      ((r.1 : Int), r.2)
    else ((a.word c.f x.toNat : Nat), 0)
  else (x, 0)

/-- Inclusive prefixes of a list, each with the flags of the rounding that made it (08 R179). -/
def prefixes (op t : Nat) (c : Fenv) : Option Int → List Int → List (Int × Fl)
  | _, [] => []
  | none, x :: xs =>
    let p := scanFirst t c x
    p :: prefixes op t c (some p.1) xs
  | some p, x :: xs =>
    let q := combine op t c p x
    q :: prefixes op t c (some q.1) xs

/-- The identity of an operation (08 R179). -/
def scanIdentity (op t : Nat) (f : Fmt) : Nat :=
  if isF t then match op with | 0 => 0 | 1 => f.infinity false | _ => f.infinity true
  else match op with
    | 1 => intWord (elemWidth t) (intHi t)
    | 2 => intWord (elemWidth t) (intLo t)
    | 3 => 2 ^ elemWidth t - 1
    | _ => 0

/-- The elements of slot `j` in the active lanes, in lane order. -/
def slotValues (r : Drove) (t a j : Nat) : List Int :=
  (lanesIn (activeMask r)).map fun l => scanRead t (elemAt (elemWidth t) (vlane r a l) j)

/-- The results of a scan for slot `j`, one per active lane, in lane order (08 R179). An exclusive scan performs only the
combinations that a lane receives (DEDUCED, assumption log 12). -/
def scanSlot (op t : Nat) (excl : Bool) (r : Drove) (a j : Nat) : List ElemOut :=
  let c := fenvOf r.mode t
  let vals := slotValues r t a j
  let ps := prefixes op t c none (if excl then vals.dropLast else vals)
  let outs := ps.map fun p => { scanOut op t r.mode p.1 with fl := p.2 }
  if excl then { x := scanIdentity op t c.f } :: outs else outs

/-- Element `j` of active lane number `k`. -/
def slotOut (rows : List (List ElemOut)) (j k : Nat) : ElemOut := (rows.getD j []).getD k { x := 0 }

/-- All slots of a scan. -/
def scanRows (op : Nat) (excl : Bool) (a : Nat) (r : Drove) : List (List ElemOut) :=
  let t := modeET r.mode
  (List.range (perLane t)).map fun j => scanSlot op t excl r a j

/-- An invalid operation in a lane instruction (06 R127). -/
def fexRows (rows : State → List ElemOut) (s : State) : Verdict :=
  stopIf (modeFEX s.dr.mode && activeMask s.dr != 0 && ((elemFl (rows s)).1 &&& flNV) != 0) 0x28

def execLscan (d a c : BitVec 7) (ea ed : Bool) (s : State) : Out :=
  let t := modeET s.dr.mode
  let op := c.toNat % 8
  let excl := c.getLsbD 3
  let bad := decide (16 ≤ c.toNat) || decide (6 ≤ op)
  laneIssue { uses := useV2 d a ea ed, bad := bad, typ := scanType op t }
    (fexRows fun s => (scanRows op excl a.toNat s.dr).flatten) s fun r =>
      let act := activeMask r
      let rows := scanRows op excl a.toNat r
      let (fl, sat) := elemFl rows.flatten
      raiseFlags (setVm r d.toNat act fun l =>
        let k := (lanesIn act).idxOf l
        packElems (elemWidth t) ((List.range (perLane t)).map fun j => (slotOut rows j k).x)) fl sat

/-- One level of the pairwise tree (02 R61): pairs combine, an empty operand is passed through. -/
def treeLevel (op t : Nat) (c : Fenv) : List (Option Int) → List (Option Int) × Fl
  | x :: y :: rest =>
    let (zs, fl) := treeLevel op t c rest
    match x, y with
    | some x, some y => let r := combine op t c x y; (some r.1 :: zs, fl ||| r.2)
    | some x, none => (some x :: zs, fl)
    | none, y => (y :: zs, fl)
  | xs => (xs, 0)

/-- The tree over lane positions (02 R61), `n` levels. -/
def treeFold (op t : Nat) (c : Fenv) : Nat → List (Option Int) → Option Int × Fl
  | 0, xs => (xs.headD none, 0)
  | n + 1, xs =>
    let (ys, fl) := treeLevel op t c xs
    let (z, fl') := treeFold op t c n ys
    (z, fl ||| fl')

/-- A fast reduction of slot `j` (08 R179): the tree for floating point, else the exact combination. -/
def redSlot (op : Nat) (a : Nat) (r : Drove) (j : Nat) : ElemOut :=
  let t := modeET r.mode
  let c := fenvOf r.mode t
  let leaf := fun l => if (activeMask r).getLsbD l then some (scanRead t (elemAt (elemWidth t) (vlane r a l) j)) else none
  let (x, fl) := treeFold op t c 6 ((List.range 64).map leaf)
  { scanOut op t r.mode (x.getD 0) with fl := fl }

/-- The binned sum of slot `j` as 1 word of ET or 2 words of f32, with its flags (02 R64, 08 R180). -/
def binSlot (two : Bool) (a : Nat) (r : Drove) (j : Nat) : List Nat × Fl :=
  let t := modeET r.mode
  let c := { fenvOf r.mode t with rm := 0 }
  let xs := (lanesIn (activeMask r)).map fun l => fpElem r t a l j
  let pad := fun x => if two then [x, 0] else [x]
  match binSpecial xs with
  | .nan =>
    let inf2 := xs.any (· == .inf false) && xs.any (· == .inf true)
    (pad c.f.canonical, if xs.any (·.isSnan) || inf2 then flNV else 0)
  | .inf neg => (pad (c.f.infinity neg), 0)
  | .none =>
    match binEmax xs with
    | none => (pad 0, 0)
    | some e =>
      let x := binTotal e (binSum e xs)
      let lost := if xs.any (binInexact e) then flNX else 0
      if two then
        let r := greedy c 2 false x
        (r.1, r.2 ||| lost)
      else
        let r := c.f.round 0 c.ftz false x
        ([r.1], r.2 ||| lost)

/-- All slots of a reduction: the words of the result and the elements whose flags count. -/
def redRows (exact : Bool) (op a : Nat) (r : Drove) : List W32 × List ElemOut :=
  let t := modeET r.mode
  let js := List.range (perLane t)
  if exact then
    let n := modeXL r.mode + 1
    let es := js.map fun j => binSlot (n == 2) a r j
    ((List.range n).map fun i => packElems (elemWidth t) (es.map fun e => e.1.getD i 0), es.map fun e => { x := 0, fl := e.2 })
  else
    let es := js.map fun j => redSlot op a r j
    ([wordOf (elemWidth t) es], es)

def execLred (d a c : BitVec 7) (ea ed : Bool) (s : State) : Out :=
  let t := modeET s.dr.mode
  let op := c.toNat % 8
  let exact := c.getLsbD 3
  let xl := modeXL s.dr.mode
  let n := if exact && xl == 1 then 2 else 1
  let bad := decide (16 ≤ c.toNat) || decide (6 ≤ op) || (exact && op != 0)
  let typ := if exact then isF t && (xl == 0 || (xl == 1 && t == 0)) else scanType op t
  laneIssue { uses := [srcV a.toNat ea, dstTuple d.toNat n ed], bad := bad, typ := typ }
    (fexRows fun s => (redRows exact op a.toNat s.dr).2) s fun r =>
      let act := activeMask r
      let (ws, es) := redRows exact op a.toNat r
      let (fl, sat) := elemFl es
      raiseFlags (ws.zipIdx.foldl (fun x (w, i) => setVm x (d.toNat + i) act fun _ => w) r) fl sat

end Sys2Proof.Machine
end

