-- ==== Sys2Proof/Machine/Routine.lean ====
section
/-! DEFINITION. Combining routines, which a fabric switch runs in place of the device for an internal node of a collective
(18 R391, R392). -/

namespace Sys2Proof.Machine

/-- The instructions that a combining routine may use (18 R392), by their own meanings; none for any other. -/
def routineExec (i : Instr) (s : State) : Option Out :=
  match i with
  | .sadd d a b ea eb ed => some (Sys2Proof.Machine.execSadd d a b ea eb ed s)
  | .ssub d a b ea eb ed => some (Sys2Proof.Machine.execSsub d a b ea eb ed s)
  | .smul d a b ea eb ed => some (Sys2Proof.Machine.execSmul d a b ea eb ed s)
  | .smulh d a b ea eb ed => some (Sys2Proof.Machine.execSmulh d a b ea eb ed s)
  | .smulhn d a b ea eb ed => some (Sys2Proof.Machine.execSmulhn d a b ea eb ed s)
  | .sand d a b ea eb ed => some (Sys2Proof.Machine.execSand d a b ea eb ed s)
  | .sor d a b ea eb ed => some (Sys2Proof.Machine.execSor d a b ea eb ed s)
  | .sxor d a b ea eb ed => some (Sys2Proof.Machine.execSxor d a b ea eb ed s)
  | .sandn d a b ea eb ed => some (Sys2Proof.Machine.execSandn d a b ea eb ed s)
  | .sshl d a b ea eb ed => some (Sys2Proof.Machine.execSshl d a b ea eb ed s)
  | .sshr d a b ea eb ed => some (Sys2Proof.Machine.execSshr d a b ea eb ed s)
  | .ssra d a b ea eb ed => some (Sys2Proof.Machine.execSsra d a b ea eb ed s)
  | .smin d a b ea eb ed => some (Sys2Proof.Machine.execSmin d a b ea eb ed s)
  | .smax d a b ea eb ed => some (Sys2Proof.Machine.execSmax d a b ea eb ed s)
  | .sminn d a b ea eb ed => some (Sys2Proof.Machine.execSminn d a b ea eb ed s)
  | .smaxn d a b ea eb ed => some (Sys2Proof.Machine.execSmaxn d a b ea eb ed s)
  | .seq d a b ea eb ed => some (Sys2Proof.Machine.execSeq d a b ea eb ed s)
  | .slt d a b ea eb ed => some (Sys2Proof.Machine.execSlt d a b ea eb ed s)
  | .sltn d a b ea eb ed => some (Sys2Proof.Machine.execSltn d a b ea eb ed s)
  | .ssel d a b ea eb ed => some (Sys2Proof.Machine.execSsel d a b ea eb ed s)
  | .sclz d a ea ed => some (Sys2Proof.Machine.execSclz d a ea ed s)
  | .spop d a ea ed => some (Sys2Proof.Machine.execSpop d a ea ed s)
  | .sbrev d a ea ed => some (Sys2Proof.Machine.execSbrev d a ea ed s)
  | .smov d a ea ed => some (Sys2Proof.Machine.execSmov d a ea ed s)
  | .saddi d a ix => some (Sys2Proof.Machine.execSaddi d a ix s)
  | .sandi d a ix => some (Sys2Proof.Machine.execSandi d a ix s)
  | .sori d a ix => some (Sys2Proof.Machine.execSori d a ix s)
  | .sxori d a ix => some (Sys2Proof.Machine.execSxori d a ix s)
  | .sshli d a ix => some (Sys2Proof.Machine.execSshli d a ix s)
  | .sshri d a ix => some (Sys2Proof.Machine.execSshri d a ix s)
  | .ssrai d a ix => some (Sys2Proof.Machine.execSsrai d a ix s)
  | .seqi d a ix => some (Sys2Proof.Machine.execSeqi d a ix s)
  | .slti d a ix => some (Sys2Proof.Machine.execSlti d a ix s)
  | .sli d ix => some (Sys2Proof.Machine.execSli d ix s)
  | .slui d ix => some (Sys2Proof.Machine.execSlui d ix s)
  | .bra off => some (Sys2Proof.Machine.execBra off s)
  | .brz c off => some (Sys2Proof.Machine.execBrz c off s)
  | .brnz c off => some (Sys2Proof.Machine.execBrnz c off s)
  | .nop => some (Sys2Proof.Machine.execNop s)
  | .modeSet d a ea ed => some (Sys2Proof.Machine.execModeSet d a ea ed s)
  | .modeFld fld v => some (Sys2Proof.Machine.execModeFld fld v s)
  | .modeGet d ed => some (Sys2Proof.Machine.execModeGet d ed s)
  | .vadd d a b ea eb ed => some (Sys2Proof.Machine.execVadd d a b ea eb ed s)
  | .vsub d a b ea eb ed => some (Sys2Proof.Machine.execVsub d a b ea eb ed s)
  | .vmul d a b ea eb ed => some (Sys2Proof.Machine.execVmul d a b ea eb ed s)
  | .vmulh d a b ea eb ed => some (Sys2Proof.Machine.execVmulh d a b ea eb ed s)
  | .vmad d a b ea eb ed => some (Sys2Proof.Machine.execVmad d a b ea eb ed s)
  | .vand d a b ea eb ed => some (Sys2Proof.Machine.execVand d a b ea eb ed s)
  | .vor d a b ea eb ed => some (Sys2Proof.Machine.execVor d a b ea eb ed s)
  | .vxor d a b ea eb ed => some (Sys2Proof.Machine.execVxor d a b ea eb ed s)
  | .vandn d a b ea eb ed => some (Sys2Proof.Machine.execVandn d a b ea eb ed s)
  | .vshl d a b ea eb ed => some (Sys2Proof.Machine.execVshl d a b ea eb ed s)
  | .vshr d a b ea eb ed => some (Sys2Proof.Machine.execVshr d a b ea eb ed s)
  | .vsra d a b ea eb ed => some (Sys2Proof.Machine.execVsra d a b ea eb ed s)
  | .vmin d a b ea eb ed => some (Sys2Proof.Machine.execVmin d a b ea eb ed s)
  | .vmax d a b ea eb ed => some (Sys2Proof.Machine.execVmax d a b ea eb ed s)
  | .vabs d a ea ed => some (Sys2Proof.Machine.execVabs d a ea ed s)
  | .vneg d a ea ed => some (Sys2Proof.Machine.execVneg d a ea ed s)
  | .veqSub2 x a d ea eb => some (Sys2Proof.Machine.execVeqSub2 x a d ea eb s)
  | .veqSub3 a d ea => some (Sys2Proof.Machine.execVeqSub3 a d ea s)
  | .vneSub2 x a d ea eb => some (Sys2Proof.Machine.execVneSub2 x a d ea eb s)
  | .vneSub3 a d ea => some (Sys2Proof.Machine.execVneSub3 a d ea s)
  | .vltSub2 x a d ea eb => some (Sys2Proof.Machine.execVltSub2 x a d ea eb s)
  | .vltSub3 a d ea => some (Sys2Proof.Machine.execVltSub3 a d ea s)
  | .vleSub2 x a d ea eb => some (Sys2Proof.Machine.execVleSub2 x a d ea eb s)
  | .vleSub3 a d ea => some (Sys2Proof.Machine.execVleSub3 a d ea s)
  | .vselSub0 d a sx ea eb => some (Sys2Proof.Machine.execVselSub0 d a sx ea eb s)
  | .vselSub1 d a sx ea eb => some (Sys2Proof.Machine.execVselSub1 d a sx ea eb s)
  | .vmov d a ea ed => some (Sys2Proof.Machine.execVmov d a ea ed s)
  | .vbcast d sx eb => some (Sys2Proof.Machine.execVbcast d sx eb s)
  | .vlid d ed => some (Sys2Proof.Machine.execVlid d ed s)
  | .vpop d a ea ed => some (Sys2Proof.Machine.execVpop d a ea ed s)
  | .vclz d a ea ed => some (Sys2Proof.Machine.execVclz d a ea ed s)
  | .vcvt d a ea ed => some (Sys2Proof.Machine.execVcvt d a ea ed s)
  | .vpack d a b ea eb ed => some (Sys2Proof.Machine.execVpack d a b ea eb ed s)
  | .vunpack d a b ea eb ed => some (Sys2Proof.Machine.execVunpack d a b ea eb ed s)
  | .fadd d a b ea eb ed => some (Sys2Proof.Machine.execFadd d a b ea eb ed s)
  | .fsub d a b ea eb ed => some (Sys2Proof.Machine.execFsub d a b ea eb ed s)
  | .fmul d a b ea eb ed => some (Sys2Proof.Machine.execFmul d a b ea eb ed s)
  | .ffma d a b ea eb ed => some (Sys2Proof.Machine.execFfma d a b ea eb ed s)
  | .ffms d a b ea eb ed => some (Sys2Proof.Machine.execFfms d a b ea eb ed s)
  | .fnma d a b ea eb ed => some (Sys2Proof.Machine.execFnma d a b ea eb ed s)
  | .fmin d a b ea eb ed => some (Sys2Proof.Machine.execFmin d a b ea eb ed s)
  | .fmax d a b ea eb ed => some (Sys2Proof.Machine.execFmax d a b ea eb ed s)
  | .fabs d a ea ed => some (Sys2Proof.Machine.execFabs d a ea ed s)
  | .fneg d a ea ed => some (Sys2Proof.Machine.execFneg d a ea ed s)
  | .feqSub2 x a d ea eb => some (Sys2Proof.Machine.execFeqSub2 x a d ea eb s)
  | .feqSub3 a d ea => some (Sys2Proof.Machine.execFeqSub3 a d ea s)
  | .fltSub2 x a d ea eb => some (Sys2Proof.Machine.execFltSub2 x a d ea eb s)
  | .fltSub3 a d ea => some (Sys2Proof.Machine.execFltSub3 a d ea s)
  | .fleSub2 x a d ea eb => some (Sys2Proof.Machine.execFleSub2 x a d ea eb s)
  | .fleSub3 a d ea => some (Sys2Proof.Machine.execFleSub3 a d ea s)
  | .funSub2 x a d ea eb => some (Sys2Proof.Machine.execFunSub2 x a d ea eb s)
  | .funSub3 a d ea => some (Sys2Proof.Machine.execFunSub3 a d ea s)
  | .frcp d a ea ed => some (Sys2Proof.Machine.execFrcp d a ea ed s)
  | .frsq d a ea ed => some (Sys2Proof.Machine.execFrsq d a ea ed s)
  | .fsqrt d a ea ed => some (Sys2Proof.Machine.execFsqrt d a ea ed s)
  | .fexp2 d a ea ed => some (Sys2Proof.Machine.execFexp2 d a ea ed s)
  | .flog2 d a ea ed => some (Sys2Proof.Machine.execFlog2 d a ea ed s)
  | .fsin d a ea ed => some (Sys2Proof.Machine.execFsin d a ea ed s)
  | .fcos d a ea ed => some (Sys2Proof.Machine.execFcos d a ea ed s)
  | .fround d a ea ed => some (Sys2Proof.Machine.execFround d a ea ed s)
  | .fcvt d a ea ed => some (Sys2Proof.Machine.execFcvt d a ea ed s)
  | .fcvti d a ea ed => some (Sys2Proof.Machine.execFcvti d a ea ed s)
  | .ficvt d a ea ed => some (Sys2Proof.Machine.execFicvt d a ea ed s)
  | .fscale d a b ea eb ed => some (Sys2Proof.Machine.execFscale d a b ea eb ed s)
  | .fgetexp d a ea ed => some (Sys2Proof.Machine.execFgetexp d a ea ed s)
  | .fgetman d a ea ed => some (Sys2Proof.Machine.execFgetman d a ea ed s)
  | .fclass d a ea ed => some (Sys2Proof.Machine.execFclass d a ea ed s)
  | .twosum d a b ea eb ed => some (Sys2Proof.Machine.execTwosum d a b ea eb ed s)
  | .ftwosum d a b ea eb ed => some (Sys2Proof.Machine.execFtwosum d a b ea eb ed s)
  | .twoprod d a b ea eb ed => some (Sys2Proof.Machine.execTwoprod d a b ea eb ed s)
  | .fmaerr d a b ea eb ed => some (Sys2Proof.Machine.execFmaerr d a b ea eb ed s)
  | .xadd d a b ea eb ed => some (Sys2Proof.Machine.execXadd d a b ea eb ed s)
  | .xsub d a b ea eb ed => some (Sys2Proof.Machine.execXsub d a b ea eb ed s)
  | .xmul d a b ea eb ed => some (Sys2Proof.Machine.execXmul d a b ea eb ed s)
  | .xfma d a b ea eb ed => some (Sys2Proof.Machine.execXfma d a b ea eb ed s)
  | .xrenorm d a ea ed => some (Sys2Proof.Machine.execXrenorm d a ea ed s)
  | .xcompress d a ea ed => some (Sys2Proof.Machine.execXcompress d a ea ed s)
  | .xeqSub2 x a d ea eb => some (Sys2Proof.Machine.execXeqSub2 x a d ea eb s)
  | .xeqSub3 a d ea => some (Sys2Proof.Machine.execXeqSub3 a d ea s)
  | .xltSub2 x a d ea eb => some (Sys2Proof.Machine.execXltSub2 x a d ea eb s)
  | .xltSub3 a d ea => some (Sys2Proof.Machine.execXltSub3 a d ea s)
  | .xleSub2 x a d ea eb => some (Sys2Proof.Machine.execXleSub2 x a d ea eb s)
  | .xleSub3 a d ea => some (Sys2Proof.Machine.execXleSub3 a d ea s)
  | .xneg d a ea ed => some (Sys2Proof.Machine.execXneg d a ea ed s)
  | .xabs d a ea ed => some (Sys2Proof.Machine.execXabs d a ea ed s)
  | .xsplit d a ea ed => some (Sys2Proof.Machine.execXsplit d a ea ed s)
  | .xtop d a ea ed => some (Sys2Proof.Machine.execXtop d a ea ed s)
  | .xcvt d a c ea ed => some (Sys2Proof.Machine.execXcvt d a c ea ed s)
  | .xbound d a ea ed => some (Sys2Proof.Machine.execXbound d a ea ed s)
  | .qswh d a ea ed => some (Sys2Proof.Machine.execQswh d a ea ed s)
  | .qswv d a ea ed => some (Sys2Proof.Machine.execQswv d a ea ed s)
  | .qswd d a ea ed => some (Sys2Proof.Machine.execQswd d a ea ed s)
  | .qbc d a n ea ed => some (Sys2Proof.Machine.execQbc d a n ea ed s)
  | .qddx d a ea ed => some (Sys2Proof.Machine.execQddx d a ea ed s)
  | .qddy d a ea ed => some (Sys2Proof.Machine.execQddy d a ea ed s)
  | .lshuf d a b ea eb ed => some (Sys2Proof.Machine.execLshuf d a b ea eb ed s)
  | .lrot d a b ea eb ed => some (Sys2Proof.Machine.execLrot d a b ea eb ed s)
  | .lscan d a c ea ed => some (Sys2Proof.Machine.execLscan d a c ea ed s)
  | .lred d a c ea ed => some (Sys2Proof.Machine.execLred d a c ea ed s)
  | .lballot a d ea => some (Sys2Proof.Machine.execLballot a d ea s)
  | .lcompress d a ea ed => some (Sys2Proof.Machine.execLcompress d a ea ed s)
  | .lexpand d a ea ed => some (Sys2Proof.Machine.execLexpand d a ea ed s)
  | .lfirst a d ea => some (Sys2Proof.Machine.execLfirst a d ea s)
  | _ => none

/-- A routine's drove (18 R392): 64 lanes under the launch MODE, of which the first `n` are present; the words of the two children
for each lane's element, OPFLD and LEVEL. Its allocation is the largest (DESIGN CHOICE, assumption log 21). -/
def routineDrove (n : Nat) (x y : List (List W32)) (opfld : BitVec 16) (level : Nat) : Drove :=
  let words (xs : List (List W32)) (base : Nat) (d : Drove) : Drove :=
    (List.range 6).foldl (fun d i => setV d (base + i) (mkLanes fun l => (xs.getD l []).getD i 0)) d
  let d := { Drove.vacant with uid := 1, width := 64, cond := .ready, pres := BitVec.ofNat 64 (2 ^ n - 1) }
  setS (setS (words y 8 (words x 0 d)) 1 (opfld.setWidth 64)) 2 (BitVec.ofNat 64 level)

/-- The helped word of a routine's `qhelp`, as its drove goes on to it (08 R174); none where it is not a lane's instruction. -/
def routineHelp (code : List W32) (s : State) : Option State :=
  match code[s.dr.pc.toNat / 4 + 1]? with
  | some w => if helpable w then some (onDr s fun d => { d with pc := d.pc + 4, help := true, helpWord := some w }) else none
  | none => none

/-- Runs a routine up to its `exit`; none where it stops, waits, uses an instruction that it may not, or takes longer than `fuel`
instructions (assumption log 21). -/
def routineRun (code : List W32) : Nat → State → Option Drove
  | 0, _ => none
  | fuel + 1, s =>
    match (code[s.dr.pc.toNat / 4]?).bind decode with
    | some .exit => some s.dr
    | some .qhelp =>
      match if s.dr.help then none else routineHelp code s with
      | some t => routineRun code fuel t
      | none => none
    | some i =>
      match routineExec i s with
      | some (.next t) => if t.dr.cond == .ready then routineRun code fuel t else none
      | _ => none
    | none => none

/-- The parent's words for up to 64 elements: one drove of the routine. -/
def routineGroup (code : List W32) (width : Nat) (x y : List (List W32)) (opfld : BitVec 16) (level : Nat) : Option (List W32) :=
  (routineRun code 65536 { State.reset with dr := routineDrove (min 64 x.length) x y opfld level }).map fun d =>
    (List.range x.length).flatMap fun l => (List.range width).map fun i => vlane d i l

/-- The parent's words for all elements, in groups of 64. -/
def routineWords (code : List W32) (width : Nat) (opfld : BitVec 16) (level : Nat) : Nat → List (List W32) → List (List W32) → Option (List W32)
  | 0, _, _ => some []
  | n + 1, x, y =>
    (routineGroup code width (x.take 64) (y.take 64) opfld level).bind fun ws =>
      (routineWords code width opfld level n (x.drop 64) (y.drop 64)).map fun r => ws ++ r

/-- THE PARENT that a switch makes of two sibling packets with the routine registered for their context (18 R391, R392), as the
payload of its packet; none where no routine is registered. -/
def switchPayload (a : CollArgs) (agreed : List (BitVec 16)) (left right parent : CollPacket) : Option (List W32) :=
  let kid (p : CollPacket) : List (List W32) :=
    let n := nodeFromPacket a agreed p (p.level == 0)
    (List.range (a.chunkLen p.chunk)).map (nodeElem a n)
  let code := Config.routine parent.ctx parent.routine
  (routineWords code (nodeWidth a) parent.opfld parent.level ((a.chunkLen parent.chunk + 63) / 64) (kid left) (kid right)).map fun ws =>
    innerPayload a { level := parent.level, node := parent.node, chunk := parent.chunk, words := ws, special := [], overflow := false }

/-- A member here that can judge a switch's parent: its phase 0 is agreed. -/
def switchMember (s : State) (parent : CollPacket) : Option CollOp :=
  ((collMembers s (BitVec.ofNat 16 parent.ctx) parent.group parent.seq).find? fun m => m.2.agreed.isSome && m.2.digest == parent.digest).map (·.2)

/-- A switch that holds both siblings of a routine's collective emits the parent that the routine makes of them in their place
(18 R391); it is then on its way to this module's members. A parent that is not the routine's is none of the switch's. -/
def execSwitchCombine (left right parent : CollPacket) (s : State) : Out :=
  .next <|
    let same (a b : CollPacket) : Bool :=
      a.group == b.group && a.seq == b.seq && a.chunk == b.chunk && a.routine == b.routine && a.digest == b.digest && a.opfld == b.opfld
    if same left right && same left parent && left.level == right.level && parent.level == left.level + 1 && left.routine != 0 &&
        left.node == 2 * parent.node && right.node == 2 * parent.node + 1 && (parent.srcDev == fabid s || packetBound s parent) &&
        (switchMember s parent).any fun c => switchPayload c.arg (c.agreed.getD []) left right parent == some parent.payload then
      let s := { s with dev := { s.dev with packets := s.dev.packets.filter fun x => !(x.2.2 == left || x.2.2 == right) } }
      takeData s parent none
    else s

end Sys2Proof.Machine
end

