-- ==== Sys2Proof/Machine/Dispatch.lean ====
section
/-! DEFINITION. One arm per constructor: each instruction's and each device step's own meaning. -/

namespace Sys2Proof.Machine

def exec (i : Instr) (s : State) : Host.Outcome State Fault Refusal :=
  match i with
  | .sadd d a b ea eb ed => Sys2Proof.Machine.execSadd d a b ea eb ed s
  | .ssub d a b ea eb ed => Sys2Proof.Machine.execSsub d a b ea eb ed s
  | .smul d a b ea eb ed => Sys2Proof.Machine.execSmul d a b ea eb ed s
  | .smulh d a b ea eb ed => Sys2Proof.Machine.execSmulh d a b ea eb ed s
  | .smulhn d a b ea eb ed => Sys2Proof.Machine.execSmulhn d a b ea eb ed s
  | .sand d a b ea eb ed => Sys2Proof.Machine.execSand d a b ea eb ed s
  | .sor d a b ea eb ed => Sys2Proof.Machine.execSor d a b ea eb ed s
  | .sxor d a b ea eb ed => Sys2Proof.Machine.execSxor d a b ea eb ed s
  | .sandn d a b ea eb ed => Sys2Proof.Machine.execSandn d a b ea eb ed s
  | .sshl d a b ea eb ed => Sys2Proof.Machine.execSshl d a b ea eb ed s
  | .sshr d a b ea eb ed => Sys2Proof.Machine.execSshr d a b ea eb ed s
  | .ssra d a b ea eb ed => Sys2Proof.Machine.execSsra d a b ea eb ed s
  | .smin d a b ea eb ed => Sys2Proof.Machine.execSmin d a b ea eb ed s
  | .smax d a b ea eb ed => Sys2Proof.Machine.execSmax d a b ea eb ed s
  | .sminn d a b ea eb ed => Sys2Proof.Machine.execSminn d a b ea eb ed s
  | .smaxn d a b ea eb ed => Sys2Proof.Machine.execSmaxn d a b ea eb ed s
  | .seq d a b ea eb ed => Sys2Proof.Machine.execSeq d a b ea eb ed s
  | .slt d a b ea eb ed => Sys2Proof.Machine.execSlt d a b ea eb ed s
  | .sltn d a b ea eb ed => Sys2Proof.Machine.execSltn d a b ea eb ed s
  | .ssel d a b ea eb ed => Sys2Proof.Machine.execSsel d a b ea eb ed s
  | .sclz d a ea ed => Sys2Proof.Machine.execSclz d a ea ed s
  | .spop d a ea ed => Sys2Proof.Machine.execSpop d a ea ed s
  | .sbrev d a ea ed => Sys2Proof.Machine.execSbrev d a ea ed s
  | .smov d a ea ed => Sys2Proof.Machine.execSmov d a ea ed s
  | .saddi d a ix => Sys2Proof.Machine.execSaddi d a ix s
  | .sandi d a ix => Sys2Proof.Machine.execSandi d a ix s
  | .sori d a ix => Sys2Proof.Machine.execSori d a ix s
  | .sxori d a ix => Sys2Proof.Machine.execSxori d a ix s
  | .sshli d a ix => Sys2Proof.Machine.execSshli d a ix s
  | .sshri d a ix => Sys2Proof.Machine.execSshri d a ix s
  | .ssrai d a ix => Sys2Proof.Machine.execSsrai d a ix s
  | .seqi d a ix => Sys2Proof.Machine.execSeqi d a ix s
  | .slti d a ix => Sys2Proof.Machine.execSlti d a ix s
  | .sli d ix => Sys2Proof.Machine.execSli d ix s
  | .slui d ix => Sys2Proof.Machine.execSlui d ix s
  | .bra off => Sys2Proof.Machine.execBra off s
  | .brz c off => Sys2Proof.Machine.execBrz c off s
  | .brnz c off => Sys2Proof.Machine.execBrnz c off s
  | .call off => Sys2Proof.Machine.execCall off s
  | .callr a ea => Sys2Proof.Machine.execCallr a ea s
  | .ret => Sys2Proof.Machine.execRet s
  | .jmpr a ea => Sys2Proof.Machine.execJmpr a ea s
  | .exit => Sys2Proof.Machine.execExit s
  | .regang => Sys2Proof.Machine.execRegang s
  | .nop => Sys2Proof.Machine.execNop s
  | .brk c => Sys2Proof.Machine.execBrk c s
  | .yield => Sys2Proof.Machine.execYield s
  | .modeSet d a ea ed => Sys2Proof.Machine.execModeSet d a ea ed s
  | .modeFld fld v => Sys2Proof.Machine.execModeFld fld v s
  | .modeGet d ed => Sys2Proof.Machine.execModeGet d ed s
  | .vadd d a b ea eb ed => Sys2Proof.Machine.execVadd d a b ea eb ed s
  | .vsub d a b ea eb ed => Sys2Proof.Machine.execVsub d a b ea eb ed s
  | .vmul d a b ea eb ed => Sys2Proof.Machine.execVmul d a b ea eb ed s
  | .vmulh d a b ea eb ed => Sys2Proof.Machine.execVmulh d a b ea eb ed s
  | .vmad d a b ea eb ed => Sys2Proof.Machine.execVmad d a b ea eb ed s
  | .vand d a b ea eb ed => Sys2Proof.Machine.execVand d a b ea eb ed s
  | .vor d a b ea eb ed => Sys2Proof.Machine.execVor d a b ea eb ed s
  | .vxor d a b ea eb ed => Sys2Proof.Machine.execVxor d a b ea eb ed s
  | .vandn d a b ea eb ed => Sys2Proof.Machine.execVandn d a b ea eb ed s
  | .vshl d a b ea eb ed => Sys2Proof.Machine.execVshl d a b ea eb ed s
  | .vshr d a b ea eb ed => Sys2Proof.Machine.execVshr d a b ea eb ed s
  | .vsra d a b ea eb ed => Sys2Proof.Machine.execVsra d a b ea eb ed s
  | .vmin d a b ea eb ed => Sys2Proof.Machine.execVmin d a b ea eb ed s
  | .vmax d a b ea eb ed => Sys2Proof.Machine.execVmax d a b ea eb ed s
  | .vabs d a ea ed => Sys2Proof.Machine.execVabs d a ea ed s
  | .vneg d a ea ed => Sys2Proof.Machine.execVneg d a ea ed s
  | .veqSub2 x a d ea eb => Sys2Proof.Machine.execVeqSub2 x a d ea eb s
  | .veqSub3 a d ea => Sys2Proof.Machine.execVeqSub3 a d ea s
  | .vneSub2 x a d ea eb => Sys2Proof.Machine.execVneSub2 x a d ea eb s
  | .vneSub3 a d ea => Sys2Proof.Machine.execVneSub3 a d ea s
  | .vltSub2 x a d ea eb => Sys2Proof.Machine.execVltSub2 x a d ea eb s
  | .vltSub3 a d ea => Sys2Proof.Machine.execVltSub3 a d ea s
  | .vleSub2 x a d ea eb => Sys2Proof.Machine.execVleSub2 x a d ea eb s
  | .vleSub3 a d ea => Sys2Proof.Machine.execVleSub3 a d ea s
  | .vselSub0 d a sx ea eb => Sys2Proof.Machine.execVselSub0 d a sx ea eb s
  | .vselSub1 d a sx ea eb => Sys2Proof.Machine.execVselSub1 d a sx ea eb s
  | .vmov d a ea ed => Sys2Proof.Machine.execVmov d a ea ed s
  | .vbcast d sx eb => Sys2Proof.Machine.execVbcast d sx eb s
  | .vlid d ed => Sys2Proof.Machine.execVlid d ed s
  | .vpop d a ea ed => Sys2Proof.Machine.execVpop d a ea ed s
  | .vclz d a ea ed => Sys2Proof.Machine.execVclz d a ea ed s
  | .vcvt d a ea ed => Sys2Proof.Machine.execVcvt d a ea ed s
  | .vpack d a b ea eb ed => Sys2Proof.Machine.execVpack d a b ea eb ed s
  | .vunpack d a b ea eb ed => Sys2Proof.Machine.execVunpack d a b ea eb ed s
  | .vrand d ed => Sys2Proof.Machine.execVrand d ed s
  | .fadd d a b ea eb ed => Sys2Proof.Machine.execFadd d a b ea eb ed s
  | .fsub d a b ea eb ed => Sys2Proof.Machine.execFsub d a b ea eb ed s
  | .fmul d a b ea eb ed => Sys2Proof.Machine.execFmul d a b ea eb ed s
  | .ffma d a b ea eb ed => Sys2Proof.Machine.execFfma d a b ea eb ed s
  | .ffms d a b ea eb ed => Sys2Proof.Machine.execFfms d a b ea eb ed s
  | .fnma d a b ea eb ed => Sys2Proof.Machine.execFnma d a b ea eb ed s
  | .fmin d a b ea eb ed => Sys2Proof.Machine.execFmin d a b ea eb ed s
  | .fmax d a b ea eb ed => Sys2Proof.Machine.execFmax d a b ea eb ed s
  | .fabs d a ea ed => Sys2Proof.Machine.execFabs d a ea ed s
  | .fneg d a ea ed => Sys2Proof.Machine.execFneg d a ea ed s
  | .feqSub2 x a d ea eb => Sys2Proof.Machine.execFeqSub2 x a d ea eb s
  | .feqSub3 a d ea => Sys2Proof.Machine.execFeqSub3 a d ea s
  | .fltSub2 x a d ea eb => Sys2Proof.Machine.execFltSub2 x a d ea eb s
  | .fltSub3 a d ea => Sys2Proof.Machine.execFltSub3 a d ea s
  | .fleSub2 x a d ea eb => Sys2Proof.Machine.execFleSub2 x a d ea eb s
  | .fleSub3 a d ea => Sys2Proof.Machine.execFleSub3 a d ea s
  | .funSub2 x a d ea eb => Sys2Proof.Machine.execFunSub2 x a d ea eb s
  | .funSub3 a d ea => Sys2Proof.Machine.execFunSub3 a d ea s
  | .frcp d a ea ed => Sys2Proof.Machine.execFrcp d a ea ed s
  | .frsq d a ea ed => Sys2Proof.Machine.execFrsq d a ea ed s
  | .fsqrt d a ea ed => Sys2Proof.Machine.execFsqrt d a ea ed s
  | .fexp2 d a ea ed => Sys2Proof.Machine.execFexp2 d a ea ed s
  | .flog2 d a ea ed => Sys2Proof.Machine.execFlog2 d a ea ed s
  | .fsin d a ea ed => Sys2Proof.Machine.execFsin d a ea ed s
  | .fcos d a ea ed => Sys2Proof.Machine.execFcos d a ea ed s
  | .fround d a ea ed => Sys2Proof.Machine.execFround d a ea ed s
  | .fcvt d a ea ed => Sys2Proof.Machine.execFcvt d a ea ed s
  | .fcvti d a ea ed => Sys2Proof.Machine.execFcvti d a ea ed s
  | .ficvt d a ea ed => Sys2Proof.Machine.execFicvt d a ea ed s
  | .fscale d a b ea eb ed => Sys2Proof.Machine.execFscale d a b ea eb ed s
  | .fgetexp d a ea ed => Sys2Proof.Machine.execFgetexp d a ea ed s
  | .fgetman d a ea ed => Sys2Proof.Machine.execFgetman d a ea ed s
  | .fclass d a ea ed => Sys2Proof.Machine.execFclass d a ea ed s
  | .twosum d a b ea eb ed => Sys2Proof.Machine.execTwosum d a b ea eb ed s
  | .ftwosum d a b ea eb ed => Sys2Proof.Machine.execFtwosum d a b ea eb ed s
  | .twoprod d a b ea eb ed => Sys2Proof.Machine.execTwoprod d a b ea eb ed s
  | .fmaerr d a b ea eb ed => Sys2Proof.Machine.execFmaerr d a b ea eb ed s
  | .xadd d a b ea eb ed => Sys2Proof.Machine.execXadd d a b ea eb ed s
  | .xsub d a b ea eb ed => Sys2Proof.Machine.execXsub d a b ea eb ed s
  | .xmul d a b ea eb ed => Sys2Proof.Machine.execXmul d a b ea eb ed s
  | .xfma d a b ea eb ed => Sys2Proof.Machine.execXfma d a b ea eb ed s
  | .xrenorm d a ea ed => Sys2Proof.Machine.execXrenorm d a ea ed s
  | .xcompress d a ea ed => Sys2Proof.Machine.execXcompress d a ea ed s
  | .xeqSub2 x a d ea eb => Sys2Proof.Machine.execXeqSub2 x a d ea eb s
  | .xeqSub3 a d ea => Sys2Proof.Machine.execXeqSub3 a d ea s
  | .xltSub2 x a d ea eb => Sys2Proof.Machine.execXltSub2 x a d ea eb s
  | .xltSub3 a d ea => Sys2Proof.Machine.execXltSub3 a d ea s
  | .xleSub2 x a d ea eb => Sys2Proof.Machine.execXleSub2 x a d ea eb s
  | .xleSub3 a d ea => Sys2Proof.Machine.execXleSub3 a d ea s
  | .xneg d a ea ed => Sys2Proof.Machine.execXneg d a ea ed s
  | .xabs d a ea ed => Sys2Proof.Machine.execXabs d a ea ed s
  | .xsplit d a ea ed => Sys2Proof.Machine.execXsplit d a ea ed s
  | .xtop d a ea ed => Sys2Proof.Machine.execXtop d a ea ed s
  | .xcvt d a c ea ed => Sys2Proof.Machine.execXcvt d a c ea ed s
  | .xbound d a ea ed => Sys2Proof.Machine.execXbound d a ea ed s
  | .qswh d a ea ed => Sys2Proof.Machine.execQswh d a ea ed s
  | .qswv d a ea ed => Sys2Proof.Machine.execQswv d a ea ed s
  | .qswd d a ea ed => Sys2Proof.Machine.execQswd d a ea ed s
  | .qbc d a n ea ed => Sys2Proof.Machine.execQbc d a n ea ed s
  | .qddx d a ea ed => Sys2Proof.Machine.execQddx d a ea ed s
  | .qddy d a ea ed => Sys2Proof.Machine.execQddy d a ea ed s
  | .qhelp => Sys2Proof.Machine.execQhelp s
  | .lshuf d a b ea eb ed => Sys2Proof.Machine.execLshuf d a b ea eb ed s
  | .lrot d a b ea eb ed => Sys2Proof.Machine.execLrot d a b ea eb ed s
  | .lscan d a c ea ed => Sys2Proof.Machine.execLscan d a c ea ed s
  | .lred d a c ea ed => Sys2Proof.Machine.execLred d a c ea ed s
  | .lballot a d ea => Sys2Proof.Machine.execLballot a d ea s
  | .lcompress d a ea ed => Sys2Proof.Machine.execLcompress d a ea ed s
  | .lexpand d a ea ed => Sys2Proof.Machine.execLexpand d a ea ed s
  | .lfirst a d ea => Sys2Proof.Machine.execLfirst a d ea s
  | .ldO vt sb va sz ex sc => Sys2Proof.Machine.execLdO vt sb va sz ex sc s
  | .ldW vt sb va sz ex sc => Sys2Proof.Machine.execLdW vt sb va sz ex sc s
  | .ldS vt sb va sz ex sc => Sys2Proof.Machine.execLdS vt sb va sz ex sc s
  | .ldI vt sb va sz ex sc => Sys2Proof.Machine.execLdI vt sb va sz ex sc s
  | .stO vt sb va sz sc => Sys2Proof.Machine.execStO vt sb va sz sc s
  | .stW vt sb va sz sc => Sys2Proof.Machine.execStW vt sb va sz sc s
  | .stS vt sb va sz sc => Sys2Proof.Machine.execStS vt sb va sz sc s
  | .stI vt sb va sz sc => Sys2Proof.Machine.execStI vt sb va sz sc s
  | .ldsO vt sb imm sz => Sys2Proof.Machine.execLdsO vt sb imm sz s
  | .ldsW vt sb imm sz => Sys2Proof.Machine.execLdsW vt sb imm sz s
  | .ldsS vt sb imm sz => Sys2Proof.Machine.execLdsS vt sb imm sz s
  | .ldsI vt sb imm sz => Sys2Proof.Machine.execLdsI vt sb imm sz s
  | .stsO vt sb imm sz => Sys2Proof.Machine.execStsO vt sb imm sz s
  | .stsW vt sb imm sz => Sys2Proof.Machine.execStsW vt sb imm sz s
  | .stsS vt sb imm sz => Sys2Proof.Machine.execStsS vt sb imm sz s
  | .stsI vt sb imm sz => Sys2Proof.Machine.execStsI vt sb imm sz s
  | .ldp vt sb va sz ex sc => Sys2Proof.Machine.execLdp vt sb va sz ex sc s
  | .stp vt sb va sz sc => Sys2Proof.Machine.execStp vt sb va sz sc s
  | .ldsp vt sb va sz ex sc => Sys2Proof.Machine.execLdsp vt sb va sz ex sc s
  | .stsp vt sb va sz sc => Sys2Proof.Machine.execStsp vt sb va sz sc s
  | .cst vt sb va sz sc => Sys2Proof.Machine.execCst vt sb va sz sc s
  | .stm vt sb va sz sc => Sys2Proof.Machine.execStm vt sb va sz sc s
  | .pref tgt sb va sz sc => Sys2Proof.Machine.execPref tgt sb va sz sc s
  | .vinv a l => Sys2Proof.Machine.execVinv a l s
  | .vwb a l => Sys2Proof.Machine.execVwb a l s
  | .fenceAcq => Sys2Proof.Machine.execFenceAcq s
  | .fenceRel => Sys2Proof.Machine.execFenceRel s
  | .fenceSc => Sys2Proof.Machine.execFenceSc s
  | .atomRlx d sx a p => Sys2Proof.Machine.execAtomRlx d sx a p s
  | .atomAcq d sx a p => Sys2Proof.Machine.execAtomAcq d sx a p s
  | .atomRel d sx a p => Sys2Proof.Machine.execAtomRel d sx a p s
  | .atomAr d sx a p => Sys2Proof.Machine.execAtomAr d sx a p s
  | .redRlx d sx a p => Sys2Proof.Machine.execRedRlx d sx a p s
  | .redRel d sx a p => Sys2Proof.Machine.execRedRel d sx a p s
  | .catom d sx a => Sys2Proof.Machine.execCatom d sx a s
  | .satom d sx o p => Sys2Proof.Machine.execSatom d sx o p s
  | .mma td ka a kb b eta => Sys2Proof.Machine.execMma td ka a kb b eta s
  | .mmar td ka a kb b eta => Sys2Proof.Machine.execMmar td ka a kb b eta s
  | .mmab td ka a kb b eta => Sys2Proof.Machine.execMmab td ka a kb b eta s
  | .tld t n => Sys2Proof.Machine.execTld t n s
  | .tst t n => Sys2Proof.Machine.execTst t n s
  | .tzero t => Sys2Proof.Machine.execTzero t s
  | .trd t r sx ix v => Sys2Proof.Machine.execTrd t r sx ix v s
  | .twr t r sx ix v => Sys2Proof.Machine.execTwr t r sx ix v s
  | .tfold t u p => Sys2Proof.Machine.execTfold t u p s
  | .tscl sx n m => Sys2Proof.Machine.execTscl sx n m s
  | .tmov t u p => Sys2Proof.Machine.execTmov t u p s
  | .tcvt t u => Sys2Proof.Machine.execTcvt t u s
  | .bar n => Sys2Proof.Machine.execBar n s
  | .barv d a p n => Sys2Proof.Machine.execBarv d a p n s
  | .barw a b => Sys2Proof.Machine.execBarw a b s
  | .abinit a b => Sys2Proof.Machine.execAbinit a b s
  | .abarr d a => Sys2Proof.Machine.execAbarr d a s
  | .abwait a b => Sys2Proof.Machine.execAbwait a b s
  | .qpush a n => Sys2Proof.Machine.execQpush a n s
  | .qpop d n => Sys2Proof.Machine.execQpop d n s
  | .qtry d sx n => Sys2Proof.Machine.execQtry d sx n s
  | .qallow a n => Sys2Proof.Machine.execQallow a n s
  | .rtake d a ea ed => Sys2Proof.Machine.execRtake d a ea ed s
  | .cpy a b => Sys2Proof.Machine.execCpy a b s
  | .coll t d sx => Sys2Proof.Machine.execColl t d sx s
  | .evpost a b => Sys2Proof.Machine.execEvpost a b s
  | .rlaunch a => Sys2Proof.Machine.execRlaunch a s
  | .trap c => Sys2Proof.Machine.execTrap c s
  | .eret => Sys2Proof.Machine.execEret s
  | .mcall p a b k => Sys2Proof.Machine.execMcall p a b k s
  | .mcw a => Sys2Proof.Machine.execMcw a s
  | .sysrd d n => Sys2Proof.Machine.execSysrd d n s
  | .syswr a n => Sys2Proof.Machine.execSyswr a n s
  | .tlbi a b c => Sys2Proof.Machine.execTlbi a b c s
  | .illegalWord w => Sys2Proof.Machine.execIllegalWord w s
  | .instructionFetchFault cause => Sys2Proof.Machine.execInstructionFetchFault cause s
  | .loadReturn r => Sys2Proof.Machine.execLoadReturn r s
  | .slowSysrdReturn r => Sys2Proof.Machine.execSlowSysrdReturn r s
  | .loadLaneFault r => Sys2Proof.Machine.execLoadLaneFault r s
  | .storeAck r => Sys2Proof.Machine.execStoreAck r s
  | .storeLaneFault r => Sys2Proof.Machine.execStoreLaneFault r s
  | .linkStackSpillFill d => Sys2Proof.Machine.execLinkStackSpillFill d s
  | .owningDieAccess r j => Sys2Proof.Machine.execOwningDieAccess r j s
  | .atomicProbeResult r => Sys2Proof.Machine.execAtomicProbeResult r s
  | .atomicReturn r => Sys2Proof.Machine.execAtomicReturn r s
  | .catomLowUpdate r j => Sys2Proof.Machine.execCatomLowUpdate r j s
  | .scratchpadBankAccess r j => Sys2Proof.Machine.execScratchpadBankAccess r j s
  | .pageExpansionComplete ctx va => Sys2Proof.Machine.execPageExpansionComplete ctx va s
  | .homeOLoadMiss r j => Sys2Proof.Machine.execHomeOLoadMiss r j s
  | .homeILoadMiss r j => Sys2Proof.Machine.execHomeILoadMiss r j s
  | .homeSLoadMiss r j => Sys2Proof.Machine.execHomeSLoadMiss r j s
  | .homeWLoad r j => Sys2Proof.Machine.execHomeWLoad r j s
  | .homeOwnershipRequest r j => Sys2Proof.Machine.execHomeOwnershipRequest r j s
  | .homeWriteThrough r j => Sys2Proof.Machine.execHomeWriteThrough r j s
  | .homeAtomic r j => Sys2Proof.Machine.execHomeAtomic r j s
  | .ownerWmaskAccess r j => Sys2Proof.Machine.execOwnerWmaskAccess r j s
  | .ownerWriteBack core g => Sys2Proof.Machine.execOwnerWriteBack core g s
  | .ownerVwbWriteBack core g => Sys2Proof.Machine.execOwnerVwbWriteBack core g s
  | .recallToShared g => Sys2Proof.Machine.execRecallToShared g s
  | .recall g => Sys2Proof.Machine.execRecall g s
  | .claim g => Sys2Proof.Machine.execClaim g s
  | .invalidate g holder => Sys2Proof.Machine.execInvalidate g holder s
  | .update g die => Sys2Proof.Machine.execUpdate g die s
  | .directoryTComplete g => Sys2Proof.Machine.execDirectoryTComplete g s
  | .requestRefusedResend r j => Sys2Proof.Machine.execRequestRefusedResend r j s
  | .directoryEntryUe g => Sys2Proof.Machine.execDirectoryEntryUe g s
  | .replicaLineLeave g die => Sys2Proof.Machine.execReplicaLineLeave g die s
  | .hostCleanDrop g => Sys2Proof.Machine.execHostCleanDrop g s
  | .hrd dpa => Sys2Proof.Machine.execHrd dpa s
  | .hrdx dpa data enables => Sys2Proof.Machine.execHrdx dpa data enables s
  | .hwr dpa data enables => Sys2Proof.Machine.execHwr dpa data enables s
  | .hwb g => Sys2Proof.Machine.execHwb g s
  | .peerAccessRequest x => Sys2Proof.Machine.execPeerAccessRequest x s
  | .route10Ack r j hostWrites => Sys2Proof.Machine.execRoute10Ack r j hostWrites s
  | .epochTick core => Sys2Proof.Machine.execEpochTick core s
  | .retentionSleepEnter core => Sys2Proof.Machine.execRetentionSleepEnter core s
  | .retentionWake core => Sys2Proof.Machine.execRetentionWake core s
  | .matrixGrant pad k => Sys2Proof.Machine.execMatrixGrant pad k s
  | .passComplete pad k => Sys2Proof.Machine.execPassComplete pad k s
  | .reservationAging pad k => Sys2Proof.Machine.execReservationAging pad k s
  | .tileOpComplete k => Sys2Proof.Machine.execTileOpComplete k s
  | .tldRowFault r => Sys2Proof.Machine.execTldRowFault r s
  | .barrierChecksum d => Sys2Proof.Machine.execBarrierChecksum d s
  | .wideBarrierArrival f => Sys2Proof.Machine.execWideBarrierArrival f s
  | .asyncObjectArrival k => Sys2Proof.Machine.execAsyncObjectArrival k s
  | .chutePopServed f n => Sys2Proof.Machine.execChutePopServed f n s
  | .chutePushRoom d => Sys2Proof.Machine.execChutePushRoom d s
  | .copyComplete k => Sys2Proof.Machine.execCopyComplete k s
  | .copyFault k => Sys2Proof.Machine.execCopyFault k s
  | .collPhase0Packet p => Sys2Proof.Machine.execCollPhase0Packet p s
  | .collDataPacket p => Sys2Proof.Machine.execCollDataPacket p s
  | .collResultPacket p => Sys2Proof.Machine.execCollResultPacket p s
  | .collCancelPacket p => Sys2Proof.Machine.execCollCancelPacket p s
  | .reduceFlockDispatch c level node chunk => Sys2Proof.Machine.execReduceFlockDispatch c level node chunk s
  | .switchCombine left right parent => Sys2Proof.Machine.execSwitchCombine left right parent s
  | .collGroupTableFault c => Sys2Proof.Machine.execCollGroupTableFault c s
  | .bellwetherTurn d => Sys2Proof.Machine.execBellwetherTurn d s
  | .passiveWake d => Sys2Proof.Machine.execPassiveWake d s
  | .deviceEventPost k => Sys2Proof.Machine.execDeviceEventPost k s
  | .launchQueueDoorbell q v => Sys2Proof.Machine.execLaunchQueueDoorbell q v s
  | .launchQueueEntryTake q => Sys2Proof.Machine.execLaunchQueueEntryTake q s
  | .flockAdmit g => Sys2Proof.Machine.execFlockAdmit g s
  | .rangeComplete g => Sys2Proof.Machine.execRangeComplete g s
  | .drovePromote d => Sys2Proof.Machine.execDrovePromote d s
  | .regangTimeout d => Sys2Proof.Machine.execRegangTimeout d s
  | .yieldTimeout d => Sys2Proof.Machine.execYieldTimeout d s
  | .budgetExpiry f => Sys2Proof.Machine.execBudgetExpiry f s
  | .watchdogExpiry f => Sys2Proof.Machine.execWatchdogExpiry f s
  | .slowFaultSwapout f => Sys2Proof.Machine.execSlowFaultSwapout f s
  | .mxmodeApply pad => Sys2Proof.Machine.execMxmodeApply pad s
  | .faultTableEntryWrite k => Sys2Proof.Machine.execFaultTableEntryWrite k s
  | .parkDelivery k => Sys2Proof.Machine.execParkDelivery k s
  | .swapOut f => Sys2Proof.Machine.execSwapOut f s
  | .flockResume k => Sys2Proof.Machine.execFlockResume k s
  | .dbgcmdHalt d => Sys2Proof.Machine.execDbgcmdHalt d s
  | .mapcmdMap c => Sys2Proof.Machine.execMapcmdMap c s
  | .mapcmdUnmap c => Sys2Proof.Machine.execMapcmdUnmap c s
  | .mapcmdCompress c => Sys2Proof.Machine.execMapcmdCompress c s
  | .mapcmdClearAccessed c => Sys2Proof.Machine.execMapcmdClearAccessed c s
  | .mapcmdQuery c => Sys2Proof.Machine.execMapcmdQuery c s
  | .xtcrBind c => Sys2Proof.Machine.execXtcrBind c s
  | .sramwinWrite c => Sys2Proof.Machine.execSramwinWrite c s
  | .czoneWrite c => Sys2Proof.Machine.execCzoneWrite c s
  | .vcDefine c => Sys2Proof.Machine.execVcDefine c s
  | .vcResize c => Sys2Proof.Machine.execVcResize c s
  | .vcMove c => Sys2Proof.Machine.execVcMove c s
  | .vcFree c => Sys2Proof.Machine.execVcFree c s
  | .vcRead c => Sys2Proof.Machine.execVcRead c s
  | .vcModify c => Sys2Proof.Machine.execVcModify c s
  | .vcRetireShare c => Sys2Proof.Machine.execVcRetireShare c s
  | .vcShareMap c => Sys2Proof.Machine.execVcShareMap c s
  | .vcSweepSet vc die => Sys2Proof.Machine.execVcSweepSet vc die s
  | .vcMigrationComplete vc => Sys2Proof.Machine.execVcMigrationComplete vc s
  | .vcFreeComplete vc => Sys2Proof.Machine.execVcFreeComplete vc s
  | .shareRetireComplete share => Sys2Proof.Machine.execShareRetireComplete share s
  | .correctedError share => Sys2Proof.Machine.execCorrectedError share s
  | .uncorrectableError dpa share => Sys2Proof.Machine.execUncorrectableError dpa share s
  | .aetclrWrite c => Sys2Proof.Machine.execAetclrWrite c s
  | .csbaddrWrite c => Sys2Proof.Machine.execCsbaddrWrite c s
  | .freplyReplay c => Sys2Proof.Machine.execFreplyReplay c s
  | .freplyDeliver c => Sys2Proof.Machine.execFreplyDeliver c s
  | .ctxPreempt c => Sys2Proof.Machine.execCtxPreempt c s
  | .ctxResume c => Sys2Proof.Machine.execCtxResume c s
  | .ctxTerminate c => Sys2Proof.Machine.execCtxTerminate c s
  | .ctxPlaceShepherd c => Sys2Proof.Machine.execCtxPlaceShepherd c s
  | .lqcfgWrite c => Sys2Proof.Machine.execLqcfgWrite c s
  | .mxmodeWrite c => Sys2Proof.Machine.execMxmodeWrite c s
  | .dbgcmdWrite c => Sys2Proof.Machine.execDbgcmdWrite c s
  | .lcctlClr c => Sys2Proof.Machine.execLcctlClr c s
  | .pwrprofWrite c => Sys2Proof.Machine.execPwrprofWrite c s
  | .sysregWrite c => Sys2Proof.Machine.execSysregWrite c s
  | .ckptSave c dpa => Sys2Proof.Machine.execCkptSave c dpa s
  | .ckptRestore c dpa => Sys2Proof.Machine.execCkptRestore c dpa s
  | .attestRequest dpa => Sys2Proof.Machine.execAttestRequest dpa s
  | .notifyClear v => Sys2Proof.Machine.execNotifyClear v s
  | .frdataRead => Sys2Proof.Machine.execFrdataRead s
  | .fieldRecordCommit => Sys2Proof.Machine.execFieldRecordCommit s
  | .moduleReset => Sys2Proof.Machine.execModuleReset s
  | .recoveryImageWrite image => Sys2Proof.Machine.execRecoveryImageWrite image s
  | .thermalClockStep up => Sys2Proof.Machine.execThermalClockStep up s
  | .flitCrcFail link => Sys2Proof.Machine.execFlitCrcFail link s
  | .linkRetrain link => Sys2Proof.Machine.execLinkRetrain link s
  | .portDown port => Sys2Proof.Machine.execPortDown port s
  | .portTrained port => Sys2Proof.Machine.execPortTrained port s
  | .traceBrFlush die => Sys2Proof.Machine.execTraceBrFlush die s
  | .traceForcedSync die => Sys2Proof.Machine.execTraceForcedSync die s
  | .traceLoss die => Sys2Proof.Machine.execTraceLoss die s
  | .checkpointStreamEnd ok => Sys2Proof.Machine.execCheckpointStreamEnd ok s
  | .linkRetrainEnd link => Sys2Proof.Machine.execLinkRetrainEnd link s
  | .emptyIssueSlot => Sys2Proof.Machine.execEmptyIssueSlot s
  | .profileChangeTakesEffect => Sys2Proof.Machine.execProfileChangeTakesEffect s
  | .powerLoss => Sys2Proof.Machine.execPowerLoss s

end Sys2Proof.Machine
end

