-- ==== Sys2Proof/Machine/Sched.lean ====
section
/-! DEFINITION. What may happen next: every step of the device's own that is due, the inputs that have arrived, and the
droves that may issue, from which one is taken by a free choice (15 R328, 16 R347-R354, 19 R404-R421; assumption log 2). -/

namespace Sys2Proof.Machine

/-- The event `e` when the condition holds. -/
def evIf (b : Bool) (e : Event) : List Work := if b then [.ev e] else []

/-- The link between two dies, 0 to 5 (19 R420). -/
def pairLink (a b : Nat) : Nat := [0, 1, 2, 3, 4, 5].getD (if min a b = 0 then max a b - 1 else min a b + max a b) 5

/-- Traffic between two dies waits for a retrain (18 R380). -/
def diesHeld (s : State) (a b : Nat) : Bool := a != b && retraining s (pairLink a b)

/-- The port that traffic about the line of `dpa` takes between context `c` and device `i` (18 R383). -/
def portFor (s : State) (c : BitVec 16) (i dpa : Nat) : Option Nat :=
  let ports := portsFor s c i
  ports[setHash (dpa / 128) % ports.length]?

/-- The port of a line is retraining. -/
def portHeld (s : State) (c : BitVec 16) (i dpa : Nat) : Bool := (portFor s c i dpa).any fun n => retraining s (6 + n)

/-- Every port that a packet without an address could take is retraining (18 R380, R383). -/
def portsHeld (s : State) (c : BitVec 16) (i : Nat) : Bool :=
  let ports := portsFor s c i
  !ports.isEmpty && ports.all fun n => retraining s (6 + n)

/-- The access waits for a retrain of a link on its way (18 R380). -/
def linkHeld (s : State) (q : Req) (va : Nat) : Bool :=
  if isPeer s va then portHeld s q.ctx (bits va 61 52) (Config.peerDpa (va % 2 ^ 62))
  else if routeOf va = 2 then retraining s 18
  else diesHeld s (dieOfCore q.core) (bits (localOf s va) 61 60)

/-- The low update waits for a retrain of the link between its two homes (18 R380). -/
def lowHeld (s : State) (q : Req) (u : LowUp) : Bool :=
  if 2 ^ 62 ≤ u.dpa then portHeld s q.ctx (bits u.dpa 61 52) (Config.peerDpa (u.dpa % 2 ^ 62))
  else decide (u.hdie < 4) && diesHeld s u.hdie (homeDie u.dpa)

/-- The row by which an access reaches its home (15 R330, R331). -/
def homeRow (s : State) (q : Req) (j : Nat) (a : Acc) : Event :=
  let r := q.id
  if a.aged.isSome then .requestRefusedResend r j
  else if q.kind = .barw then .wideBarrierArrival q.flock
  else if atomicKind q.kind then .homeAtomic r j
  else if ownsMasked s q a then .ownerWmaskAccess r j
  else
    match wantOf q a with
    | .oLoad => .homeOLoadMiss r j
    | .iLoad => .homeILoadMiss r j
    | .sLoad => .homeSLoadMiss r j
    | .wLoad => .homeWLoad r j
    | .own => .homeOwnershipRequest r j
    | _ => .homeWriteThrough r j

/-- Work of one access. -/
def accWork (s : State) (q : Req) (j : Nat) (a : Acc) : List Work :=
  let r := q.id
  let low := (lowOf q j).any (fun u => !lowBehind s u && !lowHeld s q u) && !accQueued s r j && a.st == .done
  let wait := linkHeld s q a.va
  let peer := if isPeer s a.va then a.va else lowAddr q.split a.va
  let asks := if q.probing then isPeer s peer && a.st == .new
    else isPeer s a.va && (a.st == .new || a.st == .sent) && !heldBack s q j a
  evIf (!wait && !atomicKind q.kind && dieReady s q j a) (.owningDieAccess r j) ++
    evIf (!wait && homeReady s q j a && !accQueued s r j) (homeRow s q j a) ++
    evIf (!q.probing && spadAcc q.kind a && (a.st == .new || a.st == .sent) && !heldBack s q j a) (.scratchpadBankAccess r j) ++
    evIf low (.catomLowUpdate r j) ++
    evIf (!wait && !q.probing && routeOf a.va == 2 && a.st == .new && !spadAcc q.kind a && !heldBack s q j a) (.route10Ack r j []) ++
    (if asks && !wait then peerAnswers.map fun c => .ev (.peerAccessRequest (.outgoing r j c [])) else [])

/-- Work of one request. -/
def reqWork (s : State) (q : Req) : List Work :=
  let r := q.id
  let stale := ((droveOf s q.drove).filter fun d => d.gen == q.gen).isNone
  let faulted := (faultedAcc q).isSome && !hasPark s r
  let l1 := !atomicKind q.kind && (List.range q.accs.length).any fun j =>
    (accOf s r j).any fun x => routeOf x.2.va == 0 && !spadAcc q.kind x.2 && (l1Store s q j x.2).isSome
  let sys := match q.kind with | .sysrd _ => true | _ => false
  let kind3 := match q.kind with | .atom _ _ | .satom _ | .rtake => true | _ => false
  let tld := match q.kind with | .tld _ _ => true | _ => false
  let expand := q.accs.filterMap fun a => if a.st == .faulted 0x12 then some (Work.ev (.pageExpansionComplete q.ctx.toNat (localOf s a.va))) else none
  (q.accs.zipIdx.flatMap fun (a, j) => accWork s q j a) ++
    evIf (isLoad q && (stale || (allDone q && !(droveOf s q.drove).any fun d => d.csumReq == some r))) (.loadReturn r) ++ evIf sys (.slowSysrdReturn r) ++
    evIf (faulted && (isLoad q || (atomicKind q.kind && !q.probing))) (.loadLaneFault r) ++
    evIf (faulted && (match q.kind with | .store _ | .stm | .tst _ _ => true | _ => false)) (.storeLaneFault r) ++
    evIf (faulted && tld) (.tldRowFault r) ++ evIf (storeKind q.kind && !q.probing && (entryDone s q || l1)) (.storeAck r) ++
    evIf (q.probing && !probeWaits s q) (.atomicProbeResult r) ++ evIf (kind3 && !q.probing && allDone q) (.atomicReturn r) ++ expand

/-- The Bruoth link is in bulk mode (18 R379): its request, response and coherence classes carry nothing. -/
def bulkMode (s : State) : Bool := s.dev.ckpt.isSome && quiesced s

/-- Nothing but management crosses the Bruoth link now (18 R379, R380). -/
def hostHeld (s : State) : Bool := retraining s 18 || bulkMode s

/-- A message of the home of `e` to holder `h` waits for the link between them (18 R379, R380). -/
def holderHeld (s : State) (e : DirEntry) (h : Nat) : Bool :=
  if h = 64 then hostHeld s else diesHeld s (homeDie e.g) (if h < 64 then dieOfCore h else h - 65)

/-- The holder that a message goes to. -/
def holderOf (e : DirEntry) : Msg → Nat
  | .invalidate h => h
  | .update d => 65 + d
  | _ => if e.hown then 64 else e.owner

/-- Work of a directory entry (15 R328, R329, R332). -/
def dirWork (s : State) (e : DirEntry) : List Work :=
  ((e.msgs.filter fun m => !holderHeld s e (holderOf e m)).map fun m => Work.ev (match m with
    | .recallShared => .recallToShared e.g
    | .recall => .recall e.g
    | .claim _ => .claim e.g
    | .invalidate h => .invalidate e.g h
    | .update d => .update e.g d)) ++
    evIf (if e.st == .t then e.msgs.isEmpty else e.queue.head?.any fun a => match a with | .own _ => false | _ => true)
      (.directoryTComplete e.g) ++
    evIf (e.host && e.st != .t && !hostHeld s) (.hostCleanDrop e.g)

/-- A place in a queue whose work is no longer there to be done is given up (15 R328). -/
def lapsedWork (s : State) (ws : List Work) : List Work :=
  s.coh.dir.flatMap fun e => match e.queue.head? with
    | some (.own w) => evIf (e.st != .t && !ws.contains w) (.directoryTComplete e.g)
    | _ => []

/-- Host requests that were refused are sent again (15 R328). -/
def refusedWork (s : State) : List Work :=
  if hostHeld s then [] else (List.range s.coh.refused.length).map fun j => .ev (.requestRefusedResend 0 j)

/-- The epoch ticks and the flushes of pending branch outcomes that are due (15 R340, 19 R417): nothing else happens before
them. -/
def ticksDue (s : State) : List Work :=
  (((List.range 64).filter fun c => epochDue s c).map fun c => .ev (.epochTick c)) ++
    (List.range 4).flatMap fun d => evIf (dueBr s d).isSome (.traceBrFlush d)

/-- An access of the core is to fill a copy in the set of `l`, every way of which is taken (15 R331). -/
def crowded (s : State) (l : L1Line) : Bool :=
  let mine := s.coh.l1.filter fun x => x.core == l.core && !x.stack && l1Set x.va == l1Set l.va
  decide (l1Ways s l.core ≤ mine.length) && s.reqs.any fun q => q.core == l.core && q.accs.any fun a =>
    (a.st == .new || a.st == .sent) && l1Set a.va == l1Set l.va && !mine.any fun x => x.ctx == q.ctx && x.va == granOf a.va

/-- Work of the caches (15 R331, R332, R340, R341). An owned copy is written back to make room for another; a save, a sleep and a
`vwb` write theirs back as steps of their own. -/
def cacheWork (s : State) : List Work :=
  (s.coh.l1.flatMap fun l =>
    let goes := evictable s l && !diesHeld s (dieOfCore l.core) (homeDie l.dpa)
    evIf (l.owned && !l.stack && crowded s l && goes) (.ownerWriteBack l.core l.dpa) ++
    evIf (l.dirty != 0 && s.reqs.any (vwbCovers s l) && goes) (.ownerVwbWriteBack l.core l.dpa)) ++
  (List.range 64).flatMap fun c =>
    let k := coreOf s c
    evIf (!coreBusy s c && !k.asleep) (.retentionSleepEnter c) ++ evIf k.asleep (.retentionWake c)

/-- A copy waits for a retrain of a link that its ranges may need (18 R380). -/
def copyHeld (s : State) (c : CopyJob) : Bool :=
  (copyDeviceRanges c.d0 c.d1 c.d2 c.d3).any fun (x, n) =>
    match routeOf (localOf s x) with
    | 0 => [x, x + n - 1].any fun a => diesHeld s (dieOfCore c.core) (bits (localOf s a) 61 60)
    | 1 => (portsFor s c.ctx (bits x 61 52)).any fun p => retraining s (6 + p)
    | 2 => retraining s 18
    | _ => false

/-- Work of collectives, which a checkpoint holds (18 R385-R390, R397). -/
def collWork (s : State) : List Work :=
  if s.dev.ckpt.isSome then [] else
  (s.eng.held.flatMap fun h =>
    let p := h.pkt
    let members := collMembers s (BitVec.ofNat 16 p.ctx) p.group p.seq
    match h.ptype with
    | 0x10 => evIf ((memberAt s p (p.node / 2 * 2 ^ (p.level + 1))).isSome ||
        (p.node == 0 && members.any fun m => !m.2.table.isEmpty && m.2.arg.depth == p.level)) (.collPhase0Packet p)
    | 0x11 => evIf ((dataTaker s p).any fun t => t.2.1.agreed.isSome || t.2.1.digest != p.digest) (.collDataPacket p)
    | 0x12 => evIf (memberAt s p (p.node * 2 ^ p.level)).isSome (.collResultPacket p)
    | _ => evIf (members.any fun m => !m.2.bad && (h.range == 0 || m.1.range == h.range)) (.collCancelPacket p)) ++
  ((collFlocks s).flatMap fun f => f.colls.flatMap fun c =>
    evIf (c.started && c.table.isEmpty && !c.parked && !c.bad) (.collGroupTableFault c.id) ++
    (List.range 12).flatMap fun l => (c.nodes.filter fun n => n.level == l).flatMap fun n =>
      evIf (reduceReady c (l + 1) (n.node / 2) n.chunk) (.reduceFlockDispatch c.id (l + 1) (n.node / 2) n.chunk)) ++
  if s.dev.unsent.any fun x => sendOpen s x.1 x.2.1 then [.send] else []

/-- Work of the engines (10 R211, R220, 11 R235, R244, R356). -/
def engineWork (s : State) : List Work :=
  let aged (p : Pass) : Bool := decide (p.aged < if 4096 ≤ s.cycle - p.since then 2 else if 1024 ≤ s.cycle - p.since then 1 else 0)
  (s.eng.passes.flatMap fun p => if p.granted then [.ev (.passComplete p.pad p.id)] else if !p.posted then
    evIf (!tableFull s p.pad && (nextPosted s p.pad).any fun x => x.id == p.id) (.matrixGrant p.pad p.id) else
    let ws := waitingPasses s p.pad
    let quad := s.eng.mxmode.getLsbD p.pad
    evIf (decide ((runningPasses s p.pad).length < if quad then 4 else 1) && !ws.any fun q => q.id != p.id && grantBefore s.cycle q p)
      (.matrixGrant p.pad p.id) ++ evIf (aged p) (.reservationAging p.pad p.id)) ++
  (s.eng.tileOps.map fun t => .ev (.tileOpComplete t.id)) ++
  ((List.range 16).flatMap fun p => evIf (s.eng.mxpend.getLsbD p && !detOnPad s p && tableEmpty s p) (.mxmodeApply p)) ++
  (s.eng.copies.flatMap fun c => if copyReady s c && !copyHeld s c then
    [.ev (if (copyRun s c).2.2.isNone then .copyComplete c.id else .copyFault c.id)] else []) ++
  (s.eng.arrivals.flatMap fun x => evIf (arrivalReady s x) (.asyncObjectArrival x.id))

/-- Work of a flock: its chutes and its clocks (11 R239, 16 R358, R359, 17 R370, R371). -/
def flockWork (s : State) (f : Flock) : List Work :=
  let want := match slowPark s f with
    | some p => f.swapDue.isNone && !(rangeOf s f.range).any (·.det) && (slotFor s f || !p.slow)
    | none => false
  ((List.range f.chutes.length).flatMap fun n =>
    let c := chuteOf f n
    match c.pops with
    | p :: _ => evIf (decide (p.lanes.length ≤ c.count)) (.chutePopServed f.uid n)
    | [] => []) ++
  evIf (budgetDue s f) (.budgetExpiry f.uid) ++ evIf (watchdogDue s f) (.watchdogExpiry f.uid) ++
  evIf want (.slowFaultSwapout f.uid) ++ evIf (f.swapDue.isSome && saveReady s f) (.swapOut f.uid)

/-- The row that serves a command record with operation `op`. -/
def recordRow (n op act c : Nat) : Event :=
  match n with
  | 0x8C => match mapRow op with
    | 1 => .mapcmdUnmap c
    | 2 => .mapcmdCompress c
    | 3 => .mapcmdClearAccessed c
    | 4 => .mapcmdQuery c
    | _ => .mapcmdMap c
  | 0x90 => match vcRow op with
    | 1 => .vcResize c
    | 2 => .vcMove c
    | 3 => .vcFree c
    | 4 => .vcRead c
    | 5 => .vcModify c
    | 6 => .vcRetireShare c
    | 7 => .vcShareMap c
    | _ => .vcDefine c
  | 0xC3 => if act = 1 then .freplyDeliver c else .freplyReplay c
  | 0xC4 => match op with
    | 1 => .ctxResume c
    | 2 => .ctxTerminate c
    | 3 => .ctxPlaceShepherd c
    | _ => .ctxPreempt c
  | _ => if op = 1 then .ckptRestore c 0 else .ckptSave c 0

/-- The row that performs the write of a privileged register (11 R260). -/
def writeRow (s : State) (d : Drove) (n : Nat) (x : W64) : Event :=
  let c := d.uid
  match n with
  | 0x81 => .xtcrBind c
  | 0x84 | 0x85 | 0x86 | 0x87 => .czoneWrite c
  | 0x8F => .sramwinWrite c
  | 0xB1 => .lqcfgWrite c
  | 0xB5 => .mxmodeWrite c
  | 0xC1 => .csbaddrWrite c
  | 0xC5 => .aetclrWrite c
  | 0xD3 => .pwrprofWrite c
  | 0xE8 => .dbgcmdWrite c
  | 0xE0 => if x.getLsbD 1 then .lcctlClr c else .sysregWrite c
  | 0x8C | 0x90 | 0xC3 | 0xC4 | 0xD2 =>
    let off := if n = 0x8C then 8 else 0
    match (vaRead s d.ctx (x.toNat + off) 1).1, (vaRead s d.ctx (x.toNat + 4) 1).1 with
    | .inl op, .inl act => recordRow n (leNat op) (leNat act) c
    | _, _ => recordRow n 0 0 c
  | _ => .sysregWrite c

/-- The drove's flock is being swapped out, the checkpoint engine holds its Shepherd core, or a restored pass of the flock is not
yet reposted (10 R226). -/
def heldFlock (s : State) (d : Drove) : Bool :=
  (flockOf s d.flock).any (fun f => f.swapDue.isSome) || (d.shepherd && s.dev.ckpt.isSome) ||
    s.eng.passes.any fun p => p.flock == d.flock && !p.posted

/-- A wait that is looked at again from time to time; the others end by events of their own. -/
def polled (s : State) (d : Drove) : Bool :=
  match d.cond with
  | .waiting .probe | .waiting .command | .waiting .turn | .waiting (.write _ _) | .waiting (.regang _) | .waiting .record => false
  | .waiting (.push n _) => (!(d.passive && d.wakeAt.isNone) && (pushReady s d).isNone) || (flockOf s d.flock).any fun f => (chuteOf f n).closed
  | .waiting _ => true
  | _ => false

/-- A park keeps the drove from going on. One that waits in `exit` goes on past the parked rows of its `tld`s, which the exit
then cancels (05 R118); a parked load holds it (assumption log 30). -/
def held (s : State) (d : Drove) : Bool :=
  isParked s d.uid && !(d.cond == .waiting .ending && s.sch.parks.all fun p => p.drove != d.uid || !p.blocks || p.kind == 4)

/-- The drove may issue, as far as it is concerned itself. -/
def free (s : State) (d : Drove) : Bool := !held s d && d.csumPc.isNone && !mustStop s d

/-- A drove inside a flock that is to be saved goes on with what it has begun, and no further. -/
def mayRun (s : State) (d : Drove) : Bool :=
  free s d && (!heldFlock s d || midway d) && (d.cond == .ready || polled s d)

/-- The drove has been ready for 128 cycles without issuing (16 R354). -/
def isPromoted (s : State) (d : Drove) : Bool := d.promoted || (d.cond == .ready && decide (128 ≤ s.cycle - d.since))

/-- Of two ready droves, the one that a sub-core issues first (16 R354). -/
def issuesBefore (s : State) (a b : Drove) : Bool :=
  if isPromoted s a != isPromoted s b then isPromoted s a
  else if !isPromoted s a && a.prio != b.prio then decide (b.prio < a.prio)
  else decide (a.since < b.since) || (a.since == b.since && decide (a.droveId.toNat ≤ b.droveId.toNat))

/-- Droves that may issue: of each sub-core the first of its ready ones, and those whose waits are looked at again. -/
def droveRuns (s : State) : List Work :=
  let ds := (allDroves s).filter fun d => d.cond != .vacant && d.cond != .exited && d.cond != .stopped && mayRun s d
  let ready := ds.filter fun d => d.cond == .ready
  let first (d : Drove) : Bool := ready.all fun x => x.core != d.core || x.subc != d.subc || x.uid == d.uid || issuesBefore s d x
  (ds.filter fun d => d.cond != .ready || first d).map fun d => .run d.uid

/-- The drove waits with an instruction that has not issued (01 R39). -/
def unissued (d : Drove) : Bool :=
  match d.cond with
  | .waiting (.reg _ _) | .waiting .mask | .waiting .entry | .waiting .drain | .waiting .returns | .waiting (.barrier _)
  | .waiting (.push _ _) | .waiting .table | .waiting .link | .waiting (.object _ _) | .waiting .wide => true
  | _ => false

/-- Were the drove's wait over, another ready drove of its sub-core would issue before it (16 R354). -/
def overtaken (s : State) (d : Drove) : Bool :=
  unissued d && (allDroves s).any fun x => x.uid != d.uid && x.core == d.core && x.subc == d.subc && x.cond == .ready && mayRun s x &&
    issuesBefore s x { d with cond := .ready, since := s.cycle }

/-- Work of a drove besides its instructions. -/
def droveWork (s : State) (d : Drove) : List Work :=
  let u := d.uid
  let ready := d.cond == .ready
  (match d.cond with
    | .waiting (.write n x) => [.ev (writeRow s d n x)]
    | .waiting .link => evIf (!isParked s u) (.linkStackSpillFill u)
    | .waiting (.regang t) => evIf (decide (64 ≤ s.cycle - t) && free s d) (.regangTimeout u)
    | .waiting (.yield t) => evIf (decide (256 ≤ s.cycle - t) && free s d) (.yieldTimeout u)
    | .waiting (.push _ _) =>
      if (pushReady s d).isSome && free s d && (!d.passive || d.wakeAt.isSome) then [if overtaken s d then .run u else .ev (.chutePushRoom u)] else []
    | .waiting .record => if d.stopDue.isSome && !frecBusy s d then [.run u] else []
    | _ => []) ++
  evIf (ready && !d.promoted && decide (128 ≤ s.cycle - d.since)) (.drovePromote u) ++
  evIf (d.csumPc.isSome && d.cond == .ready && csumOpen s d && !isParked s u && !heldFlock s d && !mustStop s d) (.barrierChecksum u) ++
  evIf (d.passive && d.wakeAt.isSome) (.passiveWake u) ++
  evIf (turnReady s d && if d.csumPc.isSome then !mustStop s d else free s d) (.bellwetherTurn u) ++
  evIf (d.haltReq && stoppable s d && (breakpoint { s with dr := d }).isNone) (.dbgcmdHalt u) ++
  (if d.haltReq && stoppable s d && (breakpoint { s with dr := d }).isSome then [.run u] else [])

/-- Work of the fault table (17 R367, R368). -/
def parkWork (s : State) (p : Park) : List Work :=
  evIf (p.slot.isNone && p.svc == 1 && (p.cause != 0x12 || p.kind == 10) && ((ftFree s p.ctx).isSome || !p.counted)) (.faultTableEntryWrite p.id) ++
  evIf (entryFreed s p) (.faultTableEntryWrite p.id) ++ evIf (p.svc == 3 && (droveOf s p.drove).any fun d => stoppable s d && !leaving s d) (.parkDelivery p.id) ++
  evIf (p.cause == 0x12 && p.svc == 1) (.pageExpansionComplete p.ctx.toNat (localOf s p.va))

/-- Work of launches and contexts (16 R347-R353, 17 R375). -/
def launchWork (s : State) : List Work :=
  ((List.range 64).flatMap fun q => evIf (queueEntry s q).isSome (.launchQueueEntryTake q)) ++
  (s.sch.ranges.flatMap fun r => evIf (r.held == 0 && decide (r.nextFlock < r.flocks) && (entry s false r.uid).isSome) (.flockAdmit r.uid) ++
    evIf (rangeDone s r) (.rangeComplete r.uid)) ++
  (s.sch.saved.flatMap fun v => evIf (if v.flock.shepherd then v.ready && coreFree s v.flock.core && s.dev.ckpt.isNone
    else v.ready && (entry s true v.id).isSome) (.flockResume v.id)) ++
  (List.range s.sch.events.length).flatMap fun k => evIf ((postable s k).any fun e => tryPost s e != .full) (.deviceEventPost k)

/-- Work of virtual caches (14 R318-R322). -/
def vcWork (s : State) : List Work :=
  (s.vc.cdrs.flatMap fun c => if c.state = 2 || c.state = 3 then
      ((List.range 4).flatMap fun d => evIf (sweepLeft s c d) (.vcSweepSet c.id d)) ++
      evIf (c.state == 2 && sweptOut s c) (.vcMigrationComplete c.id) ++ evIf (c.state == 3 && sweptOut s c) (.vcFreeComplete c.id)
    else []) ++
  s.vc.retiring.flatMap fun r => evIf (r.stage != 0 && ownerOf s r.share == 0) (.shareRetireComplete r.share)

/-- Work of the module as a whole (18 R380, R397, R403, 19 R417-R421). -/
def moduleWork (s : State) : List Work :=
  ((List.range linkCount).flatMap fun l =>
    evIf (!retraining s l && decide (64 ≤ (recentResends s l).length)) (.linkRetrain l) ++ evIf (retraining s l) (.linkRetrainEnd l)) ++
  evIf (s.dev.profCur != s.dev.profReq) .profileChangeTakesEffect ++
  evIf (decide (minuteCycles ≤ s.cycle - s.dev.committed)) .fieldRecordCommit ++
  ((List.range 4).flatMap fun d => evIf (dueSync s d).isSome (.traceForcedSync d) ++
    evIf ((streamOf s d).dropped != 0) (.traceLoss d)) ++
  (if s.dev.ckpt.isSome && quiesced s then [.ev (.checkpointStreamEnd true), .ev (.checkpointStreamEnd false)] else []) ++
  evIf (privReg s 0xE0 |>.getLsbD 0) .emptyIssueSlot

/-- A row that comes from outside the module: the host, other devices, errors and the supply (18 R393). -/
def isInput : Instr → Bool
  | .hrd _ | .hrdx _ _ _ | .hwr _ _ _ | .hwb _ | .launchQueueDoorbell _ _ | .peerAccessRequest _ | .route10Ack _ _ _
  | .collPhase0Packet _ | .collDataPacket _ | .collResultPacket _ | .collCancelPacket _ | .switchCombine _ _ _
  | .correctedError _ | .uncorrectableError _ _ | .directoryEntryUe _ | .attestRequest _ | .notifyClear _ | .frdataRead
  | .moduleReset | .recoveryImageWrite _ | .thermalClockStep _ | .flitCrcFail _ | .portDown _ | .portTrained _ | .powerLoss => true
  | .ckptSave c _ | .ckptRestore c _ => c == 0
  | _ => false

/-- The port that a packet of the fabric comes by: that of its line, and for a collective's the sender stands for it (18 R378, R383). -/
def portIn (s : State) : Instr → Nat
  | .peerAccessRequest (.incoming dev _ c va _ _) =>
    let c := BitVec.ofNat 16 c
    ((leafAt s c (bits va 51 50 * 2 ^ 60 + bits va 49 0)).bind fun l => portFor s c dev l.dpa).getD (12 + dev)
  | .collPhase0Packet p | .collDataPacket p | .collResultPacket p | .collCancelPacket p | .switchCombine _ _ p => p.srcDev
  | _ => 0

/-- The classes of traffic that inputs come by, with the port (18 R378): 0 the host's requests, 1 its management reads, 2 the requests
of peers, 3 the host adapter's answers, 4 collectives, 5 the answers of peers, 6 what no link carries. -/
def inputClass : Instr → Nat
  | .hrd _ | .hrdx _ _ _ | .hwr _ _ _ | .hwb _ | .launchQueueDoorbell _ _ | .attestRequest _ | .notifyClear _ | .ckptSave _ _
  | .ckptRestore _ _ => 0
  | .frdataRead => 1
  | .peerAccessRequest (.incoming _ _ _ _ _ _) => 2
  | .route10Ack _ _ _ => 3
  | .collPhase0Packet _ | .collDataPacket _ | .collResultPacket _ | .collCancelPacket _ | .switchCombine _ _ _ => 4
  | .peerAccessRequest (.outgoing _ _ _ _) => 5
  | _ => 6

/-- The way that an input comes by: packets of one way keep their order. -/
def inputWay (s : State) (i : Instr) : Nat × Nat := (inputClass i, portIn s i)

/-- The host's requests that wait at their homes (15 R328). -/
def hostAtHome (s : State) : List Asker :=
  (s.coh.dir.flatMap fun e => (if e.st == .t then e.cause.toList else []) ++ e.queue) ++ s.coh.refused

/-- A write of the host, to granule `g` if one is given, is not yet performed at its home. -/
def hostWrites (s : State) (g : Option Nat) : Bool :=
  (hostAtHome s).any fun a => match a with
    | .host op dpa _ _ _ => op != 0 && (g.isNone || g == some (granOf dpa))
    | _ => false

/-- What an input of the host's waits for (16 R347, 18 R395): writes are performed in order, no read passes a write to its
granule, and no doorbell a write. -/
def behindWrites (s : State) (i : Instr) : Bool :=
  match i with
  | .hrd a => hostWrites s (some (granOf a))
  | .hrdx _ _ _ | .hwr _ _ _ | .hwb _ | .launchQueueDoorbell _ _ | .attestRequest _ | .ckptSave _ _ | .ckptRestore _ _ => hostWrites s none
  | _ => false

/-- An input that a checkpoint holds (18 R397). -/
def heldByCkpt (s : State) (i : Instr) : Bool :=
  match i with
  | .hrd _ | .hrdx _ _ _ | .hwr _ _ _ | .hwb _ | .peerAccessRequest _ | .collPhase0Packet _ | .collDataPacket _ | .collResultPacket _
  | .collCancelPacket _ | .switchCombine _ _ _ => s.dev.ckpt.isSome
  | i => (inputClass i == 0 || inputClass i == 3) && bulkMode s

/-- The input waits for a retrain of the link that it comes over (18 R380). -/
def heldByLink (s : State) (i : Instr) : Bool :=
  let packet (p : CollPacket) : Bool := p.srcDev != fabid s && portsHeld s (BitVec.ofNat 16 p.ctx) p.srcDev
  match i with
  | .peerAccessRequest (.incoming dev _ c va _ _) =>
    let c := BitVec.ofNat 16 c
    (leafAt s c (bits va 51 50 * 2 ^ 60 + bits va 49 0)).any fun l => portHeld s c dev l.dpa
  | .collPhase0Packet p | .collDataPacket p | .collResultPacket p | .collCancelPacket p | .switchCombine _ _ p => packet p
  | i => retraining s 18 && (inputClass i == 0 || inputClass i == 1 || inputClass i == 3)

/-- A switch's parent waits for a member whose phase 0 is agreed; a read of FRDATA for the accesses to the window before it. -/
def inputWaits (s : State) (i : Instr) : Bool :=
  match i with
  | .switchCombine _ _ p => (switchMember s p).isNone
  | .frdataRead => !s.dev.mgmt.isEmpty
  | _ => false

/-- The input may be taken now. -/
def inputOpen (s : State) (i : Instr) : Bool := isInput i && !behindWrites s i && !heldByCkpt s i && !heldByLink s i && !inputWaits s i

/-- Inputs that the module takes while it does not run its firmware (18 R400). -/
def bootInput : Instr → Bool
  | .moduleReset | .recoveryImageWrite _ | .powerLoss => true
  | _ => false

/-- The oldest input of each way, when it may be taken; one that is no input is passed over (18 R379, R395: the host's requests
keep their order, and management passes them). -/
def inputWork (s : State) : List Work :=
  ((s.inbox.zipIdx.filter fun x => isInput x.1 && inputOpen s x.1 &&
    !(s.inbox.take x.2).any fun i => isInput i && inputWay s i == inputWay s x.1).map fun x => .input x.1) ++
  if s.dev.mgmt.isEmpty || retraining s 18 then [] else [.mgmt]

/-- Everything that may happen next. Before the boot there is only the boot; a module whose firmware was refused takes
recovery images alone (18 R399, R400). -/
def enabled (s : State) : List Work :=
  match s.dev.bootState with
  | 0 => [.ev .moduleReset]
  | 1 =>
    let ws := inputWork s ++ droveRuns s ++ (allDroves s).flatMap (droveWork s) ++ s.reqs.flatMap (reqWork s) ++ s.coh.dir.flatMap (dirWork s) ++
      refusedWork s ++ cacheWork s ++ engineWork s ++ collWork s ++ ((allFlocks s).filter fun f => f.uid != 0).flatMap (flockWork s) ++ s.sch.parks.flatMap (parkWork s) ++
      launchWork s ++ vcWork s ++ moduleWork s
    ws ++ lapsedWork s ws
  | _ => ((s.inbox.filter bootInput).take 1).map .input

/-- One of several by a free choice; of one, that one. -/
def choose (s : State) (ws : List Work) : Option Work × State :=
  match ws with
  | [] => (none, s)
  | [w] => (some w, s)
  | _ =>
    let (k, s) := draw s
    (ws[k % ws.length]?, s)

/-- Time passes: one cycle or more (assumption log 3). -/
def passTime (s : State) : State :=
  let (k, s) := draw s
  { s with cycle := s.cycle + 1 + k, slots := [] }

/-- A slot of the drove's sub-core may issue in the cycle of the last one: its sub-core has issued none in it, and no drove of its
die with a DROVEID that is not lower (16 R354, 19 R436). -/
def sameCycle (s : State) (d : Drove) : Bool :=
  s.slots.all fun x => !(x.1 == d.core && x.2.1 == d.subc) && (dieOfCore x.1 != dieOfCore d.core || decide (x.2.2 < d.droveId.toNat))

/-- Time passes up to the next issue slot, of drove `d`: none, where the slot may fall into the same cycle (assumption log 3). -/
def slotTime (s : State) (d : Drove) : State :=
  let (k, s) := draw s
  let n := if sameCycle s d then k else k + 1
  { s with cycle := s.cycle + n, slots := (d.core, d.subc, d.droveId.toNat) :: if n = 0 then s.slots else [] }

/-- What is performed next. -/
inductive Todo where
  /-- A drove that waits with an instruction looks whether it may go; if so, it is ready from now on (16 R354). -/
  | look (i : Instr)
  /-- A row of the opcode table with its operands: an instruction, or an input. -/
  | row (i : Instr)
  /-- A step of the device's own. -/
  | event (e : Event)
  /-- Nothing more: a stop has taken the place of the instruction (17 R364, 19 R410), or what was to happen is the model's own. -/
  | settled
  deriving DecidableEq, Repr

/-- THE SLOT of the drove `u`, which the scheduler has chosen: the gang that it issues in begins with its drove of lowest
DROVEID. A stop that waited for its fault record is taken first, then that of a breakpoint (17 R364, 19 R410); a drove that waits
issues alone. -/
def nextOf (s : State) (u : Nat) : State × Todo :=
  let s := chooseGang (select s u)
  let s := select s (gangHead s)
  let s := slotTime s s.dr
  match s.dr.stopDue, breakpoint s with
  | some i, _ => (takeStop s i, .settled)
  | none, some n => (breakStop s n, .settled)
  | none, none =>
    let late := overtaken s s.dr
    let (i, s) := nextInstr s
    ({ s with slot := some (if s.dr.help then .qhelp else i), due := [] }, if late then .look i else .row i)

/-- The other droves of a gang issue the instruction of the slot under way (01 R15): the next of them goes. -/
def nextDue (s : State) : Option (State × Instr) :=
  match s.due, s.slot with
  | u :: us, some i => some (onDr (select { s with due := us } u) fun d => { d with gangDue := true }, i)
  | _, _ => none

/-- The state in which `w` is the work under way. -/
def onWork (s : State) (w : Work) : State := { s with who := some w }

/-- The work is done with: it waits in no queue. -/
def leaveQueues (s : State) (w : Work) : State :=
  if s.coh.dir.any fun e => e.queue.contains (.own w) then
    { s with coh := { s.coh with dir := (s.coh.dir.map fun e => { e with queue := e.queue.filter (· != .own w) }).filter fun e =>
      !(e.st == .i && e.queue.isEmpty) } }
  else s

/-- A step that the home of one of the device's own writes could not take is not taken (15 R328): `s` is the state before it, but
for time up to `cycle` and the choices made up to `fresh`; the slot is over. -/
def backOff (s : State) (cycle fresh : Nat) : State :=
  { onDr s fun d => { d with gangDue := false } with cycle := cycle, fresh := fresh, port := false, met := none, slot := none, due := [] }

/-- The work `w` waits in the queue of granule `g`, and in no other, for its turn (15 R328). -/
def waitFor (s : State) (g : Nat) (w : Work) : State :=
  let s := leaveQueues s w
  let e := dirOf s g
  if 8 ≤ e.queue.length then s else setDir s { e with queue := e.queue ++ [.own w] }

/-- WHAT GOES NEXT, and the state in which it is performed: the rest of an issue slot; the epoch ticks and flushes that are due,
at no time of their own; else a free choice among all that is enabled. -/
def nextWork (s : State) : State × Todo :=
  if s.port then
    let (i, s) := nextInstr { s with port := false }
    (onWork s (.run s.dr.uid), .row i)
  else
    match nextDue s with
    | some (s, i) => (onWork s (.run s.dr.uid), .row i)
    | none =>
    match choose s (if s.dev.bootState = 1 then ticksDue s else []) with
    | (some (.ev e), s) => (onWork s (.ev e), .event e)
    | _ =>
    match choose s (enabled s) with
    | (none, s) => (passTime s, .event .emptyIssueSlot)
    | (some (.ev e), s) => (onWork (passTime s) (.ev e), .event e)
    | (some (.input i), s) =>
      let s := passTime s
      (onWork { s with inbox := s.inbox.erase i } (.input i), .row i)
    | (some (.run u), s) => nextOf (onWork s (.run u)) u
    | (some .send, s) => (flushUnsent (passTime s), .settled)
    | (some .mgmt, s) =>
      let r := s.dev.mgmt.head?
      let s := takeMgmt (passTime s)
      if r = some .readFrdata then (s, .row .frdataRead) else (s, .settled)

/-- The DPA at which the drove at the port fetches its next word, if it can. -/
def fetchDpa (s : State) : Option Nat :=
  if s.dr.cond != .ready then none
  else
    match (dieAccess s s.dr.ctx s.dr.pc.toNat .fetch true).1 with
    | .inl l => some l.dpa
    | .inr _ => none

/-- `s` with a drove at the port that can fetch (assumption log 11). -/
def portDrove (s : State) : State := if (fetchDpa s).isSome then s else placed s

/-- The word at the drove's next fetch, which is the next thing to happen. -/
def placeWord (s : State) (w : Nat) : State :=
  let a := (fetchDpa s).getD 0x100000
  let s := onHbm (recallAll s (granOf a)) fun m => memWrite m a 4 w
  let x : ILine := { ctx := s.dr.ctx, va := granOf s.dr.pc.toNat, data := gOf (homeBytes s (granOf a) 128) }
  let s := onCore s s.dr.core fun c => { c with icache := [x] }
  { onDr s fun d => { d with brkSkip := true, micro := none, help := false } with port := true }

end Sys2Proof.Machine
end

