-- ==== Sys2Proof/Machine/Perform.lean ====
section
/-! DEFINITION. The device's own steps, performed. `exec` of the same row is the same thing (Laws/Perform.lean); the steps are
named apart because the compiled form of a constructor numbered above 244 cannot be built at run time. -/

namespace Sys2Proof.Machine

/-- The row of the opcode table that an event is, performed by the row's own meaning. -/
def perform (e : Event) (s : State) : Host.Outcome State Fault Refusal :=
  match e with
  | .loadReturn r => execLoadReturn r s
  | .slowSysrdReturn r => execSlowSysrdReturn r s
  | .loadLaneFault r => execLoadLaneFault r s
  | .storeAck r => execStoreAck r s
  | .storeLaneFault r => execStoreLaneFault r s
  | .linkStackSpillFill d => execLinkStackSpillFill d s
  | .owningDieAccess r j => execOwningDieAccess r j s
  | .atomicProbeResult r => execAtomicProbeResult r s
  | .atomicReturn r => execAtomicReturn r s
  | .catomLowUpdate r j => execCatomLowUpdate r j s
  | .scratchpadBankAccess r j => execScratchpadBankAccess r j s
  | .pageExpansionComplete ctx va => execPageExpansionComplete ctx va s
  | .homeOLoadMiss r j => execHomeOLoadMiss r j s
  | .homeILoadMiss r j => execHomeILoadMiss r j s
  | .homeSLoadMiss r j => execHomeSLoadMiss r j s
  | .homeWLoad r j => execHomeWLoad r j s
  | .homeOwnershipRequest r j => execHomeOwnershipRequest r j s
  | .homeWriteThrough r j => execHomeWriteThrough r j s
  | .homeAtomic r j => execHomeAtomic r j s
  | .ownerWmaskAccess r j => execOwnerWmaskAccess r j s
  | .ownerWriteBack core g => execOwnerWriteBack core g s
  | .ownerVwbWriteBack core g => execOwnerVwbWriteBack core g s
  | .recallToShared g => execRecallToShared g s
  | .recall g => execRecall g s
  | .claim g => execClaim g s
  | .invalidate g holder => execInvalidate g holder s
  | .update g die => execUpdate g die s
  | .directoryTComplete g => execDirectoryTComplete g s
  | .requestRefusedResend r j => execRequestRefusedResend r j s
  | .replicaLineLeave g die => execReplicaLineLeave g die s
  | .hostCleanDrop g => execHostCleanDrop g s
  | .peerAccessRequest x => execPeerAccessRequest x s
  | .route10Ack r j hostWrites => execRoute10Ack r j hostWrites s
  | .epochTick core => execEpochTick core s
  | .retentionSleepEnter core => execRetentionSleepEnter core s
  | .retentionWake core => execRetentionWake core s
  | .matrixGrant pad k => execMatrixGrant pad k s
  | .passComplete pad k => execPassComplete pad k s
  | .reservationAging pad k => execReservationAging pad k s
  | .tileOpComplete k => execTileOpComplete k s
  | .tldRowFault r => execTldRowFault r s
  | .barrierChecksum d => execBarrierChecksum d s
  | .wideBarrierArrival f => execWideBarrierArrival f s
  | .asyncObjectArrival k => execAsyncObjectArrival k s
  | .chutePopServed f n => execChutePopServed f n s
  | .chutePushRoom d => execChutePushRoom d s
  | .copyComplete k => execCopyComplete k s
  | .copyFault k => execCopyFault k s
  | .collPhase0Packet p => execCollPhase0Packet p s
  | .collDataPacket p => execCollDataPacket p s
  | .collResultPacket p => execCollResultPacket p s
  | .collCancelPacket p => execCollCancelPacket p s
  | .reduceFlockDispatch c level node chunk => execReduceFlockDispatch c level node chunk s
  | .collGroupTableFault c => execCollGroupTableFault c s
  | .bellwetherTurn d => execBellwetherTurn d s
  | .passiveWake d => execPassiveWake d s
  | .deviceEventPost k => execDeviceEventPost k s
  | .launchQueueEntryTake q => execLaunchQueueEntryTake q s
  | .flockAdmit g => execFlockAdmit g s
  | .rangeComplete g => execRangeComplete g s
  | .drovePromote d => execDrovePromote d s
  | .regangTimeout d => execRegangTimeout d s
  | .yieldTimeout d => execYieldTimeout d s
  | .budgetExpiry f => execBudgetExpiry f s
  | .watchdogExpiry f => execWatchdogExpiry f s
  | .slowFaultSwapout f => execSlowFaultSwapout f s
  | .mxmodeApply pad => execMxmodeApply pad s
  | .faultTableEntryWrite k => execFaultTableEntryWrite k s
  | .parkDelivery k => execParkDelivery k s
  | .swapOut f => execSwapOut f s
  | .flockResume k => execFlockResume k s
  | .dbgcmdHalt d => execDbgcmdHalt d s
  | .mapcmdMap c => execMapcmdMap c s
  | .mapcmdUnmap c => execMapcmdUnmap c s
  | .mapcmdCompress c => execMapcmdCompress c s
  | .mapcmdClearAccessed c => execMapcmdClearAccessed c s
  | .mapcmdQuery c => execMapcmdQuery c s
  | .xtcrBind c => execXtcrBind c s
  | .sramwinWrite c => execSramwinWrite c s
  | .czoneWrite c => execCzoneWrite c s
  | .vcDefine c => execVcDefine c s
  | .vcResize c => execVcResize c s
  | .vcMove c => execVcMove c s
  | .vcFree c => execVcFree c s
  | .vcRead c => execVcRead c s
  | .vcModify c => execVcModify c s
  | .vcRetireShare c => execVcRetireShare c s
  | .vcShareMap c => execVcShareMap c s
  | .vcSweepSet vc die => execVcSweepSet vc die s
  | .vcMigrationComplete vc => execVcMigrationComplete vc s
  | .vcFreeComplete vc => execVcFreeComplete vc s
  | .shareRetireComplete share => execShareRetireComplete share s
  | .aetclrWrite c => execAetclrWrite c s
  | .csbaddrWrite c => execCsbaddrWrite c s
  | .freplyReplay c => execFreplyReplay c s
  | .freplyDeliver c => execFreplyDeliver c s
  | .ctxPreempt c => execCtxPreempt c s
  | .ctxResume c => execCtxResume c s
  | .ctxTerminate c => execCtxTerminate c s
  | .ctxPlaceShepherd c => execCtxPlaceShepherd c s
  | .lqcfgWrite c => execLqcfgWrite c s
  | .mxmodeWrite c => execMxmodeWrite c s
  | .dbgcmdWrite c => execDbgcmdWrite c s
  | .lcctlClr c => execLcctlClr c s
  | .pwrprofWrite c => execPwrprofWrite c s
  | .sysregWrite c => execSysregWrite c s
  | .ckptSave c dpa => execCkptSave c dpa s
  | .ckptRestore c dpa => execCkptRestore c dpa s
  | .fieldRecordCommit => execFieldRecordCommit s
  | .moduleReset => execModuleReset s
  | .linkRetrain link => execLinkRetrain link s
  | .traceBrFlush die => execTraceBrFlush die s
  | .traceForcedSync die => execTraceForcedSync die s
  | .traceLoss die => execTraceLoss die s
  | .checkpointStreamEnd ok => execCheckpointStreamEnd ok s
  | .linkRetrainEnd link => execLinkRetrainEnd link s
  | .emptyIssueSlot => execEmptyIssueSlot s
  | .profileChangeTakesEffect => execProfileChangeTakesEffect s

end Sys2Proof.Machine
end

