-- ==== Sys2Proof/Machine/Step.lean ====
section
/-! DEFINITION. One step of the module, and an instruction placed where the next step fetches. -/

namespace Sys2Proof.Machine

/-- A drove that waits looks at its instruction: where it would go on, or stop, it becomes ready instead and takes its place
among the ready droves (16 R354). -/
def look (s : State) (r : Host.Outcome State Fault Refusal) : Host.Outcome State Fault Refusal :=
  match r with
  | .next t => .next <| if unissued t.dr || t.dr.cond == .waiting .turn then t else onDr s fun d => { d with cond := .ready, since := s.cycle }
  | r => r

/-- A step whose work met a granule that its home could not take at once is not taken (15 R328): the state `s` stands, but for time
up to `cycle`; the work `w` waits in the granule's queue, and another free choice comes next. -/
def settle (s : State) (w : Option Work) (cycle : Nat) (r : Host.Outcome State Fault Refusal) : Host.Outcome State Fault Refusal :=
  match r with
  | .next t => .next <|
    match t.met, w with
    | some g, some w => waitFor (backOff s cycle t.fresh) g w
    | some _, none => backOff s cycle t.fresh
    | none, some w => leaveQueues t w
    | none, none => t
  | r => r

/-- What goes next is performed: its one row of the opcode table; a breakpoint's stop takes the place of the instruction
(19 R410). -/
def performTodo (s : State) (w : Todo) : Host.Outcome State Fault Refusal :=
  match w with
  | .row i => exec i s
  | .look i => look s (exec i s)
  | .event e => perform e s
  | .settled => .next s

/-- One step: what goes next is chosen, and performed. -/
def step (s : State) : Host.Outcome State Fault Refusal :=
  let n := nextWork { s with who := none, met := none }
  settle s n.1.who n.1.cycle (performTodo n.1 n.2)

/-- `s` with one instruction word where the next step fetches it. Where no drove at the issue port can fetch, one of
context 0 is placed there first (assumption log 11). -/
def State.withFetchWord (s : State) (nbits w : Nat) : State := placeWord (portDrove s) (if nbits ≤ 32 then w % 2 ^ 32 else 0)

end Sys2Proof.Machine
end

