-- ==== Sys2Proof/Safety.lean ====
section
/-! DEFINITION. The terms in which claims are stated: what an instruction needs to issue, the machine without the records of
observation, and the memories in canonical form. -/

namespace Sys2Proof.Machine

/-- Every register field lies in its allocation, is aligned and names full registers only (01 R22-R28, 03 R86, R87). -/
def fits (s : State) (us : List Use) : Bool :=
  us.all fun u => decide (u.base + u.n ≤ allocOf s.dr u.cls) && u.base % u.align == 0 &&
    (List.range u.n).all fun k => isFull s u.cls (u.base + k)

/-- The D and G registers are full, which a per-lane instruction waits for (01 R20). -/
def masksFull (s : State) : Bool := isFull s .scl (modeD s.dr.mode) && isFull s .scl (modeG s.dr.mode)

/-- A synchronising operation may go on: the range is not deterministic, or the drove has its turn (19 R406, R407). -/
def mayGo (s : State) : Bool := !turnless s.dr

/-- The state in which an instruction takes effect: its issue slots have been recorded, in a gang with siblings that fit, and
the registers that it names are no longer ones that only a pop has filled (01 R15, 19 R412, R415-R417). -/
def issued (fit : Drove → Bool) (s : State) (us : List Use) (slots : Nat := 1) : State := account fit (unpop s us) slots

/-- A drove without what observation records of it: its gangs, its trace, its unread pops. -/
def Drove.bare (d : Drove) : Drove :=
  { d with gang := false, gangDue := false, gangWith := [], parted := [], popped := [], trace := .start }

/-- The machine without the records of an issue (01 R15-R17, 16 R359, 19 R414-R419) and the choice counter: everything else
that it holds. -/
def State.bare (s : State) : State :=
  { s with dr := s.dr.bare, fl := { s.fl with lastIssue := 0 }, droves := s.droves.map Drove.bare, fresh := 0, due := [],
           dev := { s.dev with lanes := [], traces := [] } }

/-- The instruction has changed the drove at the port by `f` and retired, and nothing else: `t` is `s` but for `f`, for PC,
LCLK and the bookkeeping of issue, and for the records of observation. -/
def Becomes (s t : State) (f : Drove → Drove) : Prop := t.bare = (retire (onDr s f)).bare

/-- The instruction runs and does exactly `f` to its drove. -/
def Does (i : Instr) (s : State) (f : Drove → Drove) : Prop := ∃ t, exec i s = .next t ∧ Becomes s t f

/-- `exec` answers the next state `t`. -/
def Answers (i : Instr) (s t : State) : Prop := exec i s = .next t

/-- Lane `l` of the drove is active (01 R18). -/
def isActive (d : Drove) (l : Nat) : Bool := decide (l < d.width) && (activeMask d).getLsbD l

/-- Some active lane raises flag `k` (01 R35). -/
def raisedIn (d : Drove) (f : Nat → LaneOut) (k : Nat) : Bool :=
  (List.range 64).any fun l => isActive d l && (f l).fl.getLsbD k

/-- Some active lane saturates (01 R36). -/
def satIn (d : Drove) (f : Nat → LaneOut) : Bool := (List.range 64).any fun l => isActive d l && (f l).sat

/-- `d'` is `d` with word `i` of every participating lane in register number `i` of `dsts`, and with the flags and the
saturation of the active lanes added to the sticky bits; every other lane, register, flag and field is that of `d`
(01 R19, 06 R125-R128). -/
def LanesInto (d d' : Drove) (dsts : List Nat) (f : Nat → LaneOut) : Prop :=
  (∀ n, n ∉ dsts → vreg d' n = vreg d n) ∧
  (∀ i n l, dsts[i]? = some n → n < 128 → l < 64 →
    vlane d' n l = if takesPart d l then (f l).words.getD i 0 else vlane d n l) ∧
  (∀ k, k < 5 → d'.flags.getLsbD k = (d.flags.getLsbD k || raisedIn d f k)) ∧
  d'.satd = (d.satd || satIn d f) ∧
  d' = { d with v := d'.v, flags := d'.flags, satd := d'.satd }

/-- The vector instruction runs: with no active lane it only retires, else its lanes go into `dsts`. -/
def VecDoes (i : Instr) (s : State) (dsts : List Nat) (f : Nat → LaneOut) : Prop :=
  ∃ d', (activeMask s.dr = 0 → d' = s.dr) ∧ (activeMask s.dr ≠ 0 → LanesInto s.dr d' dsts f) ∧ Does i s fun _ => d'

/-- A vector instruction may take effect: its registers and masks are full, its types are accepted, and no active lane
meets an invalid operation that FEX would stop (01 R20, R28, 06 R127). -/
def vecReady (s : State) (us : List Use) (typ : Bool) (f : Nat → LaneOut) : Bool :=
  fits s us && masksFull s && typ && !(modeFEX s.dr.mode && raisedIn s.dr f 0)

/-- Some lane that is compared raises flag `k`. -/
def cmpRaised (d : Drove) (f : Nat → Bool × Fl) (k : Nat) : Bool :=
  (List.range 64).any fun l => (activeMask d).getLsbD l && (f l).2.getLsbD k

/-- `d'` is `d` with bit L of S[sd] set for each active lane L that satisfies `f`, every other bit of it 0, and with the
flags of the active lanes added to the sticky ones (06 R132, R142); a write to s0 is discarded (01 R24). -/
def MaskInto (d d' : Drove) (sd : Nat) (f : Nat → Bool × Fl) : Prop :=
  ∃ m : W64, (∀ l, l < 64 → m.getLsbD l = ((activeMask d).getLsbD l && (f l).1)) ∧
    d' = { setS d sd m with flags := d'.flags } ∧ ∀ k, k < 5 → d'.flags.getLsbD k = (d.flags.getLsbD k || cmpRaised d f k)

/-- The compare runs: with no active lane it only retires. -/
def CmpDoes (i : Instr) (s : State) (sd : Nat) (f : Nat → Bool × Fl) : Prop :=
  ∃ d', (activeMask s.dr = 0 → d' = s.dr) ∧ (activeMask s.dr ≠ 0 → MaskInto s.dr d' sd f) ∧ Does i s fun _ => d'

/-- A compare may take effect. -/
def cmpReady (s : State) (us : List Use) (typ : Bool) (f : Nat → Bool × Fl) : Bool :=
  fits s us && masksFull s && typ && !(modeFEX s.dr.mode && cmpRaised s.dr f 0)

/-- The five memories are in canonical form (assumption log 1). -/
def Mems.wf (m : Mems) : Bool := m.hbm.wf && m.spad.wf && m.host.wf && m.peer.wf && m.safe.wf

/-- The instruction changes the drove by `f` and retires to `pc`; nothing else changes. -/
def Goes (i : Instr) (s : State) (pc : W64) (f : Drove → Drove) : Prop :=
  ∃ t, exec i s = .next t ∧ t.bare = (retireAt (onDr s f) pc).bare

/-- The instruction stops precisely with a cause, its INFO and its address (03 R88). -/
def Stops (i : Instr) (s : State) (cause : BitVec 8) (info addr : Nat) : Prop := exec i s = .next (stopIssue s cause info addr)

/-- The instruction does not issue: its drove waits before it. `dog` says that the watchdog counts the wait (16 R359). -/
def Waits (i : Instr) (s : State) (w : Wait) (dog : Bool := false) : Prop := exec i s = .next (hold s w dog)

/-- Scalar forms with two sources and what they leave in S[sd], from S[sa], S[sb] and the old S[sd] (05 R111). -/
def scalarThree : List ((BitVec 6 → BitVec 6 → BitVec 6 → Bool → Bool → Bool → Instr) × (W64 → W64 → W64 → W64)) :=
  [(.sadd, fun a b _ => a + b), (.ssub, fun a b _ => a - b), (.smul, fun a b _ => a * b),
   (.smulh, fun a b _ => BitVec.ofInt 64 (a.toInt * b.toInt / 2 ^ 64)),
   (.smulhn, fun a b _ => BitVec.ofNat 64 (a.toNat * b.toNat / 2 ^ 64)),
   (.sand, fun a b _ => a &&& b), (.sor, fun a b _ => a ||| b), (.sxor, fun a b _ => a ^^^ b), (.sandn, fun a b _ => a &&& ~~~b),
   (.sshl, fun a b _ => a <<< (b.toNat % 64)), (.sshr, fun a b _ => a >>> (b.toNat % 64)),
   (.ssra, fun a b _ => a.sshiftRight (b.toNat % 64)),
   (.smin, fun a b _ => if a.toInt ≤ b.toInt then a else b), (.smax, fun a b _ => if b.toInt ≤ a.toInt then a else b),
   (.sminn, fun a b _ => if a.toNat ≤ b.toNat then a else b), (.smaxn, fun a b _ => if b.toNat ≤ a.toNat then a else b),
   (.seq, fun a b _ => if a = b then BitVec.allOnes 64 else 0),
   (.slt, fun a b _ => if a.toInt < b.toInt then BitVec.allOnes 64 else 0),
   (.sltn, fun a b _ => if a.toNat < b.toNat then BitVec.allOnes 64 else 0),
   (.ssel, fun a b m => (a &&& m) ||| (b &&& ~~~m))]

/-- Scalar forms with one source (05 R111). -/
def scalarTwo : List ((BitVec 6 → BitVec 6 → Bool → Bool → Instr) × (W64 → W64)) :=
  [(.sclz, fun a => BitVec.ofNat 64 (clz 64 a.toNat)), (.spop, fun a => BitVec.ofNat 64 (popcount 64 a.toNat)),
   (.sbrev, fun a => BitVec.ofNat 64 (bitReverse 64 a.toNat)), (.smov, fun a => a)]

/-- Immediate forms with imm12, sign-extended to 64 bits (05 R112). -/
def scalarImms : List ((BitVec 6 → BitVec 6 → BitVec 12 → Instr) × (W64 → W64 → W64)) :=
  [(.saddi, fun a x => a + x), (.sandi, fun a x => a &&& x), (.sori, fun a x => a ||| x), (.sxori, fun a x => a ^^^ x),
   (.seqi, fun a x => if a = x then BitVec.allOnes 64 else 0),
   (.slti, fun a x => if a.toInt < x.toInt then BitVec.allOnes 64 else 0)]

/-- Immediate shifts, by 0 to 63 (05 R112). -/
def scalarShifts : List ((BitVec 6 → BitVec 6 → BitVec 6 → Instr) × (W64 → Nat → W64)) :=
  [(.sshli, fun a n => a <<< n), (.sshri, fun a n => a >>> n), (.ssrai, fun a n => a.sshiftRight n)]

/-- A vector form on given operands: its instruction, its register fields, whether its types are accepted, its destination
registers, and what each lane puts there. -/
structure VecForm where
  i    : Instr
  us   : List Use
  typ  : Bool
  dsts : List Nat
  f    : Nat → LaneOut

/-- The form may take effect, and does so. -/
def VecForm.Runs (s : State) (v : VecForm) : Prop := vecReady s v.us v.typ v.f = true → VecDoes v.i s v.dsts v.f

/-- Its registers, masks and types are as the form needs them, FEX is 1 and an active lane raises NV. -/
def VecForm.invalid (s : State) (v : VecForm) : Bool :=
  fits s v.us && masksFull s && v.typ && modeFEX s.dr.mode && raisedIn s.dr v.f 0

/-- A compare on given operands. -/
structure CmpForm where
  i   : Instr
  us  : List Use
  typ : Bool
  f   : Nat → Bool × Fl

def CmpForm.Runs (s : State) (d : BitVec 6) (v : CmpForm) : Prop := cmpReady s v.us v.typ v.f = true → CmpDoes v.i s d.toNat v.f

/-- Its registers, masks and types are as the compare needs them, FEX is 1 and an active lane raises NV. -/
def CmpForm.invalid (s : State) (v : CmpForm) : Bool :=
  fits s v.us && masksFull s && v.typ && modeFEX s.dr.mode && cmpRaised s.dr v.f 0

/-- Element type, format and environment that MODE gives. -/
def etOf (s : State) : Nat := modeET s.dr.mode
def stOf (s : State) : Nat := modeST s.dr.mode
def envOf (s : State) : Fenv := fenvOf s.dr.mode (etOf s)

/-- Element `j` of lane `l` of register `n`: its bits, its integer value, and as a floating-point operand. -/
def elemOf (s : State) (n : BitVec 7) (l j : Nat) : Nat := elemAt (elemWidth (etOf s)) (vlane s.dr n.toNat l) j
def intOf (s : State) (n : BitVec 7) (l j : Nat) : Int := intVal (etOf s) (elemOf s n l j)
def fpOf (s : State) (n : BitVec 7) (l j : Nat) : FV := fpElem s.dr (etOf s) n.toNat l j

/-- Register fields of a form with sources a and b, or a alone. -/
def uses3 (d a b : BitVec 7) : List Use := [srcV a.toNat, srcV b.toNat, dstV d.toNat]
def uses2 (d a : BitVec 7) : List Use := [srcV a.toNat, dstV d.toNat]

/-- Integer arithmetic (06 R129). -/
def intForms (s : State) (d a b : BitVec 7) (ea eb ed : Bool) : List VecForm :=
  let lane (f : Nat → Nat → Int) (l : Nat) : LaneOut := elemLane (etOf s) fun j => ofInt (etOf s) s.dr.mode (f l j)
  let two (i : Instr) (f : Int → Int → Int) : VecForm :=
    { i := i, us := uses3 d a b, typ := isI (etOf s), dsts := [d.toNat], f := lane fun l j => f (intOf s a l j) (intOf s b l j) }
  let one (i : Instr) (ok : Bool) (f : Int → Int) : VecForm :=
    { i := i, us := uses2 d a, typ := ok, dsts := [d.toNat], f := lane fun l j => f (intOf s a l j) }
  [two (.vadd d a b ea eb ed) fun x y => x + y, two (.vsub d a b ea eb ed) fun x y => x - y,
   two (.vmul d a b ea eb ed) fun x y => x * y, two (.vmulh d a b ea eb ed) fun x y => x * y / 2 ^ elemWidth (etOf s),
   two (.vmin d a b ea eb ed) fun x y => min x y, two (.vmax d a b ea eb ed) fun x y => max x y,
   one (.vabs d a ea ed) (isSigned (etOf s)) fun x => x.natAbs, one (.vneg d a ea ed) (isI (etOf s)) fun x => -x,
   { i := .vmad d a b ea eb ed, us := uses3 d a b, typ := isI (etOf s), dsts := [d.toNat],
     f := lane fun l j => intOf s a l j * intOf s b l j + intOf s d l j }]

/-- Forms on the raw bits of a lane, whatever ET holds (06 R130, R133, R134). -/
def rawForms (s : State) (d a b : BitVec 7) (n : BitVec 6) (ea eb ed : Bool) : List VecForm :=
  let raw (i : Instr) (us : List Use) (f : Nat → W32) : VecForm :=
    { i := i, us := us, typ := true, dsts := [d.toNat], f := fun l => { words := [f l] } }
  let x (l : Nat) : W32 := vlane s.dr a.toNat l
  let y (l : Nat) : W32 := vlane s.dr b.toNat l
  let old (l : Nat) : W32 := vlane s.dr d.toNat l
  [raw (.vand d a b ea eb ed) (uses3 d a b) fun l => x l &&& y l, raw (.vor d a b ea eb ed) (uses3 d a b) fun l => x l ||| y l,
   raw (.vxor d a b ea eb ed) (uses3 d a b) fun l => x l ^^^ y l,
   raw (.vandn d a b ea eb ed) (uses3 d a b) fun l => x l &&& ~~~(y l), raw (.vmov d a ea ed) (uses2 d a) x,
   raw (.vselSub0 d a n ea eb) [srcV a.toNat, srcS n.toNat, dstV d.toNat] fun l => if (sreg s.dr n.toNat).getLsbD l then x l else old l,
   raw (.vselSub1 d a n ea eb) [srcS n.toNat, srcV a.toNat, dstV d.toNat] fun l => if (sreg s.dr n.toNat).getLsbD l then old l else x l,
   raw (.vbcast d n eb) [srcS n.toNat, dstV d.toNat] fun _ => (sreg s.dr n.toNat).setWidth 32,
   raw (.vlid d ed) [dstV d.toNat] fun l => BitVec.ofNat 32 l]

/-- Shifts and counts: the amount is taken modulo the element's width (06 R131). -/
def shiftForms (s : State) (d a b : BitVec 7) (ea eb ed : Bool) : List VecForm :=
  let w := elemWidth (etOf s)
  let form (i : Instr) (us : List Use) (f : Nat → Nat → ElemOut) : VecForm :=
    { i := i, us := us, typ := isI (etOf s) || isBits (etOf s), dsts := [d.toNat], f := fun l => elemLane (etOf s) (f l) }
  [form (.vshl d a b ea eb ed) (uses3 d a b) fun l j =>
     if isI (etOf s) then ofInt (etOf s) s.dr.mode (intOf s a l j * 2 ^ (elemOf s b l j % w))
     else { x := elemOf s a l j * 2 ^ (elemOf s b l j % w) % 2 ^ w },
   form (.vshr d a b ea eb ed) (uses3 d a b) fun l j => { x := elemOf s a l j / 2 ^ (elemOf s b l j % w) },
   form (.vsra d a b ea eb ed) (uses3 d a b) fun l j =>
     { x := if bitAt (elemOf s a l j) (w - 1) then 2 ^ w - 1 - (2 ^ w - 1 - elemOf s a l j) / 2 ^ (elemOf s b l j % w)
            else elemOf s a l j / 2 ^ (elemOf s b l j % w) },
   form (.vpop d a ea ed) (uses2 d a) fun l j => { x := popcount w (elemOf s a l j) },
   form (.vclz d a ea ed) (uses2 d a) fun l j => { x := clz w (elemOf s a l j) }]

/-- Conversions (06 R136, R149-R151), laid out by R135, and regroupings (R137). -/
def convertForms (s : State) (d a b : BitVec 7) (ea eb ed : Bool) : List VecForm :=
  let n := cvtDstRegs (stOf s) (etOf s)
  let k := perLane (etOf s)
  let form (i : Instr) (typ : Bool) (f : Nat → ElemOut) : VecForm :=
    { i := i, us := [srcTuple a.toNat (cvtSrcRegs (stOf s) (etOf s)) false, dstTuple d.toNat n false], typ := typ,
      dsts := tupleRegs d.toNat n,
      f := fun l => elemLanes (etOf s) n fun r j => f (cvtSrc s.dr (stOf s) a.toNat l (r * k + j)) }
  let regroup (i : Instr) (e : Nat → Nat) : VecForm :=
    { i := i, us := [srcV a.toNat, srcV b.toNat, dstTuple d.toNat 2 false], typ := decide (elemWidth (etOf s) < 32),
      dsts := tupleRegs d.toNat 2,
      f := fun l => elemLanes (etOf s) 2 fun r j =>
        let m := e (r * k + j)
        { x := elemAt (elemWidth (etOf s)) (vlane s.dr (if m < k then a.toNat else b.toNat) l) (m % k) } }
  let read (x : Nat) : FV := (fmtOf (stOf s)).read (modeFTZ s.dr.mode) x
  [form (.vcvt d a ea ed) (isI (etOf s) && isI (stOf s)) fun x => ofInt (etOf s) s.dr.mode (intVal (stOf s) x),
   form (.fcvt d a ea ed) (isF (stOf s) && isF (etOf s)) fun x => ofRes (fpCvt (envOf s) (read x)),
   form (.fcvti d a ea ed) (isF (stOf s) && isI (etOf s)) fun x =>
     let r := fpToInt (modeRM s.dr.mode) (intLo (etOf s)) (intHi (etOf s)) (read x)
     { x := intWord (elemWidth (etOf s)) r.1, fl := r.2 },
   form (.ficvt d a ea ed) (isI (stOf s) && isF (etOf s)) fun x =>
     ofRes ((fmtOf (etOf s)).round (modeRM s.dr.mode) (modeFTZ s.dr.mode) false ⟨intVal (stOf s) x, 0⟩),
   regroup (.vpack d a b ea eb ed) fun i => if i < k then 2 * i else 2 * (i - k) + 1,
   regroup (.vunpack d a b ea eb ed) fun i => i / 2 + k * (i % 2)]

/-- Floating-point forms whose elements are computed from the same element of each operand (06 R139-R148). -/
def fpForms (s : State) (d a b : BitVec 7) (ea eb ed : Bool) : List VecForm :=
  let c := envOf s
  let form (i : Instr) (us : List Use) (f : Nat → Nat → Res) : VecForm :=
    { i := i, us := us, typ := isF (etOf s), dsts := [d.toNat], f := fun l => elemLane (etOf s) fun j => ofRes (f l j) }
  let x := fpOf s a
  let y := fpOf s b
  let z := fpOf s d
  let two := uses3 d a b
  let one := uses2 d a
  [form (.fadd d a b ea eb ed) two fun l j => fpAdd c (x l j) (y l j), form (.fsub d a b ea eb ed) two fun l j => fpSub c (x l j) (y l j),
   form (.fmul d a b ea eb ed) two fun l j => fpMul c (x l j) (y l j),
   form (.ffma d a b ea eb ed) two fun l j => fpFma c false false (x l j) (y l j) (z l j),
   form (.ffms d a b ea eb ed) two fun l j => fpFma c false true (x l j) (y l j) (z l j),
   form (.fnma d a b ea eb ed) two fun l j => fpFma c true false (x l j) (y l j) (z l j),
   form (.fmin d a b ea eb ed) two fun l j => fpMinMax c false (elemOf s a l j) (elemOf s b l j),
   form (.fmax d a b ea eb ed) two fun l j => fpMinMax c true (elemOf s a l j) (elemOf s b l j),
   form (.fabs d a ea ed) one fun l j => (elemOf s a l j % c.f.signBit true, 0),
   form (.fneg d a ea ed) one fun l j => ((elemOf s a l j + c.f.signBit true) % 2 ^ c.f.width, 0),
   form (.frcp d a ea ed) one fun l j => fpApprox c 0 (x l j), form (.frsq d a ea ed) one fun l j => fpApprox c 1 (x l j),
   form (.fsqrt d a ea ed) one fun l j => fpSqrt c (x l j), form (.fexp2 d a ea ed) one fun l j => fpApprox c 2 (x l j),
   form (.flog2 d a ea ed) one fun l j => fpApprox c 3 (x l j), form (.fsin d a ea ed) one fun l j => fpApprox c 4 (x l j),
   form (.fcos d a ea ed) one fun l j => fpApprox c 5 (x l j), form (.fround d a ea ed) one fun l j => fpRound c (elemOf s a l j),
   form (.fscale d a b ea eb ed) two fun l j => fpScale c (x l j) (intVal (if etOf s = 0 then 3 else 5) (elemOf s b l j)),
   form (.fgetexp d a ea ed) one fun l j => fpGetExp c (x l j), form (.fgetman d a ea ed) one fun l j => fpGetMan c (x l j),
   form (.fclass d a ea ed) one fun l j => (fpClass c.f (elemOf s a l j), 0)]

/-- Quad exchanges and differences within a quad (08 R172, R173). -/
def quadForms (s : State) (d a : BitVec 7) (n : BitVec 2) (ea ed : Bool) : List VecForm :=
  let swap (i : Instr) (p : Nat → Nat) : VecForm :=
    { i := i, us := uses2 d a, typ := true, dsts := [d.toNat], f := fun l => { words := [readLane s.dr a.toNat (l / 4 * 4 + p (l % 4))] } }
  let diff (i : Instr) (p q : Nat → Nat) : VecForm :=
    { i := i, us := uses2 d a, typ := isF (etOf s), dsts := [d.toNat],
      f := fun l => elemLane (etOf s) fun j => ofRes (fpSub (envOf s) (fpOf s a (l / 4 * 4 + p (l % 4)) j) (fpOf s a (l / 4 * 4 + q (l % 4)) j)) }
  [swap (.qswh d a ea ed) fun i => [1, 0, 3, 2].getD i 0, swap (.qswv d a ea ed) fun i => [2, 3, 0, 1].getD i 0,
   swap (.qswd d a ea ed) fun i => [3, 2, 1, 0].getD i 0, swap (.qbc d a (n.setWidth 7) ea ed) fun _ => n.toNat,
   diff (.qddx d a ea ed) (fun i => [1, 1, 3, 3].getD i 0) fun i => [0, 0, 2, 2].getD i 0,
   diff (.qddy d a ea ed) (fun i => [2, 3, 2, 3].getD i 0) fun i => [0, 1, 0, 1].getD i 0]

/-- The words of the expansion that begins at register `n` (07 R152). -/
def wordsOf (s : State) (n : BitVec 7) (l j : Nat) : List FV := tupleElems s.dr (etOf s) n.toNat (expLen s) l j

/-- Expansion arithmetic and the one-source expansion forms (07 R160-R166). -/
def expansionForms (s : State) (d a b : BitVec 7) (ea eb ed : Bool) : List VecForm :=
  let c := envOf s
  let n := expLen s
  let form (i : Instr) (two : Bool) (k : Nat) (ok : Bool) (f : List FV → List FV → List FV → List Nat × Fl) : VecForm :=
    { i := i, us := srcTuple a.toNat n false :: (if two then [srcTuple b.toNat n false] else []) ++ [dstTuple d.toNat k false],
      typ := isF (etOf s) && ok, dsts := tupleRegs d.toNat k,
      f := fun l => expLane (etOf s) k fun j => f (wordsOf s a l j) (wordsOf s b l j) (wordsOf s d l j) }
  let sign (i : Instr) (f : Nat → Nat → Nat) : VecForm :=
    { i := i, us := [srcTuple a.toNat n false, dstTuple d.toNat n false], typ := isF (etOf s), dsts := tupleRegs d.toNat n,
      f := fun l => elemLanes (etOf s) n fun r j => { x := f (elemOf s a l j) (elemAt (elemWidth (etOf s)) (vlane s.dr (a.toNat + r) l) j) } }
  [form (.xadd d a b ea eb ed) true n true fun x y _ => expArith c n (heads c [x, y]) x [.one] y false false,
   form (.xsub d a b ea eb ed) true n true fun x y _ => expArith c n (heads c [x, y]) x [.one] y true false,
   form (.xmul d a b ea eb ed) true n true (fun x y _ =>
     expArith c n (heads c [x, y]) x y [.fin ((headOf c x).1.neg != (headOf c y).1.neg) 0 0] false true),
   form (.xfma d a b ea eb ed) true n true fun x y z => expArith c n (heads c [x, y, z]) x y z false false,
   form (.xrenorm d a ea ed) false n true fun x _ _ => expRenorm c n x,
   form (.xcompress d a ea ed) false (max 1 (n - 1)) (decide (1 < n)) fun x _ _ => expRenorm c (n - 1) x,
   form (.xtop d a ea ed) false 1 true (fun x _ _ =>
     if special x then expRenorm c 1 x
     else
       let r := c.f.round c.rm c.ftz (zeroSign c.rm x) (exactSum x)
       ([r.1], r.2)),
   form (.xbound d a ea ed) false 2 true (fun x _ _ =>
     if special x then
       let r := expRenorm c 1 x
       ([r.1.headD 0, r.1.headD 0], r.2)
     else
       let lo := c.f.round 3 false (zeroSign 3 x) (exactSum x)
       let hi := c.f.round 2 false (zeroSign 2 x) (exactSum x)
       ([lo.1, hi.1], lo.2 ||| hi.2)),
   sign (.xneg d a ea ed) fun _ x => flipSign c.f x,
   sign (.xabs d a ea ed) fun w0 x => if c.f.sign w0 then flipSign c.f x else x]

/-- Error-free transforms, rounded to nearest even whatever RM holds (07 R155-R159, R165). -/
def eftForms (s : State) (d a b : BitVec 7) (ea eb ed : Bool) : List VecForm :=
  let c := { envOf s with rm := 0 }
  let form (i : Instr) (us : List Use) (k : Nat) (f : Nat → Nat → List Nat × Fl) : VecForm :=
    { i := i, us := us, typ := isF (etOf s), dsts := tupleRegs d.toNat k, f := fun l => expLane (etOf s) k (f l) }
  let x := fpOf s a
  let y := fpOf s b
  let pair := [srcV a.toNat, srcV b.toNat, dstTuple d.toNat 2 false]
  [form (.twosum d a b ea eb ed) pair 2 fun l j => eftPair c ((x l j).dy.add (y l j).dy) (fpAdd c (x l j) (y l j)),
   form (.twoprod d a b ea eb ed) pair 2 fun l j => eftPair c ((x l j).dy.mul (y l j).dy) (fpMul c (x l j) (y l j)),
   form (.ftwosum d a b ea eb ed) pair 2 fun l j => fastTwoSum c (x l j) (y l j),
   form (.fmaerr d a b ea eb ed) [srcV a.toNat, srcV b.toNat, dstTuple d.toNat 3 false] 3 fun l j =>
     fmaErr c (x l j) (y l j) (fpOf s d l j),
   form (.xsplit d a ea ed) [srcV a.toNat, dstTuple d.toNat 2 false] 2 fun l j => splitWord c (x l j)]

/-- Conversions of expansions, by code 0 to 3 (07 R167). -/
def xcvtForm (s : State) (d a : BitVec 7) (code : BitVec 2) (ea ed : Bool) : VecForm :=
  let n := expLen s
  let k := xcvtDst code.toNat n
  { i := .xcvt d a (code.setWidth 7) ea ed, us := [srcTuple a.toNat (xcvtSrc code.toNat n) false, dstTuple d.toNat k false],
    typ := xcvtType code.toNat (stOf s) (etOf s), dsts := tupleRegs d.toNat k,
    f := fun l => expLane (etOf s) k fun j => xcvtElem code.toNat n a.toNat (stOf s) (etOf s) s.dr l j }

/-- Every form of the lists above. -/
def allForms (s : State) (d a b : BitVec 7) (n : BitVec 6) (k : BitVec 2) (ea eb ed : Bool) : List VecForm :=
  intForms s d a b ea eb ed ++ rawForms s d a b n ea eb ed ++ shiftForms s d a b ea eb ed ++ convertForms s d a b ea eb ed ++
    fpForms s d a b ea eb ed ++ quadForms s d a k ea ed ++ expansionForms s d a b ea eb ed ++ eftForms s d a b ea eb ed ++
    [xcvtForm s d a k ea ed]

/-- Compares of integers and raw bits over every element of a lane; `none` is a compare with zero (06 R132). -/
def intCompares (s : State) (x a : BitVec 7) (d : BitVec 6) (ea eb : Bool) : List CmpForm :=
  let all (rel : Int → Int → Bool) (u v : W32) : Bool :=
    (List.range (perLane (etOf s))).all fun j =>
      rel (intVal (etOf s) (elemAt (elemWidth (etOf s)) u j)) (intVal (etOf s) (elemAt (elemWidth (etOf s)) v j))
  let two (i : Instr) (ok : Bool) (f : W32 → W32 → Bool) : CmpForm :=
    { i := i, us := [srcV x.toNat, srcV a.toNat, dstS d.toNat], typ := ok, f := fun l => (f (vlane s.dr x.toNat l) (vlane s.dr a.toNat l), 0) }
  let one (i : Instr) (ok : Bool) (f : W32 → W32 → Bool) : CmpForm :=
    { i := i, us := [srcV a.toNat, dstS d.toNat], typ := ok, f := fun l => (f (vlane s.dr a.toNat l) 0, 0) }
  let eqs := isI (etOf s) || isBits (etOf s) || isBX (etOf s)
  [two (.veqSub2 x a d ea eb) eqs (all fun u v => u == v), one (.veqSub3 a d ea) eqs (all fun u v => u == v),
   two (.vneSub2 x a d ea eb) eqs (fun u v => !all (fun u v => u == v) u v), one (.vneSub3 a d ea) eqs (fun u v => !all (fun u v => u == v) u v),
   two (.vltSub2 x a d ea eb) (isI (etOf s)) (all fun u v => decide (u < v)), one (.vltSub3 a d ea) (isI (etOf s)) (all fun u v => decide (u < v)),
   two (.vleSub2 x a d ea eb) (isI (etOf s)) (all fun u v => decide (u ≤ v)), one (.vleSub3 a d ea) (isI (etOf s)) (all fun u v => decide (u ≤ v))]

/-- Floating-point compares (06 R142): `feq` and `fun` raise NV for a signalling NaN alone, `flt` and `fle` for any NaN. -/
def fpCompares (s : State) (x a : BitVec 7) (d : BitVec 6) (ea eb : Bool) : List CmpForm :=
  let rel (quiet : Bool) (r : FV → FV → Bool) (u v : Nat → FV) : Bool × Fl :=
    let js := List.range (perLane (etOf s))
    (js.all fun j => r (u j) (v j),
     if js.any fun j => (u j).isSnan || (v j).isSnan || (!quiet && ((u j).isNan || (v j).isNan)) then flNV else 0)
  let two (i : Instr) (quiet : Bool) (r : FV → FV → Bool) : CmpForm :=
    { i := i, us := [srcV x.toNat, srcV a.toNat, dstS d.toNat], typ := isF (etOf s), f := fun l => rel quiet r (fpOf s x l) (fpOf s a l) }
  let one (i : Instr) (quiet : Bool) (r : FV → FV → Bool) : CmpForm :=
    { i := i, us := [srcV a.toNat, dstS d.toNat], typ := isF (etOf s), f := fun l => rel quiet r (fpOf s a l) fun _ => .fin false 0 0 }
  [two (.feqSub2 x a d ea eb) true relEq, one (.feqSub3 a d ea) true relEq, two (.fltSub2 x a d ea eb) false relLt,
   one (.fltSub3 a d ea) false relLt, two (.fleSub2 x a d ea eb) false relLe, one (.fleSub3 a d ea) false relLe,
   two (.funSub2 x a d ea eb) true relUn, one (.funSub3 a d ea) true relUn]

/-- Compares of expansions by their exact sums (07 R166). -/
def expCompares (s : State) (x a : BitVec 7) (d : BitVec 6) (ea eb : Bool) : List CmpForm :=
  let n := expLen s
  let lane (quiet : Bool) (r : FV → FV → Bool) (dr : Dy → Dy → Bool) (u v : Nat → List FV) : Bool × Fl :=
    let rs := (List.range (perLane (etOf s))).map fun j => expRel (envOf s) quiet r dr (u j) (v j)
    (rs.all (·.1), rs.foldl (fun fl r => fl ||| r.2) 0)
  let two (i : Instr) (quiet : Bool) (r : FV → FV → Bool) (dr : Dy → Dy → Bool) : CmpForm :=
    { i := i, us := [srcTuple x.toNat n false, srcTuple a.toNat n false, dstS d.toNat], typ := isF (etOf s),
      f := fun l => lane quiet r dr (wordsOf s x l) (wordsOf s a l) }
  let one (i : Instr) (quiet : Bool) (r : FV → FV → Bool) (dr : Dy → Dy → Bool) : CmpForm :=
    { i := i, us := [srcTuple a.toNat n false, dstS d.toNat], typ := isF (etOf s),
      f := fun l => lane quiet r dr (wordsOf s a l) fun _ => [.fin false 0 0] }
  [two (.xeqSub2 x a d ea eb) true relEq Dy.eq, one (.xeqSub3 a d ea) true relEq Dy.eq, two (.xltSub2 x a d ea eb) false relLt Dy.lt,
   one (.xltSub3 a d ea) false relLt Dy.lt, two (.xleSub2 x a d ea eb) false relLe fun u v => !v.lt u,
   one (.xleSub3 a d ea) false relLe fun u v => !v.lt u]

/-- Every compare of the lists above. -/
def allCompares (s : State) (x a : BitVec 7) (d : BitVec 6) (ea eb : Bool) : List CmpForm :=
  intCompares s x a d ea eb ++ fpCompares s x a d ea eb ++ expCompares s x a d ea eb

/-- A form that changes its drove alone, on given operands: its instruction, its register fields, whether a field lies outside
its set, whether its types are accepted, the elements whose NV would stop it under FEX, and its effect when some lane is active. -/
structure LaneForm where
  i   : Instr
  us  : List Use
  bad : Bool := false
  typ : Bool := true
  nv  : List ElemOut := []
  f   : Drove → Drove

/-- Its registers, masks, fields and types are as the form needs them. -/
def LaneForm.ready (s : State) (v : LaneForm) : Bool := fits s v.us && masksFull s && !v.bad && v.typ

/-- FEX is 1, a lane is active and an element raises NV. -/
def LaneForm.invalid (s : State) (v : LaneForm) : Bool :=
  modeFEX s.dr.mode && activeMask s.dr != 0 && v.nv.any fun e => e.fl.getLsbD 0

/-- The form may take effect, and does so; with no active lane it only retires (01 R19, 08 R170). -/
def LaneForm.Runs (s : State) (v : LaneForm) : Prop :=
  v.ready s = true → v.invalid s = false → Does v.i s fun d => if activeMask d = 0 then d else v.f d

/-- The drove with lane `src l` of register a in each active lane `l` of register d; XOOR when an active lane reads a lane at or
beyond the drove width, which reads 0 (08 R169, R175). -/
def moved (d a : Nat) (src : Nat → Nat) (r : Drove) : Drove :=
  { setVm r d (activeMask r) (fun l => if src l < r.width then vlane r a (src l) else 0) with
    xoor := r.xoor || (List.range 64).any fun l => (activeMask r).getLsbD l && decide (r.width ≤ src l) }

/-- The lane instructions (08 R175-R180). -/
def laneForms (s : State) (d a b : BitVec 7) (sd : BitVec 6) (c : BitVec 4) (ea eb ed : Bool) : List LaneForm :=
  let act := lanesIn (activeMask s.dr)
  let pres := lanesIn s.dr.pres
  let move (i : Instr) (us : List Use) (src : Nat → Nat) : LaneForm := { i := i, us := us, f := moved d.toNat a.toNat src }
  let op := c.toNat % 8
  let high := c.getLsbD 3
  let scan := (scanRows op high a.toNat s.dr)
  let red := redRows high op a.toNat s.dr
  let xl := modeXL s.dr.mode
  [move (.lshuf d a b ea eb ed) (uses3 d a b) fun l => (vlane s.dr b.toNat l).toNat,
   move (.lrot d a b ea eb ed) (uses3 d a b) fun l => (l + (vlane s.dr b.toNat l).toNat) % s.dr.width,
   move (.lexpand d a ea ed) (uses2 d a) fun l => pres.getD (act.idxOf l) 0,
   { i := .lcompress d a ea ed, us := uses2 d a,
     f := fun r => setV r d.toNat (mkLanes fun l =>
       match act[pres.idxOf l]? with
       | some x => if r.pres.getLsbD l then vlane r a.toNat x else vlane r d.toNat l
       | none => vlane r d.toNat l) },
   { i := .lfirst a sd ea, us := [srcV a.toNat, dstS sd.toNat],
     f := fun r => setS r sd.toNat ((vlane r a.toNat (act.headD 0)).setWidth 64) },
   { i := .lballot a sd ea, us := [srcV a.toNat, dstS sd.toNat],
     f := fun r => setS r sd.toNat (compareMask r fun l => (vlane r a.toNat l != 0, 0)) },
   { i := .lscan d a (c.setWidth 7) ea ed, us := uses2 d a, bad := decide (6 ≤ op), typ := scanType op (etOf s), nv := scan.flatten,
     f := fun r => raiseFlags (setVm r d.toNat (activeMask r) fun l =>
       packElems (elemWidth (etOf s)) ((List.range (perLane (etOf s))).map fun j => (slotOut scan j (act.idxOf l)).x))
       (elemFl scan.flatten).1 (elemFl scan.flatten).2 },
   { i := .lred d a (c.setWidth 7) ea ed, us := [srcV a.toNat, dstTuple d.toNat (if high && xl == 1 then 2 else 1) false],
     bad := decide (6 ≤ op) || (high && op != 0), nv := red.2,
     typ := if high then isF (etOf s) && (xl == 0 || (xl == 1 && etOf s == 0)) else scanType op (etOf s),
     f := fun r => raiseFlags (red.1.zipIdx.foldl (fun x w => setVm x (d.toNat + w.2) (activeMask r) fun _ => w.1) r)
       (elemFl red.2).1 (elemFl red.2).2 }]

/-- The instruction takes effect by `g`, on the state in which its issue slot has been recorded. -/
def Takes (i : Instr) (s : State) (us : List Use) (g : State → State) : Prop := ∃ fit, exec i s = .next (g (issued fit s us))

/-- A vector load or store on given operands: its instruction, its request, its base and index registers, its data register,
its size code, the address of a lane as reported, what a lane meets at the core, the accesses that it makes, whether they are
to private memory, and a lane's place in the entry's unfinished mask. -/
structure MemForm where
  i     : Instr
  kind  : ReqKind
  vt    : BitVec 7
  sz    : BitVec 2
  addr  : Nat → Nat
  fault : Nat → CoreFault
  accs  : Nat → List (Nat × Nat × Nat)
  priv  : Bool := false
  pos   : Nat → Nat := id

/-- The address of lane `l`: S[sb] + sext(V[va]) × scale (03 R77, 09 R181). -/
def mAddr (s : State) (sb : BitVec 6) (va : BitVec 7) (sz : BitVec 2) (sc : Bool) (l : Nat) : Nat :=
  (sreg s.dr sb.toNat + (vlane s.dr va.toNat l).signExtend 64 * BitVec.ofNat 64 (if sc then 2 ^ sz.toNat else 1)).toNat

/-- The loads with vector data (09 R183, R193, R194). -/
def loadForms (s : State) (vt : BitVec 7) (sb : BitVec 6) (va : BitVec 7) (sz : BitVec 2) (ex sc : Bool) : List MemForm :=
  let n := 2 ^ sz.toNat
  let a := mAddr s sb va sz sc
  let plain (i : Instr) (p : Policy) : MemForm :=
    { i := i, kind := .load p ex, vt := vt, sz := sz, addr := a, fault := fun l => plainFault (a l) n, accs := fun l => [(a l, n, 0)] }
  [plain (.ldO vt sb va sz ex sc) .o, plain (.ldW vt sb va sz ex sc) .w, plain (.ldS vt sb va sz ex sc) .s,
   plain (.ldI vt sb va sz ex sc) .i,
   { i := .ldp vt sb va sz ex sc, kind := .ldp ex, vt := vt, sz := sz, addr := fun l => privAddr s.dr l (a l),
     fault := fun l => privCore s.dr l (a l) n, accs := fun l => privAccs s.dr l (a l) n, priv := true },
   { i := .ldsp vt sb va sz ex sc, kind := .ldsp ex, vt := vt, sz := sz, addr := fun _ => apertureBase,
     fault := fun l => spadFault s.dr (a l) n, accs := fun l => [(a l, n, 0)] }]

/-- A load fills a second register: 64-bit elements, or decoded pairs (09 R183, R184). -/
def MemForm.two (s : State) (v : MemForm) : Bool := decide (v.sz.toNat = 3) || fillsPair s v.sz.toNat fun _ => v.addr

/-- A load may issue: its registers and masks are full, ET is no block format, no acquiring atomic is out, and no active lane
faults at the core (09 R181-R184, R202). -/
def MemForm.loads (s : State) (v : MemForm) (sb : BitVec 6) (va : BitVec 7) : Bool :=
  fits s [srcS sb.toNat, srcV va.toNat, dstV v.vt.toNat false (if v.two s then 2 else 1) (if v.two s then 2 else 1)] && masksFull s &&
    !isBX (modeET s.dr.mode) && !acqPending s && (activeLanes s.dr).all fun l => (v.fault l).isNone

/-- The accesses of a load: one per participating lane and address, and a done one of value 0 for a helper lane that faults. -/
def MemForm.loadAccs (s : State) (v : MemForm) : List Acc :=
  (loadLanes s.dr).flatMap fun l =>
    if (v.fault l).isSome then [{ Acc.fresh s l 0 0 0 true with st := .done }]
    else (v.accs l).map fun x => { Acc.fresh s l x.1 x.2.1 0 (!s.dr.pres.getLsbD l) with y := x.2.2 }

/-- The stores with vector data (09 R185, R193-R196). Their accesses carry the data. -/
def storeForms (s : State) (vt : BitVec 7) (sb : BitVec 6) (va : BitVec 7) (sz : BitVec 2) (sc : Bool) : List (MemForm × Option Policy) :=
  let n := 2 ^ sz.toNat
  let a := mAddr s sb va sz sc
  let data (l : Nat) : Nat := laneData s.dr vt.toNat l n
  let plain (i : Instr) (k : ReqKind) (a : Nat → Nat) : MemForm :=
    { i := i, kind := k, vt := vt, sz := sz, addr := a, fault := fun l => plainFault (a l) n, accs := fun l => [(a l, n, data l)] }
  let first := (activeLanes s.dr).headD 0
  [(plain (.stO vt sb va sz sc) (.store .o) a, some .o), (plain (.stW vt sb va sz sc) (.store .w) a, some .w),
   (plain (.stS vt sb va sz sc) (.store .s) a, some .s), (plain (.stI vt sb va sz sc) (.store .i) a, some .i),
   (plain (.stm vt sb va sz sc) .stm a, some .w),
   ({ plain (.cst vt sb va sz sc) (.store .o) (fun l => (a first + (activeLanes s.dr).idxOf l * n) % 2 ^ 64) with
      pos := fun l => (activeLanes s.dr).idxOf l }, some .o),
   ({ i := .stp vt sb va sz sc, kind := .store .o, vt := vt, sz := sz, addr := fun l => privAddr s.dr l (a l),
      fault := fun l => privCore s.dr l (a l) n
      accs := fun l => (privAccs s.dr l (a l) n).map fun x => (x.1, x.2.1, if n = 8 then (vlane s.dr (vt.toNat + x.2.2) l).toNat else data l)
      priv := true }, none),
   ({ i := .stsp vt sb va sz sc, kind := .stsp, vt := vt, sz := sz, addr := a, fault := fun l => spadFault s.dr (a l) n,
      accs := fun l => [(a l, n, data l)] }, none)]

/-- The store is a synchronising operation of a deterministic range (19 R406). -/
def MemForm.sync (s : State) (v : MemForm) (gate : Option Policy) : Bool :=
  gate.any fun p => (activeLanes s.dr).any fun l => (v.accs l).any fun x => syncStore s p x.1

/-- A store may issue: besides, a store-buffer entry is free, and a synchronising one has its turn (01 R30, 19 R406). -/
def MemForm.stores (s : State) (v : MemForm) (gate : Option Policy) (sb : BitVec 6) (va : BitVec 7) : Bool :=
  let k := if v.sz.toNat = 3 then 2 else 1
  fits s [srcS sb.toNat, srcV va.toNat, srcV v.vt.toNat false k k] && masksFull s && !acqPending s &&
    ((activeLanes s.dr).all fun l => (v.fault l).isNone) && decide (sbcnt s s.dr.uid < 16) && (!v.sync s gate || s.dr.turn)

/-- The accesses of a store: one per active lane and address, with the data. -/
def MemForm.storeAccs (s : State) (v : MemForm) : List Acc :=
  (activeLanes s.dr).flatMap fun l => (v.accs l).map fun x => Acc.fresh s (v.pos l) x.1 x.2.1 x.2.2 false

/-- `t` is the state in which the instruction has taken effect, but for the records of observation. -/
def Leaves (i : Instr) (s t : State) : Prop := ∃ u, exec i s = .next u ∧ u.bare = t.bare

/-- Scalar loads and stores and their policies (09 R190). -/
def scalarLoads : List ((BitVec 6 → BitVec 6 → BitVec 10 → BitVec 2 → Instr) × Policy) :=
  [(.ldsO, .o), (.ldsW, .w), (.ldsS, .s), (.ldsI, .i)]
def scalarStores : List ((BitVec 6 → BitVec 6 → BitVec 10 → BitVec 2 → Instr) × Policy) :=
  [(.stsO, .o), (.stsW, .w), (.stsS, .s), (.stsI, .i)]

/-- An atomic on given operands: its instruction, its request, whether it names a pair of data registers, whether its type is
accepted, and which waits it has: for a store-buffer entry, and as a release. -/
structure AtomForm where
  i     : Instr
  kind  : ReqKind
  two   : Bool
  typ   : Bool
  entry : Bool
  rel   : Bool

/-- The per-lane atomics (09 R200-R202, R205). -/
def atomForms (s : State) (d : BitVec 7) (sb : BitVec 6) (va : BitVec 7) (p : BitVec 4) : List AtomForm :=
  let typ := aopTypes p.toNat (modeET s.dr.mode)
  let atom (i : Instr) (acq rel : Bool) : AtomForm :=
    { i := i, kind := .atom p.toNat acq, two := p == 7, typ := typ, entry := false, rel := rel }
  let red (i : Instr) (rel : Bool) : AtomForm := { i := i, kind := .red p.toNat, two := false, typ := typ, entry := true, rel := rel }
  [atom (.atomRlx d sb va p) false false, atom (.atomAcq d sb va p) true false, atom (.atomRel d sb va p) false true,
   atom (.atomAr d sb va p) true true, red (.redRlx d sb va p) false, red (.redRel d sb va p) true,
   { i := .catom d sb va, kind := .catom, two := true, typ := modeET s.dr.mode == 0, entry := true, rel := false }]

/-- What an address meets at the core (09 R181, R203, R205). -/
def AtomForm.fault (s : State) (v : AtomForm) (a : Nat) : CoreFault := if v.kind = .catom then catomFault s.dr a else atomFault s.dr a

/-- The atomic may issue. -/
def AtomForm.ready (s : State) (v : AtomForm) (d : BitVec 7) (sb : BitVec 6) (va : BitVec 7) : Bool :=
  let k := if v.two then 2 else 1
  fits s [srcS sb.toNat, srcV va.toNat, srcV d.toNat false k k] && masksFull s && v.typ && mayGo s && !acqPending s &&
    ((activeLanes s.dr).all fun l => (v.fault s (laneAddr s.dr sb.toNat va.toNat l 1)).isNone) &&
    (v.kind != .catom || s.dr.losplit != 0) && (!v.entry || decide (sbcnt s s.dr.uid < 16)) &&
    (!v.rel || (sbcnt s s.dr.uid == 0 && !loadsOut s))

/-- The home may take a request of `p` for granule `g` at once: its entry is settled, with nobody waiting, no message needed and
room in the snoop filter (15 R328-R330, R337). -/
def homeFree (s : State) (g : Nat) (p : Party) (w : Want) : Bool :=
  let e := dirOf s g
  e.st != .t && e.queue.isEmpty && (needs e p w false).isEmpty && !(goesOff e p w && !e.sf && (sfWay (sfPeers s g)).isNone)

/-- The granule's entry with an empty queue, as a request finds it that is applied. -/
def homeOpen (s : State) (g : Nat) : State := putDir s { dirOf s g with queue := [] }

/-- An access may be served at its home at once: it is ready, meets no address error, lies on a page without a block format, reads
no copy that its core holds of a non-coherent page, and the home is free (15 R328-R330, R337, R339). -/
def homeNow (s : State) (q : Req) (j : Nat) (a : Acc) : Bool :=
  homeReady s q j a && !aetMeets s a.dpa a.size && leafEf a.attr == 0 && !(readKind q.kind && leafNc a.attr && (hitLine s q a).isSome) &&
    homeFree s (granOf a.dpa) (partyOf s q a) (wantOf q a)

/-- The access has been applied at its home, and its entry takes its place. -/
def homeTook (s : State) (r j : Nat) (q : Req) (a : Acc) : State :=
  placeEntry (applyAcc r j (wantOf q a) (homeOpen s (granOf a.dpa))) (granOf a.dpa)

/-- A matrix instruction may issue: a drove of no Shepherd core, registers and masks as they must be, every present lane active
(01 R19, 10 R207, R211, R220). -/
def matrixReady (s : State) (us : List Use) : Bool :=
  !s.dr.shepherd && fits s us && masksFull s && activeMask s.dr == s.dr.pres

/-- A command is done: bytes are written into its record, whose homes are `ds`, its status is what its drove reads back, and the
drove goes on (11 R440, 13 R286). -/
def replied (s : State) (c n : Nat) (ds : List (Nat × Bool)) (puts : List (Nat × List Byte)) (status : Nat) : State :=
  writeDone (setStatus (puts.foldl (fun s p => putPlaces s (ds.drop p.1) p.2) s) c n status) c

end Sys2Proof.Machine
end

