-- ==== Sys2Proof/Certificates/Slice0/Obligations.lean ====
section
/-! DEFINITION. The statements for the provers. Each says which rules of spec/ it rests on. -/

open Sys2Proof Sys2Proof.Machine

/-- 03 R72, 04 R104-R110, 05: words written out in spec/ and the instructions that they are. -/
def Obligations.DecodeWords : Prop :=
  ∀ p ∈ ([(0x6008081A, .fadd 4 2 3 false true false), (0xB2105029, .ldS 8 10 2 2 false true), (0x2930000F, .brz 12 15),
      (0x2A27FFFD, .brnz 9 0x3FFFD), (0xDE30A10C, .trd 3 false 5 2 12), (0x22540004, .sli 21 4), (0x190C3FFF, .saddi 3 3 0xFFF),
      (0x2B00003F, .call 0x3F), (0x2C00C000, .callr 12 false), (0x2D000000, .ret), (0x2F000000, .exit), (0x31000000, .nop),
      (0x34209000, .modeSet 8 9 false false), (0x36240000, .modeGet 9 false), (0x3540000A, .modeFld 4 10),
      (0x0628A1C0, .sand 10 10 7 false false false)] : List (Nat × Instr)),
    decodeTableWord 32 p.1 = some p.2 ∧ encodeNat p.2 = some p.1

/-- 03 R69, R72: the word of every well-formed instruction has 32 bits and decodes to that instruction. -/
def Obligations.EncodeThenDecode : Prop :=
  ∀ (i : Instr) (w : Nat), encodeNat i = some w → i.wellFormed = true → w < 2 ^ 32 ∧ decodeTableWord 32 w = some i

/-- 03 R72, R86: an instruction has one word alone: a word that decodes is the word of what it decodes to, so no bit of it is
ignored, and every other word of 32 bits is none. -/
def Obligations.DecodeThenEncode : Prop :=
  ∀ (i : Instr) (w : Nat), w < 2 ^ 32 → decodeTableWord 32 w = some i → encodeNat i = some w ∧ i.wellFormed = true

/-- 03 R86, R87, 16 R351: a word that is no instruction stops its drove: cause 0x01 for an opcode that is not assigned and for a
matrix opcode or `coll` on a Shepherd core, 0x0A for a privileged opcode or system register in user mode, 0x02 for a field outside
its set. -/
def Obligations.IllegalWordStops : Prop :=
  ∀ (s : State) (w : BitVec 32), let op := bits w.toNat 31 24
    let matrix := 0xD8 ≤ op ∧ op ≤ 0xE3 ∨ op = 0xF4
    let priv := op ∈ [0xF9, 0xFB, 0xFE] ∨ op ∈ [0xFC, 0xFD] ∧ 0x80 ≤ sysNum w
    (opcodeAssigned op = false ∨ matrix ∧ s.dr.shepherd = true → Stops (.illegalWord w) s 0x01 0 0) ∧
    (opcodeAssigned op = true → ¬(matrix ∧ s.dr.shepherd = true) →
      (priv ∧ privileged s = false → Stops (.illegalWord w) s 0x0A 0 0) ∧
      (¬(priv ∧ privileged s = false) → Stops (.illegalWord w) s 0x02 0 0))

/-- 03 R69, 05 R116, 17 R363, R367: an instruction that cannot be fetched always answers a next state: on the reserved route its
drove stops with cause 0x14 and the PC as address; for every other cause the drove, still before the instruction, parks at its PC
with one table entry to come of KIND 0, cause 0x12 being counted in the field record besides. -/
def Obligations.FetchFaultParks : Prop :=
  ∀ (s : State) (cause : BitVec 8),
    (cause = 0x14 → exec (.instructionFetchFault cause) s = .next (stopHere s 0x14 0 s.dr.pc.toNat)) ∧
    (cause ≠ 0x14 → ∃ (t : State) (p : Park),
      exec (.instructionFetchFault cause) s = .next t ∧ t.dr = unGang (unhelp s.dr) ∧ t.mem = s.mem ∧ t.reqs = s.reqs ∧ t.coh = s.coh ∧
      t.dev = (if cause = 0x12 then (countRecord s 0x1A12 0 64).dev else s.dev) ∧ t.sch.parks = s.sch.parks ++ [p] ∧
      p.kind = 0 ∧ p.cause = cause ∧ p.drove = s.dr.uid ∧ p.pc = (unhelp s.dr).pc ∧ p.va = s.dr.pc.toNat ∧ p.svc = 1 ∧ p.blocks = true ∧
      p.slot = none ∧ p.req = none)

/-- 03 R69, 08 R174, 11 R257, 15 R328, 16 R354: a step runs the instruction that the drove's next word decodes to: the word fetched at
its PC, the word that its `qhelp` has fetched, or the next word of its microprogram; a word that decodes to nothing runs as the illegal
word that it is. Around it a step does this alone: at a port that nobody has filled, a free choice brings the drove there, the drove of
lowest DROVEID of its gang goes first, and time passes; the other droves of the gang then run the same instruction, in steps of their
own; a drove that would go before another that comes first becomes ready instead; and a step whose own write met a granule that its
home could not take at once changes nothing but the time and the choices to come, and its work waits in that granule's queue (the
model's form of R328; notes/assumptions, entry 9). A fetched word that its core does not hold is the four bytes of its line in memory. -/
def Obligations.StepRunsDecoded : Prop :=
  (∀ (s t : State) (w : BitVec 32), s.port = true → s.dr.micro = none → s.dr.help = false →
    fetchAt { s with who := none, met := none, port := false } s.dr.pc.toNat = (.word w, t) →
    let u := onWork t (.run t.dr.uid)
    step s = settle u u.who u.cycle (exec ((decode w).getD (.illegalWord w)) u)) ∧
  (∀ (s : State) (w : BitVec 32), s.port = true → s.dr.micro = none → s.dr.help = true → s.dr.helpWord = some w →
    let u := onWork { s with who := none, met := none, port := false } (.run s.dr.uid)
    step s = settle u u.who u.cycle (exec ((decode w).getD (.illegalWord w)) u)) ∧
  (∀ (s : State) (m : Micro) (w : BitVec 32), s.port = true → s.dr.micro = some m →
    substWord m (m.code.getD m.step 0) = some w →
    let u := onWork { s with who := none, met := none, port := false } (.run s.dr.uid)
    step s = settle u u.who u.cycle (exec ((decode w).getD (.illegalWord w)) u)) ∧
  (∀ (s s₁ t : State) (u : Nat) (w : BitVec 32), let s₀ := { s with who := none, met := none }
    let s₂ := chooseGang (select (onWork s₁ (.run u)) u)
    let s₃ := select s₂ (gangHead s₂)
    let s₄ := slotTime s₃ s₃.dr
    s.port = false → s.due = [] → (s.dev.bootState = 1 → ticksDue s₀ = []) → choose s₀ (enabled s₀) = (some (.run u), s₁) →
    s₄.dr.stopDue = none → breakpoint s₄ = none → s₄.dr.micro = none → s₄.dr.help = false →
    fetchAt s₄ s₄.dr.pc.toNat = (.word w, t) →
    let i := (decode w).getD (.illegalWord w)
    let v := { t with slot := some (if t.dr.help then .qhelp else i), due := [] }
    (overtaken s₄ s₄.dr = false → step s = settle v v.who v.cycle (exec i v)) ∧
    (overtaken s₄ s₄.dr = true → step s = settle v v.who v.cycle (look v (exec i v)))) ∧
  (∀ (s : State) (u : Nat) (us : List Nat) (i : Instr), s.port = false → s.due = u :: us → s.slot = some i →
    let t := onDr (select { s with who := none, met := none, due := us } u) fun d => { d with gangDue := true }
    let v := onWork t (.run t.dr.uid)
    step s = settle v v.who v.cycle (exec i v)) ∧
  (∀ (s t : State) (c : Nat) (w : Work), (t.met = none → settle s none c (.next t) = .next t) ∧
    (t.met = none → (∀ e ∈ t.coh.dir, Asker.own w ∉ e.queue) → settle s (some w) c (.next t) = .next t) ∧
    ∀ g, t.met = some g → let u := waitFor (backOff s c t.fresh) g w
      settle s (some w) c (.next t) = .next u ∧ u.mem = s.mem ∧ u.reqs = s.reqs ∧ u.dr = { s.dr with gangDue := false } ∧
      u.droves = s.droves ∧ u.cycle = c ∧ u.priv = s.priv ∧ u.sch = s.sch ∧ u.eng = s.eng) ∧
  (∀ (s t : State) (va : Nat) (l : Leaf), routeOf va = 0 → inAperture va = false → va % 4 = 0 →
    (∀ x ∈ (coreOf s s.dr.core).icache, x.ctx = s.dr.ctx → x.va ≠ granOf va) → dieAccess s s.dr.ctx va .fetch true = (.inl l, t) →
    let u := pastureAccess t l.attr t.dr.ctx va l.dpa (dieOfCore t.dr.core) false
    (fetchAt s va).1 = .word (BitVec.ofNat 32 (homeRead u (granOf l.dpa + va % 128) 4)))

/-- Every row of the opcode table, on any operands and in any state, answers a next state: no step of this machine stops it. -/
def Obligations.EveryRowAnswers : Prop := ∀ (i : Instr) (s : State), ∃ t, exec i s = .next t

/-- What reset leaves where spec/ gives it: nothing resident, no bindings and no cached line (18 R399); RETTHR, EPOCHPER and WDOG
at their stated values (14 R322, 15 R340, 16 R359); the commons with 16 ways and no share (14 R302, R312); no lane-cycle or trace
enable (19 R410). -/
def Obligations.ResetState : Prop :=
  State.reset.droves = [] ∧ State.reset.flocks = [] ∧ State.reset.dr.cond = .vacant ∧ State.reset.sch.ctxs = [] ∧
  State.reset.coh.l1 = [] ∧ State.reset.coh.dir = [] ∧ State.reset.coh.tlb = [] ∧ State.reset.reqs = [] ∧ State.reset.cycle = 0 ∧
  (cdrOf State.reset 0).any (fun c => c.state == 1 && c.ways == 16 && c.shares.isEmpty) = true ∧
  privReg State.reset 0x92 = 0x00010040 ∧ privReg State.reset 0xA5 = 0x00100000 ∧ privReg State.reset 0xB4 = 0x04000000 ∧
  privReg State.reset 0xE0 = 0 ∧ State.reset.dev.bootState = 0

/-- The memories are in canonical form after reset. -/
def Obligations.ResetMemoryCanonical : Prop := State.reset.mem.wf = true

/-- Every step keeps the five memories in canonical form, so that memories that read alike are equal (the model's own form;
notes/assumptions, entry 1). -/
def Obligations.StepKeepsMemory : Prop := ∀ s t : State, s.mem.wf = true → step s = .next t → t.mem.wf = true

/-- 12 R262, 15 R329-R332: a byte that the device writes reads back at its home, whatever copies of its granule the caches held, once
the home can take the write, and where no copy is registered every other byte reads as before; a granule that is recalled reads as
before, with no copy left. -/
def Obligations.HomeWriteReads : Prop :=
  ∀ (s : State) (a x : Nat) (b : Byte), s.mem.hbm.wf = true →
    (busyGranule s (granOf a) = false →
      (∀ d ∈ (dirOf s (granOf a)).hostDirty, d.1 = a → hasOwner (dirOf s (granOf a)) = true ∧ (dirOf s (granOf a)).wmask.getLsbD (a % 128 / 4) = false) →
      homeByte (homePut s a [b]) a = b ∧ (homePut s a [b]).met = s.met) ∧
    ((dirOf s (granOf a)).st = .i → (dirOf s (granOf a)).queue = [] → homeByte (homePut s a [b]) x = if x = a then b else homeByte s x) ∧
    homeByte (recallAll s (granOf a)) x = homeByte s x ∧ (dirOf (recallAll s (granOf a)) (granOf a)).st = .i

/-- The record of an issue slot changes nothing but what chapter 19 R414-R419, the gangs of 01 R15 and the last issue of 16 R359 record. THE FRAME of an instruction
that becomes `f` of its drove: outside a microprogram and with no replay to end, PC is 4 further, LCLK one further, and of the drove only
`f`'s changes remain; every byte of memory, every other drove's registers, every request in flight, every special register and every
engine is unchanged. -/
def Obligations.BecomesFrame : Prop :=
  (∀ (fit : Drove → Bool) (s : State) (us : List Use) (slots : Nat), (issued fit s us slots).bare = s.bare) ∧
  (∀ (s t : State) (f : Drove → Drove), Becomes s t f → (f s.dr).micro = none → (f s.dr).after = none → (f s.dr).help = false →
    (f s.dr).wakeAt = none →
    t.dr.pc = (f s.dr).pc + 4 ∧ t.dr.lclk = (f s.dr).lclk + 1 ∧ t.dr.s = (f s.dr).s ∧ t.dr.v = (f s.dr).v ∧
    t.dr.sfull = (f s.dr).sfull ∧ t.dr.vfull = (f s.dr).vfull ∧ t.dr.mode = (f s.dr).mode ∧ t.dr.flags = (f s.dr).flags ∧
    t.dr.satd = (f s.dr).satd ∧ t.dr.xoor = (f s.dr).xoor ∧ t.dr.pres = (f s.dr).pres ∧ t.dr.links = (f s.dr).links ∧
    t.dr.depth = (f s.dr).depth ∧ t.dr.rkey = (f s.dr).rkey ∧ t.dr.rctr = (f s.dr).rctr ∧ t.dr.frec = (f s.dr).frec ∧
    t.dr.stop = (f s.dr).stop ∧ t.dr.cond = .ready ∧ t.mem = s.mem ∧ t.reqs = s.reqs ∧ t.priv = s.priv ∧ t.coh = s.coh ∧
    t.vc = s.vc ∧ t.eng = s.eng ∧ t.sch = s.sch ∧ t.flocks = s.flocks ∧ { t.fl with lastIssue := 0 } = { s.fl with lastIssue := 0 } ∧
    t.droves.map (fun d => (d.uid, d.s, d.v, d.pc)) = s.droves.map (fun d => (d.uid, d.s, d.v, d.pc)) ∧
    (∀ a, homeByte t a = homeByte s a) ∧ ∀ n, privReg t n = privReg s n)

/-- 01 R24: s0 reads all ones, a write to it is discarded, and a write to any other scalar register changes that register alone. -/
def Obligations.ScalarRegisterWrite : Prop :=
  ∀ (d : Drove) (n m : Nat) (x : W64), n < 64 → sreg (setS d n x) m = if m = 0 then BitVec.allOnes 64 else if m = n then x else sreg d m

/-- 03 R86, R87: a vector form of chapters 06 to 08 that computes on lanes, compares and lane instructions among them, checks its
register numbers and its other fields first (cause 0x02), then the alignment of its tuples (0x04), then its types (0x03), whatever its
registers and masks hold. -/
def Obligations.ChecksInOrder : Prop :=
  ∀ (s : State) (d a b : BitVec 7) (n : BitVec 6) (k : BitVec 2) (c : BitVec 4) (ea eb ed : Bool),
    let inOrder (i : Instr) (us : List Use) (bad typ : Bool) : Prop :=
      let outside := bad || us.any fun u => decide (allocOf s.dr u.cls < u.base + u.n)
      let misaligned := us.any fun u => u.base % u.align != 0
      (outside = true → Stops i s 0x02 0 0) ∧ (outside = false → misaligned = true → Stops i s 0x04 0 0) ∧
      (outside = false → misaligned = false → typ = false → Stops i s 0x03 0 0)
    (∀ v ∈ allForms s d a b n k ea eb ed, inOrder v.i v.us false v.typ) ∧
    (∀ v ∈ allCompares s a b n ea eb, inOrder v.i v.us false v.typ) ∧
    (∀ v ∈ laneForms s d a b n c ea eb ed, inOrder v.i v.us v.bad v.typ) ∧
    inOrder (.vrand d ed) [dstV d.toNat] false (isF (etOf s) || isI (etOf s) || etOf s == 9)

/-- 01 R28, 03 R74: a scalar form that names an empty register waits when the field's empty-action bit is clear, and stops with
cause 0x05, naming the register, when it is set. -/
def Obligations.EmptyRegisterWaitsOrTraps : Prop :=
  ∀ p ∈ scalarThree, ∀ (d a b : BitVec 6) (s : State), d.toNat < s.dr.ns → a.toNat < s.dr.ns → b.toNat < s.dr.ns →
    (isFull s .scl a.toNat = false → Waits (p.1 d a b false false false) s (.reg .scl a.toNat) ∧
      Stops (p.1 d a b true false false) s 0x05 (256 + a.toNat) 0) ∧
    (isFull s .scl a.toNat = true → isFull s .scl b.toNat = false → Waits (p.1 d a b false false false) s (.reg .scl b.toNat) ∧
      Stops (p.1 d a b false true false) s 0x05 (256 + b.toNat) 0) ∧
    (isFull s .scl a.toNat = true → isFull s .scl b.toNat = true → isFull s .scl d.toNat = false →
      Waits (p.1 d a b false false false) s (.reg .scl d.toNat) ∧ Stops (p.1 d a b false false true) s 0x05 (256 + d.toNat) 0)

/-- 05 R114: branches: their words, where they go, and the wait for an empty condition register; the masks do not matter. -/
def Obligations.BranchResult : Prop :=
  ∀ (s : State) (c : BitVec 6) (off : BitVec 18), let target := s.dr.pc + 4 + 4 * off.signExtend 64
    Goes (.bra off) s target id ∧
    (fits s [srcS c.toNat] = true →
      (sreg s.dr c.toNat = 0 → Goes (.brz c off) s target id ∧ Does (.brnz c off) s id) ∧
      (sreg s.dr c.toNat ≠ 0 → Does (.brz c off) s id ∧ Goes (.brnz c off) s target id)) ∧
    (0 < s.dr.ns → Does (.brz 0 off) s id ∧ Goes (.brnz 0 off) s target id) ∧
    (c.toNat < s.dr.ns → isFull s .scl c.toNat = false → Waits (.brz c off) s (.reg .scl c.toNat) ∧ Waits (.brnz c off) s (.reg .scl c.toNat)) ∧
    decodeTableWord 32 (0x28 * 2 ^ 24 + off.toNat) = some (.bra off) ∧
    (c ≠ 0 → decodeTableWord 32 (0x28 * 2 ^ 24 + c.toNat * 2 ^ 18 + off.toNat) = none ∧
      Stops (.illegalWord (BitVec.ofNat 32 (0x28 * 2 ^ 24 + c.toNat * 2 ^ 18 + off.toNat))) s 0x02 0 0) ∧
    decodeTableWord 32 (0x29 * 2 ^ 24 + c.toNat * 2 ^ 18 + off.toNat) = some (.brz c off) ∧
    decodeTableWord 32 (0x2A * 2 ^ 24 + c.toNat * 2 ^ 18 + off.toNat) = some (.brnz c off)

/-- 05 R115, R116: calls push PC + 4, returns pop it, and `jmpr` leaves the link stack alone; overflow, underflow and misaligned targets
stop precisely, in that order. That the record of a misaligned target or popped address has ADDR 0 is the model's choice
(notes/assumptions, entry 29). -/
def Obligations.CallResult : Prop :=
  ∀ (s : State) (a : BitVec 6) (ea : Bool) (off : BitVec 18),
    let target := s.dr.pc + 4 + 4 * off.signExtend 64
    let push (d : Drove) : Drove := { d with links := (d.pc + 4) :: d.links, depth := d.depth + 1 }
    (s.dr.depth ≠ 512 → s.dr.links.length < 16 → s.dr.pc.toNat % 4 = 0 → Goes (.call off) s target push) ∧
    (s.dr.depth ≠ 512 → s.dr.links.length < 16 → fits s [srcS a.toNat] = true → (sreg s.dr a.toNat).toNat % 4 = 0 →
      Goes (.callr a ea) s (sreg s.dr a.toNat) push) ∧
    (∀ top rest, s.dr.depth ≠ 0 → s.dr.links = top :: rest → top.toNat % 4 = 0 →
      Goes .ret s top fun d => { d with links := rest, depth := d.depth - 1 }) ∧
    (fits s [srcS a.toNat] = true → (sreg s.dr a.toNat).toNat % 4 = 0 → Goes (.jmpr a ea) s (sreg s.dr a.toNat) id) ∧
    (s.dr.depth = 512 → Stops (.call off) s 0x0B 0 (s.dr.sbase + 0x1000).toNat ∧
      (fits s [srcS a.toNat] = true → Stops (.callr a ea) s 0x0B 0 (s.dr.sbase + 0x1000).toNat)) ∧
    (s.dr.depth = 0 → Stops .ret s 0x0B 0 (s.dr.sbase - 8).toNat) ∧
    (fits s [srcS a.toNat] = true → (sreg s.dr a.toNat).toNat % 4 ≠ 0 →
      Stops (.jmpr a ea) s 0x14 0 0 ∧ (s.dr.depth ≠ 512 → Stops (.callr a ea) s 0x14 0 0)) ∧
    (∀ top rest, s.dr.depth ≠ 0 → s.dr.links = top :: rest → top.toNat % 4 ≠ 0 → Stops .ret s 0x14 0 0)

/-- 05 R122: `mode.get` copies MODE into S[sd], or waits or stops when sd is empty; a word with a nonzero reserved field is none. -/
def Obligations.ModeGetResult : Prop :=
  ∀ (s : State) (d : BitVec 6) (ed : Bool),
    (fits s [dstS d.toNat ed] = true → Does (.modeGet d ed) s fun r => setS r d.toNat (r.mode.setWidth 64)) ∧
    (d.toNat < s.dr.ns → isFull s .scl d.toNat = false →
      Waits (.modeGet d false) s (.reg .scl d.toNat) ∧ Stops (.modeGet d true) s 0x05 (256 + d.toNat) 0) ∧
    ∀ x : BitVec 18, decodeTableWord 32 (0x36 * 2 ^ 24 + d.toNat * 2 ^ 18 + x.toNat) =
      if x.toNat < 2 then some (.modeGet d (x.toNat == 1)) else none

/-- 05 R121, R123: MODE is written whole and field by field; no other field changes, a value that the field does not accept stops the
instruction with cause 0x02, and `mode.set` hands back the old value. -/
def Obligations.ModeResult : Prop :=
  (∀ (s : State) (d a : BitVec 6) (ea ed : Bool) (fld : BitVec 4) (v : BitVec 6),
    (fits s [srcS a.toNat ea, dstS d.toNat ed] = true →
      (modeOk64 s.dr (sreg s.dr a.toNat) = true →
        Does (.modeSet d a ea ed) s fun r => { setS r d.toNat (r.mode.setWidth 64) with mode := (sreg r a.toNat).setWidth 32 }) ∧
      (modeOk64 s.dr (sreg s.dr a.toNat) = false → Stops (.modeSet d a ea ed) s 0x02 0 0)) ∧
    (modeFldOk s.dr.ns fld.toNat v = true → Does (.modeFld fld v) s fun r => { r with mode := modeWith r.mode fld.toNat v }) ∧
    (modeFldOk s.dr.ns fld.toNat v = false → Stops (.modeFld fld v) s 0x02 0 0)) ∧
  (∀ (m : BitVec 32) (v : BitVec 6),
    ∀ p ∈ ([(0, 0, 4), (1, 4, 4), (2, 8, 3), (3, 11, 6), (4, 17, 6), (5, 23, 2), (6, 25, 1), (7, 26, 1), (8, 27, 1), (9, 28, 1)] :
      List (Nat × Nat × Nat)), ∀ i, i < 32 →
      (modeWith m p.1 v).getLsbD i =
        if p.2.1 ≤ i ∧ i < p.2.1 + p.2.2 then v.getLsbD (i - p.2.1) else m.getLsbD i)

/-- 05 R120, 01 R17, 16 R354: `nop` takes one slot and does nothing; a `yield` that has nothing to wait for does as much, and one that has
waited for the others, or 256 cycles, becomes ready and then goes on; a `regang` that all siblings of its sub-core have reached, or
that has waited 64 cycles, goes on, and those siblings that stand there become ready; one that has to wait waits from now on. -/
def Obligations.PauseResult : Prop :=
  ∀ s : State,
    let ready (d : Drove) : Drove := { d with cond := .ready, since := s.cycle, waited := true }
    Does .nop s id ∧
    ((∀ t, s.dr.cond ≠ .waiting (.yield t)) →
      (s.dr.waited = true ∨ yielded s s.cycle = true → Does .yield s id) ∧
      (s.dr.waited = false → yielded s s.cycle = false → Waits .yield s (.yield s.cycle))) ∧
    (∀ t, s.dr.cond = .waiting (.yield t) → 256 ≤ s.cycle - t ∨ yielded s t = true → exec .yield s = .next (onDr s ready)) ∧
    (∀ d t, s.dr.uid = d → s.dr.cond = .waiting (.yield t) → 256 ≤ s.cycle - t → exec (.yieldTimeout d) s = .next (onDr s ready)) ∧
    (s.dr.waited = true → Does .regang s id) ∧
    (s.dr.waited = false →
     let here := (subcoreSiblings s).filter (atRegang s)
     let free : State :=
      { s with dr := { s.dr with waited := true }, droves := mapIf (fun d => here.any fun x => x.uid == d.uid) ready s.droves }
     (here.length = (subcoreSiblings s).length ∨ regangOver s = true →
       ∃ t, exec .regang s = .next t ∧ t.bare = (retire free).bare) ∧
     (∀ t, s.dr.cond = .waiting (.regang t) → 64 ≤ s.cycle - t →
       ∃ u, exec (.regangTimeout s.dr.uid) s = .next u ∧ u.bare = (onDr free ready).bare) ∧
     (here.length ≠ (subcoreSiblings s).length → (∀ t, s.dr.cond ≠ .waiting (.regang t)) → Waits .regang s (.regang s.cycle)))

/-- 17 R363, R364: a stop writes the fault record at FREC, counts the context's stop sequence up, and holds the drove with the address
at which it resumes; its registers, MODE, PC and link stack are unchanged. -/
def Obligations.StopsWriteRecord : Prop :=
  ∀ (s t : State) (i : StopInfo), let u := partGang s s.dr.uid
    frecBusy u u.dr = false →
    vaPut u s.dr.ctx s.dr.frec.toNat (recordBytes s.dr i.cause i.kind i.step i.pc i.addr i.mask i.info i.resume
      ((ctxOf s s.dr.ctx).elim 0 (·.stopSeq)) (csbField s s.dr.ctx 4 2)) = (none, t) →
    (takeStop s i).mem.hbm = t.mem.hbm ∧ (takeStop s i).dr.cond = .stopped ∧ (takeStop s i).dr.s = s.dr.s ∧
    (takeStop s i).dr.v = s.dr.v ∧ (takeStop s i).dr.mode = s.dr.mode ∧ (takeStop s i).dr.pc = s.dr.pc ∧
    (takeStop s i).dr.links = s.dr.links ∧ (takeStop s i).dr.depth = s.dr.depth ∧
    (∀ c, ctxOf s s.dr.ctx = some c → (ctxOf (takeStop s i) s.dr.ctx).map (·.stopSeq) = some ((c.stopSeq + 1) % 2 ^ 32)) ∧
    (takeStop s i).dr.stop.any (fun x => x.cause == i.cause && x.resume == BitVec.ofNat 64 (i.resume.toNat / 4 * 4)) = true

/-- 05 R120, 11 R256, 17 R363: `brk` stops with cause 0x08 and `trap` with 0x09, each with its code, outside a microprogram at its own PC,
and resumes at PC + 4. -/
def Obligations.BreakAndTrapStop : Prop :=
  ∀ (s : State) (c : BitVec 24), s.dr.micro = none →
    let u := account (fun _ => false) s 1
    exec (.brk c) s = .next (takeStop u { cause := 0x08, info := c.toNat, pc := s.dr.pc, resume := s.dr.pc + 4 }) ∧
    exec (.trap c) s = .next (takeStop u { cause := 0x09, info := c.toNat, pc := s.dr.pc, resume := s.dr.pc + 4 })

/-- 05 R111: the twenty-four scalar register forms, of two sources and of one. -/
def Obligations.ScalarRegisterResult : Prop :=
  (∀ p ∈ scalarThree, ∀ (d a b : BitVec 6) (ea eb ed : Bool) (s : State),
    fits s [srcS a.toNat ea, srcS b.toNat eb, dstS d.toNat ed] = true →
    Does (p.1 d a b ea eb ed) s fun r => setS r d.toNat (p.2 (sreg r a.toNat) (sreg r b.toNat) (sreg r d.toNat))) ∧
  (∀ p ∈ scalarTwo, ∀ (d a : BitVec 6) (ea ed : Bool) (s : State), fits s [srcS a.toNat ea, dstS d.toNat ed] = true →
    Does (p.1 d a ea ed) s fun r => setS r d.toNat (p.2 (sreg r a.toNat)))

/-- 05 R112: the nine immediate forms: their words, their effects, and their waits for an empty register. -/
def Obligations.ScalarImmediateResult : Prop :=
  (∀ p ∈ scalarImms, ∀ (d a : BitVec 6) (i : BitVec 12) (s : State),
    (fits s [srcS a.toNat, dstS d.toNat] = true → Does (p.1 d a i) s fun r => setS r d.toNat (p.2 (sreg r a.toNat) (i.signExtend 64))) ∧
    (d.toNat < s.dr.ns → a.toNat < s.dr.ns →
      (isFull s .scl a.toNat = false → Waits (p.1 d a i) s (.reg .scl a.toNat)) ∧
      (isFull s .scl a.toNat = true → isFull s .scl d.toNat = false → Waits (p.1 d a i) s (.reg .scl d.toNat)))) ∧
  (∀ p ∈ scalarShifts, ∀ (d a n : BitVec 6) (s : State),
    (fits s [srcS a.toNat, dstS d.toNat] = true → Does (p.1 d a n) s fun r => setS r d.toNat (p.2 (sreg r a.toNat) n.toNat)) ∧
    (d.toNat < s.dr.ns → a.toNat < s.dr.ns →
      (isFull s .scl a.toNat = false → Waits (p.1 d a n) s (.reg .scl a.toNat)) ∧
      (isFull s .scl a.toNat = true → isFull s .scl d.toNat = false → Waits (p.1 d a n) s (.reg .scl d.toNat)))) ∧
  (∀ (d a n : BitVec 6) (i : BitVec 12), let at' (op k : Nat) := decodeTableWord 32 (op * 2 ^ 24 + d.toNat * 2 ^ 18 + a.toNat * 2 ^ 12 + k)
    at' 0x19 i.toNat = some (.saddi d a i) ∧ at' 0x1A i.toNat = some (.sandi d a i) ∧ at' 0x1B i.toNat = some (.sori d a i) ∧
    at' 0x1C i.toNat = some (.sxori d a i) ∧ at' 0x20 i.toNat = some (.seqi d a i) ∧ at' 0x21 i.toNat = some (.slti d a i) ∧
    at' 0x1D n.toNat = some (.sshli d a n) ∧ at' 0x1E n.toNat = some (.sshri d a n) ∧ at' 0x1F n.toNat = some (.ssrai d a n) ∧
    ∀ op ∈ [0x1D, 0x1E, 0x1F], 64 ≤ i.toNat → at' op i.toNat = none)

/-- 05 R113: the two constant forms: their words, their effects, their wait for an empty sd, and how `sli` and three `slui` build any
64-bit value. -/
def Obligations.ScalarConstantResult : Prop :=
  (∀ (d : BitVec 6) (i : BitVec 18) (s : State),
    (fits s [dstS d.toNat] = true →
      Does (.sli d i) s (fun r => setS r d.toNat (i.signExtend 64)) ∧
      Does (.slui d i) s fun r => setS r d.toNat ((sreg r d.toNat <<< 18) ||| i.setWidth 64)) ∧
    (d.toNat < s.dr.ns → isFull s .scl d.toNat = false → Waits (.sli d i) s (.reg .scl d.toNat) ∧ Waits (.slui d i) s (.reg .scl d.toNat)) ∧
    decodeTableWord 32 (0x22 * 2 ^ 24 + d.toNat * 2 ^ 18 + i.toNat) = some (.sli d i) ∧
    decodeTableWord 32 (0x23 * 2 ^ 24 + d.toNat * 2 ^ 18 + i.toNat) = some (.slui d i)) ∧
  (∀ (v : W64) (i : BitVec 18), i.extractLsb' 0 10 = v.extractLsb' 54 10 →
    let next (x : W64) (c : BitVec 18) : W64 := (x <<< 18) ||| c.setWidth 64
    next (next (next (i.signExtend 64) (v.extractLsb' 36 18)) (v.extractLsb' 18 18)) (v.extractLsb' 0 18) = v)

/-- 06 R129-R134: integer arithmetic fitted to its type, shifts and counts, per element; bit operations, selects, moves, broadcast and
lane numbers on raw lanes. -/
def Obligations.VectorIntegerResult : Prop :=
  ∀ (s : State) (d a b : BitVec 7) (n : BitVec 6) (ea eb ed : Bool),
    ∀ v ∈ intForms s d a b ea eb ed ++ rawForms s d a b n ea eb ed ++ shiftForms s d a b ea eb ed, v.Runs s

/-- 06 R135-R137, R139-R151: floating-point forms, conversions and regroupings. -/
def Obligations.FloatResult : Prop :=
  ∀ (s : State) (d a b : BitVec 7) (ea eb ed : Bool), ∀ v ∈ fpForms s d a b ea eb ed ++ convertForms s d a b ea eb ed, v.Runs s

/-- 08 R172, R173: quad exchanges and differences. -/
def Obligations.QuadResult : Prop :=
  ∀ (s : State) (d a : BitVec 7) (n : BitVec 2) (ea ed : Bool), ∀ v ∈ quadForms s d a n ea ed, v.Runs s

/-- 07 R155-R167: expansion forms, error-free transforms and conversions of expansions. The model's own here: the sign of an `xmul`
factor whose words sum to zero and the flags of a remainder that is dropped (notes/assumptions, entry 29), the +0 of lower zero words
and the flags of error words (entry 12). -/
def Obligations.ExpansionResult : Prop :=
  ∀ (s : State) (d a b : BitVec 7) (code : BitVec 2) (ea eb ed : Bool),
    ∀ v ∈ expansionForms s d a b ea eb ed ++ eftForms s d a b ea eb ed ++ [xcvtForm s d a code ea ed], v.Runs s

/-- 06 R132, R142, 07 R166: every compare, into a mask. -/
def Obligations.CompareResult : Prop :=
  ∀ (s : State) (x a : BitVec 7) (d : BitVec 6) (ea eb : Bool),
    ∀ v ∈ allCompares s x a d ea eb, v.Runs s d

/-- 06 R127, R142, 07 R166, 08 R179, R180: with FEX 1, an invalid operation in an active lane, or of a scan or a reduction, stops the
instruction with cause 0x28 before it has any effect. -/
def Obligations.InvalidOperationStops : Prop :=
  ∀ (s : State) (d a b : BitVec 7) (n : BitVec 6) (k : BitVec 2) (c : BitVec 4) (ea eb ed : Bool),
    (∀ v ∈ allForms s d a b n k ea eb ed, v.invalid s = true → Stops v.i s 0x28 0 0) ∧
    (∀ v ∈ allCompares s a b n ea eb, v.invalid s = true → Stops v.i s 0x28 0 0) ∧
    (∀ v ∈ laneForms s d a b n c ea eb ed, v.ready s = true → v.invalid s = true → Stops v.i s 0x28 0 0)

/-- 08 R175-R180: the lane instructions. The model's own here: the first value of a scan keeps its word (notes/assumptions, entry 29),
and a scan or reduction collects the flags of every combination that a lane receives (entry 12). -/
def Obligations.LaneResult : Prop :=
  ∀ (s : State) (d a b : BitVec 7) (sd : BitVec 6) (c : BitVec 4) (ea eb ed : Bool),
    ∀ v ∈ laneForms s d a b sd c ea eb ed, v.Runs s

/-- 06 R138, 02 R66, R67: a random word in each lane, from the key, the lane's global number and RCTR; RCTR advances by one
whether or not a lane is active, and RWRAP records its wrap. -/
def Obligations.RandomResult : Prop :=
  ∀ (s : State) (d : BitVec 7) (ed : Bool) (f : Nat → LaneOut),
    (f = fun l => { words := [randWord (etOf s) (mix s.dr.rkey (BitVec.ofNat 64 (s.dr.droveId.toNat * 64 + l)) s.dr.rctr)] }) →
    fits s [dstV d.toNat] = true → masksFull s = true → (isF (etOf s) || isI (etOf s) || etOf s == 9) = true →
    ∃ d' : Drove, (activeMask s.dr = 0 → d' = s.dr) ∧ (activeMask s.dr ≠ 0 → LanesInto s.dr d' [d.toNat] f) ∧
      Does (.vrand d ed) s fun _ => { d' with rctr := d'.rctr + 1, rwrap := d'.rwrap || d'.rctr == BitVec.allOnes 64 }

/-- 09 R181-R184, R193, R194, 12 R262: a vector load leaves its drove as one request with an access per participating lane; its
destinations become empty and the drove goes on. -/
def Obligations.LoadIssue : Prop :=
  ∀ (s : State) (vt : BitVec 7) (sb : BitVec 6) (va : BitVec 7) (sz : BitVec 2) (ex sc : Bool), ∀ v ∈ loadForms s vt sb va sz ex sc,
    v.loads s sb va = true →
    (activeMask s.dr = 0 → Does v.i s id) ∧
    (activeMask s.dr ≠ 0 → Leaves v.i s (retire (post (onDr s fun d => emptyV d vt.toNat (v.two s))
      { Req.fresh s v.kind (2 ^ sz.toNat) (v.loadAccs s) with dst := vt.toNat, dst2 := v.two s, priv := v.priv })))

/-- 09 R181, R185, R193-R196, 19 R406: a vector store leaves its drove as one store-buffer entry with an access per active lane, that
holds the lane's address and data; no register changes. -/
def Obligations.StoreIssue : Prop :=
  ∀ (s : State) (vt : BitVec 7) (sb : BitVec 6) (va : BitVec 7) (sz : BitVec 2) (sc : Bool), ∀ p ∈ storeForms s vt sb va sz sc,
    p.1.stores s p.2 sb va = true →
    (activeMask s.dr = 0 → Does p.1.i s id) ∧
    (activeMask s.dr ≠ 0 → Leaves p.1.i s (postStore s { Req.fresh s p.1.kind (2 ^ sz.toNat) (p.1.storeAccs s) with priv := p.1.priv } (p.1.sync s p.2)))

/-- 09 R190, R197: scalar loads, stores and prefetches. -/
def Obligations.ScalarMemoryIssue : Prop :=
  ∀ (s : State) (t sb : BitVec 6) (imm : BitVec 10) (sz : BitVec 2),
    let n := 2 ^ sz.toNat
    let a := (sreg s.dr sb.toNat + imm.signExtend 64 * 8).toNat
    plainFault a n = none → acqPending s = false →
    (fits s [srcS sb.toNat, dstS t.toNat] = true → ∀ p ∈ scalarLoads,
      Leaves (p.1 t sb imm sz) s (retire (post (onDr s fun d => markS d t.toNat false)
        { Req.fresh s (.lds p.2) n [Acc.fresh s 0 a n 0 false] with dst := t.toNat }))) ∧
    (fits s [srcS sb.toNat, srcS t.toNat] = true → sbcnt s s.dr.uid < 16 → ∀ p ∈ scalarStores,
      (syncStore s p.2 a = false ∨ s.dr.turn = true) →
      Leaves (p.1 t sb imm sz) s (postStore s (Req.fresh s (.store p.2) n
        [{ Acc.fresh s 0 a n ((sreg s.dr t.toNat).toNat % 2 ^ (8 * n)) false with y := 1 }]) (syncStore s p.2 a)))

/-- 09 R197-R199: prefetches, cache maintenance and fences. -/
def Obligations.MaintenanceIssue : Prop :=
  ∀ (s : State) (tgt : BitVec 2) (sb : BitVec 6) (va : BitVec 7) (sz : BitVec 2) (sc : Bool) (a l : BitVec 6), acqPending s = false →
    (fits s [srcS sb.toNat, srcV va.toNat] = true → masksFull s = true →
      let as := (activeLanes s.dr).filterMap fun l =>
        let x := mAddr s sb va sz sc l
        if (plainFault x (2 ^ sz.toNat)).isSome || routeOf x != 0 then none else some (Acc.fresh s l x (2 ^ sz.toNat) 0 false)
      (as = [] → Does (.pref tgt sb va sz sc) s id) ∧
      (as ≠ [] → Leaves (.pref tgt sb va sz sc) s (retire (post s (Req.fresh s (.pref tgt.toNat) (2 ^ sz.toNat) as))))) ∧
    (fits s [srcS a.toNat, srcS l.toNat] = true → (a = 0 → l = 0) →
      let lo := (sreg s.dr a.toNat).toNat
      let n := (sreg s.dr l.toNat).toNat
      let whole := a.toNat == 0
      (∃ t, exec (.vinv a l) s = .next t ∧ t.dr.pc = (retire s).dr.pc ∧
        ∀ x ∈ t.coh.l1, x ∈ s.coh.l1 ∧
          (x.core = s.dr.core → x.reg = false → x.owned = false → inRange whole s.dr.ctx x.ctx lo n x.va 128 = false)) ∧
      (sbcnt s s.dr.uid < 16 →
        Leaves (.vwb a l) s (retire (post s (Req.fresh s (.vwb whole) 0 [{ Acc.fresh s 0 lo n 0 false with st := .done }]))))) ∧
    (loadsOut s = false →
      Takes .fenceAcq s [] (fun s => retire (acquireDrop s)) ∧
      (sbcnt s s.dr.uid = 0 → Does .fenceRel s id ∧ Takes .fenceSc s [] fun s => retire (acquireDrop s)))

/-- 09 R200-R206: an atomic leaves its drove as one request with an access per active lane, that holds the operand and the swap
value, and waits for its translation probe; one that lies in the scratchpad aperture alone needs none. `satom` acts once, on
S[sb] + S[so], whatever the masks hold. -/
def Obligations.AtomicIssue : Prop :=
  (∀ (s : State) (d : BitVec 7) (sb : BitVec 6) (va : BitVec 7) (p : BitVec 4), ∀ v ∈ atomForms s d sb va p, v.ready s d sb va = true →
    (activeMask s.dr = 0 → Does v.i s id) ∧
    (activeMask s.dr ≠ 0 → Takes v.i s [srcS sb.toNat, srcV va.toNat, srcV d.toNat false (if v.two then 2 else 1) (if v.two then 2 else 1)]
      fun s => startAtomic s { Req.fresh s v.kind 4 (atomAccs s d.toNat sb.toNat va.toNat v.two) with dst := d.toNat })) ∧
  (∀ (s : State) (d sb so : BitVec 6) (p : BitVec 4),
    let k := if p = 7 then 2 else 1
    let us : List Use := [srcS sb.toNat, srcS so.toNat, { cls := .scl, base := d.toNat, n := k, align := k }]
    fits s us = true → aopTypes p.toNat (modeET s.dr.mode) = true → mayGo s = true → acqPending s = false →
    atomFault s.dr (sreg s.dr sb.toNat + sreg s.dr so.toNat).toNat = none →
    Takes (.satom d sb so p) s us fun s => startAtomic s
      { Req.fresh s (.satom p.toNat) 4 [{ Acc.fresh s 0 (sreg s.dr sb.toNat + sreg s.dr so.toNat).toNat 4 ((sreg s.dr d.toNat).toNat % 2 ^ 32) false with
          y := if p = 7 then (sreg s.dr (d.toNat + 1)).toNat % 2 ^ 32 else 0 }] with dst := d.toNat })

/-- 15 R328-R331: a request that its home may serve at once is served whole in one step; each row serves the requests of its
own kind. -/
def Obligations.HomeServes : Prop :=
  ∀ (s : State) (r j : Nat) (q : Req) (a : Acc), accOf s r j = some (q, a) → homeNow s q j a = true →
    (∀ p ∈ ([(.homeOLoadMiss, loadEvent s .oLoad), (.homeILoadMiss, loadEvent s .iLoad), (.homeSLoadMiss, loadEvent s .sLoad),
        (.homeWLoad, loadEvent s .wLoad), (.homeOwnershipRequest, loadEvent s .own),
        (.homeWriteThrough, fun q a w => (match w with | .write _ _ => true | _ => false) && !ownsMasked s q a),
        (.homeAtomic, fun q _ _ => atomicKind q.kind), (.ownerWmaskAccess, fun q a _ => !atomicKind q.kind && ownsMasked s q a)] :
        List ((Nat → Nat → Instr) × (Req → Acc → Want → Bool))),
      p.2 q a (wantOf q a) = true → exec (p.1 r j) s = .next (homeTook s r j q a)) ∧
    (r ≠ 0 → a.aged.isSome = true → accQueued s r j = false → exec (.requestRefusedResend r j) s = .next (homeTook s r j q a)) ∧
    (∀ f x, flockOf s f = some x → (meetOf x).req = some r → j = 0 → exec (.wideBarrierArrival f) s = .next (homeTook s r j q a))

/-- 15 R329, R330, 12 R262: what a load served at its home receives is the granule's latest bytes, with the drove's own pending
stores over them; while its snoop-filter set has room (no victim is then brought to I, R337), a write to a granule that nobody owns
leaves its bytes in memory and no other byte changed, and an atomic returns the old word and leaves the new one (09 R201). -/
def Obligations.HomeValues : Prop :=
  ∀ (s : State) (r j : Nat) (q : Req) (a : Acc), accOf s r j = some (q, a) → homeNow s q j a = true →
    (readKind q.kind = true → accOf (homeTook s r j q a) r j =
      some ({ q with accs := modNth (fun x => { x with r := leNat (forwarded s q a (homeBytes s a.dpa a.size)), st := .done }) q.accs j },
        { a with r := leNat (forwarded s q a (homeBytes s a.dpa a.size)), st := .done })) ∧
    ((sfWay (sfPeers s (granOf a.dpa))).isSome = true →
    (∀ m stm, writes q.kind = true → atomicKind q.kind = false → wantOf q a = .write m stm → hasOwner (dirOf s (granOf a.dpa)) = false →
      (homeTook s r j q a).mem.hbm = memPut s.mem.hbm a.dpa (storeBytes a)) ∧
    (∀ p, q.kind = .atom p true ∨ q.kind = .atom p false ∨ q.kind = .red p ∨ q.kind = .satom p →
      let m := leNat (homeBytes s a.dpa a.size)
      (homeTook s r j q a).mem.hbm = memPut s.mem.hbm a.dpa (leBytes 4 (atomNew p (modeET q.mode) m a.x a.y)) ∧
      (accOf (homeTook s r j q a) r j).map (fun x => (x.2.r, x.2.st)) = some (m, .done)))

/-- 13 R283, 09 R188, R191, R192, R194, 18 R382, R394: what an access meets on its way: a hit in the issuing L1, its translation at the
owning die, a scratchpad bank, a peer or the host adapter. A fault stays with the access, until it parks its drove. The model's own
here: cause 0x13 for an odd vt that its page decides (notes/assumptions, entry 13), and the notify slots as the host bytes at VA[61:0]
(entry 32). -/
def Obligations.AccessServes : Prop :=
  ∀ (s : State) (r j : Nat) (q : Req) (a : Acc), accOf s r j = some (q, a) →
    (dieReady s q j a = true →
      let serves (t : State) : Prop := exec (.owningDieAccess r j) s = .next t
      (∀ l, readKind q.kind = true → hitLine s q a = some l →
        (aetMeets s (l.dpa + a.va % 128) a.size = false → serves (hitAcc s q j a l)) ∧
        (aetMeets s (l.dpa + a.va % 128) a.size = true → serves (accFault s q j a 0x17))) ∧
      (readKind q.kind = false ∨ hitLine s q a = none →
        (∀ l t, dieAccess s q.ctx (localOf s a.va) (if writes q.kind then .write else .read) true = (.inl l, t) →
          (bxBreaks t q a = false → serves (sendAcc t q j l)) ∧
          (bxBreaks t q a = true → serves (if writes q.kind then refuseStore t q else accFault t q j a 0x13))) ∧
        (∀ c t, dieAccess s q.ctx (localOf s a.va) (if writes q.kind then .write else .read) true = (.inr c, t) →
          (c = 0x12 → serves (accFault (meetCompressed t q a) q j a c)) ∧
          (c ≠ 0x12 → (c ≠ 0x16 ∧ c ≠ 0x17) ∨ bxBreaks t q a = false → serves (accFault t q j a c)) ∧
          (c = 0x16 ∨ c = 0x17 → bxBreaks t q a = true →
            serves (if writes q.kind then refuseStore t q else accFault t q j a 0x13))))) ∧
    (q.probing = false → spadAcc q.kind a = true → (a.st = .new ∨ a.st = .sent) → heldBack s q j a = false →
      let p := spadBase (padOf q.core) + spadAddr a
      (readKind q.kind = true → exec (.scratchpadBankAccess r j) s = .next (finishAcc s q j a (memBytes s.mem.spad p a.size))) ∧
      (let m := memRead s.mem.spad p a.size
       readKind q.kind = false → atomicKind q.kind = true → ∃ t, exec (.scratchpadBankAccess r j) s = .next (doneAcc t q j m) ∧
         t = onSpad s (fun x => memWrite x p 4 (atomWord q.kind (modeET q.mode) m a.x a.y)) ∧
         t.mem.spad = memWrite s.mem.spad p 4 (atomWord q.kind (modeET q.mode) m a.x a.y)) ∧
      (readKind q.kind = false → atomicKind q.kind = false → ∃ t, exec (.scratchpadBankAccess r j) s = .next (doneAcc t q j 0) ∧
        t = onSpad s (fun x => memWrite x p a.size a.x) ∧ t.mem.spad = memWrite s.mem.spad p a.size a.x)) ∧
    (q.probing = false → isPeer s a.va = true → (a.st = .new ∨ a.st = .sent) → heldBack s q j a = false → ∀ cause ws,
      let t := peerWrites s ws
      exec (.peerAccessRequest (.outgoing r j cause ws)) s = .next (
        match peerLocal s q.ctx (bits a.va 61 52) with
        | some c => accFault t q j a c
        | none => if cause = 0 then farApply t q j a (a.va % 2 ^ 62) (·.mem.peer) fun s m => { s with mem := { s.mem with peer := m } }
                  else accFault t q j a cause)) ∧
    (q.probing = false → routeOf a.va = 2 → a.st = .new → spadAcc q.kind a = false → heldBack s q j a = false →
      (readKind q.kind = true ∨ a.va % 2 ^ 62 < 0x3FFFFFFFFFFFFF00 → exec (.route10Ack r j []) s =
        .next (farApply s q j a (a.va % 2 ^ 62) (·.mem.host) fun s m => { s with mem := { s.mem with host := m } })) ∧
      (readKind q.kind = false → 0x3FFFFFFFFFFFFF00 ≤ a.va % 2 ^ 62 → exec (.route10Ack r j []) s = .next (doneAcc
        { s with dev := { s.dev with hostInts := s.dev.hostInts + 1,
                                     notify := s.dev.notify ||| (1#64 <<< ((a.va % 2 ^ 62 - 0x3FFFFFFFFFFFFF00) / 8)) } } q j 0))) ∧
    (∀ c x d, faultedAcc q = some (c, x) → droveOf s q.drove = some d → hasPark s r = false → (∀ p ∈ s.sch.parks, p.req ≠ some r) →
      (isLoad q = true ∨ (atomicKind q.kind = true ∧ q.probing = false) →
        exec (.loadLaneFault r) s = .next (park s 1 c d q.pc x.va (some r) true)) ∧
      (∀ p, q.kind = .store p ∨ q.kind = .stm → exec (.storeLaneFault r) s = .next (park s 2 c d q.pc x.va (some r) false)) ∧
      (∀ v p, q.kind = .tst v p → exec (.storeLaneFault r) s = .next (park s 5 c d q.pc x.va (some r) false)) ∧
      (∀ v p, q.kind = .tld v p → (d.cond ≠ .exited → exec (.tldRowFault r) s = .next (park s 4 c d q.pc x.va (some r) true)) ∧
        (d.cond = .exited → exec (.tldRowFault r) s = .next (cancelTld s q)))) ∧
    (q.probing = true → probeWaits s q = false → (droveOf s q.drove).isSome = true → ∀ as t, probeAll s q q.accs = (.inl as, t) →
      let u := takeTurn (select t q.drove) q
      let p := { u.2 with accs := as, probing := false }
      exec (.atomicProbeResult r) s = .next (departs (onReq u.1 r fun _ => p) p)) ∧
    (∀ u, lowOf q j = some u → lowBehind s u = false →
      (2 ^ 62 ≤ u.dpa → exec (.catomLowUpdate r j) s = .next (applyLow r j s)) ∧
      (u.dpa < 2 ^ 62 → inAet s u.dpa = false → homeFree s (granOf u.dpa) (lowParty s q j) .rmw = true →
        exec (.catomLowUpdate r j) s = .next (placeEntry (applyLow r j (homeOpen s (granOf u.dpa))) (granOf u.dpa)))) ∧
    (∀ c va l t, translate s (BitVec.ofNat 16 c) va = (.leaf l, t) → leafC l.attr = true →
      ∀ fail u, expandAt t (bits va 61 60) l.entry = (fail, u) → exec (.pageExpansionComplete c va) s = .next
        ((u.sch.parks.filter fun p => p.kind == 10 && parkExpands u (BitVec.ofNat 16 c) va p).foldl (fun s p => tableExpanded s fail p)
          (expansionDone u (BitVec.ofNat 16 c) va fail)))

/-- 01 R27, R29, 09 R183, R185, R201, R206: data that returns fills its registers, and they become full; data for a tag that no
longer matches is dropped and counted; a store whose bytes are all acknowledged leaves the store buffer. -/
def Obligations.ReturnsFillRegisters : Prop :=
  ∀ (s : State) (r : Nat) (q : Req), reqOf s r = some q →
    (isLoad q = true → ∀ d, droveOf s q.drove = some d →
      (d.gen = q.gen → allDone q = true → d.csumReq ≠ some r →
        exec (.loadReturn r) s = .next (onDrove (finishReq s r) q.drove (loadInto q))) ∧
      (d.gen = q.gen → d.csumReq = some r → exec (.loadReturn r) s = .next s) ∧
      (d.gen ≠ q.gen → exec (.loadReturn r) s = .next
        (if dropsAtReturn q then countCsb (dropReq s r) q.ctx 0x48 else dropReq s r))) ∧
    (∀ p a x, q.kind = .lds p → q.accs = [a] → isFull s .scl q.dst = false →
      loadInto q x = markS (setS x q.dst (BitVec.ofNat 64 a.r)) q.dst true) ∧
    (∀ p x, q.kind = .load p false → q.size = 4 → q.dst2 = false → q.dst < 128 → (∀ a ∈ q.accs, leafEf a.attr = 0) →
      (∀ a ∈ q.accs, (q.accs.find? fun y => y.lane == a.lane) = some a ∧ a.size = 4 ∧ a.lane < 64) →
      (∀ a ∈ q.accs, vlane (loadInto q x) q.dst a.lane = BitVec.ofNat 32 a.r) ∧ (loadInto q x).vfull.getLsbD q.dst = true ∧
      (∀ n, n ≠ q.dst → vreg (loadInto q x) n = vreg x n) ∧ (loadInto q x).s = x.s ∧ (loadInto q x).pc = x.pc) ∧
    (storeKind q.kind = true → q.probing = false → entryDone s q = true → exec (.storeAck r) s = .next (finishReq s r)) ∧
    (q.probing = false → allDone q = true →
      (∀ p acq, q.kind = .atom p acq →
        let t := onDrove (finishReq s r) q.drove fun d =>
          markV (setV d q.dst (mkLanes fun l => match q.accs.find? fun a => a.lane == l && !a.helper with
            | some a => BitVec.ofNat 32 a.r
            | none => vlane d q.dst l)) q.dst true
        exec (.atomicReturn r) s = .next (if acq then epochSweep t q.core else t)) ∧
      (∀ a p, (q.accs.find? fun a => !a.helper) = some a →
        (q.kind = .satom p → exec (.atomicReturn r) s =
          .next (onDrove (finishReq s r) q.drove fun d => markS (setS d q.dst (BitVec.ofNat 64 a.r)) q.dst true)) ∧
        (q.kind = .rtake → exec (.atomicReturn r) s = .next (onDrove (finishReq s r) q.drove fun d =>
          setS (setS (markS (markS d q.dst true) (q.dst + 1) true) q.dst (BitVec.ofNat 64 a.r)) (q.dst + 1)
            (BitVec.ofNat 64 (a.r / 2 ^ 64)))))) ∧
    (∀ n d, q.kind = .sysrd n → droveOf s q.drove = some d →
      (d.gen = q.gen → exec (.slowSysrdReturn r) s = .next (onDrove (dropReq s r) q.drove fun x => markS (setS x q.dst
        (if n = 0x12 then (if d.det then q.split else BitVec.ofNat 64 s.cycle) else privRead s d n)) q.dst true)) ∧
      (d.gen ≠ q.gen → exec (.slowSysrdReturn r) s = .next (countCsb (dropReq s r) q.ctx 0x48)))

/-- 15 R325, R328, R329: a message reaches its holder, which gives up what the message asks for and acknowledges; the entry stays in T
with that message answered, and the last acknowledgement lets the request that caused T be applied, on the state that the copies left
amount to. An entry not in T takes the oldest request of its queue. -/
def Obligations.MessagesAnswered : Prop :=
  ∀ (s : State) (g : Nat), let e := dirOf s g
    (e.st ≠ .t → ∀ c cs, e.queue = c :: cs → exec (.directoryTComplete g) s = .next (serveCause s g c false)) ∧
    (e.st = .t →
    (∀ m, e.msgs.contains m = true → ∀ i, (i, m) ∈ ([(.recallToShared g, .recallShared), (.recall g, .recall)] : List (Instr × Msg)) ∨
        (∃ h, i = .invalidate g h ∧ m = .invalidate h) ∨ (∃ d, i = .update g d ∧ m = .update d) ∨
        (i = .claim g ∧ (∃ w, m = .claim w) ∧ e.msgs.find? (fun m => match m with | .claim _ => true | _ => false) = some m) →
      ∃ t, exec i s = .next t ∧ (dirOf t g).st = .t ∧ (dirOf t g).msgs = e.msgs.erase m ∧ t.reqs = s.reqs) ∧
    (∀ l, g % 128 = 0 → e.hown = false → ownedLine s e.owner g = some l →
      (e.msgs.contains .recallShared = true → ∃ t, exec (.recallToShared g) s = .next t ∧ (dirOf t g).base = .s ∧
        (dirOf t g).sharers = 1#64 <<< e.owner ∧ t.mem.hbm = mergeLine s.mem.hbm l e.wmask) ∧
      (e.msgs.contains .recall = true → ownAtomic s e = false → ∃ t, exec (.recall g) s = .next t ∧ (dirOf t g).base = .i ∧
        t.mem.hbm = mergeLine s.mem.hbm l e.wmask ∧ ∀ x ∈ t.coh.l1, sameL1 l x = false) ∧
      (∀ w, e.msgs = [.claim w] → ∃ t, exec (.claim g) s = .next t ∧ (dirOf t g).base = .w ∧ (dirOf t g).wmask = e.wmask ||| w ∧
        t.mem.hbm = mergeLine s.mem.hbm { l with dirty := l.dirty &&& bytesOf w } e.wmask)) ∧
    (∀ h, h < 64 → e.msgs.contains (.invalidate h) = true → ∃ t, exec (.invalidate g h) s = .next t ∧ t.mem = s.mem ∧
      (dirOf t g).sharers = e.sharers &&& ~~~(1#64 <<< h) ∧ ∀ l ∈ t.coh.l1, l.core = h → l.dpa = g → l.reg = false) ∧
    (e.msgs.contains (.invalidate 64) = true → ∃ t, exec (.invalidate g 64) s = .next t ∧ t.mem = s.mem ∧ (dirOf t g).host = false) ∧
    (∀ d, e.msgs.contains (.update d) = true → ∃ t, exec (.update g d) s = .next t ∧ t.mem = s.mem ∧ t.coh.l1 = s.coh.l1) ∧
    (e.msgs = [] → ∃ t, (dirOf t g).st = e.base ∧ (dirOf t g).cause = none ∧ (dirOf t g).queue = e.queue ∧ t.mem = s.mem ∧ t.reqs = s.reqs ∧
      (∀ c, e.cause = some c → exec (.directoryTComplete g) s = .next (serveCause t g c true)) ∧
      (e.cause = none → exec (.directoryTComplete g) s = .next (placeEntry t g))))

/-- 15 R331, R332, R340, R341, 14 R308, 17 R377: copies leave their holders. An owner writes its dirty words back, unless they are in WMASK,
and its granule takes state I (`vwb` keeps a clean copy); the host drops a clean one, a slice its line, an entry in error every copy;
an epoch tick drops what it stamped; an idle L1 gives up what it owns and sleeps. -/
def Obligations.CopiesLeave : Prop :=
  ∀ (s : State) (core g : Nat),
    (∀ l, ownedLine s core g = some l → g % 128 = 0 → hasOwner (dirOf s g) = true → ∃ t, exec (.ownerWriteBack core g) s = .next t ∧
      t.mem.hbm = mergeLine s.mem.hbm l (dirOf s l.dpa).wmask ∧ (dirOf t l.dpa).st = .i ∧ (∀ x ∈ t.coh.l1, sameL1 l x = false) ∧
      t.reqs = s.reqs ∧ t.dr = s.dr) ∧
    (∀ l, s.coh.l1.find? (fun l => l.core == core && l.dpa == g && l.dirty != 0 && s.reqs.any (vwbCovers s l)) = some l →
      g % 128 = 0 → hasOwner (dirOf s g) = true → l.owned = true → ∃ t, exec (.ownerVwbWriteBack core g) s = .next t ∧
        t.mem.hbm = mergeLine s.mem.hbm l (dirOf s l.dpa).wmask ∧ (dirOf t l.dpa).st = .s ∧ (dirOf t l.dpa).sharers = 1#64 <<< l.core ∧
        ∀ x ∈ t.coh.l1, sameL1 l x = true → x.owned = false ∧ x.reg = true ∧ x.dirty = 0) ∧
    exec (.directoryEntryUe g) s = .next (countRecord (recallAll s g) 0x1A49 0 64) ∧ (dirOf (recallAll s g) g).st = .i ∧
    (∀ die l, s.vc.lines.find? (fun l => l.die == die && !l.pin && (lineGranules l).contains g &&
        ((cdrOf s l.vc).map (·.place)) == some true) = some l →
      ∃ t, exec (.replicaLineLeave g die) s = .next t ∧ (∀ x ∈ t.vc.lines, sameVLine x l = false) ∧ t.mem = s.mem) ∧
    ((dirOf s g).host = true → (dirOf s g).st ≠ .t → ∃ t, exec (.hostCleanDrop g) s = .next t ∧ (dirOf t g).host = false ∧
      t.mem = s.mem ∧ t.coh.l1 = s.coh.l1) ∧
    (max 4096 (bits (privReg s 0xA5).toNat 31 0) ≤ s.cycle - (coreOf s core).ticked → core < s.coh.cores.length →
      ∃ t, exec (.epochTick core) s = .next t ∧ (coreOf t core).ticked = (coreOf s core).ticked + epochPeriod s ∧ t.mem = s.mem ∧
        ((coreOf s core).asleep = true → (coreOf t core).missed = true) ∧
        ((coreOf s core).asleep = false → (coreOf t core).epoch = ((coreOf s core).epoch + 1) % 65536 ∧
          ∀ l ∈ t.coh.l1, l.core = core → l.stamp = none)) ∧
    (coreBusy s core = false → core < 64 → core < s.coh.cores.length → (coreOf s core).asleep = false →
      (∀ l ∈ s.coh.l1, l.core = core → l.owned = true → evictable s l = true) →
      ∃ t, exec (.retentionSleepEnter core) s = .next t ∧ (coreOf t core).asleep = true) ∧
    ((coreOf s core).asleep = true → core < s.coh.cores.length → ∃ t, exec (.retentionWake core) s = .next t ∧
      (coreOf t core).asleep = false ∧ (coreOf t core).missed = false ∧ t.mem = s.mem ∧
      ((coreOf s core).missed = true → ∀ l ∈ t.coh.l1, l.core = core → (l.reg = true ∨ l.owned = true) ∧ l.stamp = none))

/-- 15 R335, 18 R395: host requests. A read registers the host, an ownership read makes it the owner with its bytes dirty, a write
leaves its bytes in memory, a write-back returns what the host owned. One that names no device memory has no effect (the model's
choice; notes/assumptions, entry 20). -/
def Obligations.HostRequests : Prop :=
  ∀ (s : State) (dpa : Nat) (data : List Byte) (en : BitVec 64), let g := granOf dpa
    (2 ^ 39 ≤ dpa → exec (.hrd dpa) s = .next s ∧ exec (.hrdx dpa data en) s = .next s ∧ exec (.hwr dpa data en) s = .next s) ∧
    (dpa < 2 ^ 39 → (∀ e ∈ s.coh.dir, e.g ≠ g) →
      ((sfWay (sfPeers s g)).isSome = true →
        (∃ t, exec (.hrd dpa) s = .next t ∧ (dirOf t g).st = .s ∧ (dirOf t g).host = true ∧ t.mem = s.mem) ∧
        (∃ t, exec (.hrdx dpa data en) s = .next t ∧ (dirOf t g).st = .o ∧ (dirOf t g).hown = true ∧
          (dirOf t g).hostDirty = hostBytes dpa data en ∧ t.mem = s.mem)) ∧
      (∃ t, exec (.hwr dpa data en) s = .next t ∧ t.mem.hbm = mergeBytes s.mem.hbm (hostBytes dpa data en) ∧ t.coh = s.coh)) ∧
    (hasOwner (dirOf s g) = true → (dirOf s g).hown = true → ∃ t, exec (.hwb dpa) s = .next t ∧
      t.mem.hbm = mergeBytes s.mem.hbm (dirOf s g).hostDirty ∧ (dirOf t g).st = .i)

/-- 10 R211, R213: a pass leaves its drove as one reservation, which holds what the drove may change afterwards: the registers or
slab descriptors of its operands, the types, and the head scale records; its destination tiles become empty. -/
def Obligations.PassIssue : Prop :=
  ∀ (s : State) (td : BitVec 4) (ka kb eta : Bool) (a b : BitVec 7),
    ∀ p ∈ ([(.mma, 0xD8, 1, fun x y => (isFX x && isFX y) || (isI8 x && isI8 y)), (.mmar, 0xD9, 2, fun x y => isFX x && isFX y),
        (.mmab, 0xDA, 1, fun x y => x == y && (x == 13 || x == 14))] :
        List ((BitVec 4 → Bool → BitVec 7 → Bool → BitVec 7 → Bool → Instr) × Nat × Nat × (Nat → Nat → Bool))),
    let et := modeET s.dr.mode
    let ta := if eta then modeST s.dr.mode else et
    let oa := opdAt s.dr ta ka a.toNat
    let ob := opdAt s.dr et kb b.toNat
    matrixReady s [opdUse ka a.toNat, opdUse kb b.toNat, useT td.toNat true p.2.2.1 p.2.2.1] = true → p.2.2.2 ta et = true →
    (ka = true ∧ kb = true ∨ s.dr.width = 64) → passVerdict s oa ob = .go → spadOut s = false → tableFull s (padOf s.dr.core) = false →
    ∃ (t : State) (x : Pass), exec (p.1 td ka a kb b eta) s = .next t ∧ t.eng.passes = s.eng.passes ++ [x] ∧ x.flock = s.dr.flock ∧
      x.pad = padOf s.dr.core ∧ x.td = td.toNat ∧ (x.pair = true ↔ p.2.1 = 0xD9) ∧
      x.opdA = { oa with scale := headRecord ta s.fl.fifoA } ∧ x.opdB = { ob with scale := headRecord et s.fl.fifoB } ∧
      x.granted = false ∧ x.prio = s.fl.prio ∧ x.since = s.cycle ∧ t.fl.tiles = s.fl.tiles ∧ x.posted = true ∧ t.fl.tfull.getLsbD td.toNat = false ∧
      (p.2.1 = 0xD9 → t.fl.tfull.getLsbD (td.toNat + 1) = false) ∧
      t.fl.fifoA = (if isBX ta then s.fl.fifoA.tail else s.fl.fifoA) ∧ t.fl.fifoB = (if isBX et then s.fl.fifoB.tail else s.fl.fifoB) ∧
      t.dr.pc = (retire s).dr.pc ∧ t.dr.s = s.dr.s ∧ t.dr.v = s.dr.v ∧ t.mem = s.mem ∧ t.reqs = s.reqs

/-- 10 R217, R220-R225: tile operations begin: their sources are read and their destinations become empty; `trd` and `twr` move a slice,
`tscl` appends a scale record, `tld` and `tst` leave as requests with an access per piece of each row. -/
def Obligations.TileIssue : Prop :=
  ∀ (s : State) (t u : BitVec 4) (p v : BitVec 7) (n m r i : BitVec 6) (rc : Bool),
    let ty := fun x : Nat => x == 0 || x == 3
    let et := modeET s.dr.mode
    let pair (x : BitVec 6) : Use := { cls := .scl, base := x.toNat, n := 2, align := 2 }
    let k (us : List Use) (n : Nat) := us ++ destTiles s t.toNat n
    let x := ((sreg s.dr r.toNat).toNat + i.toNat) % 128
    let row := sreg s.dr (n.toNat + 1)
    let base := (sreg s.dr n.toNat).toNat
    let nb := row.toNat
    let list := (sreg s.dr m.toNat).toNat
    let cnt := (sreg s.dr (m.toNat + 1)).toNat
    (t.toNat < s.dr.ntiles →
      (matrixReady s (k [] 1) = true → Takes (.tzero t) s (k [] 1) fun s => retire (startTile s 0 t.toNat 0 0 1)) ∧
      (matrixReady s (k [useT u.toNat] 1) = true →
        Takes (.tmov t u p) s (k [useT u.toNat] 1) (fun s => retire (startTile s 1 t.toNat u.toNat p.toNat 1)) ∧
        (ty (modeST s.dr.mode) = true → ty et = true →
          Takes (.tcvt t u) s (k [useT u.toNat] 1) fun s => retire (startTile s 2 t.toNat u.toNat 0 1))) ∧
      (p ≠ 0 → et = 0 → matrixReady s (k [useT u.toNat false 2 2] 1) = true →
        Takes (.tfold t u p) s (k [useT u.toNat false 2 2] 1) fun s => retire (startTile s 3 t.toNat u.toNat p.toNat 1)) ∧
      (matrixReady s (k [pair n] 1) = true → acqPending s = false → rowVerdict n.toNat s = .go →
        Takes (.tld t n) s (k [pair n] 1) fun s =>
          let q := { Req.fresh s (.tld t.toNat (rowPol row)) 4 (tileAccs s n.toNat fun _ _ _ => 0) with dst := t.toNat }
          retire (onFl (post s q) fun f => { markT f t.toNat false with tileOwner := f.tileOwner ++ [(t.toNat, q.id)] }))) ∧
    (t.toNat + 1 < s.dr.ntiles → t.toNat % 2 = 0 → et = 0 → matrixReady s (k [useT u.toNat false 2 2] 2) = true →
      Takes (.tfold t u 0) s (k [useT u.toNat false 2 2] 2) fun s => retire (startTile s 3 t.toNat u.toNat 0 2)) ∧
    (let sync := s.dr.det && (!rowSpace row && (rowAccs s.dr n.toNat).any fun x => syncStore s (rowPol row) x.2.1)
     matrixReady s [pair n, useT t.toNat] = true → acqPending s = false → rowVerdict n.toNat s = .go → sbcnt s s.dr.uid < 16 →
      (sync = false ∨ s.dr.turn = true) → Leaves (.tst t n) s (
        let q := { Req.fresh s (.tst t.toNat (rowPol row)) 4 (tileAccs s n.toNat fun i o m => rowBytes s.fl t.toNat i o m) with dst := t.toNat }
        postStore (startTile s 4 t.toNat 0 0 1) { q with id := s.uid + 1 } sync)) ∧
    (matrixReady s [srcS r.toNat, useT t.toNat, dstV v.toNat] = true → Does (.trd t rc r i v) s fun d =>
      setVm d v.toNat d.pres fun j => if rc then tileAt s.fl t.toNat j x else tileAt s.fl t.toNat x j) ∧
    (matrixReady s [srcS r.toNat, useT t.toNat true, srcV v.toNat] = true → Leaves (.twr t rc r i v) s (retire (onFl s fun f =>
      (List.range 64).foldl (fun f j =>
        if s.dr.pres.getLsbD j then
          if rc then tilePut f t.toNat j x (vlane s.dr v.toNat j) else tilePut f t.toNat x j (vlane s.dr v.toNat j)
        else f) f))) ∧
    (matrixReady s [pair n, pair m] = true → 1 ≤ nb → nb ≤ 256 → cnt ≤ 64 → base % 8 = 0 → list % 8 = 0 →
      inGrant s.dr base (1024 * nb) = true → (cnt = 0 ∨ inGrant s.dr list (8 * cnt) = true) → (cnt = 0 ∨ spadOut s = false) →
      corrOk (corrList s list cnt) = true →
      (if rc then s.fl.fifoB else s.fl.fifoA).length < 4 →
      Leaves (.tscl rc n m) s (retire (onFl s fun f =>
        let x : ScaleRec := { base := sreg s.dr n.toNat, nblk := nb, corr := corrList s list cnt }
        if rc then { f with fifoB := f.fifoB ++ [x] } else { f with fifoA := f.fifoA ++ [x] })))

/-- 10 R208, R211-R215, R221-R226, 16 R356, R357: what the engine does. The arbiter grants the first reservation when it has room; a
restored pass takes its place when the table has room; a reservation that has waited 1,024 or 4,096 cycles is marked with its age, and
nothing else changes; a pass that completes writes every element of its tiles, and a tile operation those of its destinations; no
other tile changes. How a restored pass waits for its place, and that FMTERR counts an escape once for each pass, are the model's
readings (notes/assumptions, entries 30 and 31). -/
def Obligations.MatrixEngine : Prop :=
  ∀ (s : State) (pad k : Nat),
    let withPasses (ps : List Pass) : State := { s with eng := { s.eng with passes := ps } }
    (∀ p, (waitingPasses s pad).find? (fun p => p.id == k) = some p →
      (runningPasses s pad).length < (if s.eng.mxmode.getLsbD pad then 4 else 1) →
      (∀ q ∈ waitingPasses s pad, q.id ≠ k → grantBefore s.cycle q p = false) →
      exec (.matrixGrant pad k) s = .next (withPasses
        (mapIf (fun q => q.id == k) (fun q => { q with granted := true, quad := s.eng.mxmode.getLsbD pad }) s.eng.passes))) ∧
    (∀ p, (waitingPasses s pad).find? (fun p => p.id == k) = none → nextPosted s pad = some p → p.id = k → tableFull s pad = false →
      exec (.matrixGrant pad k) s = .next (withPasses
        (mapIf (fun q => q.id == k) (fun q => { q with posted := true, since := s.cycle }) s.eng.passes))) ∧
    (let mark (p : Pass) : Nat := if 4096 ≤ s.cycle - p.since then 2 else if 1024 ≤ s.cycle - p.since then 1 else 0
     exec (.reservationAging pad k) s = .next (withPasses (s.eng.passes.map fun p =>
       if p.pad = pad ∧ p.id = k ∧ p.granted = false then { p with aged := max p.aged (mark p) } else p))) ∧
    (s.eng.mxpend.getLsbD pad = true → detOnPad s pad = false → tableEmpty s pad = true → pad < 16 →
      ∃ t, exec (.mxmodeApply pad) s = .next t ∧ t.eng.mxmode.getLsbD pad = s.eng.mxreq.getLsbD pad ∧ t.eng.mxpend.getLsbD pad = false) ∧
    (∀ p, (runningPasses s pad).find? (fun p => p.id == k) = some p →
      let m := passView (p.open s.mem.spad) s.fresh s.mem.spad
      let n := p.opdA.escapes (m 0) (spadBase pad) + p.opdB.escapes (m 0) (spadBase pad)
      let t := (List.range n).foldl (fun s _ => countLane16 s 0x8D (pad / 4)) { s with fresh := s.fresh + 16384 * (p.open s.mem.spad).length }
      let u := onFlock t p.flock (passTiles p m)
      exec (.passComplete pad k) s =
        .next (finishFlock { u with eng := { u.eng with passes := u.eng.passes.filter fun q => q.id != k } } p.flock) ∧
      (p.seen = [] → ∀ e, m e = s.mem.spad)) ∧
    (∀ (p : Pass) (m : Nat → Memory) (f : Flock) (i j : Nat), i < 128 → j < 128 →
      let x := passElem p.opdA p.opdB (m (128 * i + j)) (spadBase p.pad) (if p.quad then 4 else 16) (tileAt f p.td i j)
        (if p.pair then tileAt f (p.td + 1) i j else 0) i j
      tileAt (passTiles p m f) p.td i j = x.1 ∧ (p.pair = true → tileAt (passTiles p m f) (p.td + 1) i j = x.2) ∧
      ∀ t, t ≠ p.td → (p.pair = true → t ≠ p.td + 1) → tileAt (passTiles p m f) t i j = tileAt f t i j) ∧
    (∀ x, s.eng.tileOps.find? (fun x => x.id == k) = some x →
      let u := onFlock s x.flock (tileApply x)
      exec (.tileOpComplete k) s =
        .next (finishFlock { u with eng := { u.eng with tileOps := u.eng.tileOps.filter fun y => y.id != k } } x.flock)) ∧
    (∀ (x : TileOp) (f : Flock) (i j : Nat), i < 128 → j < 128 →
      let src (t i j : Nat) : W32 := mapGet 0 x.data (16384 * t + (128 * i + j))
      let new := tileAt (tileApply x f) x.td i j
      (x.op = 0 → new = 0) ∧
      (x.op = 1 → new = match x.sub with
        | 0 => src 0 i j
        | 1 => src 0 j i
        | 2 => src 0 i ((j + 64) % 128)
        | _ => src 0 ((i + 64) % 128) j) ∧
      (x.op = 2 → new = tcvtWord x.mode (src 0 i j)) ∧
      (x.op = 3 → new = (foldWords (src 0 i j) (src 1 i j)).1 ∧
        (x.sub = 0 → tileAt (tileApply x f) (x.td + 1) i j = (foldWords (src 0 i j) (src 1 i j)).2)) ∧
      ∀ t, t ≠ x.td → (x.op = 3 → x.sub = 0 → t ≠ x.td + 1) → tileAt (tileApply x f) t i j = tileAt f t i j)

/-- 11 R229-R231, 19 R407, R412: barriers. An arrival waits for the other members; the last one, and every drove that a barrier has
released, goes on, `barv` with the combination in S[sd]; a member of a wide barrier goes on once the meeting is over. -/
def Obligations.BarrierIssue : Prop :=
  ∀ (s : State) (n : BitVec 4) (d a b : BitVec 6) (p : BitVec 2),
    let bn := barrierOf s.fl n.toNat
    let done (f : Flock) : Flock :=
      setBarrier f n.toNat { barrierOf f n.toNat with released := bn.released.filter fun x => x.1 != s.dr.idx }
    let m := meetOf s.fl
    (∀ got, releasedAt s n.toNat = some got →
      Leaves (.bar n) s (passBarrier (onFl s done)) ∧
      (fits s [srcS a.toNat, dstS d.toNat] = true → got.2.2 = true →
        Leaves (.barv d a p n) s (passBarrier (onDr (onFl s done) fun r => setS r d.toNat got.2.1)))) ∧
    (releasedAt s n.toNat = none → bn.arrived.contains s.dr.idx = false → releasePoint s = .go →
      ((∃ i ∈ members s.fl, i ≠ s.dr.idx ∧ bn.arrived.contains i = false) →
        ∃ t, exec (.bar n) s = .next t ∧ t.dr.cond = .waiting (.barrier n.toNat) ∧ t.dr.pc = s.dr.pc ∧ t.dr.s = s.dr.s ∧
          (barrierOf t.fl n.toNat).arrived = bn.arrived ++ [s.dr.idx]) ∧
      ((∀ i ∈ members s.fl, i ≠ s.dr.idx → bn.arrived.contains i = true) → bn.released = [] →
        ∃ t, exec (.bar n) s = .next t ∧ t.dr.pc = (retire s).dr.pc ∧ t.dr.s = s.dr.s ∧ t.mem = s.mem ∧
          (barrierOf t.fl n.toNat).arrived = [] ∧ ∀ i ∈ bn.arrived, bn.left.contains i = false → ∃ x ∈ (barrierOf t.fl n.toNat).released, x.1 = i)) ∧
    (fits s [srcS a.toNat, srcS b.toNat] = true →
      (m.members.any fun x => x.1 == s.dr.idx) = false → m.left.contains s.dr.idx = false →
      (m.leave.contains s.dr.idx = false → m.done.contains s.dr.idx = true →
        Leaves (.barw a b) s (passBarrier (acquireDrop (onMeet s fun m => { m with
          done := m.done.filter (· != s.dr.idx), leave := m.leave.filter (· != s.dr.idx) })))) ∧
      (m.leave.contains s.dr.idx = true → Leaves (.barw a b) s (retire (onMeet s fun m => { m with
          done := m.done.filter (· != s.dr.idx), leave := m.leave.filter (· != s.dr.idx) }))) ∧
      (m.leave.contains s.dr.idx = false → m.done.contains s.dr.idx = false → mayGo s = true → m.fail = none → releasePoint s = .go →
        (sreg s.dr b.toNat).toNat % 2 ^ 32 ≠ 0 → plainFault (sreg s.dr a.toNat).toNat 8 = none →
        (∃ i ∈ members s.fl, i ≠ s.dr.idx ∧ (m.members.any fun x => x.1 == i) = false) →
        ∃ t, exec (.barw a b) s = .next t ∧ t.dr.cond = .waiting .wide ∧ t.dr.pc = s.dr.pc ∧
          (meetOf t.fl).members = m.members ++ [(s.dr.idx, sreg s.dr a.toNat, sreg s.dr b.toNat)]))

/-- 11 R233-R240, R243, R254: async barrier objects, chutes, the crook and posted events. -/
def Obligations.SyncIssue : Prop :=
  ∀ (s : State) (a b d : BitVec 6) (ea ed : Bool) (v : BitVec 7) (n : BitVec 3), mayGo s = true →
    let x := (sreg s.dr a.toNat).toNat
    let c := chuteOf s.fl n.toNat
    let lanes := activeLanes s.dr
    (fits s [srcS a.toNat, srcS b.toNat] = true →
      (objVerdict s.dr x = .go → 1 ≤ (sreg s.dr b.toNat).toNat → (sreg s.dr b.toNat).toNat < 2 ^ 32 →
        Takes (.abinit a b) s [srcS a.toNat, srcS b.toNat] fun s =>
          onDr (sendArrival s .abinit 0 x (some ((sreg s.dr b.toNat).setWidth 32))) fun d => { d with cond := .waiting .command, since := s.cycle }) ∧
      (objVerdict s.dr x = .go → s.dr.det = false →
        (objPhase s s.dr.flock x ≠ (sreg s.dr b.toNat).toNat % 2 ^ 16 ∨ s.dr.waited = true →
          Takes (.abwait a b) s [srcS a.toNat, srcS b.toNat] fun s => retire (acquireDrop s)) ∧
        (objPhase s s.dr.flock x = (sreg s.dr b.toNat).toNat % 2 ^ 16 → s.dr.waited = false →
          Waits (.abwait a b) s (.object x ((sreg s.dr b.toNat).toNat % 2 ^ 16)))) ∧
      (plainFault x 64 = none → releasePoint s = .go → Takes (.evpost a b) s [srcS a.toNat, srcS b.toNat] fun s =>
        startRecord s (Req.fresh s .evpost 64 [Acc.fresh s 0 x 64 (sreg s.dr b.toNat).toNat false]))) ∧
    (fits s [srcS a.toNat, dstS d.toNat] = true → objVerdict s.dr x = .go → releasePoint s = .go →
      Takes (.abarr d a) s [srcS a.toNat, dstS d.toNat] fun s =>
        retire (onDr (sendArrival s .abarr d.toNat x none) fun r => markS r d.toNat false)) ∧
    (let us : List Use := [srcS a.toNat ea, { cls := .scl, base := d.toNat, n := 2, align := 2, dest := true, trap := ed }]
     let va := if a = 0 then s.dr.crook.toNat else x
     fits s us = true → plainFault va 32 = none → acqPending s = false →
      Takes (.rtake d a ea ed) s us fun s =>
        startRecord s { Req.fresh s .rtake 32 [Acc.fresh s 0 va 32 0 false] with dst := d.toNat, dst2 := true }) ∧
    (n.toNat < s.fl.chutes.length →
      (fits s [srcS a.toNat] = true →
        (sreg s.dr a.toNat = 1 → Takes (.qallow a n) s [srcS a.toNat] fun s => retire (addProducer s n.toNat)) ∧
        (sreg s.dr a.toNat = 0 → Takes (.qallow a n) s [srcS a.toNat] fun s =>
          retire (wakePops (setChute s n.toNat (leaveChute (chuteOf s.fl n.toNat) s.dr.idx)) n.toNat s.dr.lclk))) ∧
      (masksFull s = true →
        (fits s [srcV v.toNat] = true → lanes.length ≤ c.cap → c.closed = false → chuteRoom c lanes.length = true →
          Takes (.qpush v n) s [srcV v.toNat] fun s => pushNow s n.toNat v.toNat) ∧
        (fits s [srcV v.toNat] = true → lanes.length ≤ c.cap → c.closed = false → chuteRoom c lanes.length = false →
          Waits (.qpush v n) s (.push n.toNat v.toNat) true) ∧
        (fits s [dstV v.toNat] = true → lanes.length ≤ c.cap → s.dr.det = true → ∃ (t u : State), exec (.qpop v n) s = .next t ∧
          t = placeWaiting (serveAll u n.toNat s.dr.lclk (chuteOf u.fl n.toNat).pops.length) n.toNat s.dr.lclk ∧ u.dr.pc = (retire s).dr.pc ∧
          (chuteOf u.fl n.toNat).pops = c.pops ++ [{ drove := s.dr.uid, vd := v.toNat, lanes := lanes, pc := s.dr.pc }]) ∧
        (fits s [dstV v.toNat] = true → lanes.length ≤ c.cap → s.dr.det = false → ∃ t, exec (.qpop v n) s = .next t ∧
          t.dr.pc = (retire s).dr.pc ∧ t.dr.v = s.dr.v ∧ t.dr.s = s.dr.s ∧ t.dr.vfull = s.dr.vfull &&& ~~~(1#128 <<< v.toNat) ∧
          (chuteOf t.fl n.toNat).pops = c.pops ++ [{ drove := s.dr.uid, vd := v.toNat, lanes := lanes, pc := s.dr.pc }] ∧
          (chuteOf t.fl n.toNat).count = c.count ∧ t.mem = s.mem) ∧
        (let us : List Use := [dstV v.toNat, { cls := .scl, base := d.toNat, n := 2, align := 2, dest := true }]
         let k := if c.pops.isEmpty then min lanes.length c.count else 0
         let m := BitVec.ofNat 64 (total ((lanes.take k).map (2 ^ ·)))
         fits s us = true → Takes (.qtry v d n) s us fun s => placeWaiting (retire (onDr (if k = 0 then s else ringDrop s n.toNat k) fun r =>
           setS (setS (setVm r v.toNat m fun l => (ringTake s n.toNat k).getD ((lanes.take k).idxOf l) 0) d.toNat m) (d.toNat + 1)
             (if c.closed then 1 else 0))) n.toNat s.dr.lclk)))

/-- 11 R235, R238, R239, 19 R407, R412: what serves the waits of chapter 11. An arrival lowers PENDING, and the last of a phase
advances PHASE; a pop takes the oldest elements, a push that finds room is placed, a released drove logs its checksum: it reads SEQ as
`lds.o` does, and stores the record and SEQ + 1 as `sts.o` does, in stores whose number is the model's (notes/assumptions, entry 17). -/
def Obligations.SyncServes : Prop :=
  ∀ (s : State) (k u n : Nat),
    (∀ x, s.eng.arrivals.find? (fun x => x.id == k) = some x → arrivalReady s x = true →
      let t : State := { s with eng := { s.eng with arrivals := s.eng.arrivals.filter fun y => y.id != k } }
      let r := objArrive t x.flock x.obj x.status x.lclk
      (∀ q, x.init = none → x.req.bind (reqOf s) = some q → exec (.asyncObjectArrival k) s =
        .next (finishFlock (releaseObject (onDrove (dropReq r.2 q.id) q.drove fun d =>
          markS (setS d q.dst (BitVec.ofNat 64 r.1)) q.dst true) x.flock x.obj) x.flock)) ∧
      (x.init = none → x.req = none → exec (.asyncObjectArrival k) s = .next (finishFlock (releaseObject r.2 x.flock x.obj) x.flock)) ∧
      (∀ e q, x.init = some e → x.req.bind (reqOf s) = some q → exec (.asyncObjectArrival k) s =
        .next (finishFlock (retire (select (dropReq (releaseObject (objInit t x.flock x.obj e.toNat x.lclk) x.flock x.obj) q.id) q.drove)) x.flock))) ∧
    (∀ f fl a st w, flockOf s f = some fl → s.mem.spad.wf = true →
      let r := objArrive s f a st w
      let p := spadRead s f (a + 4) 4
      r.1 = objPhase s f a ∧
      (p = 1 → objPhase r.2 f a = (objPhase s f a + 1) % 2 ^ 16 ∧ spadRead r.2 f (a + 4) 4 = spadRead s f a 4) ∧
      (p ≠ 1 → objPhase r.2 f a = objPhase s f a ∧ spadRead r.2 f (a + 4) 4 = (if p = 0 then 2 ^ 32 - 1 else p - 1))) ∧
    (∀ f d, (drovesOf s f).head? = some d → exec (.chutePopServed f n) s = .next (serveOne (select s d.uid) n d.lclk)) ∧
    (∀ p ps w, n < s.fl.chutes.length → (chuteOf s.fl n).pops = p :: ps → p.lanes.length ≤ (chuteOf s.fl n).count →
      (chuteOf (serveOne s n w).fl n).pops = ps ∧ (chuteOf (serveOne s n w).fl n).count = (chuteOf s.fl n).count - p.lanes.length ∧
      (serveOne s n w).mem = s.mem) ∧
    (∀ va, (droveOf s u).bind (pushReady s) = some (n, va) →
      exec (.chutePushRoom u) s = .next (pushNow (account (fun _ => false) (select s u) 1) n va)) ∧
    (∀ d pc, droveOf s u = some d → d.csumPc = some pc → isParked s u = false → d.cond ≠ .stopped → mustStop s d = false →
      let t := select s u
      let log := t.dr.tctl.toNat / 4096 * 4096
      (d.csumReq = none → checksumReady d = true → plainFault log 4 = none →
        let q := { Req.fresh t (.lds .o) 4 [Acc.fresh t 0 log 4 0 false] with pc := pc, word := 0 }
        exec (.barrierChecksum u) s = .next (onDr (post t q) fun d => { d with csumReq := some q.id })) ∧
      (∀ r q, d.csumReq = some r → csumSeq s d = some q → sbcnt s d.uid ≤ 11 →
        let va := log + 32 * (1 + q % 127)
        let xs : List (Nat × Nat × Nat) := [(va, 8, q + 2 ^ 32 * t.dr.droveId.toNat), (va + 8, 8, pc.toNat), (va + 16, 8, (checksum t.dr).toNat),
          (va + 24, 8, t.dr.lclk.toNat), (log, 4, (q + 1) % 2 ^ 32)]
        (xs.all fun x => !syncStore t .o x.1) = true ∨ t.dr.turn = true →
        exec (.barrierChecksum u) s = .next (onDr (xs.foldl (csumStore pc) (finishReq t r)) fun d =>
          { d with csumPc := none, csumReq := none, turn := false }))) ∧
    exec (.passiveWake u) s = .next (onDrove s u fun d => if d.wakeAt.isSome then { d with passive := false } else d) ∧
    (∀ d, droveOf s u = some d → turnReady s d = true →
      exec (.bellwetherTurn u) s = .next (onDrove s u fun d => { d with turn := true, cond := .ready }))

/-- 11 R244-R252, 18 R385-R392: bulk copies and collectives. `cpy` and `coll` hand a descriptor to their engine and the drove goes on; a
copy that has run through, or that faults, arrives on its object; packets reach the members that they name. That a data or
result packet from an unbound context cancels its collective as a phase-0 one does is the model's reading (notes/assumptions, entry
23). -/
def Obligations.EngineResult : Prop :=
  ∀ (s : State) (a b : BitVec 6) (t : BitVec 4) (k : Nat),
    let quad : Use := { cls := .scl, base := a.toNat, n := 4, align := 4 }
    let r (i : Nat) : W64 := sreg s.dr (a.toNat + i)
    (fits s [quad, srcS b.toNat] = true → mayGo s = true → copyVerdict a.toNat b.toNat s = .go →
      ∃ (u : State) (c : CopyJob), exec (.cpy a b) s = .next u ∧ u.eng.copies = s.eng.copies ++ [c] ∧ c.d0 = r 0 ∧ c.d1 = r 1 ∧
        c.d2 = r 2 ∧ c.d3 = r 3 ∧ c.obj = sreg s.dr b.toNat ∧ c.prog = 0 ∧ c.drove = s.dr.uid ∧ c.pc = s.dr.pc ∧
        u.dr.pc = (retire s).dr.pc ∧ u.dr.s = s.dr.s ∧ u.dr.v = s.dr.v ∧ u.mem = s.mem ∧ u.reqs = s.reqs) ∧
    (s.dr.shepherd = false → fits s [quad, srcS b.toNat] = true → masksFull s = true → activeMask s.dr = s.dr.pres →
      (modeET s.dr.mode = 0 ∨ modeET s.dr.mode = 3) → t.toNat < s.dr.ntiles → collVerdict t.toNat a.toNat b.toNat s = .go →
      s.dr.det = false → joinable s.fl s.dr.idx = none →
      let x := collArgs s.dr t.toNat a.toNat b.toNat
      let n : BitVec 32 := ((s.fl.collSeq.find? fun y => y.1 == x.group).map (·.2)).getD 0
      ∃ (u : State) (c : CollOp), exec (.coll t a b) s = .next (startColl u c.id) ∧ u.fl.colls = s.fl.colls ++ [c] ∧ c.group = x.group ∧
        c.seq = n ∧ c.args = [(s.dr.idx, x)] ∧ c.started = false ∧ u.dr.pc = (retire s).dr.pc ∧ u.dr.s = s.dr.s ∧ u.mem = s.mem ∧
        ∀ y ∈ x.tiles, u.fl.tfull.getLsbD y = false) ∧
    (∀ c, s.eng.copies.find? (fun c => c.id == k) = some c → copyReady s c = true →
      (∀ u n, copyRun s c = (u, n, none) → exec (.copyComplete k) s = .next (endCopy u c 0)) ∧
      (∀ u n x va, x ≠ 0x10 → x ≠ 0x16 → copyRun s c = (u, n, some (x, va)) →
        exec (.copyFault k) s = .next (endCopy u c (if x = 0x13 then 5 else 4))) ∧
      (∀ u n x va, (x = 0x10 ∨ x = 0x16) → copyRun s c = (u, n, some (x, va)) → ∃ (v : State) (p : Park),
        exec (.copyFault k) s = .next v ∧ v.sch.parks = u.sch.parks ++ [p] ∧ p.kind = 6 ∧ p.cause = x ∧ p.va = va ∧ p.req = some c.id ∧
          v.mem = u.mem)) ∧
    (∀ c st, c.orphan = false → ∃ x : Arrival, (endCopy s c st).eng.arrivals = s.eng.arrivals ++ [x] ∧ x.obj = c.obj.toNat ∧
      x.status = st ∧ x.flock = c.flock ∧ (endCopy s c st).mem = s.mem) ∧
    (∀ p, packetBound s p = false →
      exec (.collPhase0Packet p) s = .next (cancelBy (unhold s 0x10 p).2 p) ∧
      exec (.collDataPacket p) s = .next (cancelBy (unhold s 0x11 p).2 p) ∧
      exec (.collResultPacket p) s = .next (cancelBy (unhold s 0x12 p).2 p) ∧
      exec (.collCancelPacket p) s = .next s) ∧
    (∀ p u, packetBound s p = true →
      ((unhold s 0x10 p).2 = u →
        (∀ m ∈ collMembers u (BitVec.ofNat 16 p.ctx) p.group p.seq, m.2.table ≠ [] → m.2.arg.depth ≠ p.level) →
        (memberAt u p (p.node / 2 * 2 ^ (p.level + 1)) = none → exec (.collPhase0Packet p) s = .next (holdPacket u 0x10 p none)) ∧
        (∀ f c, memberAt u p (p.node / 2 * 2 ^ (p.level + 1)) = some (f, c) →
          (c.digest ≠ p.digest → exec (.collPhase0Packet p) s = .next (mismatch u c.id)) ∧
          (c.digest = p.digest → (∀ x ∈ c.maxima, x.1 = p.level → x.2.1 ≠ p.node) →
            let m := if c.arg.exact then maximaOf c.arg.blocks p.payload else []
            exec (.collPhase0Packet p) s =
              .next (climb c.id 12 (onColl u c.id fun c => { c with maxima := c.maxima ++ [(p.level, p.node, m)] }) 0)))) ∧
      (∀ n, unhold s 0x11 p = (n, u) → exec (.collDataPacket p) s = .next (takeData u p n)) ∧
      (∀ n, unhold s 0x12 p = (n, u) → ∀ f c, memberAt u p (p.node * 2 ^ p.level) = some (f, c) →
        (c.digest = p.digest → exec (.collResultPacket p) s =
          .next (takeResult u c.id (n.getD (nodeFromPacket c.arg (c.agreed.getD []) p false)) p.level)) ∧
        (c.digest ≠ p.digest → exec (.collResultPacket p) s = .next (countRecord u 0x1A47 0 64))) ∧
      (s.eng.held.any (fun h => h.ptype == 0x13 && h.pkt == p) = false → ∃ t, exec (.collCancelPacket p) s = .next t ∧
        (collMembers s (BitVec.ofNat 16 p.ctx) p.group p.seq = [] → t = holdPacket s 0x13 p none))) ∧
    (∀ level node chunk f c, collOf s k = some (f, c) → reduceReady c level node chunk = true →
      ∀ n, (kidsOf c level node chunk).bind (combineNode c.arg level node chunk) = some n →
      exec (.reduceFlockDispatch k level node chunk) s = .next (raiseNode s k n [])) ∧
    (∀ x y p : CollPacket, p.srcDev = fabid s ∨ packetBound s p = true → x.routine ≠ 0 → y.node = x.node + 1 → x.node = 2 * p.node →
      (∀ z ∈ [y, p], z.group = x.group ∧ z.seq = x.seq ∧ z.chunk = x.chunk ∧ z.routine = x.routine ∧ z.digest = x.digest ∧ z.opfld = x.opfld) →
      y.level = x.level → p.level = x.level + 1 → ∀ c, switchMember s p = some c →
      exec (.switchCombine x y p) s = .next (if switchPayload c.arg (c.agreed.getD []) x y p = some p.payload then takeData
        { s with dev := { s.dev with packets := s.dev.packets.filter fun z => !(z.2.2 == x || z.2.2 == y) } } p none else s)) ∧
    (∀ f c u, collOf s k = some (f, c) → c.started = true → c.table = [] → c.parked = false → c.bad = false →
      (∀ bs, readTable s f.ctx c.arg = (.inl bs, u) → exec (.collGroupTableFault k) s = .next (lastTurn (phase0 u k) k)) ∧
      (∀ x va, x ≠ 0x10 → x ≠ 0x12 → readTable s f.ctx c.arg = (.inr (x, va), u) →
        exec (.collGroupTableFault k) s = .next (lastTurn (mismatch u k) k)) ∧
      (∀ x va, x = 0x10 ∨ x = 0x12 → readTable s f.ctx c.arg = (.inr (x, va), u) → ∃ (v : State) (p : Park),
        exec (.collGroupTableFault k) s = .next v ∧ v.sch.parks = u.sch.parks ++ [p] ∧ p.kind = 10 ∧ p.cause = x ∧
          p.va = va ∧ p.req = some k) ∧
      (∀ y, routeOf (localOf s c.arg.d3.toNat) ≠ 1 → firstStop s f.ctx c.arg.d3.toNat (8 * c.arg.ranks) = some y →
        readTable s f.ctx c.arg = (.inr y, s)))

/-- 05 R115-R119, 08 R174, 11 R253-R261, 16 R345: the system instructions in the mode that may run them. That `sysrd` of DSTAT reads
the GANG of its own issue, and that `qhelp` takes a following word with an unassigned opcode of its ranges, are the model's choices
(notes/assumptions, entry 29). -/
def Obligations.SystemResult : Prop :=
  ∀ (s : State) (a b d : BitVec 6) (n : BitVec 8) (c : BitVec 2) (p va vb : BitVec 7) (k : BitVec 3),
    let x := sreg s.dr a.toNat
    (fits s [dstS d.toNat] = true → n.toNat < 0x14 → n.toNat ≠ 0x12 →
      (n.toNat ≠ 0x03 → Does (.sysrd d n) s fun r => setS r d.toNat (userRead s n.toNat)) ∧
      ∃ fit, Does (.sysrd d n) s fun r => setS r d.toNat (userRead (issued fit s [dstS d.toNat]) n.toNat)) ∧
    (fits s [dstS d.toNat] = true → (n.toNat = 0x12 ∨ (privAssigned n.toNat = true ∧ privileged s = true)) →
      Leaves (.sysrd d n) s (retire (post (onDr s fun r => markS r d.toNat false)
        { Req.fresh s (.sysrd n.toNat) 8 [] with dst := d.toNat, split := s.dr.lclk }))) ∧
    (fits s [srcS a.toNat] = true →
      (n.toNat < 0x14 → (userWrite s.dr n.toNat x).isSome = true →
        Does (.syswr a n) s fun d => (userWrite d n.toNat x).getD d) ∧
      (n.toNat < 0x14 → userWrite s.dr n.toNat x = none → Stops (.syswr a n) s 0x02 0 0) ∧
      (privAssigned n.toNat = true → privileged s = true → x.toNat % recordAlign n.toNat = 0 →
        Takes (.syswr a n) s [srcS a.toNat] fun s => onDr s fun d => { d with cond := .waiting (.write n.toNat x), since := s.cycle })) ∧
    (∀ i ∈ ([.sysrd d n, .syswr a n] : List Instr), 0x80 ≤ n.toNat → privileged s = false → Stops i s 0x0A 0 0) ∧
    (∀ i ∈ ([.mcw a, .tlbi a b c, .eret] : List Instr), privileged s = false → Stops i s 0x0A 0 0) ∧
    (fits s [srcS a.toNat, srcS b.toNat] = true → privileged s = true → c ≠ 3 → (sreg s.dr b.toNat).toNat < 2 ^ 16 →
      usesOld s s.uid c x.toNat (sreg s.dr b.toNat) = false → (∀ t, s.dr.cond ≠ .waiting t) →
      ∃ t, exec (.tlbi a b c) s = .next t ∧ t.dr.pc = (retire s).dr.pc ∧ t.mem = s.mem ∧
        ∀ e, e ∈ t.coh.tlb ↔ e ∈ s.coh.tlb ∧ tlbiHits c x.toNat (sreg s.dr b.toNat) e = false) ∧
    (slotCode s p.toNat ≠ [] → ∃ t, exec (.mcall p va vb k) s = .next t ∧ t.dr.pc = s.dr.after.getD s.dr.pc ∧ t.dr.s = s.dr.s ∧ t.mem = s.mem ∧
      (s.dr.after = none → t.dr.micro = some { slot := p, pa := va, pb := vb, k := k, step := 0, code := slotCode s p.toNat })) ∧
    (slotCode s p.toNat = [] → Stops (.mcall p va vb k) s 0x01 0 0) ∧
    (∀ w t, helpedWord s = (.word w, t) →
      (helpable w = true → ∃ u, exec .qhelp s = .next u ∧ u.port = true ∧ u.dr.help = true ∧ u.mem = t.mem ∧ u.dr.s = t.dr.s ∧ u.dr.v = t.dr.v ∧
        (t.dr.micro = none → u.dr.pc = t.dr.pc + 4 ∧ u.dr.helpWord = some w) ∧
        ∀ m, t.dr.micro = some m → u.dr.pc = t.dr.pc ∧ u.dr.micro = some { m with step := m.step + 1 }) ∧
      (helpable w = false → exec .qhelp s = .next (stopIssue t 0x02 0 0))) ∧
    (fits s [srcS a.toNat] = true → x.toNat % 128 = 0 → releasePoint s = .go → ∃ fit, ∀ t u,
      present (issued fit s [srcS a.toNat]) s.dr.ctx x.toNat = (some t, u) → exec (.rlaunch a) s = .next (retire t)) ∧
    (mayGo s = true → exitVerdict s = .go → s.fl.colls = [] → (∃ i ∈ members s.fl, i ≠ s.dr.idx) →
      ∃ t, exec .exit s = .next t ∧ t.dr.cond = .exited ∧ t.dr.gen = s.dr.gen + 1 ∧ t.fl.exited = s.fl.exited ++ [s.dr.idx]) ∧
    (∀ u, s.dr.uid = u → s.dr.cond = .waiting .link →
      let die := some (dieOfCore s.dr.core)
      (∀ t, 16 ≤ s.dr.links.length →
        vaPut s s.dr.ctx (linkVa s.dr (s.dr.depth - s.dr.links.length)) (leBytes 8 (s.dr.links.getLastD 0).toNat) die = (none, t) →
        exec (.linkStackSpillFill u) s = .next (onDr t fun d => { d with links := d.links.dropLast })) ∧
      (∀ bs t, s.dr.links = [] → 0 < s.dr.depth → vaRead s s.dr.ctx (linkVa s.dr (s.dr.depth - 1)) 8 die = (.inl bs, t) →
        exec (.linkStackSpillFill u) s = .next (onDr t fun d => { d with links := [BitVec.ofNat 64 (leNat bs)] })))

/-- 11 R258, R259: `mcw` in privileged mode reads an image, checks it, writes the slot to the context's control-store image and to every
core that holds the context's store. -/
def Obligations.ControlStoreWrite : Prop :=
  ∀ (s : State) (a : BitVec 6), let va := (sreg s.dr a.toNat).toNat
    let ctx := s.dr.ctx
    fits s [srcS a.toNat] = true → privileged s = true → (∀ t, s.dr.cond ≠ .waiting t) → va % 8 = 0 → csbField s ctx 0x40 8 ≠ 0 →
    ∃ fit, ∀ h t, vaRead (issued fit s [srcS a.toNat]) ctx va 8 = (.inl h, t) → t.dr.ctx = ctx → leNat h &&& (2 ^ 64 - 1 - 0x1F7F) = 0 →
    ∀ bs t', let n := bits (leNat h) 12 8 + 1
      let slot := bits (leNat h) 6 0
      let code := (List.range n).map fun j => BitVec.ofNat 64 (leNat ((bs.drop (8 * j)).take 8))
      vaRead t ctx (va + 8) (8 * n) = (.inl bs, t') →
      (∀ e ∈ code, stepCause e.toNat = none) →
      let image := code.flatMap (fun e => leBytes 8 e.toNat) ++ List.replicate (256 - 8 * code.length) 0
      ∀ t'', vaPut t' ctx (csbField t' ctx 0x40 8 + 256 * slot) image = (none, t'') → t'.dr.ctx = ctx →
      let v := putSlot (setCsbField t'' ctx 0 4 (csbField t'' ctx 0 4 ||| 2)) ctx slot code
      callRunning v ctx slot code = false →
      exec (.mcw a) s = .next (retire v) ∧
      ∀ k ∈ v.coh.cores, k.cstore = some ctx → (k.slots.find? fun y => y.1 == slot) = some (slot, code)

/-- 11 R256, 17 R363-R366: THE RETURN FROM A STOP. `eret` in privileged mode takes the stopped drove that HSEL names and its fault record
as it stands in memory: ACTION 0 and 1 put the drove at RESUME, PNUM patches one register, ACTION 2 ends the flock, and a record that
does not fit stops `eret` itself: its CGEN is not the context's, its SEQ not HSEL's, its ACTION 3, or its patch not acceptable. That
CGEN and SEQ are compared as they stand in memory is the model's reading (notes/assumptions, entry 30). -/
def Obligations.ReturnFromStop : Prop :=
  ∀ (s : State), privileged s = true → ∃ fit,
    let u := issued fit s []
    let h := privReg u 0xC2
    (stoppedDrove u h = none → exec .eret s = .next (stopHere u 0x02 0 0)) ∧
    ∀ d st bs t, stoppedDrove u h = some (d, st) → vaRead u d.ctx d.frec.toNat 128 = (.inl bs, t) →
      let fr := leNat bs
      let resume := BitVec.ofNat 64 (recField fr 0x38 8 / 4 * 4)
      let action := recField fr 0x38 8 % 4
      let n := recField fr 0x40 1
      let patched : Option Drove :=
        if n = 0 then some d else if patchable n then userWrite d n (BitVec.ofNat 64 (recField fr 0x48 8)) else none
      let go (x : Drove) : State :=
        let y := resumeDr x st resume action (retire t).cycle
        let v := onAnyDrove (retire t) d fun _ => y
        let v := if y.pc = d.pc ∧ y.micro = d.micro then v else onAnyFlock v d.flock fun f => leaveRounds f d.idx
        match st.deliver with
        | some k => settlePark v d k action
        | none => v
      (action = 3 ∨ recField fr 0x0C 4 ≠ h.toNat % 2 ^ 32 ∨ recField fr 6 2 ≠ csbField t d.ctx 4 2 ∨ patched = none →
        exec .eret s = .next (stopHere t 0x02 0 0)) ∧
      (∀ x, recField fr 6 2 = csbField t d.ctx 4 2 → recField fr 0x0C 4 = h.toNat % 2 ^ 32 → patched = some x →
        (action < 2 → exec .eret s = .next (go x)) ∧
        (action = 2 → exec .eret s = .next
          (if (droveOf (retire t) d.uid).isSome then terminate (retire t) d.flock 2 else terminateSaved (retire t) d.flock 2))) ∧
      (st.again = false → st.step = none → (resumeDr d st resume action s.cycle).pc = resume ∧
        (resumeDr d st resume action s.cycle).cond = .ready ∧ (resumeDr d st resume action s.cycle).stop = none ∧
        (resumeDr d st resume action s.cycle).s = d.s ∧ (resumeDr d st resume action s.cycle).v = d.v ∧
        (resumeDr d st resume action s.cycle).mode = d.mode)

/-- 11 R260, R440, 13 R284-R292, R299, 14 R313-R316, 17 R369, R373: a write to a command register carries its record out. The record is
read under the drove's context, the row of its OP runs, STATUS and the answers are written back, and the drove goes on. -/
def Obligations.RecordCommands : Prop :=
  ∀ (s t : State) (c : Nat) (x : W64) (d : Drove) (bs : List Byte) (ds : List (Nat × Bool)), droveOf s c = some d →
    (pendingWrite s c 0x8C = some x → vaRecord s d.ctx x.toNat 64 = (.inl (bs, ds), t) →
      let m := parseMap (leNat bs)
      (expanding t m.ctx m.va = false → ∀ p ∈ ([(.mapcmdMap c, 0, fun s m => if m.op = 0 ∧ bitAt m.pte0 0 then mapPage s m else unmapPage s m),
          (.mapcmdUnmap c, 1, unmapPage),
          (.mapcmdCompress c, 2, compressPage), (.mapcmdClearAccessed c, 3, clearAccessed), (.mapcmdQuery c, 4, queryPage)] :
          List (Instr × Nat × (State → MapRec → Option MapDone))), mapRow m.op = p.2.1 → ∀ r, p.2.2 t m = some r →
        exec p.1 s = .next (replied r.s c 0x8C ds [(0x09, [BitVec.ofNat 8 r.spare.1]), (0x20, leBytes 8 r.spare.2), (0x28, leBytes 4 r.status),
          (0x30, leBytes 8 r.old0 ++ leBytes 8 r.old1)] r.status)) ∧
      (∀ p, pageOf t m.ctx m.va = some p → mapCommon m p.size = 0 →
        queryPage t m = some { s := t, old0 := p.w0, old1 := p.w1, spare := (m.nspare, m.spare) })) ∧
    (pendingWrite s c 0x90 = some x → vaRecord s d.ctx x.toNat 64 = (.inl (bs, ds), t) →
      let m := parseVc (leNat bs)
      ∀ p ∈ ([(.vcDefine c, 0), (.vcResize c, 1), (.vcMove c, 2), (.vcFree c, 3), (.vcRead c, 4), (.vcModify c, 5), (.vcRetireShare c, 6),
          (.vcShareMap c, 7)] : List (Instr × Nat)), vcRow m.op = p.2 →
        (∀ u st, vcRun t m = some (u, st) → exec p.1 s = .next (replied u c 0x90 ds [(0x28, leBytes 4 st)] st)) ∧
        (∀ k, cdrOf t m.vc = some k → vcBad k m = false → vcMisplaced m = false → vcDenied t k m = 0 →
          (m.op = 4 → vcRun t m = some (homePut t m.out (vcImage t k), 0)) ∧
          (m.op = 5 → m.pinq ≥ k.pinuse → vcRun t m = some (onCdr t k.id fun x => { x with bww := m.bww, pinq := m.pinq }, 0)) ∧
          (m.op = 7 → vcRun t m = some (homePut t m.out (shareMap t k), 0)))) ∧
    (pendingWrite s c 0xC3 = some x → vaRecord s d.ctx x.toNat 32 = (.inl (bs, ds), t) →
      let r := applyReply t (leNat bs)
      (recField (leNat bs) 4 1 ≠ 1 → exec (.freplyReplay c) s = .next (replied r.1 c 0xC3 ds r.2.1 r.2.2)) ∧
      (recField (leNat bs) 4 1 = 1 → exec (.freplyDeliver c) s = .next (replied r.1 c 0xC3 ds r.2.1 r.2.2))) ∧
    (pendingWrite s c 0xC4 = some x → vaRecord s d.ctx x.toNat 32 = (.inl (bs, ds), t) →
      let y := leNat bs
      let k := BitVec.ofNat 16 (recField y 2 2)
      let ok (u : State) := replied (setPriv u 0xC4 0) c 0xC4 ds [(0x1C, leBytes 4 0)] 0
      ctxMalformed y = false →
      (recField y 0 1 = 0 → (ctxOf s k).any (·.held) = true → preempt t y = some (ctxStatus (onCtx t k fun y => { y with held := false }) 0) →
        exec (.ctxPreempt c) s = .next (ok (onCtx t k fun y => { y with held := false }))) ∧
      (recField y 0 1 = 1 → ∃ u, exec (.ctxResume c) s = .next (ok u) ∧ u.sch.saved = t.sch.saved.map (fun v =>
        if v.flock.ctx == k && v.reason == 0x31 && !v.ready then { v with ready := true, order := t.uid } else v) ∧ u.mem = t.mem ∧ u.droves = t.droves) ∧
      (recField y 0 1 = 2 → (∀ f, flockOf s d.flock = some f → f.ctx ≠ k) →
        exec (.ctxTerminate c) s = .next (ok (endAll t ((((flocksOf t k).map (·.uid)) ++
          ((t.sch.saved.filter fun v => v.flock.ctx == k).map fun v => v.flock.uid)).filter fun f => some f != (flockOf s d.flock).map (·.uid)) 3))) ∧
      (recField y 0 1 = 3 → ∀ f r u v, flockOf s d.flock = some f → shepherdRecord s y = (some r, u) → shepherdRecord t y = (some r, v) →
        (pendingWrite (ok v) c 0xC4).isNone = true → (droveOf (ok v) c).any (fun d => d.cond == .ready) = true →
        exec (.ctxPlaceShepherd c) s = .next (placeShepherd (ok v) r (recField y 1 1))))

/-- 11 R260, 13 R284, R285, R292, R297, 16 R348, R356, 17 R361, R362, 18 R381, R403, 19 R410, R414: writes to the registers that have no record.
That a write of LQCFG sets TAIL to the HEAD of the header in memory, and that a DPA of 2^39 or above is refused, are the model's
choices (notes/assumptions, entries 18 and 20). -/
def Obligations.RegisterWrites : Prop :=
  ∀ (s : State) (c : Nat) (x : W64),
    (pendingWrite s c 0x81 = some x → let k : BitVec 16 := (privReg s 0x80).setWidth 16
      (readTcr s x.toNat = none → exec (.xtcrBind c) s = .next (writeDone (setPriv s 0x81 (1#64 <<< 63)) c)) ∧
      (∀ p, readTcr s x.toNat = some p → ctxQuiet s k = true → ∃ t, exec (.xtcrBind c) s = .next (writeDone t c) ∧
        (ctxOf t k).any (fun y => y.tcr == some x.toNat && y.roots == p.1 && y.regt == p.2.1 && y.peert == p.2.2) = true ∧
        ∀ e ∈ t.coh.tlb, e.ctx ≠ k)) ∧
    (pendingWrite s c 0x8F = some x → let core := bits x.toNat 5 0
      (windowBytes (bits x.toNat 9 8) < (coreOf s core).winuse →
        exec (.sramwinWrite c) s = .next (writeDone (setPriv s 0x8F (privReg s 0x8F ||| (1#64 <<< 63))) c)) ∧
      ((coreOf s core).winuse ≤ windowBytes (bits x.toNat 9 8) → (∀ l ∈ s.coh.l1, l.core ≠ core) →
        exec (.sramwinWrite c) s =
          .next (writeDone (setPriv (onCore s core fun k => { k with window := bits x.toNat 9 8 }) 0x8F (x &&& 0x33F)) c))) ∧
    (∀ n, 0x84 ≤ n → n ≤ 0x87 → pendingWrite s c n = some x → s.vc.zimages = [] →
      exec (.czoneWrite c) s = .next (writeDone (setPriv s n (x &&& 0x3FFFFFF000001)) c)) ∧
    (pendingWrite s c 0xC5 = some x → ∃ t, exec (.aetclrWrite c) s = .next (writeDone t c) ∧ t.mem = s.mem ∧
      ∀ g, g ∈ t.dev.aet ↔ g ∈ s.dev.aet ∧ g.1 ≠ granOf x.toNat) ∧
    (pendingWrite s c 0xC1 = some x → let k : BitVec 16 := (privReg s 0xC0).setWidth 16
      (x.toNat % 128 ≠ 0 ∨ 2 ^ 39 ≤ x.toNat →
        exec (.csbaddrWrite c) s = .next (writeDone (setPriv s 0xC1 (privReg s 0xC1 ||| (1#64 <<< 63))) c)) ∧
      (x.toNat % 128 = 0 → x.toNat < 2 ^ 39 → ∃ t, exec (.csbaddrWrite c) s = .next (writeDone t c) ∧
        (∀ y ∈ t.coh.cores, y.cstore ≠ some k) ∧ (ctxOf t k).bind (·.csb) = some x.toNat)) ∧
    (pendingWrite s c 0xB1 = some x → let q := (privReg s 0xB0).toNat
      let y := x &&& 0x80FFFF7FFFFFFFC0
      (lqEn (queueOf s q).cfg = true → lqEn y = true → exec (.lqcfgWrite c) s = .next (writeDone s c)) ∧
      (lqEn (queueOf s q).cfg = false ∨ lqEn y = false → exec (.lqcfgWrite c) s = .next (writeDone
        (onQueue s q fun z => { z with cfg := y, tail := BitVec.ofNat 64 (homeRead s (lqHdr y + 16) 8) }) c))) ∧
    (pendingWrite s c 0xB5 = some x → exec (.mxmodeWrite c) s = .next (writeDone
      { s with eng := { s.eng with mxreq := x.setWidth 16, mxpend := s.eng.mxpend ||| (s.eng.mxreq ^^^ x.setWidth 16) } } c)) ∧
    (pendingWrite s c 0xD3 = some x →
      exec (.pwrprofWrite c) s = .next (writeDone { s with dev := { s.dev with profReq := x.setWidth 2 } } c)) ∧
    (pendingWrite s c 0xE8 = some x → ∃ t, exec (.dbgcmdWrite c) s = .next (writeDone t c) ∧ t.mem = s.mem ∧
      ∀ d ∈ t.droves, d.ctx = x.extractLsb' 48 16 → (x.getLsbD 32 = true ∨ d.droveId = x.setWidth 32) → d.cond ≠ .exited → d.cond ≠ .vacant →
        d.haltReq = true) ∧
    (pendingWrite s c 0xE0 = some x → x.getLsbD 1 = true →
      exec (.lcctlClr c) s = .next (writeDone { plainWrite s 0xE0 x with dev := { (plainWrite s 0xE0 x).dev with lanes := [] } } c)) ∧
    (∀ d n, droveOf s c = some d → writeOf d = some (n, x) → ownRow n x = false →
      exec (.sysregWrite c) s = .next (writeDone (plainWrite s n x) c))

/-- 14 R317-R323, 11 R441, 17 R376-R378: a migration, a release or a retirement of a virtual cache goes on set by set and ends with its
event; an error is counted, marks its granule, and retires a share at the threshold; a held event is posted to its queue. The share number
6144 + c, which names core c's words, or the host's, as the place of an error, is the model's own (notes/assumptions, entry 31). -/
def Obligations.CacheUnits : Prop :=
  ∀ (s : State) (k die : Nat),
    (∀ c, cdrOf s k = some c →
      (c.state = 2 ∨ c.state = 3 → die < 4 → sweepLeft s c die = true → exec (.vcSweepSet k die) s = .next (
        onCdr ((setLines s k (migrating c) die (sweepAt c die)).foldl (sweepLine c) s) k fun x =>
          { x with swept := x.swept.map fun y => if y.1 = die then (y.1, y.2 + 1) else y })) ∧
      (c.state = 2 → sweptOut s c = true →
        let gone := (s.vc.retiring.filter fun r => r.stage == 2 && r.vc == k && c.oshares.contains r.share).map (·.share)
        exec (.vcMigrationComplete k) s = .next (startRetiring (vcEvent
          (withCommons s fun s => joinRetired (onCdr s k fun x =>
            { x with state := 1, olsz := 0, oways := 0, oshares := [], gen := x.gen + 1, token := 0, swept := [] }) gone)
          0x0100 c 0xFFFF c.token ((c.gen + 1).setWidth 64)))) ∧
      (c.state = 3 → sweptOut s c = true → exec (.vcFreeComplete k) s = .next (startRetiring (vcEvent
        (withCommons s fun s => onCdr s k fun x => { x with state := 0, shares := [], token := 0, swept := [] })
        0x0103 c 0xFFFF c.token (c.gen.setWidth 64))))) ∧
    (∀ r, s.vc.retiring.find? (fun r => r.share == k) = some r → r.stage ≠ 0 → ownerOf s k = 0 →
      let u := if s.vc.retired.contains k then s else rehouseCommons true s (joinRetired s [k])
      let v : State := { u with vc := { u.vc with retiring := u.vc.retiring.erase r } }
      exec (.shareRetireComplete k) s = .next (match cdrOf v r.vc with
        | some c => vcEvent v 0x0101 c k r.token (c.gen.setWidth 64)
        | none => v)) ∧
    ((joinRetired s [k]).vc.retired.contains k = true ∧
      (joinRetired s [k]).dev.record = mapSet 0 s.dev.record k (mapGet 0 s.dev.record k ||| (1#64 <<< 48))) ∧
    (6144 ≤ k → exec (.correctedError k) s = .next (if k < 0x1900 then countRecord s k 0 32 else s)) ∧
    (k < 6144 → let n := (privReg s 0x92).toNat % 65536
      let t := countRecord s k 0 32
      let e := (mapGet (0 : W64) t.dev.record k).toNat % 2 ^ 32
      (n = 0 ∨ e < n → exec (.correctedError k) s = .next t) ∧ (n ≠ 0 → n ≤ e → exec (.correctedError k) s = .next (retireShare t k))) ∧
    (∀ dpa, dpa < 2 ^ 39 →
      exec (.uncorrectableError dpa none) s = .next (countRecord (enterAet s (granOf dpa) (BitVec.allOnes 32)) (channelEntry dpa) 32 16) ∧
      ∀ c, exec (.uncorrectableError dpa (some (6144 + c))) s = .next (ownerError s dpa c)) ∧
    (∀ e t, postable s k = some e → tryPost s e = .posted t →
      let drop (s : State) : State := { s with sch := { s.sch with events := s.sch.events.eraseIdx k } }
      exec (.deviceEventPost k) s = .next (if e.vcq then startRetiring (drop t) else drop t)) ∧
    (∀ e, postable s k = some e → tryPost s e = .full → exec (.deviceEventPost k) s = .next s)

/-- 16 R345-R359, 17 R366-R375, 19 R410: launch queues, the distributors, the clocks of residence, the fault table, deliveries, swap-out
and return. That a saved Shepherd flock re-enters on its own core is the model's reading (notes/assumptions, entry 30). -/
def Obligations.SchedulerEvents : Prop :=
  ∀ (s : State) (k v : Nat),
    (let x := queueOf s k
     let h := lqHdr x.cfg
     k < 64 → lqEn x.cfg = true →
      (x.tail.toNat ≤ v → v ≤ homeRead s (h + 16) 8 + homeRead s (h + 8) 4 → v < 2 ^ 64 →
        exec (.launchQueueDoorbell k v) s = .next (onQueue s k fun x => { x with tail := BitVec.ofNat 64 v })) ∧
      (v < x.tail.toNat → exec (.launchQueueDoorbell k v) s = .next (countRecord s 0x1A46 0 64)) ∧
      (∀ a, queueEntry s k = some a → let w := entryWord s a
        (a + 8 ≤ 2 ^ 39 → w = (homeRead s a 8, s)) ∧
        (w.1 % 128 ≠ 0 → exec (.launchQueueEntryTake k) s = .next (queueAdvance w.2 k)) ∧
        (∀ t u, w.1 % 128 = 0 → present w.2 (lqCtx (queueOf w.2 k).cfg) w.1 = (some t, u) →
          exec (.launchQueueEntryTake k) s = .next (queueAdvance t k)))) ∧
    (∀ c r core t, entry s false k = some [c] → rangeOf s k = some r → chooseCore s (r.need none) = (t, some core) →
      exec (.flockAdmit k) s = .next (admitAt s r r.nextFlock core 0 false)) ∧
    (∀ r, rangeOf s k = some r → rangeDone s r = true → s.eng.held = [] → exec (.rangeComplete k) s = .next (postRange
      { s with sch := { s.sch with ranges := s.sch.ranges.filter fun x => x.uid != k } } r 0x0002 (r.ended % 2 ^ 32))) ∧
    (∀ d, s.dr = d → d.uid = k → d.cond = .ready → 128 ≤ s.cycle - d.since →
      exec (.drovePromote k) s = .next (onDr s fun d => { d with promoted := true })) ∧
    (∀ f, flockOf s k = some f →
      (budgetOver s f = true → slotFor (countRecord s 0x1A30 0 64) f = true → f.swapTried = false →
        exec (.budgetExpiry k) s = .next (onFlock (countRecord s 0x1A30 0 64) f.uid fun f => { f with swapDue := some 0x30 })) ∧
      (∀ p, slowPark s f = some p → f.swapDue = none → (rangeOf s f.range).any (·.det) = false → slotFor s f = true →
        exec (.slowFaultSwapout k) s = .next (onFlock s k fun f => { f with swapDue := some 0x10 })) ∧
      (watchdogDue s f = true → exec (.watchdogExpiry k) s =
        .next (((drovesOf s k).filter watched).foldl (fun s d => stopHere (select s d.uid) 0x30 0 0) s)) ∧
      (∀ reason, f.swapDue = some reason → saveReady s f = true → exec (.swapOut k) s = .next (saveFlock s f reason))) ∧
    (∀ x, s.sch.saved.find? (fun x => x.id == k) = some x →
      (x.flock.shepherd = true → x.ready = true → coreFree s x.flock.core = true → s.dev.ckpt = none →
        exec (.flockResume k) s = .next (restoreAt s x x.flock.core)) ∧
      (∀ core, x.flock.shepherd = false → entry s true k = some [core] → (rangeOf s x.flock.range).any (·.det) = false →
        exec (.flockResume k) s = .next (restoreAt s x core))) ∧
    (∀ p n t, s.sch.parks.find? (fun p => p.id == k) = some p → p.slot = none → p.svc = 1 → p.cause ≠ 0x12 → ftFree s p.ctx = some n →
      vaPut s p.ctx (ftVa s p.ctx n) (ftBytes p ((ctxOf s p.ctx).elim 0 (·.parkSeq))) = (none, t) →
      ∃ u, exec (.faultTableEntryWrite k) s = .next u ∧ ∀ q ∈ u.sch.parks, q.id = k → q.slot = some n) ∧
    (∀ p d, s.sch.parks.find? (fun p => p.id == k && p.svc == 3) = some p → droveOf s p.drove = some d → stoppable s d = true →
      leaving s d = false →
      let t := onDr (select s d.uid) unhelp
      let info : StopInfo :=
        { cause := p.cause, kind := BitVec.ofNat 8 p.kindNo, addr := p.va, mask := parkMask t p, pc := p.pc
          step := t.dr.micro.map (·.step), resume := (deliverResume t.dr p.again).1, after := (deliverResume t.dr p.again).2
          deliver := some p.id, again := p.again }
      exec (.parkDelivery k) s = .next (takeStop t info)) ∧
    (∀ d, droveOf s k = some d → d.haltReq = true → stoppable s d = true → breakpoint (select s k) = none →
      exec (.dbgcmdHalt k) s = .next (stopHere (onDr (select s k) fun d => { d with haltReq := false }) 0x08 0x200000000 0))

/-- 18 R380-R383, R393-R403, 19 R415-R421: reset, recovery, power, links, ports, checkpoints, attestation, the field record and the
trace streams. What outlives a reset is the model's reading (notes/assumptions, entry 27); whether an image verifies, and its version,
are free values (entry 8). -/
def Obligations.DeviceEvents : Prop :=
  ∀ s : State,
    (exec .moduleReset s = .next (boot (resetKeeping (if s.dev.bootState = 0 then s else commitRecord s) s.mem.hbm)) ∧
      ∀ h, (resetKeeping s h).droves = [] ∧ (resetKeeping s h).sch = State.reset.sch ∧ (resetKeeping s h).priv = State.reset.priv ∧
        (resetKeeping s h).coh = State.reset.coh ∧ (resetKeeping s h).mem.hbm = h ∧ (resetKeeping s h).mem.safe = s.mem.safe) ∧
    exec .powerLoss s = .next (resetKeeping s []) ∧
    (∀ bs, exec (.recoveryImageWrite bs) s = .next (
      if 2 ≤ s.dev.bootState ∧ Config.signatureGood bs = true ∧ Config.minVersion.toNat ≤ (Config.imageVersion bs).toNat
      then boot (resetKeeping (commitRecord { s with mem := { s.mem with flash := bs } }) s.mem.hbm) else s)) ∧
    (∃ t, exec .profileChangeTakesEffect s = .next t ∧ t.dev.profCur = s.dev.profReq ∧ t.dev.ports = s.dev.ports &&& portsOf s.dev.profReq ∧
      t.mem = s.mem ∧ t.dr = s.dr) ∧
    ((∃ t, exec (.thermalClockStep true) s = .next t ∧ t.dev.clockDown = s.dev.clockDown - 1) ∧
      (s.dev.clockDown + 1 < profileClock s.dev.profCur → ∃ t, exec (.thermalClockStep false) s = .next t ∧ t.dev.clockDown = s.dev.clockDown + 1)) ∧
    (∀ l, l < 19 → (∃ t, exec (.flitCrcFail l) s = .next t ∧ (s.cycle ∈ recentResends t l)) ∧
      (retraining s l = false → 64 ≤ (recentResends s l).length →
        ∃ t, exec (.linkRetrain l) s = .next t ∧ retraining t l = true ∧ recentResends t l = []) ∧
      (∃ t, exec (.linkRetrainEnd l) s = .next t ∧ retraining t l = false)) ∧
    (∀ p, p < 12 → (∃ t, exec (.portDown p) s = .next t ∧ t.dev.ports.getLsbD p = false ∧ t.mem = s.mem) ∧
      ((portsOf s.dev.profCur).getLsbD p = true → s.sch.parks = [] → ∃ t, exec (.portTrained p) s = .next t ∧ t.dev.ports.getLsbD p = true)) ∧
    (∀ x, ∃ t, exec (.notifyClear x) s = .next t ∧ t.dev.notify = s.dev.notify &&& ~~~x ∧ t.mem = s.mem) ∧
    (∀ a, a + 72 ≤ 2 ^ 39 → homeRead s (a + 64) 8 + 1024 ≤ 2 ^ 39 → ∃ (t : State) (bs : List Byte), exec (.attestRequest a) s = .next t ∧
      t = homePut { s with dev := { s.dev with attestdb := BitVec.ofNat 64 a } } (homeRead s (a + 64) 8) bs ∧
      ∃ pre post, bs = pre ++ homeBytes s a 64 ++ post) ∧
    (let i := s.dev.fridx
      ∃ t, exec .frdataRead s = .next t ∧ t.dev.fridx = i + 1 ∧
        t.dev.frdata = if 0x1FFF < i.toNat then 0 else mapGet 0 s.dev.stored i.toNat) ∧
    (216000000000 ≤ s.cycle - s.dev.committed → ∃ t, exec .fieldRecordCommit s = .next t ∧ t.dev.stored = t.dev.record ∧ t.dev.committed = t.cycle) ∧
    (∀ a x fs c, (c = 0 → a + 64 ≤ 2 ^ 39) → ∀ t,
        ckptRecord (if c = 0 then { s with dev := { s.dev with ckptdb := BitVec.ofNat 64 a } } else s) c a = (some (fs, x), t) →
      ckptMalformed x = false → t.dev.ckpt = none →
      (recField x 0 1 = 0 → ckptFailing t = none → ∃ u, exec (.ckptSave c a) s = .next u ∧
        u.dev.ckpt.any (fun k => !k.restore && k.store == recField x 8 8 && k.recAt == fs) = true) ∧
      (recField x 0 1 = 1 → ∃ u, exec (.ckptRestore c a) s = .next u ∧ u.coh.l1 = [] ∧ u.coh.dir = [] ∧ u.coh.tlb = [])) ∧
    (∀ k, s.dev.ckpt = some k → quiesced s = true → ∃ t, exec (.checkpointStreamEnd true) s = .next t ∧ t.dev.ckpt = none) ∧
    (∀ die d, dueBr s die = some d → exec (.traceBrFlush die) s = .next (flushAll s die d (unhelp d).pc) ∧
      (pendingBrs s die = [d] → exec (.traceBrFlush die) s = .next (flushDue s die d (unhelp d).pc))) ∧
    (∀ die d, dueSync s die = some d → exec (.traceForcedSync die) s = .next (flushAll s die d (unhelp d).pc)) ∧
    (∀ die, (streamOf s die).dropped ≠ 0 → 4096 ≤ (streamOf s die).room → (streamOf s die).room ≤ 65536 → die < s.dev.traces.length →
      ∃ t, exec (.traceLoss die) s = .next t ∧ (streamOf t die).dropped = 0 ∧
        (streamOf t die).bytes = (streamOf s die).bytes ++ 0xE0 :: leBytes 2 (min (streamOf s die).dropped 65535)) ∧
    ((privReg s 0xE0).getLsbD 0 = true → exec .emptyIssueSlot s = .next (laneAdd (draw s).2 ((draw s).1 % 4) 6 0 64)) ∧
    ((privReg s 0xE0).getLsbD 0 = false → exec .emptyIssueSlot s = .next s)
end

