-- ==== Sys2Proof/Laws/Encoding.lean ====
section
/-! SUPPORT. Fields of an encoded word, one lemma per word layout. -/

namespace Sys2Proof.Laws

theorem fld_eq (len w lo : Nat) (x : BitVec len) (h : w / 2 ^ lo % 2 ^ len = x.toNat) : fld len w lo = x := by
  apply BitVec.eq_of_toNat_eq
  simp [fld, h]

theorem flag_eq (w lo : Nat) (b : Bool) (h : w / 2 ^ lo % 2 = bit b) : flag w lo = b := by
  cases b <;> simp_all [flag, bit]

theorem bit_lt (b : Bool) : bit b < 2 := by cases b <;> simp [bit]

theorem zeros_eq {len w lo : Nat} (h : w / 2 ^ lo % 2 ^ len = 0) : zeros len w lo = true := decide_eq_true h
theorem zeros_ne {len w lo : Nat} (h : w / 2 ^ lo % 2 ^ len ≠ 0) : zeros len w lo = false := decide_eq_false h
theorem code_eq {len w lo v : Nat} (h : w / 2 ^ lo % 2 ^ len = v) : code len w lo v = true := decide_eq_true h
theorem code_ne {len w lo v : Nat} (h : w / 2 ^ lo % 2 ^ len ≠ v) : code len w lo v = false := decide_eq_false h

theorem decode_of_raw {w : Nat} {i : Instr} (hr : decodeRaw w = some i) (hw : i.wellFormed = true) :
    decodeNat w = some i := by
  simp [decodeNat, hr, hw]

theorem shape0 (hi lo w : Nat) (hh : hi < 16) (hl : lo < 16) (x0 : BitVec 6) (x1 : BitVec 6) (x2 : BitVec 6) (x3 :
      Bool) (x4 : Bool) (x5 : Bool)
    (h : pack ((16 * hi + lo) * 2 ^ 24 + 0) [(x0.toNat, 18), (x1.toNat, 12), (x2.toNat, 6), (bit x3, 2), (bit x4, 1),
      (bit x5, 0)] = w) :
    w < 2 ^ 32 ∧ w / 2 ^ 28 % 16 = hi ∧ w / 2 ^ 24 % 16 = lo ∧ fld 6 w 18 = x0 ∧ fld 6 w 12 = x1 ∧ fld 6 w 6 = x2 ∧
      flag w 2 = x3 ∧ flag w 1 = x4 ∧ flag w 0 = x5 ∧ zeros 3 w 3 = true := by
  simp only [pack] at h
  have l0 := x0.isLt; have l1 := x1.isLt; have l2 := x2.isLt; have l3 := bit_lt x3; have l4 := bit_lt x4; have l5 :=
      bit_lt x5
  exact ⟨by omega, by omega, by omega, fld_eq _ _ _ _ (by omega), fld_eq _ _ _ _ (by omega), fld_eq _ _ _ _ (by
      omega), flag_eq _ _ _ (by omega), flag_eq _ _ _ (by omega), flag_eq _ _ _ (by omega), zeros_eq (by omega)⟩

theorem shape1 (hi lo w : Nat) (hh : hi < 16) (hl : lo < 16) (x0 : BitVec 6) (x1 : BitVec 6) (x2 : Bool) (x3 : Bool)
    (h : pack ((16 * hi + lo) * 2 ^ 24 + 0) [(x0.toNat, 18), (x1.toNat, 12), (bit x2, 2), (bit x3, 0)] = w) :
    w < 2 ^ 32 ∧ w / 2 ^ 28 % 16 = hi ∧ w / 2 ^ 24 % 16 = lo ∧ fld 6 w 18 = x0 ∧ fld 6 w 12 = x1 ∧ flag w 2 = x2 ∧
      flag w 0 = x3 ∧ zeros 9 w 3 = true ∧ zeros 1 w 1 = true := by
  simp only [pack] at h
  have l0 := x0.isLt; have l1 := x1.isLt; have l2 := bit_lt x2; have l3 := bit_lt x3
  exact ⟨by omega, by omega, by omega, fld_eq _ _ _ _ (by omega), fld_eq _ _ _ _ (by omega), flag_eq _ _ _ (by
      omega), flag_eq _ _ _ (by omega), zeros_eq (by omega), zeros_eq (by omega)⟩

theorem shape2 (hi lo w : Nat) (hh : hi < 16) (hl : lo < 16) (x0 : BitVec 6) (x1 : BitVec 6) (x2 : BitVec 12)
    (h : pack ((16 * hi + lo) * 2 ^ 24 + 0) [(x0.toNat, 18), (x1.toNat, 12), (x2.toNat, 0)] = w) :
    w < 2 ^ 32 ∧ w / 2 ^ 28 % 16 = hi ∧ w / 2 ^ 24 % 16 = lo ∧ fld 6 w 18 = x0 ∧ fld 6 w 12 = x1 ∧ fld 12 w 0 = x2 := by
  simp only [pack] at h
  have l0 := x0.isLt; have l1 := x1.isLt; have l2 := x2.isLt
  exact ⟨by omega, by omega, by omega, fld_eq _ _ _ _ (by omega), fld_eq _ _ _ _ (by omega), fld_eq _ _ _ _ (by omega)⟩

theorem shape3 (hi lo w : Nat) (hh : hi < 16) (hl : lo < 16) (x0 : BitVec 6) (x1 : BitVec 6) (x2 : BitVec 6)
    (h : pack ((16 * hi + lo) * 2 ^ 24 + 0) [(x0.toNat, 18), (x1.toNat, 12), (x2.toNat, 0)] = w) :
    w < 2 ^ 32 ∧ w / 2 ^ 28 % 16 = hi ∧ w / 2 ^ 24 % 16 = lo ∧ fld 6 w 18 = x0 ∧ fld 6 w 12 = x1 ∧ fld 6 w 0 = x2 ∧
      zeros 6 w 6 = true := by
  simp only [pack] at h
  have l0 := x0.isLt; have l1 := x1.isLt; have l2 := x2.isLt
  exact ⟨by omega, by omega, by omega, fld_eq _ _ _ _ (by omega), fld_eq _ _ _ _ (by omega), fld_eq _ _ _ _ (by
      omega), zeros_eq (by omega)⟩

theorem shape4 (hi lo w : Nat) (hh : hi < 16) (hl : lo < 16) (x0 : BitVec 6) (x1 : BitVec 18)
    (h : pack ((16 * hi + lo) * 2 ^ 24 + 0) [(x0.toNat, 18), (x1.toNat, 0)] = w) :
    w < 2 ^ 32 ∧ w / 2 ^ 28 % 16 = hi ∧ w / 2 ^ 24 % 16 = lo ∧ fld 6 w 18 = x0 ∧ fld 18 w 0 = x1 := by
  simp only [pack] at h
  have l0 := x0.isLt; have l1 := x1.isLt
  exact ⟨by omega, by omega, by omega, fld_eq _ _ _ _ (by omega), fld_eq _ _ _ _ (by omega)⟩

theorem shape5 (hi lo w : Nat) (hh : hi < 16) (hl : lo < 16) (x0 : BitVec 18)
    (h : pack ((16 * hi + lo) * 2 ^ 24 + 0) [(x0.toNat, 0)] = w) :
    w < 2 ^ 32 ∧ w / 2 ^ 28 % 16 = hi ∧ w / 2 ^ 24 % 16 = lo ∧ fld 18 w 0 = x0 ∧ zeros 6 w 18 = true := by
  simp only [pack] at h
  have l0 := x0.isLt
  exact ⟨by omega, by omega, by omega, fld_eq _ _ _ _ (by omega), zeros_eq (by omega)⟩

theorem shape6 (hi lo w : Nat) (hh : hi < 16) (hl : lo < 16) (x0 : BitVec 6) (x1 : Bool)
    (h : pack ((16 * hi + lo) * 2 ^ 24 + 0) [(x0.toNat, 12), (bit x1, 2)] = w) :
    w < 2 ^ 32 ∧ w / 2 ^ 28 % 16 = hi ∧ w / 2 ^ 24 % 16 = lo ∧ fld 6 w 12 = x0 ∧ flag w 2 = x1 ∧ zeros 6 w 18 = true
      ∧ zeros 9 w 3 = true ∧ zeros 2 w 0 = true := by
  simp only [pack] at h
  have l0 := x0.isLt; have l1 := bit_lt x1
  exact ⟨by omega, by omega, by omega, fld_eq _ _ _ _ (by omega), flag_eq _ _ _ (by omega), zeros_eq (by omega),
      zeros_eq (by omega), zeros_eq (by omega)⟩

theorem shape7 (hi lo w : Nat) (hh : hi < 16) (hl : lo < 16) (x0 : BitVec 24)
    (h : pack ((16 * hi + lo) * 2 ^ 24 + 0) [(x0.toNat, 0)] = w) :
    w < 2 ^ 32 ∧ w / 2 ^ 28 % 16 = hi ∧ w / 2 ^ 24 % 16 = lo ∧ fld 24 w 0 = x0 := by
  simp only [pack] at h
  have l0 := x0.isLt
  exact ⟨by omega, by omega, by omega, fld_eq _ _ _ _ (by omega)⟩

theorem shape8 (hi lo w : Nat) (hh : hi < 16) (hl : lo < 16) (x0 : BitVec 4) (x1 : BitVec 6)
    (h : pack ((16 * hi + lo) * 2 ^ 24 + 0) [(x0.toNat, 20), (x1.toNat, 0)] = w) :
    w < 2 ^ 32 ∧ w / 2 ^ 28 % 16 = hi ∧ w / 2 ^ 24 % 16 = lo ∧ fld 4 w 20 = x0 ∧ fld 6 w 0 = x1 ∧ zeros 14 w 6 = true
      := by
  simp only [pack] at h
  have l0 := x0.isLt; have l1 := x1.isLt
  exact ⟨by omega, by omega, by omega, fld_eq _ _ _ _ (by omega), fld_eq _ _ _ _ (by omega), zeros_eq (by omega)⟩

theorem shape9 (hi lo w : Nat) (hh : hi < 16) (hl : lo < 16) (x0 : BitVec 6) (x1 : Bool)
    (h : pack ((16 * hi + lo) * 2 ^ 24 + 0) [(x0.toNat, 18), (bit x1, 0)] = w) :
    w < 2 ^ 32 ∧ w / 2 ^ 28 % 16 = hi ∧ w / 2 ^ 24 % 16 = lo ∧ fld 6 w 18 = x0 ∧ flag w 0 = x1 ∧ zeros 17 w 1 = true
      := by
  simp only [pack] at h
  have l0 := x0.isLt; have l1 := bit_lt x1
  exact ⟨by omega, by omega, by omega, fld_eq _ _ _ _ (by omega), flag_eq _ _ _ (by omega), zeros_eq (by omega)⟩

theorem shape10 (hi lo w : Nat) (hh : hi < 16) (hl : lo < 16) (x0 : BitVec 7) (x1 : BitVec 7) (x2 : BitVec 7) (x3 :
      Bool) (x4 : Bool) (x5 : Bool)
    (h : pack ((16 * hi + lo) * 2 ^ 24 + 0) [(x0.toNat, 17), (x1.toNat, 10), (x2.toNat, 3), (bit x3, 2), (bit x4, 1),
      (bit x5, 0)] = w) :
    w < 2 ^ 32 ∧ w / 2 ^ 28 % 16 = hi ∧ w / 2 ^ 24 % 16 = lo ∧ fld 7 w 17 = x0 ∧ fld 7 w 10 = x1 ∧ fld 7 w 3 = x2 ∧
      flag w 2 = x3 ∧ flag w 1 = x4 ∧ flag w 0 = x5 := by
  simp only [pack] at h
  have l0 := x0.isLt; have l1 := x1.isLt; have l2 := x2.isLt; have l3 := bit_lt x3; have l4 := bit_lt x4; have l5 :=
      bit_lt x5
  exact ⟨by omega, by omega, by omega, fld_eq _ _ _ _ (by omega), fld_eq _ _ _ _ (by omega), fld_eq _ _ _ _ (by
      omega), flag_eq _ _ _ (by omega), flag_eq _ _ _ (by omega), flag_eq _ _ _ (by omega)⟩

theorem shape11 (hi lo w : Nat) (hh : hi < 16) (hl : lo < 16) (x0 : BitVec 7) (x1 : BitVec 7) (x2 : Bool) (x3 : Bool)
    (h : pack ((16 * hi + lo) * 2 ^ 24 + 0) [(x0.toNat, 17), (x1.toNat, 10), (bit x2, 2), (bit x3, 0)] = w) :
    w < 2 ^ 32 ∧ w / 2 ^ 28 % 16 = hi ∧ w / 2 ^ 24 % 16 = lo ∧ fld 7 w 17 = x0 ∧ fld 7 w 10 = x1 ∧ flag w 2 = x2 ∧
      flag w 0 = x3 ∧ zeros 7 w 3 = true ∧ zeros 1 w 1 = true := by
  simp only [pack] at h
  have l0 := x0.isLt; have l1 := x1.isLt; have l2 := bit_lt x2; have l3 := bit_lt x3
  exact ⟨by omega, by omega, by omega, fld_eq _ _ _ _ (by omega), fld_eq _ _ _ _ (by omega), flag_eq _ _ _ (by
      omega), flag_eq _ _ _ (by omega), zeros_eq (by omega), zeros_eq (by omega)⟩

theorem shape12 (hi lo w : Nat) (hh : hi < 16) (hl : lo < 16) (x0 : BitVec 7) (x1 : BitVec 7) (x2 : BitVec 6) (x3 :
      Bool) (x4 : Bool)
    (h : pack ((16 * hi + lo) * 2 ^ 24 + 2) [(x0.toNat, 17), (x1.toNat, 10), (x2.toNat, 4), (bit x3, 3), (bit x4, 2)]
      = w) :
    w < 2 ^ 32 ∧ w / 2 ^ 28 % 16 = hi ∧ w / 2 ^ 24 % 16 = lo ∧ fld 7 w 17 = x0 ∧ fld 7 w 10 = x1 ∧ fld 6 w 4 = x2 ∧
      flag w 3 = x3 ∧ flag w 2 = x4 ∧ code 2 w 0 2 = true := by
  simp only [pack] at h
  have l0 := x0.isLt; have l1 := x1.isLt; have l2 := x2.isLt; have l3 := bit_lt x3; have l4 := bit_lt x4
  exact ⟨by omega, by omega, by omega, fld_eq _ _ _ _ (by omega), fld_eq _ _ _ _ (by omega), fld_eq _ _ _ _ (by
      omega), flag_eq _ _ _ (by omega), flag_eq _ _ _ (by omega), code_eq (by omega)⟩

theorem shape13 (hi lo w : Nat) (hh : hi < 16) (hl : lo < 16) (x0 : BitVec 7) (x1 : BitVec 6) (x2 : Bool)
    (h : pack ((16 * hi + lo) * 2 ^ 24 + 3) [(x0.toNat, 10), (x1.toNat, 4), (bit x2, 3)] = w) :
    w < 2 ^ 32 ∧ w / 2 ^ 28 % 16 = hi ∧ w / 2 ^ 24 % 16 = lo ∧ fld 7 w 10 = x0 ∧ fld 6 w 4 = x1 ∧ flag w 3 = x2 ∧
      code 2 w 0 2 = false ∧ zeros 7 w 17 = true ∧ code 3 w 0 3 = true := by
  simp only [pack] at h
  have l0 := x0.isLt; have l1 := x1.isLt; have l2 := bit_lt x2
  exact ⟨by omega, by omega, by omega, fld_eq _ _ _ _ (by omega), fld_eq _ _ _ _ (by omega), flag_eq _ _ _ (by
      omega), code_ne (by omega), zeros_eq (by omega), code_eq (by omega)⟩

theorem shape14 (hi lo w : Nat) (hh : hi < 16) (hl : lo < 16) (x0 : BitVec 7) (x1 : BitVec 7) (x2 : BitVec 6) (x3 :
      Bool) (x4 : Bool)
    (h : pack ((16 * hi + lo) * 2 ^ 24 + 0) [(x0.toNat, 17), (x1.toNat, 10), (x2.toNat, 4), (bit x3, 3), (bit x4, 2)]
      = w) :
    w < 2 ^ 32 ∧ w / 2 ^ 28 % 16 = hi ∧ w / 2 ^ 24 % 16 = lo ∧ fld 7 w 17 = x0 ∧ fld 7 w 10 = x1 ∧ fld 6 w 4 = x2 ∧
      flag w 3 = x3 ∧ flag w 2 = x4 ∧ zeros 2 w 0 = true := by
  simp only [pack] at h
  have l0 := x0.isLt; have l1 := x1.isLt; have l2 := x2.isLt; have l3 := bit_lt x3; have l4 := bit_lt x4
  exact ⟨by omega, by omega, by omega, fld_eq _ _ _ _ (by omega), fld_eq _ _ _ _ (by omega), fld_eq _ _ _ _ (by
      omega), flag_eq _ _ _ (by omega), flag_eq _ _ _ (by omega), zeros_eq (by omega)⟩

theorem shape15 (hi lo w : Nat) (hh : hi < 16) (hl : lo < 16) (x0 : BitVec 7) (x1 : BitVec 7) (x2 : BitVec 6) (x3 :
      Bool) (x4 : Bool)
    (h : pack ((16 * hi + lo) * 2 ^ 24 + 1) [(x0.toNat, 17), (x1.toNat, 10), (x2.toNat, 4), (bit x3, 3), (bit x4, 2)]
      = w) :
    w < 2 ^ 32 ∧ w / 2 ^ 28 % 16 = hi ∧ w / 2 ^ 24 % 16 = lo ∧ fld 7 w 17 = x0 ∧ fld 7 w 10 = x1 ∧ fld 6 w 4 = x2 ∧
      flag w 3 = x3 ∧ flag w 2 = x4 ∧ zeros 2 w 0 = false ∧ code 2 w 0 1 = true := by
  simp only [pack] at h
  have l0 := x0.isLt; have l1 := x1.isLt; have l2 := x2.isLt; have l3 := bit_lt x3; have l4 := bit_lt x4
  exact ⟨by omega, by omega, by omega, fld_eq _ _ _ _ (by omega), fld_eq _ _ _ _ (by omega), fld_eq _ _ _ _ (by
      omega), flag_eq _ _ _ (by omega), flag_eq _ _ _ (by omega), zeros_ne (by omega), code_eq (by omega)⟩

theorem shape16 (hi lo w : Nat) (hh : hi < 16) (hl : lo < 16) (x0 : BitVec 7) (x1 : BitVec 6) (x2 : Bool)
    (h : pack ((16 * hi + lo) * 2 ^ 24 + 0) [(x0.toNat, 17), (x1.toNat, 4), (bit x2, 2)] = w) :
    w < 2 ^ 32 ∧ w / 2 ^ 28 % 16 = hi ∧ w / 2 ^ 24 % 16 = lo ∧ fld 7 w 17 = x0 ∧ fld 6 w 4 = x1 ∧ flag w 2 = x2 ∧
      zeros 7 w 10 = true ∧ zeros 1 w 3 = true ∧ zeros 2 w 0 = true := by
  simp only [pack] at h
  have l0 := x0.isLt; have l1 := x1.isLt; have l2 := bit_lt x2
  exact ⟨by omega, by omega, by omega, fld_eq _ _ _ _ (by omega), fld_eq _ _ _ _ (by omega), flag_eq _ _ _ (by
      omega), zeros_eq (by omega), zeros_eq (by omega), zeros_eq (by omega)⟩

theorem shape17 (hi lo w : Nat) (hh : hi < 16) (hl : lo < 16) (x0 : BitVec 7) (x1 : Bool)
    (h : pack ((16 * hi + lo) * 2 ^ 24 + 0) [(x0.toNat, 17), (bit x1, 0)] = w) :
    w < 2 ^ 32 ∧ w / 2 ^ 28 % 16 = hi ∧ w / 2 ^ 24 % 16 = lo ∧ fld 7 w 17 = x0 ∧ flag w 0 = x1 ∧ zeros 16 w 1 = true
      := by
  simp only [pack] at h
  have l0 := x0.isLt; have l1 := bit_lt x1
  exact ⟨by omega, by omega, by omega, fld_eq _ _ _ _ (by omega), flag_eq _ _ _ (by omega), zeros_eq (by omega)⟩

theorem shape18 (hi lo w : Nat) (hh : hi < 16) (hl : lo < 16) (x0 : BitVec 7) (x1 : BitVec 7) (x2 : BitVec 7) (x3 :
      Bool) (x4 : Bool)
    (h : pack ((16 * hi + lo) * 2 ^ 24 + 0) [(x0.toNat, 17), (x1.toNat, 10), (x2.toNat, 3), (bit x3, 2), (bit x4, 0)]
      = w) :
    w < 2 ^ 32 ∧ w / 2 ^ 28 % 16 = hi ∧ w / 2 ^ 24 % 16 = lo ∧ fld 7 w 17 = x0 ∧ fld 7 w 10 = x1 ∧ fld 7 w 3 = x2 ∧
      flag w 2 = x3 ∧ flag w 0 = x4 ∧ zeros 1 w 1 = true := by
  simp only [pack] at h
  have l0 := x0.isLt; have l1 := x1.isLt; have l2 := x2.isLt; have l3 := bit_lt x3; have l4 := bit_lt x4
  exact ⟨by omega, by omega, by omega, fld_eq _ _ _ _ (by omega), fld_eq _ _ _ _ (by omega), fld_eq _ _ _ _ (by
      omega), flag_eq _ _ _ (by omega), flag_eq _ _ _ (by omega), zeros_eq (by omega)⟩

theorem shape19 (hi lo w : Nat) (hh : hi < 16) (hl : lo < 16) (x0 : BitVec 7) (x1 : BitVec 6) (x2 : Bool)
    (h : pack ((16 * hi + lo) * 2 ^ 24 + 3) [(x0.toNat, 10), (x1.toNat, 4), (bit x2, 3)] = w) :
    w < 2 ^ 32 ∧ w / 2 ^ 28 % 16 = hi ∧ w / 2 ^ 24 % 16 = lo ∧ fld 7 w 10 = x0 ∧ fld 6 w 4 = x1 ∧ flag w 3 = x2 ∧
      zeros 7 w 17 = true ∧ code 3 w 0 3 = true := by
  simp only [pack] at h
  have l0 := x0.isLt; have l1 := x1.isLt; have l2 := bit_lt x2
  exact ⟨by omega, by omega, by omega, fld_eq _ _ _ _ (by omega), fld_eq _ _ _ _ (by omega), flag_eq _ _ _ (by
      omega), zeros_eq (by omega), code_eq (by omega)⟩

theorem shape20 (hi lo w : Nat) (hh : hi < 16) (hl : lo < 16) (x0 : BitVec 7) (x1 : BitVec 6) (x2 : BitVec 7) (x3 :
      BitVec 2) (x4 : Bool) (x5 : Bool)
    (h : pack ((16 * hi + lo) * 2 ^ 24 + 0) [(x0.toNat, 17), (x1.toNat, 11), (x2.toNat, 4), (x3.toNat, 2), (bit x4,
      1), (bit x5, 0)] = w) :
    w < 2 ^ 32 ∧ w / 2 ^ 28 % 16 = hi ∧ w / 2 ^ 24 % 16 = lo ∧ fld 7 w 17 = x0 ∧ fld 6 w 11 = x1 ∧ fld 7 w 4 = x2 ∧
      fld 2 w 2 = x3 ∧ flag w 1 = x4 ∧ flag w 0 = x5 := by
  simp only [pack] at h
  have l0 := x0.isLt; have l1 := x1.isLt; have l2 := x2.isLt; have l3 := x3.isLt; have l4 := bit_lt x4; have l5 :=
      bit_lt x5
  exact ⟨by omega, by omega, by omega, fld_eq _ _ _ _ (by omega), fld_eq _ _ _ _ (by omega), fld_eq _ _ _ _ (by
      omega), fld_eq _ _ _ _ (by omega), flag_eq _ _ _ (by omega), flag_eq _ _ _ (by omega)⟩

theorem shape21 (hi lo w : Nat) (hh : hi < 16) (hl : lo < 16) (x0 : BitVec 7) (x1 : BitVec 6) (x2 : BitVec 7) (x3 :
      BitVec 2) (x4 : Bool)
    (h : pack ((16 * hi + lo) * 2 ^ 24 + 0) [(x0.toNat, 17), (x1.toNat, 11), (x2.toNat, 4), (x3.toNat, 2), (bit x4,
      0)] = w) :
    w < 2 ^ 32 ∧ w / 2 ^ 28 % 16 = hi ∧ w / 2 ^ 24 % 16 = lo ∧ fld 7 w 17 = x0 ∧ fld 6 w 11 = x1 ∧ fld 7 w 4 = x2 ∧
      fld 2 w 2 = x3 ∧ flag w 0 = x4 ∧ zeros 1 w 1 = true := by
  simp only [pack] at h
  have l0 := x0.isLt; have l1 := x1.isLt; have l2 := x2.isLt; have l3 := x3.isLt; have l4 := bit_lt x4
  exact ⟨by omega, by omega, by omega, fld_eq _ _ _ _ (by omega), fld_eq _ _ _ _ (by omega), fld_eq _ _ _ _ (by
      omega), fld_eq _ _ _ _ (by omega), flag_eq _ _ _ (by omega), zeros_eq (by omega)⟩

theorem shape22 (hi lo w : Nat) (hh : hi < 16) (hl : lo < 16) (x0 : BitVec 6) (x1 : BitVec 6) (x2 : BitVec 10) (x3 :
      BitVec 2)
    (h : pack ((16 * hi + lo) * 2 ^ 24 + 0) [(x0.toNat, 18), (x1.toNat, 12), (x2.toNat, 2), (x3.toNat, 0)] = w) :
    w < 2 ^ 32 ∧ w / 2 ^ 28 % 16 = hi ∧ w / 2 ^ 24 % 16 = lo ∧ fld 6 w 18 = x0 ∧ fld 6 w 12 = x1 ∧ fld 10 w 2 = x2 ∧
      fld 2 w 0 = x3 := by
  simp only [pack] at h
  have l0 := x0.isLt; have l1 := x1.isLt; have l2 := x2.isLt; have l3 := x3.isLt
  exact ⟨by omega, by omega, by omega, fld_eq _ _ _ _ (by omega), fld_eq _ _ _ _ (by omega), fld_eq _ _ _ _ (by
      omega), fld_eq _ _ _ _ (by omega)⟩

theorem shape23 (hi lo w : Nat) (hh : hi < 16) (hl : lo < 16) (x0 : BitVec 2) (x1 : BitVec 6) (x2 : BitVec 7) (x3 :
      BitVec 2) (x4 : Bool)
    (h : pack ((16 * hi + lo) * 2 ^ 24 + 0) [(x0.toNat, 17), (x1.toNat, 11), (x2.toNat, 4), (x3.toNat, 2), (bit x4,
      0)] = w) :
    w < 2 ^ 32 ∧ w / 2 ^ 28 % 16 = hi ∧ w / 2 ^ 24 % 16 = lo ∧ fld 2 w 17 = x0 ∧ fld 6 w 11 = x1 ∧ fld 7 w 4 = x2 ∧
      fld 2 w 2 = x3 ∧ flag w 0 = x4 ∧ zeros 5 w 19 = true ∧ zeros 1 w 1 = true := by
  simp only [pack] at h
  have l0 := x0.isLt; have l1 := x1.isLt; have l2 := x2.isLt; have l3 := x3.isLt; have l4 := bit_lt x4
  exact ⟨by omega, by omega, by omega, fld_eq _ _ _ _ (by omega), fld_eq _ _ _ _ (by omega), fld_eq _ _ _ _ (by
      omega), fld_eq _ _ _ _ (by omega), flag_eq _ _ _ (by omega), zeros_eq (by omega), zeros_eq (by omega)⟩

theorem shape24 (hi lo w : Nat) (hh : hi < 16) (hl : lo < 16) (x0 : BitVec 6) (x1 : BitVec 6)
    (h : pack ((16 * hi + lo) * 2 ^ 24 + 0) [(x0.toNat, 18), (x1.toNat, 12)] = w) :
    w < 2 ^ 32 ∧ w / 2 ^ 28 % 16 = hi ∧ w / 2 ^ 24 % 16 = lo ∧ fld 6 w 18 = x0 ∧ fld 6 w 12 = x1 ∧ zeros 12 w 0 =
      true := by
  simp only [pack] at h
  have l0 := x0.isLt; have l1 := x1.isLt
  exact ⟨by omega, by omega, by omega, fld_eq _ _ _ _ (by omega), fld_eq _ _ _ _ (by omega), zeros_eq (by omega)⟩

theorem shape25 (hi lo w : Nat) (hh : hi < 16) (hl : lo < 16) (x0 : BitVec 7) (x1 : BitVec 6) (x2 : BitVec 7) (x3 :
      BitVec 4)
    (h : pack ((16 * hi + lo) * 2 ^ 24 + 0) [(x0.toNat, 17), (x1.toNat, 11), (x2.toNat, 4), (x3.toNat, 0)] = w) :
    w < 2 ^ 32 ∧ w / 2 ^ 28 % 16 = hi ∧ w / 2 ^ 24 % 16 = lo ∧ fld 7 w 17 = x0 ∧ fld 6 w 11 = x1 ∧ fld 7 w 4 = x2 ∧
      fld 4 w 0 = x3 := by
  simp only [pack] at h
  have l0 := x0.isLt; have l1 := x1.isLt; have l2 := x2.isLt; have l3 := x3.isLt
  exact ⟨by omega, by omega, by omega, fld_eq _ _ _ _ (by omega), fld_eq _ _ _ _ (by omega), fld_eq _ _ _ _ (by
      omega), fld_eq _ _ _ _ (by omega)⟩

theorem shape26 (hi lo w : Nat) (hh : hi < 16) (hl : lo < 16) (x0 : BitVec 7) (x1 : BitVec 6) (x2 : BitVec 7)
    (h : pack ((16 * hi + lo) * 2 ^ 24 + 0) [(x0.toNat, 17), (x1.toNat, 11), (x2.toNat, 4)] = w) :
    w < 2 ^ 32 ∧ w / 2 ^ 28 % 16 = hi ∧ w / 2 ^ 24 % 16 = lo ∧ fld 7 w 17 = x0 ∧ fld 6 w 11 = x1 ∧ fld 7 w 4 = x2 ∧
      zeros 4 w 0 = true := by
  simp only [pack] at h
  have l0 := x0.isLt; have l1 := x1.isLt; have l2 := x2.isLt
  exact ⟨by omega, by omega, by omega, fld_eq _ _ _ _ (by omega), fld_eq _ _ _ _ (by omega), fld_eq _ _ _ _ (by
      omega), zeros_eq (by omega)⟩

theorem shape27 (hi lo w : Nat) (hh : hi < 16) (hl : lo < 16) (x0 : BitVec 6) (x1 : BitVec 6) (x2 : BitVec 6) (x3 :
      BitVec 4)
    (h : pack ((16 * hi + lo) * 2 ^ 24 + 0) [(x0.toNat, 17), (x1.toNat, 11), (x2.toNat, 4), (x3.toNat, 0)] = w) :
    w < 2 ^ 32 ∧ w / 2 ^ 28 % 16 = hi ∧ w / 2 ^ 24 % 16 = lo ∧ fld 6 w 17 = x0 ∧ fld 6 w 11 = x1 ∧ fld 6 w 4 = x2 ∧
      fld 4 w 0 = x3 ∧ zeros 1 w 23 = true ∧ zeros 1 w 10 = true := by
  simp only [pack] at h
  have l0 := x0.isLt; have l1 := x1.isLt; have l2 := x2.isLt; have l3 := x3.isLt
  exact ⟨by omega, by omega, by omega, fld_eq _ _ _ _ (by omega), fld_eq _ _ _ _ (by omega), fld_eq _ _ _ _ (by
      omega), fld_eq _ _ _ _ (by omega), zeros_eq (by omega), zeros_eq (by omega)⟩

theorem shape28 (hi lo w : Nat) (hh : hi < 16) (hl : lo < 16) (x0 : BitVec 4) (x1 : Bool) (x2 : BitVec 7) (x3 : Bool)
      (x4 : BitVec 7) (x5 : Bool)
    (h : pack ((16 * hi + lo) * 2 ^ 24 + 0) [(x0.toNat, 20), (bit x1, 19), (x2.toNat, 12), (bit x3, 11), (x4.toNat,
      4), (bit x5, 3)] = w) :
    w < 2 ^ 32 ∧ w / 2 ^ 28 % 16 = hi ∧ w / 2 ^ 24 % 16 = lo ∧ fld 4 w 20 = x0 ∧ flag w 19 = x1 ∧ fld 7 w 12 = x2 ∧
      flag w 11 = x3 ∧ fld 7 w 4 = x4 ∧ flag w 3 = x5 ∧ zeros 3 w 0 = true := by
  simp only [pack] at h
  have l0 := x0.isLt; have l1 := bit_lt x1; have l2 := x2.isLt; have l3 := bit_lt x3; have l4 := x4.isLt; have l5 :=
      bit_lt x5
  exact ⟨by omega, by omega, by omega, fld_eq _ _ _ _ (by omega), flag_eq _ _ _ (by omega), fld_eq _ _ _ _ (by
      omega), flag_eq _ _ _ (by omega), fld_eq _ _ _ _ (by omega), flag_eq _ _ _ (by omega), zeros_eq (by omega)⟩

theorem shape29 (hi lo w : Nat) (hh : hi < 16) (hl : lo < 16) (x0 : BitVec 4) (x1 : BitVec 6)
    (h : pack ((16 * hi + lo) * 2 ^ 24 + 524288) [(x0.toNat, 20), (x1.toNat, 12)] = w) :
    w < 2 ^ 32 ∧ w / 2 ^ 28 % 16 = hi ∧ w / 2 ^ 24 % 16 = lo ∧ fld 4 w 20 = x0 ∧ fld 6 w 12 = x1 ∧ code 2 w 18 2 =
      true ∧ zeros 12 w 0 = true := by
  simp only [pack] at h
  have l0 := x0.isLt; have l1 := x1.isLt
  exact ⟨by omega, by omega, by omega, fld_eq _ _ _ _ (by omega), fld_eq _ _ _ _ (by omega), code_eq (by omega),
      zeros_eq (by omega)⟩

theorem shape30 (hi lo w : Nat) (hh : hi < 16) (hl : lo < 16) (x0 : BitVec 4)
    (h : pack ((16 * hi + lo) * 2 ^ 24 + 0) [(x0.toNat, 20)] = w) :
    w < 2 ^ 32 ∧ w / 2 ^ 28 % 16 = hi ∧ w / 2 ^ 24 % 16 = lo ∧ fld 4 w 20 = x0 ∧ zeros 20 w 0 = true := by
  simp only [pack] at h
  have l0 := x0.isLt
  exact ⟨by omega, by omega, by omega, fld_eq _ _ _ _ (by omega), zeros_eq (by omega)⟩

theorem shape31 (hi lo w : Nat) (hh : hi < 16) (hl : lo < 16) (x0 : BitVec 4) (x1 : Bool) (x2 : BitVec 6) (x3 :
      BitVec 6) (x4 : BitVec 7)
    (h : pack ((16 * hi + lo) * 2 ^ 24 + 0) [(x0.toNat, 20), (bit x1, 19), (x2.toNat, 13), (x3.toNat, 7), (x4.toNat,
      0)] = w) :
    w < 2 ^ 32 ∧ w / 2 ^ 28 % 16 = hi ∧ w / 2 ^ 24 % 16 = lo ∧ fld 4 w 20 = x0 ∧ flag w 19 = x1 ∧ fld 6 w 13 = x2 ∧
      fld 6 w 7 = x3 ∧ fld 7 w 0 = x4 := by
  simp only [pack] at h
  have l0 := x0.isLt; have l1 := bit_lt x1; have l2 := x2.isLt; have l3 := x3.isLt; have l4 := x4.isLt
  exact ⟨by omega, by omega, by omega, fld_eq _ _ _ _ (by omega), flag_eq _ _ _ (by omega), fld_eq _ _ _ _ (by
      omega), fld_eq _ _ _ _ (by omega), fld_eq _ _ _ _ (by omega)⟩

theorem shape32 (hi lo w : Nat) (hh : hi < 16) (hl : lo < 16) (x0 : BitVec 4) (x1 : BitVec 4) (x2 : BitVec 7)
    (h : pack ((16 * hi + lo) * 2 ^ 24 + 0) [(x0.toNat, 20), (x1.toNat, 12), (x2.toNat, 4)] = w) :
    w < 2 ^ 32 ∧ w / 2 ^ 28 % 16 = hi ∧ w / 2 ^ 24 % 16 = lo ∧ fld 4 w 20 = x0 ∧ fld 4 w 12 = x1 ∧ fld 7 w 4 = x2 ∧
      zeros 4 w 16 = true ∧ zeros 1 w 11 = true ∧ zeros 4 w 0 = true := by
  simp only [pack] at h
  have l0 := x0.isLt; have l1 := x1.isLt; have l2 := x2.isLt
  exact ⟨by omega, by omega, by omega, fld_eq _ _ _ _ (by omega), fld_eq _ _ _ _ (by omega), fld_eq _ _ _ _ (by
      omega), zeros_eq (by omega), zeros_eq (by omega), zeros_eq (by omega)⟩

theorem shape33 (hi lo w : Nat) (hh : hi < 16) (hl : lo < 16) (x0 : Bool) (x1 : BitVec 6) (x2 : BitVec 6)
    (h : pack ((16 * hi + lo) * 2 ^ 24 + 526336) [(bit x0, 20), (x1.toNat, 12), (x2.toNat, 4)] = w) :
    w < 2 ^ 32 ∧ w / 2 ^ 28 % 16 = hi ∧ w / 2 ^ 24 % 16 = lo ∧ flag w 20 = x0 ∧ fld 6 w 12 = x1 ∧ fld 6 w 4 = x2 ∧
      zeros 3 w 21 = true ∧ code 2 w 18 2 = true ∧ code 2 w 10 2 = true ∧ zeros 4 w 0 = true := by
  simp only [pack] at h
  have l0 := bit_lt x0; have l1 := x1.isLt; have l2 := x2.isLt
  exact ⟨by omega, by omega, by omega, flag_eq _ _ _ (by omega), fld_eq _ _ _ _ (by omega), fld_eq _ _ _ _ (by
      omega), zeros_eq (by omega), code_eq (by omega), code_eq (by omega), zeros_eq (by omega)⟩

theorem shape34 (hi lo w : Nat) (hh : hi < 16) (hl : lo < 16) (x0 : BitVec 4) (x1 : BitVec 4)
    (h : pack ((16 * hi + lo) * 2 ^ 24 + 0) [(x0.toNat, 20), (x1.toNat, 12)] = w) :
    w < 2 ^ 32 ∧ w / 2 ^ 28 % 16 = hi ∧ w / 2 ^ 24 % 16 = lo ∧ fld 4 w 20 = x0 ∧ fld 4 w 12 = x1 ∧ zeros 4 w 16 =
      true ∧ zeros 12 w 0 = true := by
  simp only [pack] at h
  have l0 := x0.isLt; have l1 := x1.isLt
  exact ⟨by omega, by omega, by omega, fld_eq _ _ _ _ (by omega), fld_eq _ _ _ _ (by omega), zeros_eq (by omega),
      zeros_eq (by omega)⟩

theorem shape35 (hi lo w : Nat) (hh : hi < 16) (hl : lo < 16) (x0 : BitVec 4)
    (h : pack ((16 * hi + lo) * 2 ^ 24 + 0) [(x0.toNat, 0)] = w) :
    w < 2 ^ 32 ∧ w / 2 ^ 28 % 16 = hi ∧ w / 2 ^ 24 % 16 = lo ∧ fld 4 w 0 = x0 ∧ zeros 20 w 4 = true := by
  simp only [pack] at h
  have l0 := x0.isLt
  exact ⟨by omega, by omega, by omega, fld_eq _ _ _ _ (by omega), zeros_eq (by omega)⟩

theorem shape36 (hi lo w : Nat) (hh : hi < 16) (hl : lo < 16) (x0 : BitVec 6) (x1 : BitVec 6) (x2 : BitVec 2) (x3 :
      BitVec 4)
    (h : pack ((16 * hi + lo) * 2 ^ 24 + 0) [(x0.toNat, 18), (x1.toNat, 12), (x2.toNat, 4), (x3.toNat, 0)] = w) :
    w < 2 ^ 32 ∧ w / 2 ^ 28 % 16 = hi ∧ w / 2 ^ 24 % 16 = lo ∧ fld 6 w 18 = x0 ∧ fld 6 w 12 = x1 ∧ fld 2 w 4 = x2 ∧
      fld 4 w 0 = x3 ∧ zeros 6 w 6 = true := by
  simp only [pack] at h
  have l0 := x0.isLt; have l1 := x1.isLt; have l2 := x2.isLt; have l3 := x3.isLt
  exact ⟨by omega, by omega, by omega, fld_eq _ _ _ _ (by omega), fld_eq _ _ _ _ (by omega), fld_eq _ _ _ _ (by
      omega), fld_eq _ _ _ _ (by omega), zeros_eq (by omega)⟩

theorem shape37 (hi lo w : Nat) (hh : hi < 16) (hl : lo < 16) (x0 : BitVec 7) (x1 : BitVec 3)
    (h : pack ((16 * hi + lo) * 2 ^ 24 + 0) [(x0.toNat, 17), (x1.toNat, 0)] = w) :
    w < 2 ^ 32 ∧ w / 2 ^ 28 % 16 = hi ∧ w / 2 ^ 24 % 16 = lo ∧ fld 7 w 17 = x0 ∧ fld 3 w 0 = x1 ∧ zeros 14 w 3 = true
      := by
  simp only [pack] at h
  have l0 := x0.isLt; have l1 := x1.isLt
  exact ⟨by omega, by omega, by omega, fld_eq _ _ _ _ (by omega), fld_eq _ _ _ _ (by omega), zeros_eq (by omega)⟩

theorem shape38 (hi lo w : Nat) (hh : hi < 16) (hl : lo < 16) (x0 : BitVec 7) (x1 : BitVec 6) (x2 : BitVec 3)
    (h : pack ((16 * hi + lo) * 2 ^ 24 + 0) [(x0.toNat, 17), (x1.toNat, 11), (x2.toNat, 0)] = w) :
    w < 2 ^ 32 ∧ w / 2 ^ 28 % 16 = hi ∧ w / 2 ^ 24 % 16 = lo ∧ fld 7 w 17 = x0 ∧ fld 6 w 11 = x1 ∧ fld 3 w 0 = x2 ∧
      zeros 8 w 3 = true := by
  simp only [pack] at h
  have l0 := x0.isLt; have l1 := x1.isLt; have l2 := x2.isLt
  exact ⟨by omega, by omega, by omega, fld_eq _ _ _ _ (by omega), fld_eq _ _ _ _ (by omega), fld_eq _ _ _ _ (by
      omega), zeros_eq (by omega)⟩

theorem shape39 (hi lo w : Nat) (hh : hi < 16) (hl : lo < 16) (x0 : BitVec 6) (x1 : BitVec 3)
    (h : pack ((16 * hi + lo) * 2 ^ 24 + 0) [(x0.toNat, 18), (x1.toNat, 0)] = w) :
    w < 2 ^ 32 ∧ w / 2 ^ 28 % 16 = hi ∧ w / 2 ^ 24 % 16 = lo ∧ fld 6 w 18 = x0 ∧ fld 3 w 0 = x1 ∧ zeros 15 w 3 = true
      := by
  simp only [pack] at h
  have l0 := x0.isLt; have l1 := x1.isLt
  exact ⟨by omega, by omega, by omega, fld_eq _ _ _ _ (by omega), fld_eq _ _ _ _ (by omega), zeros_eq (by omega)⟩

theorem shape40 (hi lo w : Nat) (hh : hi < 16) (hl : lo < 16) (x0 : BitVec 4) (x1 : BitVec 6) (x2 : BitVec 6)
    (h : pack ((16 * hi + lo) * 2 ^ 24 + 0) [(x0.toNat, 20), (x1.toNat, 14), (x2.toNat, 8)] = w) :
    w < 2 ^ 32 ∧ w / 2 ^ 28 % 16 = hi ∧ w / 2 ^ 24 % 16 = lo ∧ fld 4 w 20 = x0 ∧ fld 6 w 14 = x1 ∧ fld 6 w 8 = x2 ∧
      zeros 8 w 0 = true := by
  simp only [pack] at h
  have l0 := x0.isLt; have l1 := x1.isLt; have l2 := x2.isLt
  exact ⟨by omega, by omega, by omega, fld_eq _ _ _ _ (by omega), fld_eq _ _ _ _ (by omega), fld_eq _ _ _ _ (by
      omega), zeros_eq (by omega)⟩

theorem shape41 (hi lo w : Nat) (hh : hi < 16) (hl : lo < 16) (x0 : BitVec 6)
    (h : pack ((16 * hi + lo) * 2 ^ 24 + 0) [(x0.toNat, 18)] = w) :
    w < 2 ^ 32 ∧ w / 2 ^ 28 % 16 = hi ∧ w / 2 ^ 24 % 16 = lo ∧ fld 6 w 18 = x0 ∧ zeros 18 w 0 = true := by
  simp only [pack] at h
  have l0 := x0.isLt
  exact ⟨by omega, by omega, by omega, fld_eq _ _ _ _ (by omega), zeros_eq (by omega)⟩

theorem shape42 (hi lo w : Nat) (hh : hi < 16) (hl : lo < 16) (x0 : BitVec 7) (x1 : BitVec 7) (x2 : BitVec 7) (x3 :
      BitVec 3)
    (h : pack ((16 * hi + lo) * 2 ^ 24 + 0) [(x0.toNat, 17), (x1.toNat, 10), (x2.toNat, 3), (x3.toNat, 0)] = w) :
    w < 2 ^ 32 ∧ w / 2 ^ 28 % 16 = hi ∧ w / 2 ^ 24 % 16 = lo ∧ fld 7 w 17 = x0 ∧ fld 7 w 10 = x1 ∧ fld 7 w 3 = x2 ∧
      fld 3 w 0 = x3 := by
  simp only [pack] at h
  have l0 := x0.isLt; have l1 := x1.isLt; have l2 := x2.isLt; have l3 := x3.isLt
  exact ⟨by omega, by omega, by omega, fld_eq _ _ _ _ (by omega), fld_eq _ _ _ _ (by omega), fld_eq _ _ _ _ (by
      omega), fld_eq _ _ _ _ (by omega)⟩

theorem shape43 (hi lo w : Nat) (hh : hi < 16) (hl : lo < 16) (x0 : BitVec 6) (x1 : BitVec 8)
    (h : pack ((16 * hi + lo) * 2 ^ 24 + 0) [(x0.toNat, 18), (x1.toNat, 10)] = w) :
    w < 2 ^ 32 ∧ w / 2 ^ 28 % 16 = hi ∧ w / 2 ^ 24 % 16 = lo ∧ fld 6 w 18 = x0 ∧ fld 8 w 10 = x1 ∧ zeros 10 w 0 =
      true := by
  simp only [pack] at h
  have l0 := x0.isLt; have l1 := x1.isLt
  exact ⟨by omega, by omega, by omega, fld_eq _ _ _ _ (by omega), fld_eq _ _ _ _ (by omega), zeros_eq (by omega)⟩

theorem shape44 (hi lo w : Nat) (hh : hi < 16) (hl : lo < 16) (x0 : BitVec 6) (x1 : BitVec 6) (x2 : BitVec 2)
    (h : pack ((16 * hi + lo) * 2 ^ 24 + 0) [(x0.toNat, 18), (x1.toNat, 12), (x2.toNat, 0)] = w) :
    w < 2 ^ 32 ∧ w / 2 ^ 28 % 16 = hi ∧ w / 2 ^ 24 % 16 = lo ∧ fld 6 w 18 = x0 ∧ fld 6 w 12 = x1 ∧ fld 2 w 0 = x2 ∧
      zeros 10 w 2 = true := by
  simp only [pack] at h
  have l0 := x0.isLt; have l1 := x1.isLt; have l2 := x2.isLt
  exact ⟨by omega, by omega, by omega, fld_eq _ _ _ _ (by omega), fld_eq _ _ _ _ (by omega), fld_eq _ _ _ _ (by
      omega), zeros_eq (by omega)⟩

theorem shape45 (hi lo w : Nat) (hh : hi < 16) (hl : lo < 16) 
    (h : pack ((16 * hi + lo) * 2 ^ 24 + 0) [] = w) :
    w < 2 ^ 32 ∧ w / 2 ^ 28 % 16 = hi ∧ w / 2 ^ 24 % 16 = lo ∧ zeros 24 w 0 = true := by
  simp only [pack] at h
  exact ⟨by omega, by omega, by omega, zeros_eq (by omega)⟩

end Sys2Proof.Laws
end

