-- ==== Sys2Proof/Laws/State.lean ====
section
/-! SUPPORT. What each update of the state leaves and changes, field by field. -/

namespace Sys2Proof.Machine

@[simp] theorem onDr_dr (s : State) (f : Drove → Drove) : (onDr s f).dr = f s.dr := rfl
@[simp] theorem onDr_fl (s : State) (f : Drove → Drove) : (onDr s f).fl = s.fl := rfl
@[simp] theorem onDr_droves (s : State) (f : Drove → Drove) : (onDr s f).droves = s.droves := rfl
@[simp] theorem onDr_flocks (s : State) (f : Drove → Drove) : (onDr s f).flocks = s.flocks := rfl
@[simp] theorem onDr_mem (s : State) (f : Drove → Drove) : (onDr s f).mem = s.mem := rfl
@[simp] theorem onDr_reqs (s : State) (f : Drove → Drove) : (onDr s f).reqs = s.reqs := rfl
@[simp] theorem onDr_coh (s : State) (f : Drove → Drove) : (onDr s f).coh = s.coh := rfl
@[simp] theorem onDr_vc (s : State) (f : Drove → Drove) : (onDr s f).vc = s.vc := rfl
@[simp] theorem onDr_eng (s : State) (f : Drove → Drove) : (onDr s f).eng = s.eng := rfl
@[simp] theorem onDr_sch (s : State) (f : Drove → Drove) : (onDr s f).sch = s.sch := rfl
@[simp] theorem onDr_priv (s : State) (f : Drove → Drove) : (onDr s f).priv = s.priv := rfl
@[simp] theorem onDr_dev (s : State) (f : Drove → Drove) : (onDr s f).dev = s.dev := rfl
@[simp] theorem onDr_cycle (s : State) (f : Drove → Drove) : (onDr s f).cycle = s.cycle := rfl
@[simp] theorem onDr_uid (s : State) (f : Drove → Drove) : (onDr s f).uid = s.uid := rfl
@[simp] theorem onDr_fresh (s : State) (f : Drove → Drove) : (onDr s f).fresh = s.fresh := rfl
@[simp] theorem onDr_inbox (s : State) (f : Drove → Drove) : (onDr s f).inbox = s.inbox := rfl
@[simp] theorem onDr_port (s : State) (f : Drove → Drove) : (onDr s f).port = s.port := rfl
@[simp] theorem onDr_met (s : State) (f : Drove → Drove) : (onDr s f).met = s.met := rfl
@[simp] theorem onDr_who (s : State) (f : Drove → Drove) : (onDr s f).who = s.who := rfl
@[simp] theorem onDr_slot (s : State) (f : Drove → Drove) : (onDr s f).slot = s.slot := rfl
@[simp] theorem onDr_due (s : State) (f : Drove → Drove) : (onDr s f).due = s.due := rfl
@[simp] theorem onDr_slots (s : State) (f : Drove → Drove) : (onDr s f).slots = s.slots := rfl

@[simp] theorem onFl_dr (s : State) (f : Flock → Flock) : (onFl s f).dr = s.dr := rfl
@[simp] theorem onFl_fl (s : State) (f : Flock → Flock) : (onFl s f).fl = f s.fl := rfl
@[simp] theorem onFl_droves (s : State) (f : Flock → Flock) : (onFl s f).droves = s.droves := rfl
@[simp] theorem onFl_flocks (s : State) (f : Flock → Flock) : (onFl s f).flocks = s.flocks := rfl
@[simp] theorem onFl_mem (s : State) (f : Flock → Flock) : (onFl s f).mem = s.mem := rfl
@[simp] theorem onFl_reqs (s : State) (f : Flock → Flock) : (onFl s f).reqs = s.reqs := rfl
@[simp] theorem onFl_coh (s : State) (f : Flock → Flock) : (onFl s f).coh = s.coh := rfl
@[simp] theorem onFl_vc (s : State) (f : Flock → Flock) : (onFl s f).vc = s.vc := rfl
@[simp] theorem onFl_eng (s : State) (f : Flock → Flock) : (onFl s f).eng = s.eng := rfl
@[simp] theorem onFl_sch (s : State) (f : Flock → Flock) : (onFl s f).sch = s.sch := rfl
@[simp] theorem onFl_priv (s : State) (f : Flock → Flock) : (onFl s f).priv = s.priv := rfl
@[simp] theorem onFl_dev (s : State) (f : Flock → Flock) : (onFl s f).dev = s.dev := rfl
@[simp] theorem onFl_cycle (s : State) (f : Flock → Flock) : (onFl s f).cycle = s.cycle := rfl
@[simp] theorem onFl_uid (s : State) (f : Flock → Flock) : (onFl s f).uid = s.uid := rfl
@[simp] theorem onFl_fresh (s : State) (f : Flock → Flock) : (onFl s f).fresh = s.fresh := rfl
@[simp] theorem onFl_inbox (s : State) (f : Flock → Flock) : (onFl s f).inbox = s.inbox := rfl
@[simp] theorem onFl_port (s : State) (f : Flock → Flock) : (onFl s f).port = s.port := rfl
@[simp] theorem onFl_met (s : State) (f : Flock → Flock) : (onFl s f).met = s.met := rfl
@[simp] theorem onFl_who (s : State) (f : Flock → Flock) : (onFl s f).who = s.who := rfl
@[simp] theorem onFl_slot (s : State) (f : Flock → Flock) : (onFl s f).slot = s.slot := rfl
@[simp] theorem onFl_due (s : State) (f : Flock → Flock) : (onFl s f).due = s.due := rfl
@[simp] theorem onFl_slots (s : State) (f : Flock → Flock) : (onFl s f).slots = s.slots := rfl

@[simp] theorem onHbm_dr (s : State) (f : Memory → Memory) : (onHbm s f).dr = s.dr := rfl
@[simp] theorem onHbm_fl (s : State) (f : Memory → Memory) : (onHbm s f).fl = s.fl := rfl
@[simp] theorem onHbm_droves (s : State) (f : Memory → Memory) : (onHbm s f).droves = s.droves := rfl
@[simp] theorem onHbm_flocks (s : State) (f : Memory → Memory) : (onHbm s f).flocks = s.flocks := rfl
@[simp] theorem onHbm_mem (s : State) (f : Memory → Memory) : (onHbm s f).mem = { s.mem with hbm := f s.mem.hbm } := rfl
@[simp] theorem onHbm_reqs (s : State) (f : Memory → Memory) : (onHbm s f).reqs = s.reqs := rfl
@[simp] theorem onHbm_coh (s : State) (f : Memory → Memory) : (onHbm s f).coh = s.coh := rfl
@[simp] theorem onHbm_vc (s : State) (f : Memory → Memory) : (onHbm s f).vc = s.vc := rfl
@[simp] theorem onHbm_eng (s : State) (f : Memory → Memory) : (onHbm s f).eng = s.eng := rfl
@[simp] theorem onHbm_sch (s : State) (f : Memory → Memory) : (onHbm s f).sch = s.sch := rfl
@[simp] theorem onHbm_priv (s : State) (f : Memory → Memory) : (onHbm s f).priv = s.priv := rfl
@[simp] theorem onHbm_dev (s : State) (f : Memory → Memory) : (onHbm s f).dev = s.dev := rfl
@[simp] theorem onHbm_cycle (s : State) (f : Memory → Memory) : (onHbm s f).cycle = s.cycle := rfl
@[simp] theorem onHbm_uid (s : State) (f : Memory → Memory) : (onHbm s f).uid = s.uid := rfl
@[simp] theorem onHbm_fresh (s : State) (f : Memory → Memory) : (onHbm s f).fresh = s.fresh := rfl
@[simp] theorem onHbm_inbox (s : State) (f : Memory → Memory) : (onHbm s f).inbox = s.inbox := rfl
@[simp] theorem onHbm_port (s : State) (f : Memory → Memory) : (onHbm s f).port = s.port := rfl
@[simp] theorem onHbm_met (s : State) (f : Memory → Memory) : (onHbm s f).met = s.met := rfl
@[simp] theorem onHbm_who (s : State) (f : Memory → Memory) : (onHbm s f).who = s.who := rfl
@[simp] theorem onHbm_slot (s : State) (f : Memory → Memory) : (onHbm s f).slot = s.slot := rfl
@[simp] theorem onHbm_due (s : State) (f : Memory → Memory) : (onHbm s f).due = s.due := rfl
@[simp] theorem onHbm_slots (s : State) (f : Memory → Memory) : (onHbm s f).slots = s.slots := rfl

@[simp] theorem setPriv_dr (s : State) (n : Nat) (x : W64) : (setPriv s n x).dr = s.dr := rfl
@[simp] theorem setPriv_fl (s : State) (n : Nat) (x : W64) : (setPriv s n x).fl = s.fl := rfl
@[simp] theorem setPriv_droves (s : State) (n : Nat) (x : W64) : (setPriv s n x).droves = s.droves := rfl
@[simp] theorem setPriv_flocks (s : State) (n : Nat) (x : W64) : (setPriv s n x).flocks = s.flocks := rfl
@[simp] theorem setPriv_mem (s : State) (n : Nat) (x : W64) : (setPriv s n x).mem = s.mem := rfl
@[simp] theorem setPriv_reqs (s : State) (n : Nat) (x : W64) : (setPriv s n x).reqs = s.reqs := rfl
@[simp] theorem setPriv_coh (s : State) (n : Nat) (x : W64) : (setPriv s n x).coh = s.coh := rfl
@[simp] theorem setPriv_vc (s : State) (n : Nat) (x : W64) : (setPriv s n x).vc = s.vc := rfl
@[simp] theorem setPriv_eng (s : State) (n : Nat) (x : W64) : (setPriv s n x).eng = s.eng := rfl
@[simp] theorem setPriv_sch (s : State) (n : Nat) (x : W64) : (setPriv s n x).sch = s.sch := rfl
@[simp] theorem setPriv_priv (s : State) (n : Nat) (x : W64) : (setPriv s n x).priv = { s.priv with regs := mapSet 0 s.priv.regs n x } := rfl
@[simp] theorem setPriv_dev (s : State) (n : Nat) (x : W64) : (setPriv s n x).dev = s.dev := rfl
@[simp] theorem setPriv_cycle (s : State) (n : Nat) (x : W64) : (setPriv s n x).cycle = s.cycle := rfl
@[simp] theorem setPriv_uid (s : State) (n : Nat) (x : W64) : (setPriv s n x).uid = s.uid := rfl
@[simp] theorem setPriv_fresh (s : State) (n : Nat) (x : W64) : (setPriv s n x).fresh = s.fresh := rfl
@[simp] theorem setPriv_inbox (s : State) (n : Nat) (x : W64) : (setPriv s n x).inbox = s.inbox := rfl
@[simp] theorem setPriv_port (s : State) (n : Nat) (x : W64) : (setPriv s n x).port = s.port := rfl
@[simp] theorem setPriv_met (s : State) (n : Nat) (x : W64) : (setPriv s n x).met = s.met := rfl
@[simp] theorem setPriv_who (s : State) (n : Nat) (x : W64) : (setPriv s n x).who = s.who := rfl
@[simp] theorem setPriv_slot (s : State) (n : Nat) (x : W64) : (setPriv s n x).slot = s.slot := rfl
@[simp] theorem setPriv_due (s : State) (n : Nat) (x : W64) : (setPriv s n x).due = s.due := rfl
@[simp] theorem setPriv_slots (s : State) (n : Nat) (x : W64) : (setPriv s n x).slots = s.slots := rfl

@[simp] theorem onCtx_dr (s : State) (c : BitVec 16) (f : Ctx → Ctx) : (onCtx s c f).dr = s.dr := rfl
@[simp] theorem onCtx_fl (s : State) (c : BitVec 16) (f : Ctx → Ctx) : (onCtx s c f).fl = s.fl := rfl
@[simp] theorem onCtx_droves (s : State) (c : BitVec 16) (f : Ctx → Ctx) : (onCtx s c f).droves = s.droves := rfl
@[simp] theorem onCtx_flocks (s : State) (c : BitVec 16) (f : Ctx → Ctx) : (onCtx s c f).flocks = s.flocks := rfl
@[simp] theorem onCtx_mem (s : State) (c : BitVec 16) (f : Ctx → Ctx) : (onCtx s c f).mem = s.mem := rfl
@[simp] theorem onCtx_reqs (s : State) (c : BitVec 16) (f : Ctx → Ctx) : (onCtx s c f).reqs = s.reqs := rfl
@[simp] theorem onCtx_coh (s : State) (c : BitVec 16) (f : Ctx → Ctx) : (onCtx s c f).coh = s.coh := rfl
@[simp] theorem onCtx_vc (s : State) (c : BitVec 16) (f : Ctx → Ctx) : (onCtx s c f).vc = s.vc := rfl
@[simp] theorem onCtx_eng (s : State) (c : BitVec 16) (f : Ctx → Ctx) : (onCtx s c f).eng = s.eng := rfl
@[simp] theorem onCtx_sch (s : State) (c : BitVec 16) (f : Ctx → Ctx) : (onCtx s c f).sch = { s.sch with ctxs := mapIf (fun x => x.id == c) f (if (ctxOf s c).isSome then s.sch.ctxs else s.sch.ctxs ++ [Ctx.new c]) } := rfl
@[simp] theorem onCtx_priv (s : State) (c : BitVec 16) (f : Ctx → Ctx) : (onCtx s c f).priv = s.priv := rfl
@[simp] theorem onCtx_dev (s : State) (c : BitVec 16) (f : Ctx → Ctx) : (onCtx s c f).dev = s.dev := rfl
@[simp] theorem onCtx_cycle (s : State) (c : BitVec 16) (f : Ctx → Ctx) : (onCtx s c f).cycle = s.cycle := rfl
@[simp] theorem onCtx_uid (s : State) (c : BitVec 16) (f : Ctx → Ctx) : (onCtx s c f).uid = s.uid := rfl
@[simp] theorem onCtx_fresh (s : State) (c : BitVec 16) (f : Ctx → Ctx) : (onCtx s c f).fresh = s.fresh := rfl
@[simp] theorem onCtx_inbox (s : State) (c : BitVec 16) (f : Ctx → Ctx) : (onCtx s c f).inbox = s.inbox := rfl
@[simp] theorem onCtx_port (s : State) (c : BitVec 16) (f : Ctx → Ctx) : (onCtx s c f).port = s.port := rfl
@[simp] theorem onCtx_met (s : State) (c : BitVec 16) (f : Ctx → Ctx) : (onCtx s c f).met = s.met := rfl
@[simp] theorem onCtx_who (s : State) (c : BitVec 16) (f : Ctx → Ctx) : (onCtx s c f).who = s.who := rfl
@[simp] theorem onCtx_slot (s : State) (c : BitVec 16) (f : Ctx → Ctx) : (onCtx s c f).slot = s.slot := rfl
@[simp] theorem onCtx_due (s : State) (c : BitVec 16) (f : Ctx → Ctx) : (onCtx s c f).due = s.due := rfl
@[simp] theorem onCtx_slots (s : State) (c : BitVec 16) (f : Ctx → Ctx) : (onCtx s c f).slots = s.slots := rfl

@[simp] theorem draw_snd_dr (s : State) : ((draw s).2).dr = s.dr := rfl
@[simp] theorem draw_snd_fl (s : State) : ((draw s).2).fl = s.fl := rfl
@[simp] theorem draw_snd_droves (s : State) : ((draw s).2).droves = s.droves := rfl
@[simp] theorem draw_snd_flocks (s : State) : ((draw s).2).flocks = s.flocks := rfl
@[simp] theorem draw_snd_mem (s : State) : ((draw s).2).mem = s.mem := rfl
@[simp] theorem draw_snd_reqs (s : State) : ((draw s).2).reqs = s.reqs := rfl
@[simp] theorem draw_snd_coh (s : State) : ((draw s).2).coh = s.coh := rfl
@[simp] theorem draw_snd_vc (s : State) : ((draw s).2).vc = s.vc := rfl
@[simp] theorem draw_snd_eng (s : State) : ((draw s).2).eng = s.eng := rfl
@[simp] theorem draw_snd_sch (s : State) : ((draw s).2).sch = s.sch := rfl
@[simp] theorem draw_snd_priv (s : State) : ((draw s).2).priv = s.priv := rfl
@[simp] theorem draw_snd_dev (s : State) : ((draw s).2).dev = s.dev := rfl
@[simp] theorem draw_snd_cycle (s : State) : ((draw s).2).cycle = s.cycle := rfl
@[simp] theorem draw_snd_uid (s : State) : ((draw s).2).uid = s.uid := rfl
@[simp] theorem draw_snd_fresh (s : State) : ((draw s).2).fresh = s.fresh + 1 := rfl
@[simp] theorem draw_snd_inbox (s : State) : ((draw s).2).inbox = s.inbox := rfl
@[simp] theorem draw_snd_port (s : State) : ((draw s).2).port = s.port := rfl
@[simp] theorem draw_snd_met (s : State) : ((draw s).2).met = s.met := rfl
@[simp] theorem draw_snd_who (s : State) : ((draw s).2).who = s.who := rfl
@[simp] theorem draw_snd_slot (s : State) : ((draw s).2).slot = s.slot := rfl
@[simp] theorem draw_snd_due (s : State) : ((draw s).2).due = s.due := rfl
@[simp] theorem draw_snd_slots (s : State) : ((draw s).2).slots = s.slots := rfl

@[simp] theorem newId_snd_dr (s : State) : ((newId s).2).dr = s.dr := rfl
@[simp] theorem newId_snd_fl (s : State) : ((newId s).2).fl = s.fl := rfl
@[simp] theorem newId_snd_droves (s : State) : ((newId s).2).droves = s.droves := rfl
@[simp] theorem newId_snd_flocks (s : State) : ((newId s).2).flocks = s.flocks := rfl
@[simp] theorem newId_snd_mem (s : State) : ((newId s).2).mem = s.mem := rfl
@[simp] theorem newId_snd_reqs (s : State) : ((newId s).2).reqs = s.reqs := rfl
@[simp] theorem newId_snd_coh (s : State) : ((newId s).2).coh = s.coh := rfl
@[simp] theorem newId_snd_vc (s : State) : ((newId s).2).vc = s.vc := rfl
@[simp] theorem newId_snd_eng (s : State) : ((newId s).2).eng = s.eng := rfl
@[simp] theorem newId_snd_sch (s : State) : ((newId s).2).sch = s.sch := rfl
@[simp] theorem newId_snd_priv (s : State) : ((newId s).2).priv = s.priv := rfl
@[simp] theorem newId_snd_dev (s : State) : ((newId s).2).dev = s.dev := rfl
@[simp] theorem newId_snd_cycle (s : State) : ((newId s).2).cycle = s.cycle := rfl
@[simp] theorem newId_snd_uid (s : State) : ((newId s).2).uid = s.uid + 1 := rfl
@[simp] theorem newId_snd_fresh (s : State) : ((newId s).2).fresh = s.fresh := rfl
@[simp] theorem newId_snd_inbox (s : State) : ((newId s).2).inbox = s.inbox := rfl
@[simp] theorem newId_snd_port (s : State) : ((newId s).2).port = s.port := rfl
@[simp] theorem newId_snd_met (s : State) : ((newId s).2).met = s.met := rfl
@[simp] theorem newId_snd_who (s : State) : ((newId s).2).who = s.who := rfl
@[simp] theorem newId_snd_slot (s : State) : ((newId s).2).slot = s.slot := rfl
@[simp] theorem newId_snd_due (s : State) : ((newId s).2).due = s.due := rfl
@[simp] theorem newId_snd_slots (s : State) : ((newId s).2).slots = s.slots := rfl

@[simp] theorem draw_fst (s : State) : (draw s).1 = Config.free s.fresh := rfl
@[simp] theorem newId_fst (s : State) : (newId s).1 = s.uid := rfl

/-- A write to a scalar register changes the scalar registers alone, and none when it names s0 (01 R24). -/
theorem setS_eq (d : Drove) (n : Nat) (x : W64) :
    setS d n x = { d with s := if n = 0 then d.s else d.s.setIfInBounds n x } := by
  unfold setS
  split <;> rfl

theorem setV_eq (d : Drove) (n : Nat) (x : VReg) : setV d n x = { d with v := d.v.setIfInBounds n x } := rfl

theorem markV_eq (d : Drove) (n : Nat) (full : Bool) :
    markV d n full = { d with vfull := if full then d.vfull ||| (1#128 <<< n) else d.vfull &&& ~~~(1#128 <<< n) } := rfl

theorem markS_eq (d : Drove) (n : Nat) (full : Bool) :
    markS d n full = { d with sfull := if n = 0 then d.sfull else
      if full then d.sfull ||| (1#64 <<< n) else d.sfull &&& ~~~(1#64 <<< n) } := by
  unfold markS
  split <;> rfl

/-- s0 reads as all ones (01 R24). -/
@[simp] theorem sreg_zero (d : Drove) : sreg d 0 = BitVec.allOnes 64 := rfl

/-- A scalar register after a write: the value at the register written, unless that is s0; every other as before. -/
theorem sreg_setS (d : Drove) (n : Nat) (x : W64) (m : Nat) (h : n < 64) :
    sreg (setS d n x) m = if m = n ∧ n ≠ 0 then x else sreg d m := by
  unfold setS sreg
  by_cases hn : n = 0
  · simp [hn]
  · by_cases hm : m = 0
    · simp [hn, hm]; intro h0; exact absurd h0 (by omega)
    · by_cases hl : m < 64
      · simp [hn, hm, hl, Vector.getElem_setIfInBounds]
        by_cases he : n = m
        · simp [he]
        · simp [he, Ne.symm he]
      · simp [hn, hm, hl]
        intro h1; omega

/-- A vector register after a write. -/
theorem vreg_setV (d : Drove) (n : Nat) (x : VReg) (m : Nat) (h : n < 128) :
    vreg (setV d n x) m = if m = n then x else vreg d m := by
  unfold setV vreg
  by_cases hl : m < 128
  · simp [hl, Vector.getElem_setIfInBounds]
    by_cases he : n = m
    · simp [he]
    · simp [he, Ne.symm he]
  · simp [hl]
    intro h1; omega

/-- The lanes of a register written under a mask (01 R19). -/
theorem vlane_setVm (d : Drove) (n : Nat) (m : W64) (f : Nat → W32) (k l : Nat) (h : n < 128) (hl : l < 64) :
    vlane (setVm d n m f) k l = if k = n then (if m.getLsbD l then f l else vlane d n l) else vlane d k l := by
  unfold vlane setVm
  rw [vreg_setV _ _ _ _ h]
  split
  · rw [lane_mkLanes _ _ hl]; rfl
  · rfl

/-- Retirement, on the fields that it leaves alone. -/
theorem retire_eq (s : State) : ∃ pc m, retire s =
    { s with dr := retireDr s.dr pc m s.cycle, fl := { s.fl with lastIssue := s.cycle } } := by
  unfold retire
  split
  · exact ⟨_, _, rfl⟩
  · exact ⟨_, _, rfl⟩

/-- Outside a microprogram the next instruction stands at PC + 4. -/
theorem retire_plain (s : State) (h : s.dr.micro = none) :
    retire s = { s with dr := retireDr s.dr (s.dr.pc + 4) none s.cycle, fl := { s.fl with lastIssue := s.cycle } } := by
  unfold retire
  rw [h]
  rfl

@[simp] theorem retire_droves (s : State) : (retire s).droves = s.droves := by obtain ⟨_, _, h⟩ := retire_eq s; rw [h]
@[simp] theorem retire_flocks (s : State) : (retire s).flocks = s.flocks := by obtain ⟨_, _, h⟩ := retire_eq s; rw [h]
@[simp] theorem retire_mem (s : State) : (retire s).mem = s.mem := by obtain ⟨_, _, h⟩ := retire_eq s; rw [h]
@[simp] theorem retire_reqs (s : State) : (retire s).reqs = s.reqs := by obtain ⟨_, _, h⟩ := retire_eq s; rw [h]
@[simp] theorem retire_coh (s : State) : (retire s).coh = s.coh := by obtain ⟨_, _, h⟩ := retire_eq s; rw [h]
@[simp] theorem retire_vc (s : State) : (retire s).vc = s.vc := by obtain ⟨_, _, h⟩ := retire_eq s; rw [h]
@[simp] theorem retire_eng (s : State) : (retire s).eng = s.eng := by obtain ⟨_, _, h⟩ := retire_eq s; rw [h]
@[simp] theorem retire_sch (s : State) : (retire s).sch = s.sch := by obtain ⟨_, _, h⟩ := retire_eq s; rw [h]
@[simp] theorem retire_priv (s : State) : (retire s).priv = s.priv := by obtain ⟨_, _, h⟩ := retire_eq s; rw [h]
@[simp] theorem retire_dev (s : State) : (retire s).dev = s.dev := by obtain ⟨_, _, h⟩ := retire_eq s; rw [h]
@[simp] theorem retire_cycle (s : State) : (retire s).cycle = s.cycle := by obtain ⟨_, _, h⟩ := retire_eq s; rw [h]
@[simp] theorem retire_uid (s : State) : (retire s).uid = s.uid := by obtain ⟨_, _, h⟩ := retire_eq s; rw [h]
@[simp] theorem retire_fresh (s : State) : (retire s).fresh = s.fresh := by obtain ⟨_, _, h⟩ := retire_eq s; rw [h]
@[simp] theorem retire_inbox (s : State) : (retire s).inbox = s.inbox := by obtain ⟨_, _, h⟩ := retire_eq s; rw [h]
@[simp] theorem retire_port (s : State) : (retire s).port = s.port := by obtain ⟨_, _, h⟩ := retire_eq s; rw [h]
@[simp] theorem retire_met (s : State) : (retire s).met = s.met := by obtain ⟨_, _, h⟩ := retire_eq s; rw [h]
@[simp] theorem retire_who (s : State) : (retire s).who = s.who := by obtain ⟨_, _, h⟩ := retire_eq s; rw [h]
@[simp] theorem retire_slot (s : State) : (retire s).slot = s.slot := by obtain ⟨_, _, h⟩ := retire_eq s; rw [h]
@[simp] theorem retire_due (s : State) : (retire s).due = s.due := by obtain ⟨_, _, h⟩ := retire_eq s; rw [h]
@[simp] theorem retire_slots (s : State) : (retire s).slots = s.slots := by obtain ⟨_, _, h⟩ := retire_eq s; rw [h]

end Sys2Proof.Machine
end

