-- ==== Sys2Proof/Laws/Observe.lean ====
section
/-! SUPPORT. Recording an issue slot changes the records of observation alone. -/

namespace Sys2Proof.Machine

/-- What observation records of a drove: its gangs, its unread pops, its trace. -/
structure Seen where
  gang     : Bool
  gangDue  : Bool
  gangWith : List Nat
  parted   : List Nat
  popped   : List (Nat × Nat × Nat)
  trace    : TraceSt

def Drove.seen (d : Drove) : Seen :=
  { gang := d.gang, gangDue := d.gangDue, gangWith := d.gangWith, parted := d.parted, popped := d.popped, trace := d.trace }

/-- The drove with other records of observation. -/
def Drove.recorded (d : Drove) (o : Seen) : Drove :=
  { d with gang := o.gang, gangDue := o.gangDue, gangWith := o.gangWith, parted := o.parted, popped := o.popped, trace := o.trace }

theorem Drove.recorded_seen (d : Drove) : d.recorded d.seen = d := rfl
theorem Drove.recorded_recorded (d : Drove) (o p : Seen) : (d.recorded o).recorded p = d.recorded p := rfl

/-- `t` is `s` with other records of observation: gangs, traces, unread pops, lane counts, the flock's last issue and the
choice counter. -/
def Recorded (s t : State) : Prop :=
  ∃ o li fr ds ln ts du, ds.map Drove.bare = s.droves.map Drove.bare ∧
    t = { s with dr := s.dr.recorded o, fl := { s.fl with lastIssue := li }, droves := ds, fresh := fr, due := du,
                 dev := { s.dev with lanes := ln, traces := ts } }

theorem Recorded.refl (s : State) : Recorded s s :=
  ⟨s.dr.seen, s.fl.lastIssue, s.fresh, s.droves, s.dev.lanes, s.dev.traces, s.due, rfl, rfl⟩

theorem Recorded.trans {s t u : State} (h : Recorded s t) (k : Recorded t u) : Recorded s u := by
  obtain ⟨o, li, fr, ds, ln, ts, du, hd, rfl⟩ := h
  obtain ⟨o', li', fr', ds', ln', ts', du', hd', rfl⟩ := k
  exact ⟨o', li', fr', ds', ln', ts', du', hd'.trans hd, rfl⟩

theorem Recorded.bare {s t : State} (h : Recorded s t) : t.bare = s.bare := by
  obtain ⟨o, li, fr, ds, ln, ts, du, hd, rfl⟩ := h
  simp only [State.bare, Drove.bare, Drove.recorded] at *
  rw [hd]

theorem Recorded.draw (s : State) : Recorded s (draw s).2 :=
  ⟨s.dr.seen, s.fl.lastIssue, s.fresh + 1, s.droves, s.dev.lanes, s.dev.traces, s.due, rfl, rfl⟩

theorem Recorded.onStream (s : State) (die : Nat) (f : TraceStream → TraceStream) : Recorded s (onStream s die f) :=
  ⟨s.dr.seen, s.fl.lastIssue, s.fresh, s.droves, s.dev.lanes, modNth f s.dev.traces die, s.due, rfl, rfl⟩

theorem Recorded.laneAdd (s : State) (die c b n : Nat) : Recorded s (laneAdd s die c b n) := by
  unfold Machine.laneAdd
  split
  · exact .refl s
  · exact ⟨s.dr.seen, s.fl.lastIssue, s.fresh, s.droves, _, s.dev.traces, s.due, rfl, rfl⟩

/-- A change of droves, the port's and the others, in the records of observation alone. -/
theorem Recorded.droves (s : State) (o : Seen) (o' : Drove → Seen) (q : Drove → Bool) :
    Recorded s { s with dr := s.dr.recorded o, droves := mapIf q (fun d => d.recorded (o' d)) s.droves } := by
  refine ⟨o, s.fl.lastIssue, s.fresh, mapIf q (fun d => d.recorded (o' d)) s.droves, s.dev.lanes, s.dev.traces, s.due, ?_, rfl⟩
  simp only [mapIf, List.map_map]
  congr 1
  funext d
  simp only [Function.comp]
  split <;> rfl

/-- A change of a drove's trace alone. -/
theorem Recorded.onDrove (s : State) (u : Nat) (f : Drove → TraceSt) :
    Recorded s (onDrove s u fun d => { d with trace := f d }) := by
  unfold Machine.onDrove
  split
  · exact ⟨{ s.dr.seen with trace := f s.dr }, s.fl.lastIssue, s.fresh, s.droves, s.dev.lanes, s.dev.traces, s.due, rfl, rfl⟩
  · exact Recorded.droves s s.dr.seen (fun d => { d.seen with trace := f d }) (fun d => d.uid == u)

theorem Recorded.emit (s : State) (die : Nat) (bs : List Byte) : Recorded s (emit s die bs) := by
  unfold Machine.emit
  by_cases h : (streamOf s die).dropped ≠ 0 ∨ bs.length ≤ (streamOf s die).room
  · simp only [h, if_true]
    split <;> exact .onStream _ _ _
  · simp only [h, if_false]
    split <;> exact (Recorded.draw s).trans (.onStream _ _ _)

theorem Recorded.emitSync (s : State) (die : Nat) (d : Drove) (pc : W64) : Recorded s (emitSync s die d pc) :=
  ((Recorded.emit s die _).trans (.onStream _ _ _)).trans (.onDrove _ _ _)

theorem Recorded.emitDelta (s : State) (die t : Nat) (d : Drove) : Recorded s (emitDelta s die t d) := by
  unfold Machine.emitDelta
  refine .trans ?_ (.onStream _ _ _)
  split
  · exact .refl s
  · split
    · exact .emit _ _ _
    · split
      · exact .emit _ _ _
      · exact .emitSync _ _ _ _

theorem Recorded.nameDrove (s : State) (die t : Nat) (d : Drove) : Recorded s (nameDrove s die t d) := by
  unfold Machine.nameDrove
  dsimp only
  split
  · exact .refl s
  · split
    · exact .emitDelta _ _ _ _
    · exact ((Recorded.emitDelta _ _ _ _).trans (.emit _ _ _)).trans (.onStream _ _ _)

theorem Recorded.flushBr (s : State) (die : Nat) (d : Drove) : Recorded s (flushBr s die d) := by
  unfold Machine.flushBr
  split
  · exact .refl s
  · refine .trans (.trans (.trans (.trans ?_ (.emitDelta _ _ _ _)) (.emit _ _ _)) (.onStream _ _ _)) (.onDrove _ _ _)
    split
    · exact .emitSync _ _ _ _
    · exact .nameDrove _ _ _ _

theorem Recorded.flushDue (s : State) (die : Nat) (d : Drove) (pc : W64) : Recorded s (flushDue s die d pc) := by
  unfold Machine.flushDue
  split
  · exact (Recorded.flushBr _ _ _).trans (.emitSync _ _ _ _)
  · exact .flushBr _ _ _

theorem Recorded.foldl {α : Type} (f : State → α → State) (hf : ∀ s a, Recorded s (f s a)) (l : List α) (s : State) :
    Recorded s (l.foldl f s) := by
  induction l generalizing s with
  | nil => exact .refl s
  | cons a l ih => exact (hf s a).trans (ih _)

theorem Recorded.flushAll (s : State) (die : Nat) (d : Drove) (pc : W64) : Recorded s (flushAll s die d pc) :=
  .foldl _ (fun s x => .flushDue s die x _) _ _

theorem Recorded.turnTo (s : State) (die t : Nat) (d : Drove) (pc : W64) : Recorded s (turnTo s die t d pc) := by
  unfold Machine.turnTo
  refine .trans (.flushAll s die d pc) ?_
  dsimp only
  split
  · exact .emitSync _ _ _ _
  · exact .nameDrove _ _ _ _

/-- A change of the port's drove in the records of observation alone. -/
theorem Recorded.port (s : State) (o : Seen) : Recorded s (onDr s fun d => d.recorded o) :=
  ⟨o, s.fl.lastIssue, s.fresh, s.droves, s.dev.lanes, s.dev.traces, s.due, rfl, rfl⟩

theorem Recorded.gang (s : State) (b : Bool) : Recorded s (onDr s fun d => { d with gang := b }) :=
  .port s { s.dr.seen with gang := b }

theorem Recorded.mask (s : State) (m : W64) : Recorded s (onDr s fun d => { d with trace := { d.trace with mask := some m } }) :=
  .port s { s.dr.seen with trace := { s.dr.trace with mask := some m } }

theorem Recorded.lastIssue (s : State) (n : Nat) : Recorded s (onFl s fun f => { f with lastIssue := n }) :=
  ⟨s.dr.seen, n, s.fresh, s.droves, s.dev.lanes, s.dev.traces, s.due, rfl, rfl⟩

theorem Recorded.traceIssue (s : State) : Recorded s (traceIssue s) := by
  unfold Machine.traceIssue
  dsimp only
  split
  · exact .refl s
  · split
    · exact .refl s
    · split
      · exact .turnTo _ _ _ _ _
      · exact (((Recorded.turnTo _ _ _ _ _).trans (.emitDelta _ _ _ _)).trans (.emit _ _ _)).trans (.mask _ _)

theorem Recorded.joinGang (s : State) (ms : List Drove) : Recorded s (joinGang s ms) := by
  let us := s.dr.uid :: ms.map (·.uid)
  let seen (d : Drove) : Seen :=
    let others := us.filter (· != d.uid)
    { d.seen with gangWith := others, parted := (d.parted ++ d.gangWith.filter (!others.contains ·)).dedup }
  exact Recorded.droves s (seen s.dr) seen fun d => us.contains d.uid

/-- A change of the droves due in this slot. -/
theorem Recorded.due (s : State) (us : List Nat) : Recorded s { s with due := us } :=
  ⟨s.dr.seen, s.fl.lastIssue, s.fresh, s.droves, s.dev.lanes, s.dev.traces, us, rfl, rfl⟩

theorem Recorded.formGang (fit : Drove → Bool) (s : State) : Recorded s (formGang fit s).2 := by
  unfold Machine.formGang
  split
  · exact .port s { s.dr.seen with gang := !s.dr.gangWith.isEmpty, gangDue := false }
  · exact ((Recorded.joinGang s _).trans (.due _ _)).trans (.gang _ _)

theorem Recorded.laneCount (s : State) (idle : Option Nat) : Recorded s (laneCount s idle) := by
  unfold Machine.laneCount
  dsimp only
  split
  · exact .refl s
  · split
    · exact .laneAdd _ _ _ _ _
    · exact (((Recorded.laneAdd _ _ _ _ _).trans (.laneAdd _ _ _ _ _)).trans (.laneAdd _ _ _ _ _)).trans
        ((Recorded.laneAdd _ _ _ _ _).trans (.laneAdd _ _ _ _ _))

/-- Counting and tracing an issue changes records of observation alone. -/
theorem account_recorded (fit : Drove → Bool) (s : State) (n : Nat) : Recorded s (account fit s n) :=
  (((Recorded.formGang fit s).trans (Recorded.foldl _ (fun s _ => .laneCount s _) _ _)).trans (.traceIssue _)).trans (.lastIssue _ _)

theorem unpop_recorded (s : State) (us : List Use) : Recorded s (unpop s us) := by
  unfold unpop
  split
  · exact .refl s
  · exact .port s { s.dr.seen with popped := _ }

theorem issued_recorded (fit : Drove → Bool) (s : State) (us : List Use) (n : Nat) : Recorded s (issued fit s us n) :=
  (unpop_recorded s us).trans (account_recorded fit _ _)

theorem traceBranch_recorded (s : State) (b : Bool) (pc : W64) : Recorded s (traceBranch s b pc) := by
  unfold traceBranch
  split
  · exact .refl s
  · dsimp only
    have h (x : TraceSt) : Recorded s (onDr s fun d => { d with trace := x }) := .port s { s.dr.seen with trace := x }
    split
    · exact h _
    · exact (h _).trans (.flushAll _ _ _ _)

theorem traceIndirect_recorded (s : State) (x : W64) : Recorded s (traceIndirect s x) := by
  unfold traceIndirect
  split
  · exact .refl s
  · exact (Recorded.flushAll _ _ _ _).trans (.emitSync _ _ _ _)

end Sys2Proof.Machine
end

