-- ==== Sys2Proof/Laws/Issue.lean ====
section
/-! SUPPORT. What issue decides and does: an instruction whose checks pass takes effect, once, on the state in which its
slot has been recorded. -/

namespace Sys2Proof.Machine

theorem firstEmpty_none {s : State} {u : Use} (h : (List.range u.n).all (fun k => isFull s u.cls (u.base + k)) = true) :
    firstEmpty s u = none := by
  simp only [firstEmpty, List.find?_eq_none, List.mem_map, List.all_eq_true, List.mem_range] at *
  rintro x ⟨k, hk, rfl⟩
  simp [h k hk]

theorem anyEmpty_none {s : State} {us vs : List Use} (h : fits s us = true) (hs : ∀ u ∈ vs, u ∈ us) : anyEmpty s vs = none := by
  simp only [anyEmpty, List.findSome?_eq_none_iff, Option.map_eq_none_iff]
  intro u hu
  simp only [fits, List.all_eq_true, Bool.and_eq_true] at h
  have := (h u (hs u hu)).2
  exact firstEmpty_none (by simpa using this)

/-- An instruction whose fields lie in their sets and whose registers are full is not stopped and does not wait. -/
theorem verdict_go {c : Chk} {s : State} (hf : fits s c.uses = true) (hn : (c.noShep && s.dr.shepherd) = false)
    (hp : (c.priv && !privileged s) = false) (hb : c.bad = false) (ho : c.odd = false) (ht : c.typ = true)
    (hc : c.conv = false ∨ (masksFull s = true ∧ activeMask s.dr = s.dr.pres)) (hm : c.masks = false ∨ masksFull s = true)
    (hs : c.sync = false ∨ mayGo s = true) : verdict c s = .go := by
  have hme : masksFull s = true → masksEmpty s = false := by
    simp only [masksFull, masksEmpty, Bool.and_eq_true]
    rintro ⟨a, b⟩
    simp [a, b]
  have h1 : (c.uses.any fun u => decide (allocOf s.dr u.cls < u.base + u.n)) = false := by
    simp only [fits, List.all_eq_true, Bool.and_eq_true, decide_eq_true_eq] at hf
    simp only [List.any_eq_false, decide_eq_true_eq]
    intro u hu
    have := (hf u hu).1.1
    omega
  have h2 : (c.uses.any fun u => u.base % u.align != 0) = false := by
    simp only [fits, List.all_eq_true, Bool.and_eq_true, beq_iff_eq] at hf
    simp only [List.any_eq_false, bne_iff_ne, ne_eq, Decidable.not_not]
    intro u hu
    exact (hf u hu).1.2
  have h3 := anyEmpty_none (vs := c.uses.filter (·.trap)) hf (fun u hu => (List.mem_filter.mp hu).1)
  have h4 := anyEmpty_none (vs := c.uses.filter fun u => !u.trap) hf (fun u hu => (List.mem_filter.mp hu).1)
  have h5 : (c.conv && masksEmpty s) = false := by
    rcases hc with h | ⟨h, -⟩ <;> simp [h, hme]
  have h6 : (c.conv && activeMask s.dr != s.dr.pres) = false := by
    rcases hc with h | ⟨-, h⟩ <;> simp [h]
  have h7 : (c.masks && masksEmpty s) = false := by
    rcases hm with h | h <;> simp [h, hme]
  have h8 : (c.sync && turnless s.dr) = false := by
    rcases hs with h | h
    · simp [h]
    · simp only [mayGo, Bool.not_eq_true'] at h
      simp [h]
  unfold verdict
  simp [hn, hp, hb, ho, ht, h1, h2, h3, h4, h5, h6, h7, h8]

theorem issueIf_go {c : Chk} {dyn : State → Verdict} {s : State} (run : State → State) (hv : verdict c s = .go)
    (hd : dyn s = .go) : issueIf c dyn s run = run (issued (canGo c dyn s) s c.uses c.slots) := by
  simp only [issueIf, hv, hd, issued]

theorem issue_go {c : Chk} {s : State} (run : State → State) (hv : verdict c s = .go) :
    issue c s run = run (issued (canGo c (fun _ => .go) s) s c.uses c.slots) := issueIf_go run hv rfl

theorem issueIf_stop {c : Chk} {dyn : State → Verdict} {s : State} (run : State → State) {x : BitVec 8} {i a : Nat}
    (hv : verdict c s = .stop x i a) : issueIf c dyn s run = stopIssue s x i a := by
  simp only [issueIf, hv]

theorem issueIf_stop' {c : Chk} {dyn : State → Verdict} {s : State} (run : State → State) {x : BitVec 8} {i a : Nat}
    (hv : verdict c s = .go) (hd : dyn s = .stop x i a) : issueIf c dyn s run = stopIssue s x i a := by
  simp only [issueIf, hv, hd]

theorem issueIf_wait {c : Chk} {dyn : State → Verdict} {s : State} (run : State → State) {w : Wait}
    (hv : verdict c s = .wait w) : issueIf c dyn s run = hold s w c.dog := by
  simp only [issueIf, hv]

theorem issueIf_wait' {c : Chk} {dyn : State → Verdict} {s : State} (run : State → State) {w : Wait}
    (hv : verdict c s = .go) (hd : dyn s = .wait w) : issueIf c dyn s run = hold s w c.dog := by
  simp only [issueIf, hv, hd]

/-- Droves that agree outside the records of observation. -/
theorem Drove.eq_of_bare {a b : Drove} (h : a.bare = b.bare) : a = b.recorded a.seen := by
  cases a
  cases b
  simpa [Drove.bare, Drove.recorded, Drove.seen] using h

/-- An effect on the drove that does not look at the records of observation is the same before and after they change. -/
theorem Recorded.retire_bare {s t : State} (h : Recorded s t) (f : Drove → Drove)
    (hf : ∀ d o, (f (Drove.recorded d o)).bare = (f d).bare) : (retire (onDr t f)).bare = (retire (onDr s f)).bare := by
  obtain ⟨o, li, fr, ds, ln, ts, du, hd, rfl⟩ := h
  have hb := Drove.eq_of_bare (hf s.dr o)
  simp only [onDr]
  rw [hb]
  generalize f s.dr = y
  clear hb hf
  cases hy : y.micro <;> simp [State.bare, retire, onDr, hy, hd, retireDr, nextLclk, onFl, Drove.bare, Drove.recorded]

end Sys2Proof.Machine
end

