-- ==== Sys2Proof/Laws/Mem.lean ====
section
/-! SUPPORT. Maps and memories: the canonical form is kept, and a read gives what was last written. -/

namespace Sys2Proof.Machine

section
variable {α : Type} [DecidableEq α]

theorem mapWf_mono {d : α} {m : List (Nat × α)} {lo hi : Nat} (h : lo ≤ hi) (w : mapWf d hi m = true) :
    mapWf d lo m = true := by
  cases m with
  | nil => rfl
  | cons x m =>
    obtain ⟨k, y⟩ := x
    simp only [mapWf, Bool.and_eq_true, decide_eq_true_eq] at *
    exact ⟨⟨Nat.le_trans h w.1.1, w.1.2⟩, w.2⟩

theorem mapSet_wf_from {d : α} {m : List (Nat × α)} {lo a : Nat} (b : α) (ha : lo ≤ a) (w : mapWf d lo m = true) :
    mapWf d lo (mapSet d m a b) = true := by
  induction m generalizing lo with
  | nil =>
    unfold mapSet
    split
    · rfl
    · simp [mapWf, *]
  | cons x m ih =>
    obtain ⟨k, y⟩ := x
    simp only [mapWf, Bool.and_eq_true, decide_eq_true_eq] at w
    unfold mapSet
    split
    · split
      · simp [mapWf, w]
      · simp only [mapWf, Bool.and_eq_true, decide_eq_true_eq]
        exact ⟨⟨ha, by assumption⟩, ⟨⟨by omega, w.1.2⟩, w.2⟩⟩
    · split
      · split
        · exact mapWf_mono (by omega) w.2
        · simp only [mapWf, Bool.and_eq_true, decide_eq_true_eq]
          subst_vars
          exact ⟨⟨ha, by assumption⟩, w.2⟩
      · simp only [mapWf, Bool.and_eq_true, decide_eq_true_eq]
        exact ⟨w.1, ih (by omega) w.2⟩

/-- A write keeps the canonical form. -/
theorem mapSet_wf {d : α} {m : List (Nat × α)} (a : Nat) (b : α) (w : mapWf d 0 m = true) :
    mapWf d 0 (mapSet d m a b) = true := mapSet_wf_from b (Nat.zero_le a) w

theorem mapGet_below {d : α} {m : List (Nat × α)} {lo a : Nat} (w : mapWf d lo m = true) (h : a < lo) :
    mapGet d m a = d := by
  induction m generalizing lo with
  | nil => rfl
  | cons x m ih =>
    obtain ⟨k, y⟩ := x
    simp only [mapWf, Bool.and_eq_true, decide_eq_true_eq] at w
    unfold mapGet
    rw [if_neg (by omega)]
    exact ih w.2 (by omega)

/-- The key written reads as the value written, in a map in canonical form. -/
theorem mapGet_mapSet_same {d : α} {m : List (Nat × α)} {lo : Nat} (a : Nat) (b : α) (w : mapWf d lo m = true) :
    mapGet d (mapSet d m a b) a = b := by
  induction m generalizing lo with
  | nil => unfold mapSet; split <;> simp [mapGet, *]
  | cons x m ih =>
    obtain ⟨k, y⟩ := x
    have w' := w
    simp only [mapWf, Bool.and_eq_true, decide_eq_true_eq] at w
    unfold mapSet
    split
    · split
      · subst_vars
        simp only [mapGet]
        rw [if_neg (by omega)]
        exact mapGet_below w.2 (by omega)
      · simp [mapGet]
    · split
      · split
        · subst_vars
          exact mapGet_below w.2 (by omega)
        · simp [mapGet]
      · simp only [mapGet]
        rw [if_neg (by omega)]
        exact ih w.2

/-- Every other key reads as before. -/
theorem mapGet_mapSet_ne (d : α) (m : List (Nat × α)) {a c : Nat} (b : α) (h : c ≠ a) :
    mapGet d (mapSet d m a b) c = mapGet d m c := by
  induction m with
  | nil => unfold mapSet; split <;> simp [mapGet, Ne.symm h]
  | cons x m ih =>
    obtain ⟨k, y⟩ := x
    unfold mapSet
    split
    · split
      · rfl
      · simp [mapGet, Ne.symm h]
    · split
      · split
        · subst_vars; simp [mapGet, Ne.symm h]
        · subst_vars; simp [mapGet, Ne.symm h]
      · simp only [mapGet]
        split
        · rfl
        · exact ih
end

theorem memSet_wf {m : Memory} (a : Nat) (b : Byte) (w : m.wf = true) : Memory.wf (memSet m a b) = true :=
  mapSet_wf a b w

theorem memByte_memSet_same {m : Memory} (a : Nat) (b : Byte) (w : m.wf = true) : memByte (memSet m a b) a = b :=
  mapGet_mapSet_same a b w

theorem memByte_memSet_ne (m : Memory) {a c : Nat} (b : Byte) (h : c ≠ a) : memByte (memSet m a b) c = memByte m c :=
  mapGet_mapSet_ne 0 m b h

theorem memPut_wf {m : Memory} (a : Nat) (bs : List Byte) (w : m.wf = true) : Memory.wf (memPut m a bs) = true := by
  induction bs generalizing m a with
  | nil => exact w
  | cons b bs ih => exact ih (a + 1) (memSet_wf a b w)

/-- Outside the bytes written every address reads as before. -/
theorem memByte_memPut_ne (m : Memory) (a : Nat) (bs : List Byte) {c : Nat} (h : c < a ∨ a + bs.length ≤ c) :
    memByte (memPut m a bs) c = memByte m c := by
  induction bs generalizing m a with
  | nil => rfl
  | cons b bs ih =>
    simp only [List.length_cons] at h
    rw [memPut, ih (memSet m a b) (a + 1) (by omega), memByte_memSet_ne m b (by omega)]

/-- Byte `i` of what was written. -/
theorem memByte_memPut_at {m : Memory} (a : Nat) (bs : List Byte) (w : m.wf = true) {i : Nat} (h : i < bs.length) :
    memByte (memPut m a bs) (a + i) = bs[i] := by
  induction bs generalizing m a i with
  | nil => exact absurd h (Nat.not_lt_zero i)
  | cons b bs ih =>
    cases i with
    | zero =>
      rw [memPut, memByte_memPut_ne _ _ _ (by omega)]
      exact memByte_memSet_same a b w
    | succ i =>
      rw [memPut, show a + (i + 1) = a + 1 + i by omega]
      exact ih (a + 1) (memSet_wf a b w) (by simpa using h)

theorem memWrite_wf {m : Memory} (a n x : Nat) (w : m.wf = true) : Memory.wf (memWrite m a n x) = true :=
  memPut_wf a _ w

@[simp] theorem length_leBytes (n x : Nat) : (leBytes n x).length = n := by
  induction n generalizing x with
  | zero => rfl
  | succ n ih => simp [leBytes, ih]

theorem memByte_memWrite_ne (m : Memory) {a n c : Nat} (x : Nat) (h : c < a ∨ a + n ≤ c) :
    memByte (memWrite m a n x) c = memByte m c :=
  memByte_memPut_ne m a _ (by simpa using h)

theorem memBytes_memPut {m : Memory} (a : Nat) (bs : List Byte) (w : m.wf = true) :
    memBytes (memPut m a bs) a bs.length = bs := by
  induction bs generalizing m a with
  | nil => rfl
  | cons b bs ih =>
    simp only [List.length_cons, memBytes, memPut]
    rw [ih (a + 1) (memSet_wf a b w), memByte_memPut_ne _ _ _ (by omega), memByte_memSet_same a b w]

theorem leNat_leBytes (n x : Nat) : leNat (leBytes n x) = x % 256 ^ n := by
  induction n generalizing x with
  | zero => simp [leBytes, leNat, Nat.mod_one]
  | succ n ih =>
    simp only [leBytes, leNat, ih, BitVec.toNat_ofNat, Nat.reducePow]
    rw [Nat.pow_succ, Nat.mul_comm (256 ^ n) 256, Nat.mod_mul]

/-- A number written reads back (00 R6). -/
theorem memRead_memWrite {m : Memory} (a n x : Nat) (w : m.wf = true) : memRead (memWrite m a n x) a n = x % 256 ^ n := by
  have h := memBytes_memPut (m := m) a (leBytes n x) w
  rw [length_leBytes] at h
  unfold memRead memWrite
  rw [h, leNat_leBytes]

theorem foldl_wf {β : Type} (f : Memory → β → Memory) (h : ∀ m x, Memory.wf m = true → Memory.wf (f m x) = true)
    (xs : List β) (m : Memory) (w : m.wf = true) : Memory.wf (xs.foldl f m) = true := by
  induction xs generalizing m with
  | nil => exact w
  | cons x xs ih => exact ih _ (h m x w)

theorem mergeLine_wf {m : Memory} (l : L1Line) (keep : BitVec 32) (w : m.wf = true) : Memory.wf (mergeLine m l keep) = true := by
  unfold mergeLine
  refine foldl_wf _ (fun m i h => ?_) _ _ w
  split
  · exact memSet_wf _ _ h
  · exact h

theorem mergeBytes_wf {m : Memory} (bs : List (Nat × Byte)) (w : m.wf = true) : Memory.wf (mergeBytes m bs) = true :=
  foldl_wf _ (fun _ _ h => memSet_wf _ _ h) _ _ w

theorem merged_wf (s : State) (g : Nat) (w : s.mem.hbm.wf = true) : Memory.wf (merged s g) = true := by
  unfold merged
  refine mergeBytes_wf _ ?_
  split
  · split
    · exact mergeLine_wf _ _ w
    · exact w
  · exact w

theorem mapWf_filter {α : Type} [DecidableEq α] {d : α} (p : Nat × α → Bool) {m : List (Nat × α)} {lo : Nat}
    (w : mapWf d lo m = true) : mapWf d lo (m.filter p) = true := by
  induction m generalizing lo with
  | nil => rfl
  | cons x m ih =>
    simp only [mapWf, Bool.and_eq_true, decide_eq_true_eq] at w
    rw [List.filter_cons]
    split
    · simp only [mapWf, Bool.and_eq_true, decide_eq_true_eq]
      exact ⟨w.1, ih w.2⟩
    · exact mapWf_mono (by omega) (ih w.2)

theorem mapWf_append {α : Type} [DecidableEq α] {d : α} {a b : List (Nat × α)} {lo k : Nat} (ha : mapWf d lo a = true)
    (hk : ∀ x ∈ a, x.1 < k) (hl : lo ≤ k) (hb : mapWf d k b = true) : mapWf d lo (a ++ b) = true := by
  induction a generalizing lo with
  | nil => exact mapWf_mono hl hb
  | cons x a ih =>
    simp only [mapWf, Bool.and_eq_true, decide_eq_true_eq] at ha
    simp only [List.cons_append, mapWf, Bool.and_eq_true, decide_eq_true_eq]
    have := hk x (by simp)
    exact ⟨ha.1, ih ha.2 (fun y hy => hk y (by simp [hy])) (by omega)⟩

theorem mapWf_from {α : Type} [DecidableEq α] {d : α} {m : List (Nat × α)} {lo k : Nat} (w : mapWf d lo m = true) :
    mapWf d k (m.filter fun x => decide (k ≤ x.1)) = true := by
  induction m generalizing lo with
  | nil => rfl
  | cons x m ih =>
    simp only [mapWf, Bool.and_eq_true, decide_eq_true_eq] at w
    rw [List.filter_cons]
    split
    · rename_i h
      simp only [decide_eq_true_eq] at h
      simp only [mapWf, Bool.and_eq_true, decide_eq_true_eq]
      refine ⟨⟨h, w.1.2⟩, mapWf_filter _ w.2⟩
    · exact ih w.2

end Sys2Proof.Machine
end

