-- ==== Sys2Proof/Laws/KeepsHome.lean ====
section
/-! SUPPORT. The memories keep their canonical form: the operations of Machine/Home.lean. -/

set_option Elab.async false

namespace Sys2Proof.Machine

/-- The memories of the state are in canonical form. -/
def State.ok (s : State) : Prop := s.mem.wf = true

/-- A next state has its memories in canonical form. -/
def outOk : Host.Outcome State Fault Refusal → Prop
  | .next t => t.ok
  | .fault _ => True
  | .refused _ => True

theorem foldl_ok {α : Type} (f : State → α → State) (hf : ∀ s a, s.ok → (f s a).ok) (l : List α) (s : State) (h : s.ok) :
    (l.foldl f s).ok := by
  induction l generalizing s with
  | nil => exact h
  | cons a l ih => exact ih _ (hf _ _ h)

theorem foldl_inv {α β : Type} (P : β → Prop) (f : β → α → β) (hf : ∀ b a, P b → P (f b a)) (l : List α) (b : β) (h : P b) :
    P (l.foldl f b) := by
  induction l generalizing b with
  | nil => exact h
  | cons a l ih => exact ih _ (hf _ _ h)

theorem hbm_ok {s : State} (h : s.ok) : Memory.wf s.mem.hbm = true := by
  unfold State.ok Mems.wf at *
  simp_all

theorem spad_ok {s : State} (h : s.ok) : Memory.wf s.mem.spad = true := by
  unfold State.ok Mems.wf at *
  simp_all

theorem draw_ok (s : State) (hok : s.ok) : (draw s).2.ok := by
  unfold draw
  grind [State.ok, outOk]

theorem newId_ok (s : State) (hok : s.ok) : (newId s).2.ok := by
  unfold newId
  grind [State.ok, outOk]

theorem onDr_ok (s : State) (f : Drove → Drove) (hok : s.ok) : (onDr s f).ok := by
  unfold onDr
  grind [State.ok, outOk]

theorem onFl_ok (s : State) (f : Flock → Flock) (hok : s.ok) : (onFl s f).ok := by
  unfold onFl
  grind [State.ok, outOk]

theorem onDrove_ok (s : State) (u : Nat) (f : Drove → Drove) (hok : s.ok) : (onDrove s u f).ok := by
  unfold onDrove
  grind [State.ok, outOk, onDr_ok]

theorem onFlock_ok (s : State) (u : Nat) (f : Flock → Flock) (hok : s.ok) : (onFlock s u f).ok := by
  unfold onFlock
  grind [State.ok, outOk, onFl_ok]

theorem select_ok (s : State) (u : Nat) (hok : s.ok) : (select s u).ok := by
  unfold select
  grind [State.ok, outOk]

theorem onCtx_ok (s : State) (c : BitVec 16) (f : Ctx → Ctx) (hok : s.ok) : (onCtx s c f).ok := by
  unfold onCtx
  grind [State.ok, outOk]

theorem setDir_ok (s : State) (e : DirEntry) (hok : s.ok) : (setDir s e).ok := by
  unfold setDir
  grind [State.ok, outOk]

theorem host_ok {s : State} (hok : s.ok) : Memory.wf s.mem.host = true := by
  unfold State.ok Mems.wf at *
  simp_all

theorem peer_ok {s : State} (hok : s.ok) : Memory.wf s.mem.peer = true := by
  unfold State.ok Mems.wf at *
  simp_all

theorem safe_ok {s : State} (hok : s.ok) : Memory.wf s.mem.safe = true := by
  unfold State.ok Mems.wf at *
  simp_all

theorem setHost_ok (s : State) (m : Memory) (hok : s.ok) (hm : m.wf = true) :
    State.ok { s with mem := { s.mem with host := m } } := by
  unfold State.ok Mems.wf at *
  simp_all

theorem setPeer_ok (s : State) (m : Memory) (hok : s.ok) (hm : m.wf = true) :
    State.ok { s with mem := { s.mem with peer := m } } := by
  unfold State.ok Mems.wf at *
  simp_all

theorem setSafe_ok (s : State) (m : Memory) (hok : s.ok) (hm : m.wf = true) :
    State.ok { s with mem := { s.mem with safe := m } } := by
  unfold State.ok Mems.wf at *
  simp_all

theorem onHbm_ok (s : State) (f : Memory → Memory) (h : s.ok) (hf : Memory.wf (f s.mem.hbm) = true) : (onHbm s f).ok := by
  unfold State.ok Mems.wf at *
  simp_all [onHbm]

theorem hbmSet_ok (s : State) (a : Nat) (b : Byte) (hok : s.ok) : (onHbm s fun m => memSet m a b).ok :=
  onHbm_ok _ _ hok (memSet_wf _ _ (hbm_ok hok))

theorem hbmPut_ok (s : State) (a : Nat) (bs : List Byte) (hok : s.ok) : (onHbm s fun m => memPut m a bs).ok :=
  onHbm_ok _ _ hok (memPut_wf _ _ (hbm_ok hok))

theorem hbmMerge_ok (s : State) (bs : List (Nat × Byte)) (hok : s.ok) : (onHbm s fun m => mergeBytes m bs).ok :=
  onHbm_ok _ _ hok (mergeBytes_wf _ (hbm_ok hok))

theorem hbmWrite_ok (s : State) (a n x : Nat) (hok : s.ok) : (onHbm s fun m => memWrite m a n x).ok :=
  onHbm_ok _ _ hok (memWrite_wf _ _ _ (hbm_ok hok))

theorem mapL1_ok (s : State) (p : L1Line → Bool) (f : L1Line → L1Line) (hok : s.ok) : (mapL1 s p f).ok := by
  unfold mapL1
  grind [State.ok, outOk]

theorem dropL1_ok (s : State) (p : L1Line → Bool) (hok : s.ok) : (dropL1 s p).ok := by
  unfold dropL1
  grind [State.ok, outOk]

theorem countDie_ok (s : State) (die k : Nat) (hok : s.ok) : (countDie s die k).ok := by
  unfold countDie
  grind [State.ok, outOk]

theorem dropReplicas_ok (s : State) (g : Nat) (dies : BitVec 4) (hok : s.ok) : (dropReplicas s g dies).ok := by
  unfold dropReplicas
  grind [State.ok, outOk]

theorem recallAll_ok (s : State) (g : Nat) (hok : s.ok) : (recallAll s g).ok := by
  unfold recallAll
  dsimp only
  split
  · exact hok
  · exact setDir_ok _ _ (dropReplicas_ok _ _ _ (dropL1_ok _ _ (onHbm_ok _ _ hok (merged_wf s g (hbm_ok hok)))))

theorem meetBusy_ok (s : State) (g : Nat) (hok : s.ok) : (meetBusy s g).ok := by
  unfold meetBusy
  grind [State.ok, outOk]

theorem takeGranule_ok (s : State) (g : Nat) (nc : Bool) (hok : s.ok) : (takeGranule s g nc).ok := by
  unfold takeGranule
  grind [State.ok, outOk, recallAll_ok, meetBusy_ok]

theorem claimNow_ok (s : State) (e : DirEntry) (m : BitVec 32) (hok : s.ok) : (claimNow s e m).ok := by
  unfold claimNow
  dsimp only
  refine setDir_ok _ _ ?_
  have h := countDie_ok s (homeDie e.g) 1 hok
  split
  · exact hbmMerge_ok _ _ h
  · split
    · exact mapL1_ok _ _ _ (onHbm_ok _ _ h (mergeLine_wf _ _ (hbm_ok h)))
    · exact h

theorem takeWrite_ok (s : State) (g : Nat) (m : BitVec 32) (nc : Bool) (die : Option Nat) (hok : s.ok) :
    (takeWrite s g m nc die).ok := by
  unfold takeWrite
  grind [State.ok, outOk, recallAll_ok, setDir_ok, claimNow_ok, dropReplicas_ok, dropL1_ok, meetBusy_ok]

theorem putAt_ok (s : State) (ds : List (Nat × Bool)) (bs : List Byte) (die : Option Nat) (hok : s.ok) : (putAt s ds bs die).ok :=
  hbmMerge_ok _ _ (foldl_ok _ (fun _ _ h => takeWrite_ok _ _ _ _ _ h) _ _ hok)

theorem hostPut_ok (s : State) (p : Nat) (bs : List Byte) (hok : s.ok) : (hostPut s p bs).ok := by
  refine foldl_ok _ ?_ _ _ hok
  intro s x h
  dsimp only
  split
  · exact h
  · exact setHost_ok _ _ h (memSet_wf _ _ (host_ok h))

theorem farPut_ok (s : State) (a : Nat) (b : Byte) (hok : s.ok) : (farPut s a b).ok := by
  unfold farPut
  split
  · exact setPeer_ok _ _ hok (memSet_wf _ _ (peer_ok hok))
  · exact hostPut_ok _ _ _ hok

theorem putPlaces_ok (s : State) (ds : List (Nat × Bool)) (bs : List Byte) (die : Option Nat) (hok : s.ok) :
    (putPlaces s ds bs die).ok :=
  foldl_ok _ (fun _ _ h => farPut_ok _ _ _ h) _ _ (putAt_ok _ _ _ _ hok)

theorem homePut_ok (s : State) (a : Nat) (bs : List Byte) (hok : s.ok) : (homePut s a bs).ok := by
  unfold homePut
  grind [State.ok, outOk, putAt_ok]

theorem homeWrite_ok (s : State) (a n x : Nat) (hok : s.ok) : (homeWrite s a n x).ok := by
  unfold homeWrite
  grind [State.ok, outOk, homePut_ok]

theorem setCsbField_ok (s : State) (c : BitVec 16) (off n x : Nat) (hok : s.ok) : (setCsbField s c off n x).ok := by
  unfold setCsbField
  grind [State.ok, outOk, homeWrite_ok]

theorem countCsb_ok (s : State) (c : BitVec 16) (off : Nat) (hok : s.ok) : (countCsb s c off).ok := by
  unfold countCsb
  grind [State.ok, outOk, setCsbField_ok]

theorem setPriv_ok (s : State) (n : Nat) (x : W64) (hok : s.ok) : (setPriv s n x).ok := by
  unfold setPriv
  grind [State.ok, outOk]

theorem countRecord_ok (s : State) (i lo w : Nat) (hok : s.ok) : (countRecord s i lo w).ok := by
  unfold countRecord
  grind [State.ok, outOk]

theorem queueEvent_ok (s : State) (e : DevEvent) (hok : s.ok) : (queueEvent s e).ok := by
  unfold queueEvent
  grind [State.ok, outOk]

theorem postFevq_ok (s : State) (c : BitVec 16) (typ : BitVec 16) (id : BitVec 32) (pc pay : W64) (stamp : Option W64)
    (hok : s.ok) : (postFevq s c typ id pc pay stamp).ok := by
  unfold postFevq
  grind [State.ok, outOk, queueEvent_ok]

theorem onCore_ok (s : State) (c : Nat) (f : CoreSt → CoreSt) (hok : s.ok) : (onCore s c f).ok := by
  unfold onCore
  grind [State.ok, outOk]

theorem onSpad_ok (s : State) (f : Memory → Memory) (h : s.ok) (hf : Memory.wf (f s.mem.spad) = true) : (onSpad s f).ok := by
  unfold State.ok Mems.wf at *
  simp_all [onSpad]

theorem spadSet_ok (s : State) (a : Nat) (b : Byte) (hok : s.ok) : (onSpad s fun m => memSet m a b).ok :=
  onSpad_ok _ _ hok (memSet_wf _ _ (spad_ok hok))

theorem spadPut_ok (s : State) (a : Nat) (bs : List Byte) (hok : s.ok) : (onSpad s fun m => memPut m a bs).ok :=
  onSpad_ok _ _ hok (memPut_wf _ _ (spad_ok hok))

theorem spadWr_ok (s : State) (a n x : Nat) (hok : s.ok) : (onSpad s fun m => memWrite m a n x).ok :=
  onSpad_ok _ _ hok (memWrite_wf _ _ _ (spad_ok hok))

end Sys2Proof.Machine
end

