-- ==== Sys2Proof/Laws/KeepsTranslate.lean ====
section
/-! SUPPORT. The memories keep their canonical form: the operations of Machine/Translate.lean. -/

set_option Elab.async false

namespace Sys2Proof.Machine

theorem cacheTlb_ok (s : State) (t : Tlb) (hok : s.ok) : (cacheTlb s t).ok := by
  unfold cacheTlb
  grind [State.ok, outOk, draw_ok]

theorem translate_ok (s : State) (c : BitVec 16) (va : Nat) (hok : s.ok) : (translate s c va).2.ok := by
  unfold translate
  grind [State.ok, outOk, countRecord_ok, homeWrite_ok, cacheTlb_ok]

theorem dieAccess_ok (s : State) (c : BitVec 16) (va : Nat) (ask : Ask) (bx : Bool) (hok : s.ok) : (dieAccess s c va ask
    bx).2.ok := by
  unfold dieAccess
  grind [State.ok, outOk, translate_ok]

theorem zoneError_ok (s : State) (die : Nat) (hok : s.ok) : (zoneError s die).ok := by
  unfold zoneError
  grind [State.ok, outOk, setPriv_ok]

theorem takeFrame_ok (s : State) (die : Nat) (hok : s.ok) : (takeFrame s die).2.ok := by
  unfold takeFrame
  grind [State.ok, outOk, homeWrite_ok]

theorem expandAt_ok (s : State) (die entry : Nat) (hok : s.ok) : (expandAt s die entry).2.ok := by
  unfold expandAt
  grind [State.ok, outOk, foldl_ok, zoneError_ok, takeFrame_ok, homePut_ok, homeWrite_ok]

theorem openPage_ok (s : State) (c : BitVec 16) (va : Nat) (hok : s.ok) : (openPage s c va).ok := by
  unfold openPage
  grind [State.ok, outOk, translate_ok, expandAt_ok, countRecord_ok]

theorem openPages_ok (s : State) (c : BitVec 16) (va n : Nat) (hok : s.ok) : (openPages s c va n).ok := by
  unfold openPages
  grind [State.ok, outOk, foldl_ok, openPage_ok, draw_ok]

end Sys2Proof.Machine
end

