-- ==== Sys2Proof/Laws/KeepsPasture.lean ====
section
/-! SUPPORT. The memories keep their canonical form: the operations of Machine/Pasture.lean. -/

set_option Elab.async false

namespace Sys2Proof.Machine

theorem setVLine_ok (s : State) (l : VLine) (hok : s.ok) : (setVLine s l).ok := by
  unfold setVLine
  grind [State.ok, outOk]

theorem dropVLine_ok (s : State) (l : VLine) (hok : s.ok) : (dropVLine s l).ok := by
  unfold dropVLine
  grind [State.ok, outOk]

theorem onCdr_ok (s : State) (vc : Nat) (f : Cdr → Cdr) (hok : s.ok) : (onCdr s vc f).ok := by
  unfold onCdr
  grind [State.ok, outOk]

theorem reportLeave_ok (s : State) (l : VLine) (hok : s.ok) : (reportLeave s l).ok := by
  unfold reportLeave
  grind [State.ok, outOk, foldl_ok, setDir_ok]

theorem leaveVLine_ok (s : State) (l : VLine) (hok : s.ok) : (leaveVLine s l).ok := by
  unfold leaveVLine
  grind [State.ok, outOk, dropVLine_ok, reportLeave_ok]

theorem makeWay_ok (s : State) (c : Cdr) (old : Bool) (die set : Nat) (hok : s.ok) : (makeWay s c old die set).2.ok := by
  unfold makeWay
  grind [State.ok, outOk, leaveVLine_ok]

theorem fillWay_ok (s : State) (c : Cdr) (die set : Nat) (hok : s.ok) : (fillWay s c die set).2.ok := by
  unfold fillWay
  grind [State.ok, outOk, makeWay_ok]

theorem addVLine_ok (s : State) (l : VLine) (hok : s.ok) : (addVLine s l).ok := by
  unfold addVLine
  grind [State.ok, outOk]

theorem movePart_ok (room : State → Nat → Option Nat × State) (c : Cdr) (l : VLine) (s : State) (b : Nat) (hok : s.ok)
    (hr : ∀ s n, s.ok → (room s n).2.ok) : (movePart room c l s b).ok := by
  unfold movePart
  grind [State.ok, outOk, setVLine_ok, addVLine_ok, reportLeave_ok]

theorem moveVLine_ok (room : Nat → State → Nat → Option Nat × State) (s : State) (c : Cdr) (l : VLine) (hok : s.ok) (hr :
    ∀ b s n, s.ok → (room b s n).2.ok) : (moveVLine room s c l).ok := by
  unfold moveVLine
  grind [State.ok, outOk, foldl_ok, movePart_ok, dropVLine_ok]

theorem spareWay_ok (c : Cdr) (die : Nat) (s : State) (set : Nat) (hok : s.ok) : (spareWay c die s set).2.ok := by
  unfold spareWay
  grind [State.ok, outOk]

theorem countHit_ok (s : State) (vc : Nat) (hok : s.ok) : (countHit s vc).ok := by
  unfold countHit
  grind [State.ok, outOk, onCdr_ok]

theorem countMiss_ok (s : State) (vc : Nat) (hok : s.ok) : (countMiss s vc).ok := by
  unfold countMiss
  grind [State.ok, outOk, onCdr_ok]

theorem clearAges_ok (s : State) (es : List DirEntry) (hok : s.ok) : (clearAges s es).ok := by
  unfold clearAges
  grind [State.ok, outOk]

theorem seatEntry_ok (s : State) (g : Nat) (hok : s.ok) : (seatEntry s g).ok := by
  unfold seatEntry
  grind [State.ok, outOk, setDir_ok, meetBusy_ok, clearAges_ok, countDie_ok, recallAll_ok]

theorem registerReplica_ok (s : State) (c : Cdr) (die g : Nat) (hok : s.ok) : (registerReplica s c die g).ok := by
  unfold registerReplica
  grind [State.ok, outOk, setDir_ok, seatEntry_ok]

theorem useVLine_ok (s : State) (c : Cdr) (l : VLine) (g : Geo) (dpa : Nat) (dirty : Bool) (hok : s.ok) : (useVLine s c l
    g dpa dirty).ok := by
  unfold useVLine
  grind [State.ok, outOk, countMiss_ok, countHit_ok, setVLine_ok, registerReplica_ok]

theorem fillVLine_ok (s : State) (c : Cdr) (ctx : BitVec 16) (va dpa die : Nat) (write : Bool) (hok : s.ok) : (fillVLine
    s c ctx va dpa die write).ok := by
  unfold fillVLine
  grind [State.ok, outOk, countMiss_ok, fillWay_ok, addVLine_ok, registerReplica_ok]

theorem pastureLookup_ok (s : State) (c : Cdr) (ctx : BitVec 16) (va dpa die : Nat) (write : Bool) (hok : s.ok) :
    (pastureLookup s c ctx va dpa die write).ok := by
  unfold pastureLookup
  grind [State.ok, outOk, fillWay_ok, countMiss_ok, countHit_ok, setVLine_ok, spareWay_ok, moveVLine_ok, useVLine_ok,
    fillVLine_ok]

theorem purgeLine_ok (s : State) (c : Cdr) (dpa : Nat) (hok : s.ok) : (purgeLine s c dpa).ok := by
  unfold purgeLine
  grind [State.ok, outOk, foldl_ok, setVLine_ok, reportLeave_ok, leaveVLine_ok]

theorem pastureAccess_ok (s : State) (attr : W64) (ctx : BitVec 16) (va dpa r : Nat) (write : Bool) (hok : s.ok) :
    (pastureAccess s attr ctx va dpa r write).ok := by
  unfold pastureAccess
  grind [State.ok, outOk, purgeLine_ok, pastureLookup_ok]

theorem vaPasture_ok (s : State) (c : BitVec 16) (va n : Nat) (write : Bool) (die : Option Nat) (hok : s.ok) : (vaPasture s c
  va n write die).ok := by
  unfold vaPasture
  grind [State.ok, outOk, foldl_ok, dieAccess_ok, pastureAccess_ok]

theorem vaRead_ok (s : State) (c : BitVec 16) (va n : Nat) (die : Option Nat) (hok : s.ok) : (vaRead s c va n die).2.ok := by
  unfold vaRead
  grind [State.ok, outOk, openPages_ok, vaPasture_ok]

theorem vaPut_ok (s : State) (c : BitVec 16) (va : Nat) (bs : List Byte) (die : Option Nat) (hok : s.ok) :
    (vaPut s c va bs die).2.ok := by
  unfold vaPut
  grind [State.ok, outOk, openPages_ok, putPlaces_ok, vaPasture_ok]

theorem vaRecord_ok (s : State) (c : BitVec 16) (va n : Nat) (hok : s.ok) : (vaRecord s c va n).2.ok := by
  unfold vaRecord
  grind [State.ok, outOk, vaRead_ok, vaPasture_ok]

end Sys2Proof.Machine
end

