-- ==== Sys2Proof/Laws/KeepsObserve.lean ====
section
/-! SUPPORT. The memories keep their canonical form: the operations of Machine/Observe.lean. -/

set_option Elab.async false

namespace Sys2Proof.Machine

theorem laneAdd_ok (s : State) (die c b n : Nat) (hok : s.ok) : (laneAdd s die c b n).ok := by
  unfold laneAdd
  grind [State.ok, outOk]

theorem partGang_ok (s : State) (u : Nat) (hok : s.ok) : (partGang s u).ok := by
  unfold partGang
  grind [State.ok, outOk]

theorem joinGang_ok (s : State) (ms : List Drove) (hok : s.ok) : (joinGang s ms).ok := by
  unfold joinGang
  grind [State.ok, outOk]

theorem chooseGang_ok (s : State) (hok : s.ok) : (chooseGang s).ok := by
  unfold chooseGang
  grind [State.ok, outOk, draw_ok, joinGang_ok]

theorem formGang_ok (fit : Drove → Bool) (s : State) (hok : s.ok) : (formGang fit s).2.ok := by
  unfold formGang
  grind [State.ok, outOk, onDr_ok, draw_ok, joinGang_ok]

theorem gangUp_ok (s : State) (ds : List Drove) (hok : s.ok) : (gangUp s ds).ok := by
  unfold gangUp
  grind [State.ok, outOk]

theorem laneCount_ok (s : State) (idle : Option Nat) (hok : s.ok) : (laneCount s idle).ok := by
  unfold laneCount
  grind [State.ok, outOk, laneAdd_ok]

theorem onStream_ok (s : State) (die : Nat) (f : TraceStream → TraceStream) (hok : s.ok) : (onStream s die f).ok := by
  unfold onStream
  grind [State.ok, outOk]

theorem emit_ok (s : State) (die : Nat) (bs : List Byte) (hok : s.ok) : (emit s die bs).ok := by
  unfold emit
  grind [State.ok, outOk, draw_ok, onStream_ok]

theorem emitSync_ok (s : State) (die : Nat) (d : Drove) (pc : W64) (hok : s.ok) : (emitSync s die d pc).ok := by
  unfold emitSync
  grind [State.ok, outOk, emit_ok, onStream_ok, onDrove_ok]

theorem emitDelta_ok (s : State) (die t : Nat) (d : Drove) (hok : s.ok) : (emitDelta s die t d).ok := by
  unfold emitDelta
  grind [State.ok, outOk, emit_ok, emitSync_ok, onStream_ok]

theorem nameDrove_ok (s : State) (die t : Nat) (d : Drove) (hok : s.ok) : (nameDrove s die t d).ok := by
  unfold nameDrove
  grind [State.ok, outOk, emitDelta_ok, onStream_ok, emit_ok]

theorem flushBr_ok (s : State) (die : Nat) (d : Drove) (hok : s.ok) : (flushBr s die d).ok := by
  unfold flushBr
  grind [State.ok, outOk, emitSync_ok, nameDrove_ok, emit_ok, emitDelta_ok, onDrove_ok, onStream_ok]

theorem flushDue_ok (s : State) (die : Nat) (d : Drove) (pc : W64) (hok : s.ok) : (flushDue s die d pc).ok := by
  unfold flushDue
  grind [State.ok, outOk, emitSync_ok, flushBr_ok]

theorem flushAll_ok (s : State) (die : Nat) (d : Drove) (pc : W64) (hok : s.ok) : (flushAll s die d pc).ok := by
  unfold flushAll
  grind [State.ok, outOk, foldl_ok, flushDue_ok]

theorem turnTo_ok (s : State) (die t : Nat) (d : Drove) (pc : W64) (hok : s.ok) : (turnTo s die t d pc).ok := by
  unfold turnTo
  grind [State.ok, outOk, flushAll_ok, emitSync_ok, nameDrove_ok]

theorem traceIssue_ok (s : State) (hok : s.ok) : (traceIssue s).ok := by
  unfold traceIssue
  grind [State.ok, outOk, turnTo_ok, flushBr_ok, emitDelta_ok, emit_ok, onDr_ok]

theorem traceBranch_ok (s : State) (taken : Bool) (pc : W64) (hok : s.ok) : (traceBranch s taken pc).ok := by
  unfold traceBranch
  grind [State.ok, outOk, onDr_ok, flushAll_ok]

theorem traceIndirect_ok (s : State) (target : W64) (hok : s.ok) : (traceIndirect s target).ok := by
  unfold traceIndirect
  grind [State.ok, outOk, emitSync_ok, flushBr_ok, flushAll_ok]

theorem account_ok (fit : Drove → Bool) (s : State) (n : Nat) (hok : s.ok) : (account fit s n).ok := by
  unfold account
  grind [State.ok, outOk, foldl_ok, formGang_ok, laneCount_ok, onFl_ok, traceIssue_ok]

theorem keepBrs_ok (s : State) (ds : List Drove) (hok : s.ok) : (keepBrs s ds).ok := by
  unfold keepBrs
  grind [State.ok, outOk, foldl_ok, onStream_ok]

end Sys2Proof.Machine
end

