-- ==== Sys2Proof/Laws/KeepsTerminate.lean ====
section
/-! SUPPORT. The memories keep their canonical form: the operations of Machine/Terminate.lean. -/

set_option Elab.async false

namespace Sys2Proof.Machine

theorem setFtState_ok (s : State) (c : BitVec 16) (k st : Nat) (hok : s.ok) : (setFtState s c k st).ok := by
  unfold setFtState
  grind [State.ok, outOk, vaPut_ok]

theorem refill_ok (s : State) (c : BitVec 16) (hok : s.ok) : (refill s c).ok := by
  unfold refill
  grind [State.ok, outOk, setCsbField_ok]

theorem dropPark_ok (s : State) (p : Park) (hok : s.ok) : (dropPark s p).ok := by
  unfold dropPark
  grind [State.ok, outOk, refill_ok, setFtState_ok]

theorem sendPacket_ok (s : State) (ctx : BitVec 16) (dev ptype : Nat) (p : CollPacket) (hok : s.ok) : (sendPacket s ctx
    dev ptype p).ok := by
  unfold sendPacket
  grind [State.ok, outOk]

theorem flushUnsent_ok (s : State) (hok : s.ok) : (flushUnsent s).ok := by
  unfold flushUnsent
  grind [State.ok, outOk]

theorem cancelColl_ok (s : State) (ctx : BitVec 16) (range : Nat) (c : CollOp) (hok : s.ok) : (cancelColl s ctx range
    c).ok := by
  unfold cancelColl
  grind [State.ok, outOk, foldl_ok, sendPacket_ok]

theorem onRange_ok (s : State) (u : Nat) (f : Range → Range) (hok : s.ok) : (onRange s u f).ok := by
  unfold onRange
  grind [State.ok, outOk]

theorem removeFlock_ok (s : State) (f : Nat) (hok : s.ok) : (removeFlock s f).ok := by
  unfold removeFlock
  grind [State.ok, outOk, keepBrs_ok]

theorem forsake_ok (s : State) (fl : Flock) (droves : List Drove) (why : Nat) (hok : s.ok) : (forsake s fl droves why).ok
    := by
  unfold forsake
  grind [State.ok, outOk, foldl_ok, dropPark_ok, cancelColl_ok, onRange_ok, postFevq_ok]

theorem terminate_ok (s : State) (f why : Nat) (hok : s.ok) : (terminate s f why).ok := by
  unfold terminate
  grind [State.ok, outOk, removeFlock_ok, forsake_ok]

theorem terminateSaved_ok (s : State) (f why : Nat) (hok : s.ok) : (terminateSaved s f why).ok := by
  unfold terminateSaved
  grind [State.ok, outOk, forsake_ok, setCsbField_ok]

end Sys2Proof.Machine
end

