-- ==== Sys2Proof/Laws/KeepsOps.lean ====
section
/-! SUPPORT. The memories keep their canonical form: the operations of Machine/Ops.lean. -/

set_option Elab.async false

namespace Sys2Proof.Machine

theorem hold_ok (s : State) (w : Wait) (dog : Bool) (hok : s.ok) : (hold s w dog).ok := by
  unfold hold
  grind [State.ok, outOk, onDr_ok, partGang_ok]

theorem retireAt_ok (s : State) (pc : W64) (hok : s.ok) : (retireAt s pc).ok := by
  unfold retireAt
  grind [State.ok, outOk, onDr_ok, onFl_ok]

theorem retire_ok (s : State) (hok : s.ok) : (retire s).ok := by
  unfold retire
  grind [State.ok, outOk, onDr_ok, onFl_ok]

theorem takeStop_ok (s : State) (i : StopInfo) (hok : s.ok) : (takeStop s i).ok := by
  unfold takeStop
  grind [State.ok, outOk, onDr_ok, vaPut_ok, terminate_ok, onCtx_ok, countRecord_ok, postFevq_ok, partGang_ok]

theorem stopHere_ok (s : State) (cause : BitVec 8) (info addr : Nat) (hok : s.ok) : (stopHere s cause info addr).ok := by
  unfold stopHere
  grind [State.ok, outOk, onDr_ok, takeStop_ok]

theorem stopIssue_ok (s : State) (cause : BitVec 8) (info addr : Nat) (hok : s.ok) : (stopIssue s cause info addr).ok := by
  unfold stopIssue
  grind [State.ok, outOk, stopHere_ok, account_ok]

theorem stopAfter_ok (s : State) (cause : BitVec 8) (info : Nat) (hok : s.ok) : (stopAfter s cause info).ok := by
  unfold stopAfter
  grind [State.ok, outOk, takeStop_ok, account_ok]

theorem unpop_ok (s : State) (us : List Use) (hok : s.ok) : (unpop s us).ok := by
  unfold unpop
  grind [State.ok, outOk, onDr_ok]

theorem issueIf_ok (c : Chk) (dyn : State → Verdict) (s : State) (run : State → State) (hok : s.ok) (hrun : ∀ s : State,
    s.ok → (run s).ok) : (issueIf c dyn s run).ok := by
  unfold issueIf
  grind [State.ok, outOk, stopHere_ok, hold_ok, account_ok, unpop_ok, stopIssue_ok]

theorem issue_ok (c : Chk) (s : State) (run : State → State) (hok : s.ok) (hrun : ∀ s : State,
    s.ok → (run s).ok) : (issue c s run).ok := by
  unfold issue
  grind [State.ok, outOk, issueIf_ok]

theorem enterPark_ok (s : State) (p : Park) (hok : s.ok) : (enterPark s p).ok := by
  unfold enterPark
  grind [State.ok, outOk, newId_ok]

theorem park_ok (s : State) (kind : Nat) (cause : BitVec 8) (d : Drove) (pc : W64) (va : Nat) (req : Option Nat) (blocks
    : Bool) (hok : s.ok) : (park s kind cause d pc va req blocks).ok := by
  unfold park
  grind [State.ok, outOk, newId_ok, onDrove_ok, enterPark_ok, partGang_ok]

theorem endParks_ok (s : State) (p : Park → Bool) (hok : s.ok) : (endParks s p).ok := by
  unfold endParks
  grind [State.ok, outOk]

theorem parkMasked_ok (s : State) (kind : Nat) (cause : BitVec 8) (va mask : Nat) (hok : s.ok) : (parkMasked s kind cause
    va mask).ok := by
  unfold parkMasked
  grind [State.ok, outOk, park_ok]

end Sys2Proof.Machine
end

