-- ==== Sys2Proof/Laws/KeepsScalar.lean ====
section
/-! SUPPORT. The memories keep their canonical form: the operations of Machine/Scalar.lean. -/

set_option Elab.async false

namespace Sys2Proof.Machine

theorem scalar3_ok (d a b : BitVec 6) (ea eb ed : Bool) (f : W64 → W64 → W64 → W64) (s : State) (hok : s.ok) : outOk
    (scalar3 d a b ea eb ed f s) := by
  unfold scalar3
  grind [State.ok, outOk, issue_ok, retire_ok, onDr_ok]

theorem scalar2_ok (d a : BitVec 6) (ea ed : Bool) (f : W64 → W64) (s : State) (hok : s.ok) : outOk (scalar2 d a ea ed f
    s) := by
  unfold scalar2
  grind [State.ok, outOk, issue_ok, retire_ok, onDr_ok]

theorem scalarImm_ok (d a : BitVec 6) (f : W64 → W64) (s : State) (hok : s.ok) : outOk (scalarImm d a f s) := by
  unfold scalarImm
  grind [State.ok, outOk, scalar2_ok]

theorem execSadd_ok (d a b : BitVec 6) (ea eb ed : Bool) (s : State) (hok : s.ok) : outOk (execSadd d a b ea eb ed s) := by
  unfold execSadd
  grind [State.ok, outOk, scalar3_ok]

theorem execSsub_ok (d a b : BitVec 6) (ea eb ed : Bool) (s : State) (hok : s.ok) : outOk (execSsub d a b ea eb ed s) := by
  unfold execSsub
  grind [State.ok, outOk, scalar3_ok]

theorem execSmul_ok (d a b : BitVec 6) (ea eb ed : Bool) (s : State) (hok : s.ok) : outOk (execSmul d a b ea eb ed s) := by
  unfold execSmul
  grind [State.ok, outOk, scalar3_ok]

theorem execSmulh_ok (d a b : BitVec 6) (ea eb ed : Bool) (s : State) (hok : s.ok) : outOk (execSmulh d a b ea eb ed s) := by
  unfold execSmulh
  grind [State.ok, outOk, scalar3_ok]

theorem execSmulhn_ok (d a b : BitVec 6) (ea eb ed : Bool) (s : State) (hok : s.ok) : outOk (execSmulhn d a b ea eb ed s)
    := by
  unfold execSmulhn
  grind [State.ok, outOk, scalar3_ok]

theorem execSand_ok (d a b : BitVec 6) (ea eb ed : Bool) (s : State) (hok : s.ok) : outOk (execSand d a b ea eb ed s) := by
  unfold execSand
  grind [State.ok, outOk, scalar3_ok]

theorem execSor_ok (d a b : BitVec 6) (ea eb ed : Bool) (s : State) (hok : s.ok) : outOk (execSor d a b ea eb ed s) := by
  unfold execSor
  grind [State.ok, outOk, scalar3_ok]

theorem execSxor_ok (d a b : BitVec 6) (ea eb ed : Bool) (s : State) (hok : s.ok) : outOk (execSxor d a b ea eb ed s) := by
  unfold execSxor
  grind [State.ok, outOk, scalar3_ok]

theorem execSandn_ok (d a b : BitVec 6) (ea eb ed : Bool) (s : State) (hok : s.ok) : outOk (execSandn d a b ea eb ed s) := by
  unfold execSandn
  grind [State.ok, outOk, scalar3_ok]

theorem execSshl_ok (d a b : BitVec 6) (ea eb ed : Bool) (s : State) (hok : s.ok) : outOk (execSshl d a b ea eb ed s) := by
  unfold execSshl
  grind [State.ok, outOk, scalar3_ok]

theorem execSshr_ok (d a b : BitVec 6) (ea eb ed : Bool) (s : State) (hok : s.ok) : outOk (execSshr d a b ea eb ed s) := by
  unfold execSshr
  grind [State.ok, outOk, scalar3_ok]

theorem execSsra_ok (d a b : BitVec 6) (ea eb ed : Bool) (s : State) (hok : s.ok) : outOk (execSsra d a b ea eb ed s) := by
  unfold execSsra
  grind [State.ok, outOk, scalar3_ok]

theorem execSmin_ok (d a b : BitVec 6) (ea eb ed : Bool) (s : State) (hok : s.ok) : outOk (execSmin d a b ea eb ed s) := by
  unfold execSmin
  grind [State.ok, outOk, scalar3_ok]

theorem execSmax_ok (d a b : BitVec 6) (ea eb ed : Bool) (s : State) (hok : s.ok) : outOk (execSmax d a b ea eb ed s) := by
  unfold execSmax
  grind [State.ok, outOk, scalar3_ok]

theorem execSminn_ok (d a b : BitVec 6) (ea eb ed : Bool) (s : State) (hok : s.ok) : outOk (execSminn d a b ea eb ed s) := by
  unfold execSminn
  grind [State.ok, outOk, scalar3_ok]

theorem execSmaxn_ok (d a b : BitVec 6) (ea eb ed : Bool) (s : State) (hok : s.ok) : outOk (execSmaxn d a b ea eb ed s) := by
  unfold execSmaxn
  grind [State.ok, outOk, scalar3_ok]

theorem execSeq_ok (d a b : BitVec 6) (ea eb ed : Bool) (s : State) (hok : s.ok) : outOk (execSeq d a b ea eb ed s) := by
  unfold execSeq
  grind [State.ok, outOk, scalar3_ok]

theorem execSlt_ok (d a b : BitVec 6) (ea eb ed : Bool) (s : State) (hok : s.ok) : outOk (execSlt d a b ea eb ed s) := by
  unfold execSlt
  grind [State.ok, outOk, scalar3_ok]

theorem execSltn_ok (d a b : BitVec 6) (ea eb ed : Bool) (s : State) (hok : s.ok) : outOk (execSltn d a b ea eb ed s) := by
  unfold execSltn
  grind [State.ok, outOk, scalar3_ok]

theorem execSsel_ok (d a b : BitVec 6) (ea eb ed : Bool) (s : State) (hok : s.ok) : outOk (execSsel d a b ea eb ed s) := by
  unfold execSsel
  grind [State.ok, outOk, scalar3_ok]

theorem execSclz_ok (d a : BitVec 6) (ea ed : Bool) (s : State) (hok : s.ok) : outOk (execSclz d a ea ed s) := by
  unfold execSclz
  grind [State.ok, outOk, scalar2_ok]

theorem execSpop_ok (d a : BitVec 6) (ea ed : Bool) (s : State) (hok : s.ok) : outOk (execSpop d a ea ed s) := by
  unfold execSpop
  grind [State.ok, outOk, scalar2_ok]

theorem execSbrev_ok (d a : BitVec 6) (ea ed : Bool) (s : State) (hok : s.ok) : outOk (execSbrev d a ea ed s) := by
  unfold execSbrev
  grind [State.ok, outOk, scalar2_ok]

theorem execSmov_ok (d a : BitVec 6) (ea ed : Bool) (s : State) (hok : s.ok) : outOk (execSmov d a ea ed s) := by
  unfold execSmov
  grind [State.ok, outOk, scalar2_ok]

theorem execSaddi_ok (d a : BitVec 6) (i : BitVec 12) (s : State) (hok : s.ok) : outOk (execSaddi d a i s) := by
  unfold execSaddi
  grind [State.ok, outOk, scalarImm_ok]

theorem execSandi_ok (d a : BitVec 6) (i : BitVec 12) (s : State) (hok : s.ok) : outOk (execSandi d a i s) := by
  unfold execSandi
  grind [State.ok, outOk, scalarImm_ok]

theorem execSori_ok (d a : BitVec 6) (i : BitVec 12) (s : State) (hok : s.ok) : outOk (execSori d a i s) := by
  unfold execSori
  grind [State.ok, outOk, scalarImm_ok]

theorem execSxori_ok (d a : BitVec 6) (i : BitVec 12) (s : State) (hok : s.ok) : outOk (execSxori d a i s) := by
  unfold execSxori
  grind [State.ok, outOk, scalarImm_ok]

theorem execSshli_ok (d a : BitVec 6) (i : BitVec 6) (s : State) (hok : s.ok) : outOk (execSshli d a i s) := by
  unfold execSshli
  grind [State.ok, outOk, scalarImm_ok]

theorem execSshri_ok (d a : BitVec 6) (i : BitVec 6) (s : State) (hok : s.ok) : outOk (execSshri d a i s) := by
  unfold execSshri
  grind [State.ok, outOk, scalarImm_ok]

theorem execSsrai_ok (d a : BitVec 6) (i : BitVec 6) (s : State) (hok : s.ok) : outOk (execSsrai d a i s) := by
  unfold execSsrai
  grind [State.ok, outOk, scalarImm_ok]

theorem execSeqi_ok (d a : BitVec 6) (i : BitVec 12) (s : State) (hok : s.ok) : outOk (execSeqi d a i s) := by
  unfold execSeqi
  grind [State.ok, outOk, scalarImm_ok]

theorem execSlti_ok (d a : BitVec 6) (i : BitVec 12) (s : State) (hok : s.ok) : outOk (execSlti d a i s) := by
  unfold execSlti
  grind [State.ok, outOk, scalarImm_ok]

theorem execSli_ok (d : BitVec 6) (i : BitVec 18) (s : State) (hok : s.ok) : outOk (execSli d i s) := by
  unfold execSli
  grind [State.ok, outOk, issue_ok, retire_ok, onDr_ok]

theorem execSlui_ok (d : BitVec 6) (i : BitVec 18) (s : State) (hok : s.ok) : outOk (execSlui d i s) := by
  unfold execSlui
  grind [State.ok, outOk, issue_ok, retire_ok, onDr_ok]

end Sys2Proof.Machine
end

