-- ==== Sys2Proof/Laws/KeepsControl.lean ====
section
/-! SUPPORT. The memories keep their canonical form: the operations of Machine/Control.lean. -/

set_option Elab.async false

namespace Sys2Proof.Machine

theorem execBra_ok (off : BitVec 18) (s : State) (hok : s.ok) : outOk (execBra off s) := by
  unfold execBra
  grind [State.ok, outOk, issue_ok, retireAt_ok]

theorem condBranch_ok (c : BitVec 6) (off : BitVec 18) (ifZero : Bool) (s : State) (hok : s.ok) : outOk (condBranch c off
    ifZero s) := by
  unfold condBranch
  grind [State.ok, outOk, issue_ok, traceBranch_ok, retireAt_ok, retire_ok]

theorem execBrz_ok (c : BitVec 6) (off : BitVec 18) (s : State) (hok : s.ok) : outOk (execBrz c off s) := by
  unfold execBrz
  grind [State.ok, outOk, condBranch_ok]

theorem execBrnz_ok (c : BitVec 6) (off : BitVec 18) (s : State) (hok : s.ok) : outOk (execBrnz c off s) := by
  unfold execBrnz
  grind [State.ok, outOk, condBranch_ok]

theorem saveLinks_ok (s : State) (d : Drove) (hok : s.ok) : (saveLinks s d).1.ok := by
  refine foldl_inv (fun x : State × Drove => x.1.ok) _ ?_ _ _ hok
  intro x y h
  dsimp only
  split
  · exact h
  · split
    all_goals
      rename_i e
      exact (congrArg (fun z => State.ok z.2) e).mp (vaPut_ok _ _ _ _ _ h)

theorem pushCall_ok (target : W64) (s : State) (hok : s.ok) : (pushCall target s).ok := by
  unfold pushCall
  grind [State.ok, outOk, onDr_ok, retireAt_ok]

theorem execCall_ok (off : BitVec 18) (s : State) (hok : s.ok) : outOk (execCall off s) := by
  unfold execCall
  grind [State.ok, outOk, issueIf_ok, pushCall_ok]

theorem execCallr_ok (a : BitVec 6) (ea : Bool) (s : State) (hok : s.ok) : outOk (execCallr a ea s) := by
  unfold execCallr
  grind [State.ok, outOk, issueIf_ok, pushCall_ok, traceIndirect_ok]

theorem execRet_ok (s : State) (hok : s.ok) : outOk (execRet s) := by
  unfold execRet
  grind [State.ok, outOk, issueIf_ok, onDr_ok, traceIndirect_ok, retireAt_ok]

theorem execJmpr_ok (a : BitVec 6) (ea : Bool) (s : State) (hok : s.ok) : outOk (execJmpr a ea s) := by
  unfold execJmpr
  grind [State.ok, outOk, issueIf_ok, retireAt_ok, traceIndirect_ok]

theorem execLinkStackSpillFill_ok (d : Nat) (s : State) (hok : s.ok) : outOk (execLinkStackSpillFill d s) := by
  unfold execLinkStackSpillFill
  grind [State.ok, outOk, select_ok, vaPut_ok, onDr_ok, park_ok, vaRead_ok]

theorem touchDrove_ok (s : State) (u : Nat) (f : Drove → Drove) (hok : s.ok) : (touchDrove s u f).ok := by
  unfold touchDrove
  grind [State.ok, outOk, onDrove_ok]

theorem wake_ok (s : State) (u : Nat) (w : W64) (what : Wait → Bool) (hok : s.ok) : (wake s u w what).ok := by
  unfold wake
  grind [State.ok, outOk, touchDrove_ok]

theorem tryRelease_ok (s : State) (n : Nat) (w : W64) (hok : s.ok) : (tryRelease s n w).ok := by
  unfold tryRelease
  grind [State.ok, outOk, foldl_ok, onFl_ok, gangUp_ok, wake_ok]

theorem wakePops_ok (s : State) (n : Nat) (w : W64) (hok : s.ok) : (wakePops s n w).ok := by
  unfold wakePops
  grind [State.ok, outOk, foldl_ok, wake_ok]

theorem flockOver_ok (s : State) (fl : Flock) (hok : s.ok) : (flockOver s fl).ok := by
  unfold flockOver
  grind [State.ok, outOk, onFlock_ok, onRange_ok]

theorem finishFlock_ok (s : State) (f : Nat) (hok : s.ok) : (finishFlock s f).ok := by
  unfold finishFlock
  grind [State.ok, outOk, onRange_ok, removeFlock_ok, flockOver_ok]

theorem cancelTlds_ok (s : State) (hok : s.ok) : (cancelTlds s).ok := by
  unfold cancelTlds
  grind [State.ok, outOk, foldl_ok, dropPark_ok, onFl_ok]

theorem leaveFlock_ok (s : State) (hok : s.ok) : (leaveFlock s).ok := by
  unfold leaveFlock
  grind [State.ok, outOk, foldl_ok, countCsb_ok, cancelTlds_ok, onFl_ok, tryRelease_ok, wakePops_ok]

theorem regangRelease_ok (s : State) (hok : s.ok) : (regangRelease s).ok := by
  unfold regangRelease
  grind [State.ok, outOk, gangUp_ok]

theorem execRegang_ok (s : State) (hok : s.ok) : outOk (execRegang s) := by
  unfold execRegang
  grind [State.ok, outOk, issueIf_ok, regangRelease_ok, retire_ok]

theorem execNop_ok (s : State) (hok : s.ok) : outOk (execNop s) := by
  unfold execNop
  grind [State.ok, outOk, issue_ok, retire_ok]

theorem execBrk_ok (c : BitVec 24) (s : State) (hok : s.ok) : outOk (execBrk c s) := by
  unfold execBrk
  grind [State.ok, outOk, stopAfter_ok]

theorem execYield_ok (s : State) (hok : s.ok) : outOk (execYield s) := by
  unfold execYield
  grind [State.ok, outOk, issueIf_ok, retire_ok, onDr_ok]

theorem execRegangTimeout_ok (d : Nat) (s : State) (hok : s.ok) : outOk (execRegangTimeout d s) := by
  unfold execRegangTimeout
  grind [State.ok, outOk, select_ok, issueIf_ok, regangRelease_ok, retire_ok, onDr_ok]

theorem execYieldTimeout_ok (d : Nat) (s : State) (hok : s.ok) : outOk (execYieldTimeout d s) := by
  unfold execYieldTimeout
  grind [State.ok, outOk, select_ok, issue_ok, retire_ok, onDr_ok]

theorem execModeSet_ok (d a : BitVec 6) (ea ed : Bool) (s : State) (hok : s.ok) : outOk (execModeSet d a ea ed s) := by
  unfold execModeSet
  grind [State.ok, outOk, issueIf_ok, retire_ok, onDr_ok]

theorem execModeFld_ok (fld : BitVec 4) (v : BitVec 6) (s : State) (hok : s.ok) : outOk (execModeFld fld v s) := by
  unfold execModeFld
  grind [State.ok, outOk, issue_ok, retire_ok, onDr_ok]

theorem execModeGet_ok (d : BitVec 6) (ed : Bool) (s : State) (hok : s.ok) : outOk (execModeGet d ed s) := by
  unfold execModeGet
  grind [State.ok, outOk, issue_ok, retire_ok, onDr_ok]

end Sys2Proof.Machine
end

