-- ==== Sys2Proof/Laws/KeepsSaveImage.lean ====
section
/-! SUPPORT. The memories keep their canonical form: the operations of Machine/SaveImage.lean. -/

set_option Elab.async false

namespace Sys2Proof.Machine

theorem putImage_ok (s : State) (v : Saved) (hok : s.ok) : (putImage s v).2.ok := by
  unfold putImage
  exact vaPut_ok _ _ _ _ _ hok

theorem onSaved_ok (s : State) (u : Nat) (f : Saved → Saved) (hok : s.ok) : (onSaved s u f).ok := by
  unfold onSaved
  grind [State.ok, outOk, putImage_ok]

end Sys2Proof.Machine
end

