-- ==== Sys2Proof/Laws/KeepsOperands.lean ====
section
/-! SUPPORT. The memories keep their canonical form: the operations of Machine/Operands.lean. -/

set_option Elab.async false

namespace Sys2Proof.Machine

theorem vecRun_ok (dsts : List Nat) (f : Drove → Nat → LaneOut) (s : State) (hok : s.ok) : (vecRun dsts f s).ok := by
  unfold vecRun
  grind [State.ok, outOk, foldl_ok, retire_ok, onDr_ok]

theorem vecOp_ok (c : Chk) (dsts : List Nat) (f : Drove → Nat → LaneOut) (s : State) (hok : s.ok) : outOk (vecOp c dsts f
    s) := by
  unfold vecOp
  grind [State.ok, outOk, issueIf_ok, vecRun_ok]

theorem cmpOp_ok (c : Chk) (sd : Nat) (f : Drove → Nat → Bool × Fl) (s : State) (hok : s.ok) : outOk (cmpOp c sd f s) := by
  unfold cmpOp
  grind [State.ok, outOk, issueIf_ok, retire_ok, onDr_ok]

end Sys2Proof.Machine
end

