-- ==== Sys2Proof/Laws/KeepsVecInt.lean ====
section
/-! SUPPORT. The memories keep their canonical form: the operations of Machine/VecInt.lean. -/

set_option Elab.async false

namespace Sys2Proof.Machine

theorem intOp_ok (us : List Use) (ok : Nat → Bool) (d a b : Nat) (f : Nat → Int → Int → Int → Int) (s : State) (hok :
    s.ok) : outOk (intOp us ok d a b f s) := by
  unfold intOp
  grind [State.ok, outOk, vecOp_ok]

theorem intOp3_ok (d a b : BitVec 7) (ea eb ed acc : Bool) (f : Nat → Int → Int → Int → Int) (s : State) (hok : s.ok) :
    outOk (intOp3 d a b ea eb ed acc f s) := by
  unfold intOp3
  grind [State.ok, outOk, intOp_ok]

theorem execVadd_ok (d a b : BitVec 7) (ea eb ed : Bool) (s : State) (hok : s.ok) : outOk (execVadd d a b ea eb ed s) := by
  unfold execVadd
  grind [State.ok, outOk, intOp3_ok]

theorem execVsub_ok (d a b : BitVec 7) (ea eb ed : Bool) (s : State) (hok : s.ok) : outOk (execVsub d a b ea eb ed s) := by
  unfold execVsub
  grind [State.ok, outOk, intOp3_ok]

theorem execVmul_ok (d a b : BitVec 7) (ea eb ed : Bool) (s : State) (hok : s.ok) : outOk (execVmul d a b ea eb ed s) := by
  unfold execVmul
  grind [State.ok, outOk, intOp3_ok]

theorem execVmulh_ok (d a b : BitVec 7) (ea eb ed : Bool) (s : State) (hok : s.ok) : outOk (execVmulh d a b ea eb ed s) := by
  unfold execVmulh
  grind [State.ok, outOk, intOp3_ok]

theorem execVmad_ok (d a b : BitVec 7) (ea eb ed : Bool) (s : State) (hok : s.ok) : outOk (execVmad d a b ea eb ed s) := by
  unfold execVmad
  grind [State.ok, outOk, intOp3_ok]

theorem execVmin_ok (d a b : BitVec 7) (ea eb ed : Bool) (s : State) (hok : s.ok) : outOk (execVmin d a b ea eb ed s) := by
  unfold execVmin
  grind [State.ok, outOk, intOp3_ok]

theorem execVmax_ok (d a b : BitVec 7) (ea eb ed : Bool) (s : State) (hok : s.ok) : outOk (execVmax d a b ea eb ed s) := by
  unfold execVmax
  grind [State.ok, outOk, intOp3_ok]

theorem execVabs_ok (d a : BitVec 7) (ea ed : Bool) (s : State) (hok : s.ok) : outOk (execVabs d a ea ed s) := by
  unfold execVabs
  grind [State.ok, outOk, intOp_ok]

theorem execVneg_ok (d a : BitVec 7) (ea ed : Bool) (s : State) (hok : s.ok) : outOk (execVneg d a ea ed s) := by
  unfold execVneg
  grind [State.ok, outOk, intOp_ok]

theorem rawOp_ok (us : List Use) (d : Nat) (f : Drove → Nat → W32) (s : State) (hok : s.ok) : outOk (rawOp us d f s) := by
  unfold rawOp
  grind [State.ok, outOk, vecOp_ok]

theorem raw3_ok (d a b : BitVec 7) (ea eb ed : Bool) (f : W32 → W32 → W32) (s : State) (hok : s.ok) : outOk (raw3 d a b
    ea eb ed f s) := by
  unfold raw3
  grind [State.ok, outOk, rawOp_ok]

theorem execVand_ok (d a b : BitVec 7) (ea eb ed : Bool) (s : State) (hok : s.ok) : outOk (execVand d a b ea eb ed s) := by
  unfold execVand
  grind [State.ok, outOk, raw3_ok]

theorem execVor_ok (d a b : BitVec 7) (ea eb ed : Bool) (s : State) (hok : s.ok) : outOk (execVor d a b ea eb ed s) := by
  unfold execVor
  grind [State.ok, outOk, raw3_ok]

theorem execVxor_ok (d a b : BitVec 7) (ea eb ed : Bool) (s : State) (hok : s.ok) : outOk (execVxor d a b ea eb ed s) := by
  unfold execVxor
  grind [State.ok, outOk, raw3_ok]

theorem execVandn_ok (d a b : BitVec 7) (ea eb ed : Bool) (s : State) (hok : s.ok) : outOk (execVandn d a b ea eb ed s) := by
  unfold execVandn
  grind [State.ok, outOk, raw3_ok]

theorem execVmov_ok (d a : BitVec 7) (ea ed : Bool) (s : State) (hok : s.ok) : outOk (execVmov d a ea ed s) := by
  unfold execVmov
  grind [State.ok, outOk, rawOp_ok]

theorem bitOp_ok (us : List Use) (d a b : Nat) (f : Nat → Nat → Nat → Nat) (s : State) (hok : s.ok) : outOk (bitOp us d a
    b f s) := by
  unfold bitOp
  grind [State.ok, outOk, vecOp_ok]

theorem execVshl_ok (d a b : BitVec 7) (ea eb ed : Bool) (s : State) (hok : s.ok) : outOk (execVshl d a b ea eb ed s) := by
  unfold execVshl
  grind [State.ok, outOk, vecOp_ok]

theorem execVshr_ok (d a b : BitVec 7) (ea eb ed : Bool) (s : State) (hok : s.ok) : outOk (execVshr d a b ea eb ed s) := by
  unfold execVshr
  grind [State.ok, outOk, bitOp_ok]

theorem execVsra_ok (d a b : BitVec 7) (ea eb ed : Bool) (s : State) (hok : s.ok) : outOk (execVsra d a b ea eb ed s) := by
  unfold execVsra
  grind [State.ok, outOk, bitOp_ok]

theorem execVpop_ok (d a : BitVec 7) (ea ed : Bool) (s : State) (hok : s.ok) : outOk (execVpop d a ea ed s) := by
  unfold execVpop
  grind [State.ok, outOk, bitOp_ok]

theorem execVclz_ok (d a : BitVec 7) (ea ed : Bool) (s : State) (hok : s.ok) : outOk (execVclz d a ea ed s) := by
  unfold execVclz
  grind [State.ok, outOk, bitOp_ok]

theorem intCmp2_ok (x a : BitVec 7) (d : BitVec 6) (ea eb : Bool) (ok : Nat → Bool) (f : Nat → W32 → W32 → Bool) (s :
    State) (hok : s.ok) : outOk (intCmp2 x a d ea eb ok f s) := by
  unfold intCmp2
  grind [State.ok, outOk, cmpOp_ok]

theorem intCmp3_ok (a : BitVec 7) (d : BitVec 6) (ea : Bool) (ok : Nat → Bool) (f : Nat → W32 → W32 → Bool) (s : State)
    (hok : s.ok) : outOk (intCmp3 a d ea ok f s) := by
  unfold intCmp3
  grind [State.ok, outOk, cmpOp_ok]

theorem execVeqSub2_ok (x a : BitVec 7) (d : BitVec 6) (ea eb : Bool) (s : State) (hok : s.ok) : outOk (execVeqSub2 x a d
    ea eb s) := by
  unfold execVeqSub2
  grind [State.ok, outOk, intCmp2_ok]

theorem execVeqSub3_ok (a : BitVec 7) (d : BitVec 6) (ea : Bool) (s : State) (hok : s.ok) : outOk (execVeqSub3 a d ea s)
    := by
  unfold execVeqSub3
  grind [State.ok, outOk, intCmp3_ok]

theorem execVneSub2_ok (x a : BitVec 7) (d : BitVec 6) (ea eb : Bool) (s : State) (hok : s.ok) : outOk (execVneSub2 x a d
    ea eb s) := by
  unfold execVneSub2
  grind [State.ok, outOk, intCmp2_ok]

theorem execVneSub3_ok (a : BitVec 7) (d : BitVec 6) (ea : Bool) (s : State) (hok : s.ok) : outOk (execVneSub3 a d ea s)
    := by
  unfold execVneSub3
  grind [State.ok, outOk, intCmp3_ok]

theorem execVltSub2_ok (x a : BitVec 7) (d : BitVec 6) (ea eb : Bool) (s : State) (hok : s.ok) : outOk (execVltSub2 x a d
    ea eb s) := by
  unfold execVltSub2
  grind [State.ok, outOk, intCmp2_ok]

theorem execVltSub3_ok (a : BitVec 7) (d : BitVec 6) (ea : Bool) (s : State) (hok : s.ok) : outOk (execVltSub3 a d ea s)
    := by
  unfold execVltSub3
  grind [State.ok, outOk, intCmp3_ok]

theorem execVleSub2_ok (x a : BitVec 7) (d : BitVec 6) (ea eb : Bool) (s : State) (hok : s.ok) : outOk (execVleSub2 x a d
    ea eb s) := by
  unfold execVleSub2
  grind [State.ok, outOk, intCmp2_ok]

theorem execVleSub3_ok (a : BitVec 7) (d : BitVec 6) (ea : Bool) (s : State) (hok : s.ok) : outOk (execVleSub3 a d ea s)
    := by
  unfold execVleSub3
  grind [State.ok, outOk, intCmp3_ok]

theorem execVselSub0_ok (d a : BitVec 7) (sb : BitVec 6) (ea eb : Bool) (s : State) (hok : s.ok) : outOk (execVselSub0 d
    a sb ea eb s) := by
  unfold execVselSub0
  grind [State.ok, outOk, rawOp_ok]

theorem execVselSub1_ok (d a : BitVec 7) (sb : BitVec 6) (ea eb : Bool) (s : State) (hok : s.ok) : outOk (execVselSub1 d
    a sb ea eb s) := by
  unfold execVselSub1
  grind [State.ok, outOk, rawOp_ok]

theorem execVbcast_ok (d : BitVec 7) (sb : BitVec 6) (eb : Bool) (s : State) (hok : s.ok) : outOk (execVbcast d sb eb s)
    := by
  unfold execVbcast
  grind [State.ok, outOk, rawOp_ok]

theorem execVlid_ok (d : BitVec 7) (ed : Bool) (s : State) (hok : s.ok) : outOk (execVlid d ed s) := by
  unfold execVlid
  grind [State.ok, outOk, rawOp_ok]

theorem execVcvt_ok (d a : BitVec 7) (ea ed : Bool) (s : State) (hok : s.ok) : outOk (execVcvt d a ea ed s) := by
  unfold execVcvt
  grind [State.ok, outOk, vecOp_ok]

theorem regroup_ok (d a b : BitVec 7) (ea eb ed : Bool) (f : Nat → Nat → Nat) (s : State) (hok : s.ok) : outOk (regroup d
    a b ea eb ed f s) := by
  unfold regroup
  grind [State.ok, outOk, vecOp_ok]

theorem execVpack_ok (d a b : BitVec 7) (ea eb ed : Bool) (s : State) (hok : s.ok) : outOk (execVpack d a b ea eb ed s) := by
  unfold execVpack
  grind [State.ok, outOk, regroup_ok]

theorem execVunpack_ok (d a b : BitVec 7) (ea eb ed : Bool) (s : State) (hok : s.ok) : outOk (execVunpack d a b ea eb ed
    s) := by
  unfold execVunpack
  grind [State.ok, outOk, regroup_ok]

theorem execVrand_ok (d : BitVec 7) (ed : Bool) (s : State) (hok : s.ok) : outOk (execVrand d ed s) := by
  unfold execVrand
  grind [State.ok, outOk, issue_ok, vecRun_ok, onDr_ok]

end Sys2Proof.Machine
end

