-- ==== Sys2Proof/Laws/KeepsVecFp.lean ====
section
/-! SUPPORT. The memories keep their canonical form: the operations of Machine/VecFp.lean. -/

set_option Elab.async false

namespace Sys2Proof.Machine

theorem fpOp_ok (us : List Use) (d : Nat) (f : Fenv → Drove → Nat → Nat → Res) (s : State) (hok : s.ok) : outOk (fpOp us
    d f s) := by
  unfold fpOp
  grind [State.ok, outOk, vecOp_ok]

theorem fp3_ok (d a b : BitVec 7) (ea eb ed acc : Bool) (f : Fenv → FV → FV → FV → Res) (s : State) (hok : s.ok) : outOk
    (fp3 d a b ea eb ed acc f s) := by
  unfold fp3
  grind [State.ok, outOk, fpOp_ok]

theorem fp1_ok (d a : BitVec 7) (ea ed : Bool) (f : Fenv → FV → Res) (s : State) (hok : s.ok) : outOk (fp1 d a ea ed f s)
    := by
  unfold fp1
  grind [State.ok, outOk, fpOp_ok]

theorem fpBits_ok (d a : BitVec 7) (ea ed : Bool) (f : Fenv → Nat → Res) (s : State) (hok : s.ok) : outOk (fpBits d a ea
    ed f s) := by
  unfold fpBits
  grind [State.ok, outOk, fpOp_ok]

theorem execFadd_ok (d a b : BitVec 7) (ea eb ed : Bool) (s : State) (hok : s.ok) : outOk (execFadd d a b ea eb ed s) := by
  unfold execFadd
  grind [State.ok, outOk, fp3_ok]

theorem execFsub_ok (d a b : BitVec 7) (ea eb ed : Bool) (s : State) (hok : s.ok) : outOk (execFsub d a b ea eb ed s) := by
  unfold execFsub
  grind [State.ok, outOk, fp3_ok]

theorem execFmul_ok (d a b : BitVec 7) (ea eb ed : Bool) (s : State) (hok : s.ok) : outOk (execFmul d a b ea eb ed s) := by
  unfold execFmul
  grind [State.ok, outOk, fp3_ok]

theorem execFfma_ok (d a b : BitVec 7) (ea eb ed : Bool) (s : State) (hok : s.ok) : outOk (execFfma d a b ea eb ed s) := by
  unfold execFfma
  grind [State.ok, outOk, fp3_ok]

theorem execFfms_ok (d a b : BitVec 7) (ea eb ed : Bool) (s : State) (hok : s.ok) : outOk (execFfms d a b ea eb ed s) := by
  unfold execFfms
  grind [State.ok, outOk, fp3_ok]

theorem execFnma_ok (d a b : BitVec 7) (ea eb ed : Bool) (s : State) (hok : s.ok) : outOk (execFnma d a b ea eb ed s) := by
  unfold execFnma
  grind [State.ok, outOk, fp3_ok]

theorem fpMin3_ok (d a b : BitVec 7) (ea eb ed isMax : Bool) (s : State) (hok : s.ok) : outOk (fpMin3 d a b ea eb ed
    isMax s) := by
  unfold fpMin3
  grind [State.ok, outOk, fpOp_ok]

theorem execFmin_ok (d a b : BitVec 7) (ea eb ed : Bool) (s : State) (hok : s.ok) : outOk (execFmin d a b ea eb ed s) := by
  unfold execFmin
  grind [State.ok, outOk, fpMin3_ok]

theorem execFmax_ok (d a b : BitVec 7) (ea eb ed : Bool) (s : State) (hok : s.ok) : outOk (execFmax d a b ea eb ed s) := by
  unfold execFmax
  grind [State.ok, outOk, fpMin3_ok]

theorem execFabs_ok (d a : BitVec 7) (ea ed : Bool) (s : State) (hok : s.ok) : outOk (execFabs d a ea ed s) := by
  unfold execFabs
  grind [State.ok, outOk, fpBits_ok]

theorem execFneg_ok (d a : BitVec 7) (ea ed : Bool) (s : State) (hok : s.ok) : outOk (execFneg d a ea ed s) := by
  unfold execFneg
  grind [State.ok, outOk, fpBits_ok]

theorem fpCmp2_ok (x a : BitVec 7) (d : BitVec 6) (ea eb quietOk : Bool) (rel : FV → FV → Bool) (s : State) (hok : s.ok)
    : outOk (fpCmp2 x a d ea eb quietOk rel s) := by
  unfold fpCmp2
  grind [State.ok, outOk, cmpOp_ok]

theorem fpCmp3_ok (a : BitVec 7) (d : BitVec 6) (ea quietOk : Bool) (rel : FV → FV → Bool) (s : State) (hok : s.ok) :
    outOk (fpCmp3 a d ea quietOk rel s) := by
  unfold fpCmp3
  grind [State.ok, outOk, cmpOp_ok]

theorem execFeqSub2_ok (x a : BitVec 7) (d : BitVec 6) (ea eb : Bool) (s : State) (hok : s.ok) : outOk (execFeqSub2 x a d
    ea eb s) := by
  unfold execFeqSub2
  grind [State.ok, outOk, fpCmp2_ok]

theorem execFeqSub3_ok (a : BitVec 7) (d : BitVec 6) (ea : Bool) (s : State) (hok : s.ok) : outOk (execFeqSub3 a d ea s)
    := by
  unfold execFeqSub3
  grind [State.ok, outOk, fpCmp3_ok]

theorem execFltSub2_ok (x a : BitVec 7) (d : BitVec 6) (ea eb : Bool) (s : State) (hok : s.ok) : outOk (execFltSub2 x a d
    ea eb s) := by
  unfold execFltSub2
  grind [State.ok, outOk, fpCmp2_ok]

theorem execFltSub3_ok (a : BitVec 7) (d : BitVec 6) (ea : Bool) (s : State) (hok : s.ok) : outOk (execFltSub3 a d ea s)
    := by
  unfold execFltSub3
  grind [State.ok, outOk, fpCmp3_ok]

theorem execFleSub2_ok (x a : BitVec 7) (d : BitVec 6) (ea eb : Bool) (s : State) (hok : s.ok) : outOk (execFleSub2 x a d
    ea eb s) := by
  unfold execFleSub2
  grind [State.ok, outOk, fpCmp2_ok]

theorem execFleSub3_ok (a : BitVec 7) (d : BitVec 6) (ea : Bool) (s : State) (hok : s.ok) : outOk (execFleSub3 a d ea s)
    := by
  unfold execFleSub3
  grind [State.ok, outOk, fpCmp3_ok]

theorem execFunSub2_ok (x a : BitVec 7) (d : BitVec 6) (ea eb : Bool) (s : State) (hok : s.ok) : outOk (execFunSub2 x a d
    ea eb s) := by
  unfold execFunSub2
  grind [State.ok, outOk, fpCmp2_ok]

theorem execFunSub3_ok (a : BitVec 7) (d : BitVec 6) (ea : Bool) (s : State) (hok : s.ok) : outOk (execFunSub3 a d ea s)
    := by
  unfold execFunSub3
  grind [State.ok, outOk, fpCmp3_ok]

theorem execFrcp_ok (d a : BitVec 7) (ea ed : Bool) (s : State) (hok : s.ok) : outOk (execFrcp d a ea ed s) := by
  unfold execFrcp
  grind [State.ok, outOk, fp1_ok]

theorem execFrsq_ok (d a : BitVec 7) (ea ed : Bool) (s : State) (hok : s.ok) : outOk (execFrsq d a ea ed s) := by
  unfold execFrsq
  grind [State.ok, outOk, fp1_ok]

theorem execFsqrt_ok (d a : BitVec 7) (ea ed : Bool) (s : State) (hok : s.ok) : outOk (execFsqrt d a ea ed s) := by
  unfold execFsqrt
  grind [State.ok, outOk, fp1_ok]

theorem execFexp2_ok (d a : BitVec 7) (ea ed : Bool) (s : State) (hok : s.ok) : outOk (execFexp2 d a ea ed s) := by
  unfold execFexp2
  grind [State.ok, outOk, fp1_ok]

theorem execFlog2_ok (d a : BitVec 7) (ea ed : Bool) (s : State) (hok : s.ok) : outOk (execFlog2 d a ea ed s) := by
  unfold execFlog2
  grind [State.ok, outOk, fp1_ok]

theorem execFsin_ok (d a : BitVec 7) (ea ed : Bool) (s : State) (hok : s.ok) : outOk (execFsin d a ea ed s) := by
  unfold execFsin
  grind [State.ok, outOk, fp1_ok]

theorem execFcos_ok (d a : BitVec 7) (ea ed : Bool) (s : State) (hok : s.ok) : outOk (execFcos d a ea ed s) := by
  unfold execFcos
  grind [State.ok, outOk, fp1_ok]

theorem execFround_ok (d a : BitVec 7) (ea ed : Bool) (s : State) (hok : s.ok) : outOk (execFround d a ea ed s) := by
  unfold execFround
  grind [State.ok, outOk, fpBits_ok]

theorem cvtOp_ok (d a : BitVec 7) (ea ed : Bool) (ok : Nat → Nat → Bool) (f : Drove → Nat → Nat → Nat → ElemOut) (s :
    State) (hok : s.ok) : outOk (cvtOp d a ea ed ok f s) := by
  unfold cvtOp
  grind [State.ok, outOk, vecOp_ok]

theorem execFcvt_ok (d a : BitVec 7) (ea ed : Bool) (s : State) (hok : s.ok) : outOk (execFcvt d a ea ed s) := by
  unfold execFcvt
  grind [State.ok, outOk, cvtOp_ok]

theorem execFcvti_ok (d a : BitVec 7) (ea ed : Bool) (s : State) (hok : s.ok) : outOk (execFcvti d a ea ed s) := by
  unfold execFcvti
  grind [State.ok, outOk, cvtOp_ok]

theorem execFicvt_ok (d a : BitVec 7) (ea ed : Bool) (s : State) (hok : s.ok) : outOk (execFicvt d a ea ed s) := by
  unfold execFicvt
  grind [State.ok, outOk, cvtOp_ok]

theorem execFscale_ok (d a b : BitVec 7) (ea eb ed : Bool) (s : State) (hok : s.ok) : outOk (execFscale d a b ea eb ed s)
    := by
  unfold execFscale
  grind [State.ok, outOk, fpOp_ok]

theorem execFgetexp_ok (d a : BitVec 7) (ea ed : Bool) (s : State) (hok : s.ok) : outOk (execFgetexp d a ea ed s) := by
  unfold execFgetexp
  grind [State.ok, outOk, fp1_ok]

theorem execFgetman_ok (d a : BitVec 7) (ea ed : Bool) (s : State) (hok : s.ok) : outOk (execFgetman d a ea ed s) := by
  unfold execFgetman
  grind [State.ok, outOk, fp1_ok]

theorem execFclass_ok (d a : BitVec 7) (ea ed : Bool) (s : State) (hok : s.ok) : outOk (execFclass d a ea ed s) := by
  unfold execFclass
  grind [State.ok, outOk, fpBits_ok]

end Sys2Proof.Machine
end

