-- ==== Sys2Proof/Laws/KeepsEft.lean ====
section
/-! SUPPORT. The memories keep their canonical form: the operations of Machine/Eft.lean. -/

set_option Elab.async false

namespace Sys2Proof.Machine

theorem exp3_ok (d a b : BitVec 7) (ea eb ed acc : Bool) (slots : Nat) (f : Fenv → Nat → List FV → List FV → List FV →
    List Nat × Fl) (s : State) (hok : s.ok) : outOk (exp3 d a b ea eb ed acc slots f s) := by
  unfold exp3
  grind [State.ok, outOk, vecOp_ok]

theorem execXadd_ok (d a b : BitVec 7) (ea eb ed : Bool) (s : State) (hok : s.ok) : outOk (execXadd d a b ea eb ed s) := by
  unfold execXadd
  grind [State.ok, outOk, exp3_ok]

theorem execXsub_ok (d a b : BitVec 7) (ea eb ed : Bool) (s : State) (hok : s.ok) : outOk (execXsub d a b ea eb ed s) := by
  unfold execXsub
  grind [State.ok, outOk, exp3_ok]

theorem execXmul_ok (d a b : BitVec 7) (ea eb ed : Bool) (s : State) (hok : s.ok) : outOk (execXmul d a b ea eb ed s) := by
  unfold execXmul
  grind [State.ok, outOk, exp3_ok]

theorem execXfma_ok (d a b : BitVec 7) (ea eb ed : Bool) (s : State) (hok : s.ok) : outOk (execXfma d a b ea eb ed s) := by
  unfold execXfma
  grind [State.ok, outOk, exp3_ok]

theorem exp2_ok (d a : BitVec 7) (ea ed : Bool) (k : Nat → Nat) (ok : Bool) (f : Fenv → Nat → List FV → List Nat × Fl) (s
    : State) (hok : s.ok) : outOk (exp2 d a ea ed k ok f s) := by
  unfold exp2
  grind [State.ok, outOk, vecOp_ok]

theorem execXrenorm_ok (d a : BitVec 7) (ea ed : Bool) (s : State) (hok : s.ok) : outOk (execXrenorm d a ea ed s) := by
  unfold execXrenorm
  grind [State.ok, outOk, exp2_ok]

theorem execXcompress_ok (d a : BitVec 7) (ea ed : Bool) (s : State) (hok : s.ok) : outOk (execXcompress d a ea ed s) := by
  unfold execXcompress
  grind [State.ok, outOk, exp2_ok]

theorem execXtop_ok (d a : BitVec 7) (ea ed : Bool) (s : State) (hok : s.ok) : outOk (execXtop d a ea ed s) := by
  unfold execXtop
  grind [State.ok, outOk, exp2_ok]

theorem execXbound_ok (d a : BitVec 7) (ea ed : Bool) (s : State) (hok : s.ok) : outOk (execXbound d a ea ed s) := by
  unfold execXbound
  grind [State.ok, outOk, exp2_ok]

theorem eftOp_ok (us : List Use) (d k slots : Nat) (f : Fenv → Drove → Nat → Nat → List Nat × Fl) (s : State) (hok :
    s.ok) : outOk (eftOp us d k slots f s) := by
  unfold eftOp
  grind [State.ok, outOk, vecOp_ok]

theorem execTwosum_ok (d a b : BitVec 7) (ea eb ed : Bool) (s : State) (hok : s.ok) : outOk (execTwosum d a b ea eb ed s)
    := by
  unfold execTwosum
  grind [State.ok, outOk, eftOp_ok]

theorem execTwoprod_ok (d a b : BitVec 7) (ea eb ed : Bool) (s : State) (hok : s.ok) : outOk (execTwoprod d a b ea eb ed
    s) := by
  unfold execTwoprod
  grind [State.ok, outOk, eftOp_ok]

theorem execFtwosum_ok (d a b : BitVec 7) (ea eb ed : Bool) (s : State) (hok : s.ok) : outOk (execFtwosum d a b ea eb ed
    s) := by
  unfold execFtwosum
  grind [State.ok, outOk, eftOp_ok]

theorem execFmaerr_ok (d a b : BitVec 7) (ea eb ed : Bool) (s : State) (hok : s.ok) : outOk (execFmaerr d a b ea eb ed s)
    := by
  unfold execFmaerr
  grind [State.ok, outOk, eftOp_ok]

theorem signOp_ok (d a : BitVec 7) (ea ed : Bool) (f : Fmt → Nat → Nat → Nat) (s : State) (hok : s.ok) : outOk (signOp d
    a ea ed f s) := by
  unfold signOp
  grind [State.ok, outOk, vecOp_ok]

theorem execXneg_ok (d a : BitVec 7) (ea ed : Bool) (s : State) (hok : s.ok) : outOk (execXneg d a ea ed s) := by
  unfold execXneg
  grind [State.ok, outOk, signOp_ok]

theorem execXabs_ok (d a : BitVec 7) (ea ed : Bool) (s : State) (hok : s.ok) : outOk (execXabs d a ea ed s) := by
  unfold execXabs
  grind [State.ok, outOk, signOp_ok]

theorem execXsplit_ok (d a : BitVec 7) (ea ed : Bool) (s : State) (hok : s.ok) : outOk (execXsplit d a ea ed s) := by
  unfold execXsplit
  grind [State.ok, outOk, eftOp_ok]

theorem expCmp_ok (us : List Use) (d : Nat) (quietOk : Bool) (rel : FV → FV → Bool) (drel : Dy → Dy → Bool) (x y : Drove
    → Nat → Nat → List FV) (s : State) (hok : s.ok) : outOk (expCmp us d quietOk rel drel x y s) := by
  unfold expCmp
  grind [State.ok, outOk, foldl_ok, cmpOp_ok]

theorem expCmp2_ok (x a : BitVec 7) (d : BitVec 6) (ea eb quietOk : Bool) (rel : FV → FV → Bool) (drel : Dy → Dy → Bool)
    (s : State) (hok : s.ok) : outOk (expCmp2 x a d ea eb quietOk rel drel s) := by
  unfold expCmp2
  grind [State.ok, outOk, expCmp_ok]

theorem expCmp3_ok (a : BitVec 7) (d : BitVec 6) (ea quietOk : Bool) (rel : FV → FV → Bool) (drel : Dy → Dy → Bool) (s :
    State) (hok : s.ok) : outOk (expCmp3 a d ea quietOk rel drel s) := by
  unfold expCmp3
  grind [State.ok, outOk, expCmp_ok]

theorem execXeqSub2_ok (x a : BitVec 7) (d : BitVec 6) (ea eb : Bool) (s : State) (hok : s.ok) : outOk (execXeqSub2 x a d
    ea eb s) := by
  unfold execXeqSub2
  grind [State.ok, outOk, expCmp2_ok]

theorem execXeqSub3_ok (a : BitVec 7) (d : BitVec 6) (ea : Bool) (s : State) (hok : s.ok) : outOk (execXeqSub3 a d ea s)
    := by
  unfold execXeqSub3
  grind [State.ok, outOk, expCmp3_ok]

theorem execXltSub2_ok (x a : BitVec 7) (d : BitVec 6) (ea eb : Bool) (s : State) (hok : s.ok) : outOk (execXltSub2 x a d
    ea eb s) := by
  unfold execXltSub2
  grind [State.ok, outOk, expCmp2_ok]

theorem execXltSub3_ok (a : BitVec 7) (d : BitVec 6) (ea : Bool) (s : State) (hok : s.ok) : outOk (execXltSub3 a d ea s)
    := by
  unfold execXltSub3
  grind [State.ok, outOk, expCmp3_ok]

theorem execXleSub2_ok (x a : BitVec 7) (d : BitVec 6) (ea eb : Bool) (s : State) (hok : s.ok) : outOk (execXleSub2 x a d
    ea eb s) := by
  unfold execXleSub2
  grind [State.ok, outOk, expCmp2_ok]

theorem execXleSub3_ok (a : BitVec 7) (d : BitVec 6) (ea : Bool) (s : State) (hok : s.ok) : outOk (execXleSub3 a d ea s)
    := by
  unfold execXleSub3
  grind [State.ok, outOk, expCmp3_ok]

theorem execXcvt_ok (d a code : BitVec 7) (ea ed : Bool) (s : State) (hok : s.ok) : outOk (execXcvt d a code ea ed s) := by
  unfold execXcvt
  grind [State.ok, outOk, vecOp_ok]

end Sys2Proof.Machine
end

