-- ==== Sys2Proof/Laws/KeepsFetch.lean ====
section
/-! SUPPORT. The memories keep their canonical form: the operations of Machine/Fetch.lean. -/

set_option Elab.async false

namespace Sys2Proof.Machine

theorem dropI_ok (s : State) (x : ILine) (hok : s.ok) : (dropI s x).ok := by
  unfold dropI
  grind [State.ok, outOk, onCore_ok]

theorem fillI_ok (s : State) (x : ILine) (hok : s.ok) : (fillI s x).ok := by
  unfold fillI
  grind [State.ok, outOk, dropI_ok, draw_ok, onCore_ok]

theorem loadI_ok (s : State) (va : Nat) (l : Leaf) (hok : s.ok) : (loadI s va l).2.ok := by
  unfold loadI
  grind [State.ok, outOk, pastureAccess_ok, fillI_ok]

theorem prefetchI_ok (n : Nat) (s : State) (hok : s.ok) : (prefetchI n s).ok := by
  induction n generalizing s with
  | zero => exact hok
  | succ n ih =>
    unfold prefetchI
    dsimp only
    repeat' split
    all_goals grind [draw_ok, dieAccess_ok, loadI_ok]

theorem fetchMiss_ok (s : State) (va : Nat) (hok : s.ok) : (fetchMiss s va).2.ok := by
  unfold fetchMiss
  dsimp only
  repeat' split
  all_goals grind [State.ok, outOk, dieAccess_ok, park_ok, loadI_ok, prefetchI_ok]

theorem refetch_ok (s : State) (x : ILine) (va : Nat) (hok : s.ok) : (refetch s x va).2.ok := by
  unfold refetch
  grind [State.ok, outOk, draw_ok, fetchMiss_ok, dropI_ok]

theorem fetchAt_ok (s : State) (va : Nat) (hok : s.ok) : (fetchAt s va).2.ok := by
  unfold fetchAt
  grind [State.ok, outOk, park_ok, fetchMiss_ok, dieAccess_ok, refetch_ok]

theorem nextInstr_ok (s : State) (hok : s.ok) : (nextInstr s).2.ok := by
  unfold nextInstr
  grind [State.ok, outOk, fetchAt_ok, park_ok]

theorem execIllegalWord_ok (w : BitVec 32) (s : State) (hok : s.ok) : outOk (execIllegalWord w s) := by
  unfold execIllegalWord
  grind [State.ok, outOk, stopHere_ok, stopIssue_ok]

theorem execInstructionFetchFault_ok (cause : BitVec 8) (s : State) (hok : s.ok) : outOk (execInstructionFetchFault cause
    s) := by
  unfold execInstructionFetchFault
  grind [State.ok, outOk, stopHere_ok, countRecord_ok, park_ok, onDr_ok]

theorem breakStop_ok (s : State) (n : Nat) (hok : s.ok) : (breakStop s n).ok := by
  unfold breakStop
  grind [State.ok, outOk, stopHere_ok]

end Sys2Proof.Machine
end

