-- ==== Sys2Proof/Laws/KeepsAdmit.lean ====
section
/-! SUPPORT. The memories keep their canonical form: the operations of Machine/Admit.lean. -/

set_option Elab.async false

namespace Sys2Proof.Machine

theorem bootCells_wf : mapWf 0 0 bootCells = true := by decide +kernel

theorem bootCells_below : ∀ x ∈ bootCells, x.1 < 0x4000000 := by decide +kernel

theorem bootContext_ok (s : State) (h : s.ok) : (bootContext s).ok := by
  have := onHbm_ok s (fun m => bootCells ++ m.filter fun x => decide (0x4000000 ≤ x.1)) h
    (mapWf_append bootCells_wf bootCells_below (by omega) (mapWf_from (hbm_ok h)))
  unfold bootContext
  grind [State.ok, onHbm_ok]

theorem placed_ok (s : State) (hok : s.ok) : (placed s).ok := by
  have := onHbm_ok (bootContext s) (fun m => memSet m 0x14011 0x0A) (bootContext_ok s hok)
    (memSet_wf _ _ (hbm_ok (bootContext_ok s hok)))
  unfold placed
  grind [State.ok, onHbm_ok, bootContext_ok]

end Sys2Proof.Machine
end

