-- ==== Sys2Proof/Laws/KeepsLane.lean ====
section
/-! SUPPORT. The memories keep their canonical form: the operations of Machine/Lane.lean. -/

set_option Elab.async false

namespace Sys2Proof.Machine

theorem quadOp_ok (d a : BitVec 7) (ea ed bad : Bool) (p : Nat → Nat) (s : State) (hok : s.ok) : outOk (quadOp d a ea ed
    bad p s) := by
  unfold quadOp
  grind [State.ok, outOk, vecOp_ok]

theorem execQswh_ok (d a : BitVec 7) (ea ed : Bool) (s : State) (hok : s.ok) : outOk (execQswh d a ea ed s) := by
  unfold execQswh
  grind [State.ok, outOk, quadOp_ok]

theorem execQswv_ok (d a : BitVec 7) (ea ed : Bool) (s : State) (hok : s.ok) : outOk (execQswv d a ea ed s) := by
  unfold execQswv
  grind [State.ok, outOk, quadOp_ok]

theorem execQswd_ok (d a : BitVec 7) (ea ed : Bool) (s : State) (hok : s.ok) : outOk (execQswd d a ea ed s) := by
  unfold execQswd
  grind [State.ok, outOk, quadOp_ok]

theorem execQbc_ok (d a n : BitVec 7) (ea ed : Bool) (s : State) (hok : s.ok) : outOk (execQbc d a n ea ed s) := by
  unfold execQbc
  grind [State.ok, outOk, quadOp_ok]

theorem quadDiff_ok (d a : BitVec 7) (ea ed : Bool) (p q : Nat → Nat) (s : State) (hok : s.ok) : outOk (quadDiff d a ea
    ed p q s) := by
  unfold quadDiff
  grind [State.ok, outOk, fpOp_ok]

theorem execQddx_ok (d a : BitVec 7) (ea ed : Bool) (s : State) (hok : s.ok) : outOk (execQddx d a ea ed s) := by
  unfold execQddx
  grind [State.ok, outOk, quadDiff_ok]

theorem execQddy_ok (d a : BitVec 7) (ea ed : Bool) (s : State) (hok : s.ok) : outOk (execQddy d a ea ed s) := by
  unfold execQddy
  grind [State.ok, outOk, quadDiff_ok]

theorem helpedWord_ok (s : State) (hok : s.ok) : (helpedWord s).2.ok := by
  unfold helpedWord
  grind [State.ok, outOk, fetchAt_ok]

theorem execQhelp_ok (s : State) (hok : s.ok) : outOk (execQhelp s) := by
  unfold execQhelp
  grind [State.ok, outOk, helpedWord_ok, stopHere_ok, park_ok, onDr_ok, stopIssue_ok]

theorem laneIssue_ok (c : Chk) (dyn : State → Verdict) (s : State) (run : Drove → Drove) (hok : s.ok) : outOk (laneIssue
    c dyn s run) := by
  unfold laneIssue
  grind [State.ok, outOk, issueIf_ok, retire_ok, onDr_ok]

theorem moveLanes_ok (us : List Use) (d a : Nat) (src : Drove → Nat → Nat) (s : State) (hok : s.ok) : outOk (moveLanes us
    d a src s) := by
  unfold moveLanes
  grind [State.ok, outOk, laneIssue_ok]

theorem execLshuf_ok (d a b : BitVec 7) (ea eb ed : Bool) (s : State) (hok : s.ok) : outOk (execLshuf d a b ea eb ed s) := by
  unfold execLshuf
  grind [State.ok, outOk, moveLanes_ok]

theorem execLrot_ok (d a b : BitVec 7) (ea eb ed : Bool) (s : State) (hok : s.ok) : outOk (execLrot d a b ea eb ed s) := by
  unfold execLrot
  grind [State.ok, outOk, moveLanes_ok]

theorem execLexpand_ok (d a : BitVec 7) (ea ed : Bool) (s : State) (hok : s.ok) : outOk (execLexpand d a ea ed s) := by
  unfold execLexpand
  grind [State.ok, outOk, moveLanes_ok]

theorem execLcompress_ok (d a : BitVec 7) (ea ed : Bool) (s : State) (hok : s.ok) : outOk (execLcompress d a ea ed s) := by
  unfold execLcompress
  grind [State.ok, outOk, laneIssue_ok]

theorem execLfirst_ok (a : BitVec 7) (d : BitVec 6) (ea : Bool) (s : State) (hok : s.ok) : outOk (execLfirst a d ea s) := by
  unfold execLfirst
  grind [State.ok, outOk, laneIssue_ok]

theorem execLballot_ok (a : BitVec 7) (d : BitVec 6) (ea : Bool) (s : State) (hok : s.ok) : outOk (execLballot a d ea s)
    := by
  unfold execLballot
  grind [State.ok, outOk, laneIssue_ok]

theorem execLscan_ok (d a c : BitVec 7) (ea ed : Bool) (s : State) (hok : s.ok) : outOk (execLscan d a c ea ed s) := by
  unfold execLscan
  grind [State.ok, outOk, laneIssue_ok]

theorem execLred_ok (d a c : BitVec 7) (ea ed : Bool) (s : State) (hok : s.ok) : outOk (execLred d a c ea ed s) := by
  unfold execLred
  grind [State.ok, outOk, foldl_ok, laneIssue_ok]

end Sys2Proof.Machine
end

