-- ==== Sys2Proof/Laws/KeepsL1.lean ====
section
/-! SUPPORT. The memories keep their canonical form: the operations of Machine/L1.lean. -/

set_option Elab.async false

namespace Sys2Proof.Machine

theorem pastureWriteBack_ok (s : State) (l : L1Line) (hok : s.ok) : (pastureWriteBack s l).ok := by
  unfold pastureWriteBack
  grind [State.ok, outOk, pastureAccess_ok]

theorem mergeBack_ok (s : State) (l : L1Line) (hok : s.ok) : (mergeBack s l).ok := by
  unfold mergeBack
  refine pastureWriteBack_ok _ _ ?_
  split
  · exact onHbm_ok _ _ hok (mergeLine_wf _ _ (hbm_ok hok))
  · have h := takeWrite_ok s l.dpa (BitVec.allOnes 32) true (some (dieOfCore l.core)) hok
    exact onHbm_ok _ _ h (mergeLine_wf _ _ (hbm_ok h))

theorem toIdle_ok (s : State) (g : Nat) (hok : s.ok) : (toIdle s g).ok := by
  unfold toIdle
  grind [State.ok, outOk, setDir_ok]

theorem leaveL1_ok (s : State) (l : L1Line) (hok : s.ok) : (leaveL1 s l).ok := by
  unfold leaveL1
  grind [State.ok, outOk, toIdle_ok, mergeBack_ok, dropL1_ok]

theorem cleanCopy_ok (s : State) (l : L1Line) (hok : s.ok) : (cleanCopy s l).ok := by
  unfold cleanCopy
  grind [State.ok, outOk, mapL1_ok]

theorem takeReadOf_ok (s : State) (g : Nat) (nc : Bool) (hok : s.ok) : (takeReadOf s g nc).ok := by
  unfold takeReadOf
  have := hbmMerge_ok s (dirOf s g).hostDirty hok
  dsimp only
  repeat' split
  all_goals grind [State.ok, setDir_ok, cleanCopy_ok, mergeBack_ok, meetBusy_ok]

theorem takeRead_ok (s : State) (a n : Nat) (nc : Bool) (hok : s.ok) : (takeRead s a n nc).ok := by
  unfold takeRead
  grind [State.ok, outOk, foldl_ok, takeReadOf_ok]

theorem evictL1_ok (s : State) (l : L1Line) (hok : s.ok) : (evictL1 s l).ok := by
  unfold evictL1
  grind [State.ok, outOk, leaveL1_ok, mapL1_ok]

theorem makeL1Way_ok (s : State) (core va : Nat) (hok : s.ok) : (makeL1Way s core va).2.ok := by
  unfold makeL1Way
  grind [State.ok, outOk, evictL1_ok, mapL1_ok]

theorem fillL1_ok (s : State) (l : L1Line) (hok : s.ok) : (fillL1 s l).ok := by
  unfold fillL1
  grind [State.ok, outOk, mapL1_ok, makeL1Way_ok, dropL1_ok]

theorem unstack_ok (s : State) (l : L1Line) (hok : s.ok) : (unstack s l).ok := by
  unfold unstack
  grind [State.ok, outOk, makeL1Way_ok, mapL1_ok]

theorem epochSweep_ok (s : State) (core : Nat) (hok : s.ok) : (epochSweep s core).ok := by
  unfold epochSweep
  grind [State.ok, outOk, onCore_ok, dropL1_ok]

theorem acquireDrop_ok (s : State) (hok : s.ok) : (acquireDrop s).ok := by
  unfold acquireDrop
  grind [State.ok, outOk, epochSweep_ok]

theorem admissionDrop_ok (s : State) (core : Nat) (hok : s.ok) : (admissionDrop s core).ok := by
  unfold admissionDrop
  grind [State.ok, outOk, epochSweep_ok, dropL1_ok]

theorem wakeL1_ok (s : State) (core : Nat) (hok : s.ok) : (wakeL1 s core).ok := by
  unfold wakeL1
  grind [State.ok, outOk, dropL1_ok, onCore_ok]

theorem vwbLine_ok (s : State) (l : L1Line) (hok : s.ok) : (vwbLine s l).ok := by
  unfold vwbLine
  grind [State.ok, outOk, mergeBack_ok, setDir_ok, mapL1_ok]

end Sys2Proof.Machine
end

