-- ==== Sys2Proof/Laws/KeepsBlockFormat.lean ====
section
/-! SUPPORT. The memories keep their canonical form: the operations of Machine/BlockFormat.lean. -/

set_option Elab.async false

namespace Sys2Proof.Machine

theorem countLane16_ok (s : State) (reg die : Nat) (hok : s.ok) : (countLane16 s reg die).ok := by
  unfold countLane16
  grind [State.ok, outOk, setPriv_ok]

theorem countMismatch_ok (s : State) (die : Nat) (x : BxElem) (hok : s.ok) : (countMismatch s die x).ok := by
  cases x <;> first | exact countLane16_ok s 0x8D die hok | exact hok

theorem takeBlock_ok (s : State) (f : Frame) (ps : List (Nat × Nat)) (hok : s.ok) : (takeBlock s f ps).ok := by
  unfold takeBlock
  grind [State.ok, outOk, foldl_ok, takeGranule_ok]

theorem rawWrite_ok (s : State) (a n x : Nat) (hok : s.ok) : (rawWrite s a n x).ok := by
  exact hbmWrite_ok _ _ _ _ hok

theorem writeBlock_ok (s : State) (f : Frame) (n : Nat) (b : BxBlock) (hok : s.ok) : (writeBlock s f n b).ok := by
  unfold writeBlock
  grind [State.ok, outOk, foldl_ok, takeBlock_ok, rawWrite_ok, countLane16_ok]

end Sys2Proof.Machine
end

