-- ==== Sys2Proof/Laws/KeepsDirectory.lean ====
section
/-! SUPPORT. The memories keep their canonical form: the operations of Machine/Directory.lean. -/

set_option Elab.async false

namespace Sys2Proof.Machine

theorem onReq_ok (s : State) (r : Nat) (f : Req → Req) (hok : s.ok) : (onReq s r f).ok := by
  unfold onReq
  grind [State.ok, outOk]

theorem dropReq_ok (s : State) (r : Nat) (hok : s.ok) : (dropReq s r).ok := by
  unfold dropReq
  grind [State.ok, outOk]

theorem onAcc_ok (s : State) (r j : Nat) (f : Acc → Acc) (hok : s.ok) : (onAcc s r j f).ok := by
  unfold onAcc
  grind [State.ok, outOk, onReq_ok]

theorem enterT_ok (s : State) (e : DirEntry) (p : Party) (w : Want) (ms : List Msg) (cause : Option Asker) (hok : s.ok) :
    (enterT s e p w ms cause).ok := by
  unfold enterT
  grind [State.ok, outOk, countDie_ok, setDir_ok]

theorem sfEvict_ok (s : State) (g : Nat) (hok : s.ok) : (sfEvict s g).ok := by
  unfold sfEvict
  grind [State.ok, outOk, countDie_ok, enterT_ok, clearAges_ok]

theorem giveWay_ok (s : State) (g way : Nat) (hok : s.ok) : (giveWay s g way).ok := by
  unfold giveWay
  grind [State.ok, outOk, setDir_ok]

theorem ageOf_ok (s : State) (a : Asker) (hok : s.ok) : (ageOf s a).2.ok := by
  unfold ageOf
  grind [State.ok, outOk, newId_ok, onAcc_ok]

theorem refuseHost_ok (s : State) (a : Asker) (hok : s.ok) : (refuseHost s a).ok := by
  unfold refuseHost
  grind [State.ok, outOk]

theorem clearDir_ok (s : State) (hok : s.ok) : (clearDir s).ok := by
  unfold clearDir
  grind [State.ok, outOk, foldl_ok, refuseHost_ok]

theorem enqueue_ok (s : State) (g : Nat) (a : Asker) (hok : s.ok) : (enqueue s g a).ok := by
  unfold enqueue
  grind [State.ok, outOk, ageOf_ok, refuseHost_ok, setDir_ok]

theorem putDir_ok (s : State) (e : DirEntry) (hok : s.ok) : (putDir s e).ok := by
  unfold putDir
  grind [State.ok, outOk]

theorem placeEntry_ok (s : State) (g : Nat) (hok : s.ok) : (placeEntry s g).ok := by
  unfold placeEntry
  grind [State.ok, outOk, setDir_ok, seatEntry_ok]

theorem takeNow_ok (s : State) (g : Nat) (a : Asker) (p : Party) (w : Want) (settled : Bool) (apply : State → State) (hok
    : s.ok) (happly : ∀ s : State, s.ok → (apply s).ok) : (takeNow s g a p w settled apply).ok := by
  unfold takeNow
  grind [State.ok, outOk, enterT_ok, sfEvict_ok, putDir_ok, enqueue_ok, placeEntry_ok]

theorem arrive_ok (s : State) (g : Nat) (a : Asker) (p : Party) (w : Want) (apply : State → State) (hok : s.ok) (happly :
    ∀ s : State, s.ok → (apply s).ok) : (arrive s g a p w apply).ok := by
  unfold arrive
  grind [State.ok, outOk, takeNow_ok, enqueue_ok]

theorem ackDir_ok (s : State) (e : DirEntry) (m : Msg) (f : DirEntry → DirEntry) (hok : s.ok) : (ackDir s e m f).ok := by
  unfold ackDir
  grind [State.ok, outOk, setDir_ok]

theorem hostReturn_ok (s : State) (e : DirEntry) (m : BitVec 32) (hok : s.ok) : (hostReturn s e m).ok := by
  exact onHbm_ok _ _ hok (mergeBytes_wf _ (hbm_ok hok))

theorem ackRecallShared_ok (s : State) (e : DirEntry) (hok : s.ok) : (ackRecallShared s e).ok := by
  unfold ackRecallShared
  grind [State.ok, outOk, ackDir_ok, hostReturn_ok, cleanCopy_ok, mergeBack_ok]

theorem ackRecall_ok (s : State) (e : DirEntry) (hok : s.ok) : (ackRecall s e).ok := by
  unfold ackRecall
  grind [State.ok, outOk, ackDir_ok, hostReturn_ok, mergeBack_ok, cleanCopy_ok, dropL1_ok]

theorem ackClaim_ok (s : State) (e : DirEntry) (m : BitVec 32) (hok : s.ok) : (ackClaim s e m).ok := by
  unfold ackClaim
  dsimp only
  split
  · exact ackDir_ok _ _ _ _ (hostReturn_ok _ _ _ hok)
  · split
    · exact ackDir_ok _ _ _ _ (mapL1_ok _ _ _ (onHbm_ok _ _ hok (mergeLine_wf _ _ (hbm_ok hok))))
    · exact ackDir_ok _ _ _ _ hok

theorem ackInvalidate_ok (s : State) (e : DirEntry) (h : Nat) (hok : s.ok) : (ackInvalidate s e h).ok := by
  unfold ackInvalidate
  grind [State.ok, outOk, ackDir_ok, dropL1_ok, dropReplicas_ok]

theorem ackMsg_ok (s : State) (g : Nat) (m : Msg) (hok : s.ok) : (ackMsg s g m).ok := by
  unfold ackMsg
  grind [State.ok, outOk, ackRecallShared_ok, ackRecall_ok, ackClaim_ok, ackInvalidate_ok, ackDir_ok]

theorem leaveT_ok (s : State) (g : Nat) (hok : s.ok) : (leaveT s g).2.ok := by
  unfold leaveT
  grind [State.ok, outOk, putDir_ok]

end Sys2Proof.Machine
end

