-- ==== Sys2Proof/Laws/KeepsAccess.lean ====
section
/-! SUPPORT. The memories keep their canonical form: the operations of Machine/Access.lean. -/

set_option Elab.async false

namespace Sys2Proof.Machine

theorem finishAcc_ok (s : State) (q : Req) (j : Nat) (a : Acc) (bs : List Byte) (hok : s.ok) : (finishAcc s q j a bs).ok
    := by
  unfold finishAcc
  grind [State.ok, outOk, onAcc_ok]

theorem hitAcc_ok (s : State) (q : Req) (j : Nat) (a : Acc) (l : L1Line) (hok : s.ok) : (hitAcc s q j a l).ok := by
  unfold hitAcc
  grind [State.ok, outOk, mapL1_ok, unstack_ok, finishAcc_ok]

theorem refreshCopy_ok (s : State) (core g off : Nat) (bs : List Byte) (hok : s.ok) : (refreshCopy s core g off bs).ok := by
  unfold refreshCopy
  grind [State.ok, outOk, mapL1_ok]

theorem accPasture_ok (s : State) (q : Req) (a : Acc) (write : Bool) (hok : s.ok) : (accPasture s q a write).ok := by
  unfold accPasture
  grind [State.ok, outOk, pastureAccess_ok]

theorem homeLoad_ok (s : State) (q : Req) (j : Nat) (a : Acc) (w : Want) (hok : s.ok) : (homeLoad s q j a w).ok := by
  unfold homeLoad
  grind [State.ok, outOk, accPasture_ok, setDir_ok, fillL1_ok, refreshCopy_ok, finishAcc_ok]

theorem applyLoad_ok (s : State) (q : Req) (j : Nat) (a : Acc) (w : Want) (hok : s.ok) : (applyLoad s q j a w).ok := by
  unfold applyLoad
  grind [State.ok, outOk, accPasture_ok, setDir_ok, fillL1_ok, refreshCopy_ok, finishAcc_ok, hitAcc_ok, homeLoad_ok]

theorem takeOwnership_ok (s : State) (g c : Nat) (hok : s.ok) : (takeOwnership s g c).ok := by
  unfold takeOwnership
  grind [State.ok, outOk, setDir_ok, dropReplicas_ok]

theorem ownerPut_ok (s : State) (l : L1Line) (off : Nat) (bs : List Byte) (hok : s.ok) : (ownerPut s l off bs).ok := by
  refine foldl_ok _ ?_ _ _ hok
  intro s x h
  dsimp only
  split
  · exact hbmSet_ok _ _ _ h
  · exact mapL1_ok _ _ _ h

theorem homePutOwn_ok (s : State) (core dpa : Nat) (bs : List Byte) (hok : s.ok) : (homePutOwn s core dpa bs).ok := by
  exact mapL1_ok _ _ _ (hbmPut_ok _ _ _ hok)

theorem applyStore_ok (s : State) (q : Req) (j : Nat) (a : Acc) (w : Want) (hok : s.ok) : (applyStore s q j a w).ok := by
  unfold applyStore
  dsimp only
  refine onAcc_ok _ _ _ _ ?_
  split
  · have h : (if wordMask (a.dpa % 128) a.size &&& (dirOf s (granOf a.dpa)).wmask = 0 then s else accPasture s q a
    true).ok := by
      split
      · exact hok
      · exact accPasture_ok _ _ _ _ hok
    split
    · exact ownerPut_ok _ _ _ _ h
    · exact hbmPut_ok _ _ _ h
  · grind [State.ok, accPasture_ok, fillL1_ok, takeOwnership_ok, mapL1_ok, homePutOwn_ok]

theorem applyPref_ok (s : State) (q : Req) (j : Nat) (a : Acc) (w : Want) (hok : s.ok) : (applyPref s q j a w).ok := by
  unfold applyPref
  grind [State.ok, outOk, accPasture_ok, takeOwnership_ok, fillL1_ok, setDir_ok, onAcc_ok]

theorem l1Store_ok (s : State) (q : Req) (j : Nat) (a : Acc) (t : State) (e : l1Store s q j a = some t) (hok : s.ok) :
    t.ok := by
  unfold l1Store at e
  grind [State.ok, outOk, mapL1_ok, unstack_ok, onAcc_ok]

end Sys2Proof.Machine
end

