-- ==== Sys2Proof/Laws/KeepsMemory.lean ====
section
/-! SUPPORT. The memories keep their canonical form: the operations of Machine/Memory.lean. -/

set_option Elab.async false

namespace Sys2Proof.Machine

theorem post_ok (s : State) (q : Req) (hok : s.ok) : (post s q).ok := by
  unfold post
  grind [State.ok, outOk]

theorem takeTurn_ok (s : State) (q : Req) (hok : s.ok) : (takeTurn s q).1.ok := by
  unfold takeTurn
  grind [State.ok, outOk, onRange_ok]

theorem vecLoad_ok (kind : ReqKind) (vt sb va sz : Nat) (addr : Drove → Nat → Nat) (fault : Drove → Nat → CoreFault)
    (accs : Drove → Nat → List (Nat × Nat × Nat)) (s : State) (priv : Bool) (hok : s.ok) : outOk (vecLoad kind vt sb va
    sz addr fault accs s priv) := by
  unfold vecLoad
  grind [State.ok, outOk, issueIf_ok, retire_ok, post_ok, onDr_ok]

theorem loadOp_ok (p : Policy) (vt : BitVec 7) (sb : BitVec 6) (va : BitVec 7) (sz : BitVec 2) (ex sc : Bool) (s : State)
    (hok : s.ok) : outOk (loadOp p vt sb va sz ex sc s) := by
  unfold loadOp
  grind [State.ok, outOk, vecLoad_ok]

theorem execLdO_ok (vt : BitVec 7) (sb : BitVec 6) (va : BitVec 7) (sz : BitVec 2) (ex sc : Bool) (s : State) (hok :
    s.ok) : outOk (execLdO vt sb va sz ex sc s) := by
  unfold execLdO
  grind [State.ok, outOk, loadOp_ok]

theorem execLdW_ok (vt : BitVec 7) (sb : BitVec 6) (va : BitVec 7) (sz : BitVec 2) (ex sc : Bool) (s : State) (hok :
    s.ok) : outOk (execLdW vt sb va sz ex sc s) := by
  unfold execLdW
  grind [State.ok, outOk, loadOp_ok]

theorem execLdS_ok (vt : BitVec 7) (sb : BitVec 6) (va : BitVec 7) (sz : BitVec 2) (ex sc : Bool) (s : State) (hok :
    s.ok) : outOk (execLdS vt sb va sz ex sc s) := by
  unfold execLdS
  grind [State.ok, outOk, loadOp_ok]

theorem execLdI_ok (vt : BitVec 7) (sb : BitVec 6) (va : BitVec 7) (sz : BitVec 2) (ex sc : Bool) (s : State) (hok :
    s.ok) : outOk (execLdI vt sb va sz ex sc s) := by
  unfold execLdI
  grind [State.ok, outOk, loadOp_ok]

theorem execLdp_ok (vt : BitVec 7) (sb : BitVec 6) (va : BitVec 7) (sz : BitVec 2) (ex sc : Bool) (s : State) (hok :
    s.ok) : outOk (execLdp vt sb va sz ex sc s) := by
  unfold execLdp
  grind [State.ok, outOk, vecLoad_ok]

theorem execLdsp_ok (vt : BitVec 7) (sb : BitVec 6) (va : BitVec 7) (sz : BitVec 2) (ex sc : Bool) (s : State) (hok :
    s.ok) : outOk (execLdsp vt sb va sz ex sc s) := by
  unfold execLdsp
  grind [State.ok, outOk, vecLoad_ok]

theorem postStore_ok (s : State) (q : Req) (sync : Bool) (hok : s.ok) : (postStore s q sync).ok := by
  unfold postStore
  grind [State.ok, outOk, takeTurn_ok, retire_ok, post_ok]

theorem vecStore_ok (kind : ReqKind) (gate : Option Policy) (vt sb va sz : Nat) (fault : Drove → Nat → CoreFault) (accs :
    Drove → Nat → List (Nat × Nat × Nat)) (s : State) (pos : Drove → Nat → Nat) (priv : Bool) (hok : s.ok) : outOk
    (vecStore kind gate vt sb va sz fault accs s pos priv) := by
  unfold vecStore
  grind [State.ok, outOk, issueIf_ok, retire_ok, postStore_ok]

theorem storeOp_ok (kind : ReqKind) (p : Policy) (vt : BitVec 7) (sb : BitVec 6) (va : BitVec 7) (sz : BitVec 2) (sc :
    Bool) (s : State) (hok : s.ok) : outOk (storeOp kind p vt sb va sz sc s) := by
  unfold storeOp
  grind [State.ok, outOk, vecStore_ok]

theorem execStO_ok (vt : BitVec 7) (sb : BitVec 6) (va : BitVec 7) (sz : BitVec 2) (sc : Bool) (s : State) (hok : s.ok) :
    outOk (execStO vt sb va sz sc s) := by
  unfold execStO
  grind [State.ok, outOk, storeOp_ok]

theorem execStW_ok (vt : BitVec 7) (sb : BitVec 6) (va : BitVec 7) (sz : BitVec 2) (sc : Bool) (s : State) (hok : s.ok) :
    outOk (execStW vt sb va sz sc s) := by
  unfold execStW
  grind [State.ok, outOk, storeOp_ok]

theorem execStS_ok (vt : BitVec 7) (sb : BitVec 6) (va : BitVec 7) (sz : BitVec 2) (sc : Bool) (s : State) (hok : s.ok) :
    outOk (execStS vt sb va sz sc s) := by
  unfold execStS
  grind [State.ok, outOk, storeOp_ok]

theorem execStI_ok (vt : BitVec 7) (sb : BitVec 6) (va : BitVec 7) (sz : BitVec 2) (sc : Bool) (s : State) (hok : s.ok) :
    outOk (execStI vt sb va sz sc s) := by
  unfold execStI
  grind [State.ok, outOk, storeOp_ok]

theorem execStm_ok (vt : BitVec 7) (sb : BitVec 6) (va : BitVec 7) (sz : BitVec 2) (sc : Bool) (s : State) (hok : s.ok) :
    outOk (execStm vt sb va sz sc s) := by
  unfold execStm
  grind [State.ok, outOk, storeOp_ok]

theorem execStp_ok (vt : BitVec 7) (sb : BitVec 6) (va : BitVec 7) (sz : BitVec 2) (sc : Bool) (s : State) (hok : s.ok) :
    outOk (execStp vt sb va sz sc s) := by
  unfold execStp
  grind [State.ok, outOk, vecStore_ok]

theorem execStsp_ok (vt : BitVec 7) (sb : BitVec 6) (va : BitVec 7) (sz : BitVec 2) (sc : Bool) (s : State) (hok : s.ok)
    : outOk (execStsp vt sb va sz sc s) := by
  unfold execStsp
  grind [State.ok, outOk, vecStore_ok]

theorem execCst_ok (vt : BitVec 7) (sb : BitVec 6) (va : BitVec 7) (sz : BitVec 2) (sc : Bool) (s : State) (hok : s.ok) :
    outOk (execCst vt sb va sz sc s) := by
  unfold execCst
  grind [State.ok, outOk, vecStore_ok]

theorem scalarLoad_ok (p : Policy) (t sb : BitVec 6) (imm : BitVec 10) (sz : BitVec 2) (s : State) (hok : s.ok) : outOk
    (scalarLoad p t sb imm sz s) := by
  unfold scalarLoad
  grind [State.ok, outOk, issueIf_ok, retire_ok, post_ok, onDr_ok]

theorem execLdsO_ok (t sb : BitVec 6) (imm : BitVec 10) (sz : BitVec 2) (s : State) (hok : s.ok) : outOk (execLdsO t sb
    imm sz s) := by
  unfold execLdsO
  grind [State.ok, outOk, scalarLoad_ok]

theorem execLdsW_ok (t sb : BitVec 6) (imm : BitVec 10) (sz : BitVec 2) (s : State) (hok : s.ok) : outOk (execLdsW t sb
    imm sz s) := by
  unfold execLdsW
  grind [State.ok, outOk, scalarLoad_ok]

theorem execLdsS_ok (t sb : BitVec 6) (imm : BitVec 10) (sz : BitVec 2) (s : State) (hok : s.ok) : outOk (execLdsS t sb
    imm sz s) := by
  unfold execLdsS
  grind [State.ok, outOk, scalarLoad_ok]

theorem execLdsI_ok (t sb : BitVec 6) (imm : BitVec 10) (sz : BitVec 2) (s : State) (hok : s.ok) : outOk (execLdsI t sb
    imm sz s) := by
  unfold execLdsI
  grind [State.ok, outOk, scalarLoad_ok]

theorem scalarStore_ok (p : Policy) (t sb : BitVec 6) (imm : BitVec 10) (sz : BitVec 2) (s : State) (hok : s.ok) : outOk
    (scalarStore p t sb imm sz s) := by
  unfold scalarStore
  grind [State.ok, outOk, issueIf_ok, postStore_ok]

theorem execStsO_ok (t sb : BitVec 6) (imm : BitVec 10) (sz : BitVec 2) (s : State) (hok : s.ok) : outOk (execStsO t sb
    imm sz s) := by
  unfold execStsO
  grind [State.ok, outOk, scalarStore_ok]

theorem execStsW_ok (t sb : BitVec 6) (imm : BitVec 10) (sz : BitVec 2) (s : State) (hok : s.ok) : outOk (execStsW t sb
    imm sz s) := by
  unfold execStsW
  grind [State.ok, outOk, scalarStore_ok]

theorem execStsS_ok (t sb : BitVec 6) (imm : BitVec 10) (sz : BitVec 2) (s : State) (hok : s.ok) : outOk (execStsS t sb
    imm sz s) := by
  unfold execStsS
  grind [State.ok, outOk, scalarStore_ok]

theorem execStsI_ok (t sb : BitVec 6) (imm : BitVec 10) (sz : BitVec 2) (s : State) (hok : s.ok) : outOk (execStsI t sb
    imm sz s) := by
  unfold execStsI
  grind [State.ok, outOk, scalarStore_ok]

theorem execPref_ok (tgt : BitVec 2) (sb : BitVec 6) (va : BitVec 7) (sz : BitVec 2) (sc : Bool) (s : State) (hok : s.ok)
    : outOk (execPref tgt sb va sz sc s) := by
  unfold execPref
  grind [State.ok, outOk, issueIf_ok, retire_ok, post_ok]

theorem execVinv_ok (a l : BitVec 6) (s : State) (hok : s.ok) : outOk (execVinv a l s) := by
  unfold execVinv
  grind [State.ok, outOk, foldl_ok, issueIf_ok, leaveL1_ok, retire_ok, leaveVLine_ok]

theorem execVwb_ok (a l : BitVec 6) (s : State) (hok : s.ok) : outOk (execVwb a l s) := by
  unfold execVwb
  grind [State.ok, outOk, issueIf_ok, retire_ok, post_ok]

theorem execFenceAcq_ok (s : State) (hok : s.ok) : outOk (execFenceAcq s) := by
  unfold execFenceAcq
  grind [State.ok, outOk, issueIf_ok, retire_ok, acquireDrop_ok]

theorem execFenceRel_ok (s : State) (hok : s.ok) : outOk (execFenceRel s) := by
  unfold execFenceRel
  grind [State.ok, outOk, issueIf_ok, retire_ok]

theorem execFenceSc_ok (s : State) (hok : s.ok) : outOk (execFenceSc s) := by
  unfold execFenceSc
  grind [State.ok, outOk, issueIf_ok, retire_ok, acquireDrop_ok]

end Sys2Proof.Machine
end

