-- ==== Sys2Proof/Laws/KeepsAtomic.lean ====
section
/-! SUPPORT. The memories keep their canonical form: the operations of Machine/Atomic.lean. -/

set_option Elab.async false

namespace Sys2Proof.Machine

theorem departs_ok (s : State) (q : Req) (hok : s.ok) : (departs s q).ok := by
  unfold departs
  grind [State.ok, outOk, retire_ok, onDr_ok]

theorem startAtomic_ok (s : State) (q : Req) (hok : s.ok) : (startAtomic s q).ok := by
  unfold startAtomic
  grind [State.ok, outOk, takeTurn_ok, departs_ok, post_ok, onDr_ok]

theorem vecAtomic_ok (kind : ReqKind) (vd sb va : Nat) (two typ rel entry : Bool) (pre : State → Verdict) (fault : Drove
    → Nat → CoreFault) (s : State) (hok : s.ok) : outOk (vecAtomic kind vd sb va two typ rel entry pre fault s) := by
  unfold vecAtomic
  grind [State.ok, outOk, issueIf_ok, retire_ok, startAtomic_ok]

theorem atomOp_ok (acq rel : Bool) (vd : BitVec 7) (sb : BitVec 6) (va : BitVec 7) (p : BitVec 4) (s : State) (hok :
    s.ok) : outOk (atomOp acq rel vd sb va p s) := by
  unfold atomOp
  grind [State.ok, outOk, vecAtomic_ok]

theorem execAtomRlx_ok (vd : BitVec 7) (sb : BitVec 6) (va : BitVec 7) (p : BitVec 4) (s : State) (hok : s.ok) : outOk
    (execAtomRlx vd sb va p s) := by
  unfold execAtomRlx
  grind [State.ok, outOk, atomOp_ok]

theorem execAtomAcq_ok (vd : BitVec 7) (sb : BitVec 6) (va : BitVec 7) (p : BitVec 4) (s : State) (hok : s.ok) : outOk
    (execAtomAcq vd sb va p s) := by
  unfold execAtomAcq
  grind [State.ok, outOk, atomOp_ok]

theorem execAtomRel_ok (vd : BitVec 7) (sb : BitVec 6) (va : BitVec 7) (p : BitVec 4) (s : State) (hok : s.ok) : outOk
    (execAtomRel vd sb va p s) := by
  unfold execAtomRel
  grind [State.ok, outOk, atomOp_ok]

theorem execAtomAr_ok (vd : BitVec 7) (sb : BitVec 6) (va : BitVec 7) (p : BitVec 4) (s : State) (hok : s.ok) : outOk
    (execAtomAr vd sb va p s) := by
  unfold execAtomAr
  grind [State.ok, outOk, atomOp_ok]

theorem redOp_ok (rel : Bool) (vd : BitVec 7) (sb : BitVec 6) (va : BitVec 7) (p : BitVec 4) (s : State) (hok : s.ok) :
    outOk (redOp rel vd sb va p s) := by
  unfold redOp
  grind [State.ok, outOk, vecAtomic_ok]

theorem execRedRlx_ok (vd : BitVec 7) (sb : BitVec 6) (va : BitVec 7) (p : BitVec 4) (s : State) (hok : s.ok) : outOk
    (execRedRlx vd sb va p s) := by
  unfold execRedRlx
  grind [State.ok, outOk, redOp_ok]

theorem execRedRel_ok (vd : BitVec 7) (sb : BitVec 6) (va : BitVec 7) (p : BitVec 4) (s : State) (hok : s.ok) : outOk
    (execRedRel vd sb va p s) := by
  unfold execRedRel
  grind [State.ok, outOk, redOp_ok]

theorem execCatom_ok (vd : BitVec 7) (sb : BitVec 6) (va : BitVec 7) (s : State) (hok : s.ok) : outOk (execCatom vd sb va
    s) := by
  unfold execCatom
  grind [State.ok, outOk, vecAtomic_ok]

theorem execSatom_ok (sd sb so : BitVec 6) (p : BitVec 4) (s : State) (hok : s.ok) : outOk (execSatom sd sb so p s) := by
  unfold execSatom
  grind [State.ok, outOk, issueIf_ok, startAtomic_ok]

theorem probeWord_ok (s : State) (c : BitVec 16) (va : Nat) (ask : Ask) (hok : s.ok) : (probeWord s c va ask).2.ok := by
  unfold probeWord
  grind [State.ok, outOk, dieAccess_ok]

theorem probeAcc_ok (s : State) (q : Req) (a : Acc) (hok : s.ok) : (probeAcc s q a).2.ok := by
  unfold probeAcc
  grind [State.ok, outOk, probeWord_ok]

theorem probeAll_ok (s : State) (q : Req) (as : List Acc) (hok : s.ok) : (probeAll s q as).2.ok := by
  induction as generalizing s with
  | nil => exact hok
  | cons a as ih =>
    unfold probeAll
    grind [probeAcc_ok]

theorem standBefore_ok (s : State) (u : Nat) (hok : s.ok) : (standBefore s u).ok := by
  unfold standBefore
  grind [State.ok, outOk, onDrove_ok]

end Sys2Proof.Machine
end

