-- ==== Sys2Proof/Laws/KeepsSync.lean ====
section
/-! SUPPORT. The memories keep their canonical form: the operations of Machine/Sync.lean. -/

set_option Elab.async false

namespace Sys2Proof.Machine

theorem passBarrier_ok (s : State) (hok : s.ok) : (passBarrier s).ok := by
  unfold passBarrier
  grind [State.ok, outOk, retire_ok, onDr_ok]

theorem arriveAt_ok (s : State) (n : Nat) (contrib : Option (Nat × W64)) (hok : s.ok) : (arriveAt s n contrib).ok := by
  unfold arriveAt
  grind [State.ok, outOk, onFl_ok, tryRelease_ok]

theorem barOp_ok (us : List Use) (n : Nat) (contrib : Option (Nat × Nat)) (sd : Option Nat) (s : State) (hok : s.ok) :
    outOk (barOp us n contrib sd s) := by
  unfold barOp
  grind [State.ok, outOk, arriveAt_ok, issueIf_ok, onFl_ok, onDr_ok, passBarrier_ok]

theorem execBar_ok (n : BitVec 4) (s : State) (hok : s.ok) : outOk (execBar n s) := by
  unfold execBar
  grind [State.ok, outOk, barOp_ok]

theorem execBarv_ok (d a : BitVec 6) (p : BitVec 2) (n : BitVec 4) (s : State) (hok : s.ok) : outOk (execBarv d a p n s)
    := by
  unfold execBarv
  grind [State.ok, outOk, barOp_ok]

theorem onMeet_ok (s : State) (f : WideMeet → WideMeet) (hok : s.ok) : (onMeet s f).ok := by
  unfold onMeet
  grind [State.ok, outOk, onFl_ok]

theorem meetFull_ok (s : State) (hok : s.ok) : (meetFull s).ok := by
  unfold meetFull
  grind [State.ok, outOk, onMeet_ok, post_ok]

theorem meetPoll_ok (s : State) (hok : s.ok) : (meetPoll s).ok := by
  unfold meetPoll
  grind [State.ok, outOk, onMeet_ok]

theorem meetJoin_ok (s : State) (a b : W64) (hok : s.ok) : (meetJoin s a b).ok := by
  unfold meetJoin
  grind [State.ok, outOk, meetFull_ok, onMeet_ok, onDr_ok, partGang_ok]

theorem meetStep_ok (a b : Nat) (s : State) (hok : s.ok) : (meetStep a b s).ok := by
  unfold meetStep
  grind [State.ok, outOk, meetPoll_ok, meetFull_ok, meetJoin_ok, onMeet_ok]

theorem meetLeave_ok (s : State) (hok : s.ok) : (meetLeave s).ok := by
  unfold meetLeave
  grind [State.ok, outOk, onMeet_ok]

theorem execBarw_ok (a b : BitVec 6) (s : State) (hok : s.ok) : outOk (execBarw a b s) := by
  unfold execBarw
  dsimp only
  repeat' split
  all_goals grind [State.ok, outOk, issue_ok, retire_ok, meetStep_ok, stopHere_ok, meetLeave_ok, issueIf_ok, onMeet_ok,
    passBarrier_ok, acquireDrop_ok]

theorem spadWrite_ok (s : State) (flock a n x : Nat) (hok : s.ok) : (spadWrite s flock a n x).ok := by
  unfold spadWrite
  split
  · exact spadWr_ok _ _ _ _ hok
  · exact onSaved_ok _ _ _ hok

theorem wakeObject_ok (s : State) (flock a : Nat) (w : W64) (hok : s.ok) : (wakeObject s flock a w).ok := by
  unfold wakeObject
  grind [State.ok, outOk, foldl_ok, wake_ok]

theorem objArrive_ok (s : State) (flock a status : Nat) (w : W64) (hok : s.ok) : (objArrive s flock a status w).2.ok := by
  unfold objArrive
  extract_lets phase pstat old pend
  clear_value pend
  split
  · have h1 := spadWrite_ok _ flock (a + 12) 1 0 (spadWrite_ok _ flock (a + 13) 1 pstat hok)
    exact wakeObject_ok _ _ _ _ (spadWrite_ok _ _ _ _ _ (spadWrite_ok _ flock (a + 8) 2 (phase + 1) h1))
  · exact spadWrite_ok _ _ _ _ _ (spadWrite_ok _ _ _ _ _ hok)

theorem objInit_ok (s : State) (flock a expect : Nat) (w : W64) (hok : s.ok) : (objInit s flock a expect w).ok := by
  unfold objInit
  grind [State.ok, outOk, spadWrite_ok, wakeObject_ok]

theorem releaseObject_ok (s : State) (flock a : Nat) (hok : s.ok) : (releaseObject s flock a).ok := by
  unfold releaseObject
  grind [State.ok, outOk, foldl_ok, retire_ok, acquireDrop_ok, account_ok, select_ok]

theorem execAsyncObjectArrival_ok (k : Nat) (s : State) (hok : s.ok) : outOk (execAsyncObjectArrival k s) := by
  unfold execAsyncObjectArrival
  refine finishFlock_ok _ _ ?_
  split
  · exact hok
  · split
    · exact hok
    · rename_i x _ _
      dsimp only
      have h : State.ok { s with eng := { s.eng with arrivals := s.eng.arrivals.filter fun y => y.id != k } } := hok
      split
      · exact retire_ok _ (select_ok _ _ (dropReq_ok _ _ (releaseObject_ok _ _ _ (objInit_ok _ _ _ _ _ h))))
      · exact releaseObject_ok _ _ _ (objInit_ok _ _ _ _ _ h)
      · exact releaseObject_ok _ _ _ (onDrove_ok _ _ _ (dropReq_ok _ _ (objArrive_ok _ _ _ _ _ h)))
      · exact releaseObject_ok _ _ _ (objArrive_ok _ _ _ _ _ h)

theorem sendArrival_ok (s : State) (kind : ReqKind) (dst a : Nat) (init : Option (BitVec 32)) (hok : s.ok) : (sendArrival
    s kind dst a init).ok := by
  unfold sendArrival
  grind [State.ok, outOk, takeTurn_ok, post_ok]

theorem execAbinit_ok (a b : BitVec 6) (s : State) (hok : s.ok) : outOk (execAbinit a b s) := by
  unfold execAbinit
  grind [State.ok, outOk, issueIf_ok, sendArrival_ok, onDr_ok]

theorem execAbarr_ok (d a : BitVec 6) (s : State) (hok : s.ok) : outOk (execAbarr d a s) := by
  unfold execAbarr
  grind [State.ok, outOk, issueIf_ok, sendArrival_ok, retire_ok, onDr_ok]

theorem abwaitHold_ok (s : State) (a token : Nat) (earlier : Bool) (hok : s.ok) : (abwaitHold s a token earlier).ok := by
  unfold abwaitHold
  grind [State.ok, outOk, hold_ok, onDr_ok]

theorem execAbwait_ok (a b : BitVec 6) (s : State) (hok : s.ok) : outOk (execAbwait a b s) := by
  unfold execAbwait
  grind [State.ok, outOk, abwaitHold_ok, issueIf_ok, retire_ok, acquireDrop_ok]

theorem setChute_ok (s : State) (n : Nat) (c : Chute) (hok : s.ok) : (setChute s n c).ok := by
  unfold setChute
  grind [State.ok, outOk, onFl_ok]

theorem ringDrop_ok (s : State) (n k : Nat) (hok : s.ok) : (ringDrop s n k).ok := by
  unfold ringDrop
  grind [State.ok, outOk, setChute_ok]

theorem ringPut_ok (s : State) (n : Nat) (xs : List W32) (hok : s.ok) : (ringPut s n xs).ok := by
  refine setChute_ok _ _ _ (foldl_ok _ ?_ _ _ hok)
  intro s x h
  exact spadWr_ok _ _ _ _ h

theorem serveOne_ok (s : State) (n : Nat) (w : W64) (hok : s.ok) : (serveOne s n w).ok := by
  unfold serveOne
  grind [State.ok, outOk, ringDrop_ok, setChute_ok, onDrove_ok, wake_ok]

theorem serveAll_ok (s : State) (n : Nat) (w : W64) (k : Nat) (hok : s.ok) : (serveAll s n w k).ok := by
  induction k generalizing s with
  | zero => exact hok
  | succ k ih =>
    unfold serveAll
    split
    · exact hok
    · split
      · exact hok
      · exact ih _ (serveOne_ok _ _ _ hok)

theorem addProducer_ok (s : State) (n : Nat) (hok : s.ok) : (addProducer s n).ok := by
  unfold addProducer
  grind [State.ok, outOk, setChute_ok]

theorem pushNow_ok (s : State) (n va : Nat) (hok : s.ok) : (pushNow s n va).ok := by
  unfold pushNow
  grind [State.ok, outOk, addProducer_ok, ringPut_ok, serveAll_ok, retire_ok]

theorem execQpush_ok (a : BitVec 7) (n : BitVec 3) (s : State) (hok : s.ok) : outOk (execQpush a n s) := by
  unfold execQpush
  grind [State.ok, outOk, issueIf_ok, pushNow_ok]

theorem placePush_ok (s : State) (u : Nat) (hok : s.ok) : (placePush s u).ok := by
  unfold placePush
  grind [State.ok, outOk, select_ok, pushNow_ok, account_ok]

theorem execChutePushRoom_ok (d : Nat) (s : State) (hok : s.ok) : outOk (execChutePushRoom d s) := by
  unfold execChutePushRoom
  grind [State.ok, outOk, placePush_ok]

theorem placeWaiting_ok (s : State) (n : Nat) (w : W64) (hok : s.ok) : (placeWaiting s n w).ok := by
  unfold placeWaiting
  grind [State.ok, outOk, foldl_ok, placePush_ok, wake_ok, select_ok]

theorem execQpop_ok (d : BitVec 7) (n : BitVec 3) (s : State) (hok : s.ok) : outOk (execQpop d n s) := by
  unfold execQpop
  grind [State.ok, outOk, issueIf_ok, setChute_ok, onDr_ok, retire_ok, placeWaiting_ok, serveAll_ok]

theorem execChutePopServed_ok (f n : Nat) (s : State) (hok : s.ok) : outOk (execChutePopServed f n s) := by
  unfold execChutePopServed
  grind [State.ok, outOk, serveOne_ok, select_ok]

theorem execQtry_ok (d : BitVec 7) (t : BitVec 6) (n : BitVec 3) (s : State) (hok : s.ok) : outOk (execQtry d t n s) := by
  unfold execQtry
  grind [State.ok, outOk, issue_ok, ringDrop_ok, onDr_ok, placeWaiting_ok, retire_ok]

theorem execQallow_ok (a : BitVec 6) (n : BitVec 3) (s : State) (hok : s.ok) : outOk (execQallow a n s) := by
  unfold execQallow
  grind [State.ok, outOk, issueIf_ok, retire_ok, addProducer_ok, wakePops_ok, setChute_ok]

theorem startRecord_ok (s : State) (q : Req) (hok : s.ok) : (startRecord s q).ok := by
  unfold startRecord
  grind [State.ok, outOk, onDr_ok, post_ok]

theorem execRtake_ok (d a : BitVec 6) (ea ed : Bool) (s : State) (hok : s.ok) : outOk (execRtake d a ea ed s) := by
  unfold execRtake
  grind [State.ok, outOk, issueIf_ok, startRecord_ok]

theorem meetRefused_ok (s : State) (q : Req) (cause : BitVec 8) (va : Nat) (hok : s.ok) : (meetRefused s q cause va).ok := by
  unfold meetRefused
  grind [State.ok, outOk, select_ok, dropReq_ok, onMeet_ok, parkMasked_ok]

theorem execAtomicProbeResult_ok (r : Nat) (s : State) (hok : s.ok) : outOk (execAtomicProbeResult r s) := by
  unfold execAtomicProbeResult
  grind [State.ok, outOk, probeAll_ok, select_ok, takeTurn_ok, departs_ok, onReq_ok, countRecord_ok, meetRefused_ok,
    standBefore_ok, dropReq_ok, stopHere_ok, parkMasked_ok, onDr_ok]

theorem execEvpost_ok (a b : BitVec 6) (s : State) (hok : s.ok) : outOk (execEvpost a b s) := by
  unfold execEvpost
  grind [State.ok, outOk, issueIf_ok, startRecord_ok]

theorem finishReq_ok (s : State) (r : Nat) (hok : s.ok) : (finishReq s r).ok := by
  unfold finishReq
  grind [State.ok, outOk, endParks_ok, dropReq_ok]

theorem csumStop_ok (s : State) (pc : W64) (x : BitVec 8 × Nat) (hok : s.ok) : (csumStop s pc x).ok := by
  unfold csumStop
  grind [State.ok, outOk, onDr_ok, takeStop_ok]

theorem csumLoad_ok (s : State) (pc : W64) (hok : s.ok) : (csumLoad s pc).ok := by
  unfold csumLoad
  grind [State.ok, outOk, csumStop_ok, onDr_ok, post_ok]

theorem csumStore_ok (pc : W64) (s : State) (x : Nat × Nat × Nat) (hok : s.ok) : (csumStore pc s x).ok := by
  unfold csumStore
  grind [State.ok, outOk, takeTurn_ok, post_ok]

theorem csumWrite_ok (s : State) (pc : W64) (r seq : Nat) (hok : s.ok) : (csumWrite s pc r seq).ok := by
  unfold csumWrite
  dsimp only
  split
  · exact onDr_ok _ _ hok
  · exact onDr_ok _ _ (foldl_ok _ (fun _ _ h => csumStore_ok _ _ _ h) _ _ (finishReq_ok _ _ hok))

theorem execBarrierChecksum_ok (u : Nat) (s : State) (hok : s.ok) : outOk (execBarrierChecksum u s) := by
  unfold execBarrierChecksum
  split
  · exact hok
  · split
    · exact hok
    · split
      · exact csumWrite_ok _ _ _ _ (select_ok _ _ hok)
      · exact csumLoad_ok _ _ (select_ok _ _ hok)

theorem execPassiveWake_ok (u : Nat) (s : State) (hok : s.ok) : outOk (execPassiveWake u s) := by
  unfold execPassiveWake
  grind [State.ok, outOk, onDrove_ok]

end Sys2Proof.Machine
end

