-- ==== Sys2Proof/Laws/KeepsMemEvents.lean ====
section
/-! SUPPORT. The memories keep their canonical form: the operations of Machine/MemEvents.lean. -/

set_option Elab.async false

namespace Sys2Proof.Machine

theorem refuseStore_ok (s : State) (q : Req) (hok : s.ok) : (refuseStore s q).ok := by
  unfold refuseStore
  grind [State.ok, outOk, dieAccess_ok, onReq_ok]

theorem dropPrefs_ok (s : State) (hok : s.ok) : (dropPrefs s).ok := by
  unfold dropPrefs
  grind [State.ok, outOk]

theorem accFault_ok (s : State) (q : Req) (j : Nat) (a : Acc) (cause : BitVec 8) (hok : s.ok) : (accFault s q j a
    cause).ok := by
  unfold accFault
  grind [State.ok, outOk, dropPrefs_ok, onAcc_ok]

theorem sendAcc_ok (s : State) (q : Req) (j : Nat) (l : Leaf) (hok : s.ok) : (sendAcc s q j l).ok := by
  unfold sendAcc
  grind [State.ok, outOk, onAcc_ok]

theorem meetCompressed_ok (s : State) (q : Req) (a : Acc) (hok : s.ok) : (meetCompressed s q a).ok := by
  unfold meetCompressed
  grind [State.ok, outOk, countRecord_ok, park_ok]

theorem dieTakes_ok (s : State) (q : Req) (j : Nat) (a : Acc) (hok : s.ok) : (dieTakes s q j a).ok := by
  unfold dieTakes
  grind [State.ok, outOk, dieAccess_ok, refuseStore_ok, accFault_ok, meetCompressed_ok, sendAcc_ok]

theorem execOwningDieAccess_ok (r j : Nat) (s : State) (hok : s.ok) : outOk (execOwningDieAccess r j s) := by
  unfold execOwningDieAccess
  grind [State.ok, outOk, dieTakes_ok, accFault_ok, hitAcc_ok]

theorem bxTouch_ok (s : State) (q : Req) (a : Acc) (f : Frame) (n : Nat) (write : Bool) (hok : s.ok) : (bxTouch s q a f n
    write).ok := by
  unfold bxTouch
  grind [State.ok, outOk, foldl_ok, pastureAccess_ok]

theorem applyBxLoad_ok (s : State) (q : Req) (j : Nat) (a : Acc) (hok : s.ok) : (applyBxLoad s q j a).ok := by
  unfold applyBxLoad
  grind [State.ok, outOk, foldl_ok, takeBlock_ok, countMismatch_ok, bxTouch_ok, onAcc_ok, accFault_ok]

theorem applyBxStore_ok (s : State) (q : Req) (j : Nat) (a : Acc) (hok : s.ok) : (applyBxStore s q j a).ok := by
  unfold applyBxStore
  grind [State.ok, outOk, accFault_ok, writeBlock_ok, bxTouch_ok, onReq_ok]

theorem refreshGranule_ok (s : State) (core g : Nat) (hok : s.ok) : (refreshGranule s core g).ok := by
  unfold refreshGranule
  grind [State.ok, outOk, mapL1_ok]

theorem atomPut_ok (s : State) (q : Req) (a : Acc) (bs : List Byte) (hok : s.ok) : (atomPut s q a bs).ok := by
  unfold atomPut
  grind [State.ok, outOk, homePutOwn_ok, accPasture_ok, refreshGranule_ok]

theorem doneAcc_ok (s : State) (q : Req) (j x : Nat) (hok : s.ok) : (doneAcc s q j x).ok := by
  unfold doneAcc
  grind [State.ok, outOk, onAcc_ok]

theorem sendLow_ok (s : State) (q : Req) (j hdie : Nat) (a : Acc) (e : W32) (hok : s.ok) : (sendLow s q j hdie a e).ok := by
  unfold sendLow
  grind [State.ok, outOk, newId_ok, onReq_ok]

theorem wideArrived_ok (s : State) (q : Req) (a : Acc) (g : Nat) (changed : Bool) (hok : s.ok) : (wideArrived s q a g
    changed).ok := by
  unfold wideArrived
  grind [State.ok, outOk, foldl_ok, onFlock_ok, onDrove_ok, dropReq_ok, wake_ok]

theorem evpostApply_ok (s : State) (q : Req) (j : Nat) (a : Acc) (head : Nat) (raise : State → Nat → State) (hok : s.ok)
    (hr : ∀ s n, s.ok → (raise s n).ok) : (evpostApply s q j a head raise).ok := by
  unfold evpostApply
  extract_lets ring n tail t
  have ht : t.ok := select_ok _ _ hok
  clear_value t
  split
  · exact stopHere_ok _ _ _ _ (standBefore_ok _ _ (dropReq_ok _ _ ht))
  · split
    · exact onAcc_ok _ _ _ _ ht
    · split
      · exact retire_ok _ (hr _ _ (dropReq_ok _ _ (setPeer_ok _ _ ht (memPut_wf _ _ (peer_ok ht)))))
      · split
        · rename_i e
          have h := (congrArg (fun z => State.ok z.2) e).mp (vaPut_ok _ _ _ _ _ ht)
          exact retire_ok _ (hr _ _ (dropReq_ok _ _ h))
        · rename_i e
          have h := (congrArg (fun z => State.ok z.2) e).mp (vaPut_ok _ _ _ _ _ ht)
          exact parkMasked_ok _ _ _ _ _ (standBefore_ok _ _ (dropReq_ok _ _ h))

theorem applyAtom_ok (s : State) (q : Req) (j : Nat) (a : Acc) (hok : s.ok) : (applyAtom s q j a).ok := by
  unfold applyAtom
  grind [State.ok, outOk, sendLow_ok, doneAcc_ok, atomPut_ok, wideArrived_ok, evpostApply_ok]

theorem applyAcc_ok (r j : Nat) (w : Want) (s : State) (hok : s.ok) : (applyAcc r j w s).ok := by
  unfold applyAcc
  grind [State.ok, outOk, dropPrefs_ok, applyPref_ok, accFault_ok, applyAtom_ok, applyLoad_ok, applyStore_ok]

theorem serveAcc_ok (s : State) (r j : Nat) (hok : s.ok) : (serveAcc s r j).ok := by
  unfold serveAcc
  repeat' split
  all_goals grind [State.ok, outOk, accFault_ok, applyBxLoad_ok, applyBxStore_ok, hitAcc_ok, arrive_ok, applyAcc_ok]

theorem lowPut_ok (s : State) (q : Req) (u : LowUp) (hok : s.ok) : (lowPut s q u).ok := by
  have key (t : State) (h : t.ok) : (onHbm t fun m => memWrite m u.dpa 4 (catomLow (memRead m u.dpa 4) u.x1 u.e)).ok :=
    onHbm_ok _ _ h (memWrite_wf _ _ _ (hbm_ok h))
  unfold lowPut
  split
  · exact setPeer_ok _ _ hok (memWrite_wf _ _ _ (peer_ok hok))
  · refine key _ ?_
    split
    · exact pastureAccess_ok _ _ _ _ _ _ _ hok
    · exact hok

theorem applyLow_ok (r j : Nat) (s : State) (hok : s.ok) : (applyLow r j s).ok := by
  unfold applyLow
  grind [State.ok, outOk, lowPut_ok, refreshGranule_ok, onReq_ok]

theorem serveLow_ok (s : State) (r j : Nat) (hok : s.ok) : (serveLow s r j).ok := by
  unfold serveLow
  grind [State.ok, outOk, applyLow_ok, onAcc_ok, arrive_ok]

theorem execCatomLowUpdate_ok (r j : Nat) (s : State) (hok : s.ok) : outOk (execCatomLowUpdate r j s) := by
  unfold execCatomLowUpdate
  grind [State.ok, outOk, serveLow_ok]

theorem homeTakes_ok (s : State) (r j : Nat) (p : Req → Acc → Want → Bool) (hok : s.ok) : (homeTakes s r j p).ok := by
  unfold homeTakes
  grind [State.ok, outOk, serveAcc_ok]

theorem execHomeOLoadMiss_ok (r j : Nat) (s : State) (hok : s.ok) : outOk (execHomeOLoadMiss r j s) := by
  unfold execHomeOLoadMiss
  grind [State.ok, outOk, homeTakes_ok]

theorem execHomeILoadMiss_ok (r j : Nat) (s : State) (hok : s.ok) : outOk (execHomeILoadMiss r j s) := by
  unfold execHomeILoadMiss
  grind [State.ok, outOk, homeTakes_ok]

theorem execHomeSLoadMiss_ok (r j : Nat) (s : State) (hok : s.ok) : outOk (execHomeSLoadMiss r j s) := by
  unfold execHomeSLoadMiss
  grind [State.ok, outOk, homeTakes_ok]

theorem execHomeWLoad_ok (r j : Nat) (s : State) (hok : s.ok) : outOk (execHomeWLoad r j s) := by
  unfold execHomeWLoad
  grind [State.ok, outOk, homeTakes_ok]

theorem execHomeOwnershipRequest_ok (r j : Nat) (s : State) (hok : s.ok) : outOk (execHomeOwnershipRequest r j s) := by
  unfold execHomeOwnershipRequest
  grind [State.ok, outOk, homeTakes_ok]

theorem execHomeWriteThrough_ok (r j : Nat) (s : State) (hok : s.ok) : outOk (execHomeWriteThrough r j s) := by
  unfold execHomeWriteThrough
  grind [State.ok, outOk, homeTakes_ok]

theorem execHomeAtomic_ok (r j : Nat) (s : State) (hok : s.ok) : outOk (execHomeAtomic r j s) := by
  unfold execHomeAtomic
  grind [State.ok, outOk, homeTakes_ok]

theorem execOwnerWmaskAccess_ok (r j : Nat) (s : State) (hok : s.ok) : outOk (execOwnerWmaskAccess r j s) := by
  unfold execOwnerWmaskAccess
  grind [State.ok, outOk, homeTakes_ok]

theorem execWideBarrierArrival_ok (f : Nat) (s : State) (hok : s.ok) : outOk (execWideBarrierArrival f s) := by
  unfold execWideBarrierArrival
  grind [State.ok, outOk, serveAcc_ok]

theorem applyHost_ok (op dpa : Nat) (data : List Byte) (en : BitVec 64) (s : State) (hok : s.ok) : (applyHost op dpa data
    en s).ok := by
  unfold applyHost
  extract_lets g e
  split
  · split
    · exact hok
    · exact setDir_ok _ _ hok
  · exact setDir_ok _ _ (hbmMerge_ok _ _ hok)
  · exact hbmMerge_ok _ _ hok

theorem serveHost_ok (s : State) (c : Asker) (hok : s.ok) : (serveHost s c).ok := by
  unfold serveHost
  grind [State.ok, outOk, arrive_ok, applyHost_ok]

theorem hostRequest_ok (s : State) (op dpa : Nat) (data : List Byte) (en : BitVec 64) (hok : s.ok) : outOk (hostRequest s
    op dpa data en) := by
  unfold hostRequest
  grind [State.ok, outOk, newId_ok, serveHost_ok]

theorem execRequestRefusedResend_ok (r j : Nat) (s : State) (hok : s.ok) : outOk (execRequestRefusedResend r j s) := by
  unfold execRequestRefusedResend
  grind [State.ok, outOk, serveHost_ok, serveAcc_ok]

theorem execHrd_ok (dpa : Nat) (s : State) (hok : s.ok) : outOk (execHrd dpa s) := by
  unfold execHrd
  grind [State.ok, outOk, hostRequest_ok]

theorem execHrdx_ok (dpa : Nat) (data : List Byte) (en : BitVec 64) (s : State) (hok : s.ok) : outOk (execHrdx dpa data
    en s) := by
  unfold execHrdx
  grind [State.ok, outOk, hostRequest_ok]

theorem execHwr_ok (dpa : Nat) (data : List Byte) (en : BitVec 64) (s : State) (hok : s.ok) : outOk (execHwr dpa data en
    s) := by
  unfold execHwr
  grind [State.ok, outOk, hostRequest_ok]

theorem execHwb_ok (g : Nat) (s : State) (hok : s.ok) : outOk (execHwb g s) := by
  unfold execHwb
  dsimp only [outOk]
  split
  · exact toIdle_ok _ _ (hbmMerge_ok _ _ hok)
  · exact hok

theorem execRecallToShared_ok (g : Nat) (s : State) (hok : s.ok) : outOk (execRecallToShared g s) := by
  unfold execRecallToShared
  grind [State.ok, outOk, ackMsg_ok]

theorem execRecall_ok (g : Nat) (s : State) (hok : s.ok) : outOk (execRecall g s) := by
  unfold execRecall
  grind [State.ok, outOk, ackMsg_ok]

theorem execInvalidate_ok (g h : Nat) (s : State) (hok : s.ok) : outOk (execInvalidate g h s) := by
  unfold execInvalidate
  grind [State.ok, outOk, ackMsg_ok]

theorem execUpdate_ok (g d : Nat) (s : State) (hok : s.ok) : outOk (execUpdate g d s) := by
  unfold execUpdate
  grind [State.ok, outOk, ackMsg_ok]

theorem execClaim_ok (g : Nat) (s : State) (hok : s.ok) : outOk (execClaim g s) := by
  unfold execClaim
  grind [State.ok, outOk, ackMsg_ok]

theorem passOver_ok (s : State) (g : Nat) (c : Asker) (hok : s.ok) : (passOver s g c).ok := by
  unfold passOver
  grind [State.ok, outOk, placeEntry_ok, putDir_ok]

theorem serveCause_ok (s : State) (g : Nat) (c : Asker) (settled : Bool) (hok : s.ok) : (serveCause s g c settled).ok := by
  unfold serveCause
  grind [State.ok, outOk, passOver_ok, takeNow_ok, applyHost_ok, applyAcc_ok, applyLow_ok, giveWay_ok]

theorem execDirectoryTComplete_ok (g : Nat) (s : State) (hok : s.ok) : outOk (execDirectoryTComplete g s) := by
  unfold execDirectoryTComplete
  grind [State.ok, outOk, leaveT_ok, serveCause_ok, placeEntry_ok]

theorem execDirectoryEntryUe_ok (g : Nat) (s : State) (hok : s.ok) : outOk (execDirectoryEntryUe g s) := by
  unfold execDirectoryEntryUe
  grind [State.ok, outOk, countRecord_ok, recallAll_ok]

theorem execReplicaLineLeave_ok (g die : Nat) (s : State) (hok : s.ok) : outOk (execReplicaLineLeave g die s) := by
  unfold execReplicaLineLeave
  grind [State.ok, outOk, leaveVLine_ok]

theorem execHostCleanDrop_ok (g : Nat) (s : State) (hok : s.ok) : outOk (execHostCleanDrop g s) := by
  unfold execHostCleanDrop
  grind [State.ok, outOk, setDir_ok]

theorem execOwnerWriteBack_ok (core g : Nat) (s : State) (hok : s.ok) : outOk (execOwnerWriteBack core g s) := by
  unfold execOwnerWriteBack
  grind [State.ok, outOk, leaveL1_ok]

theorem execOwnerVwbWriteBack_ok (core g : Nat) (s : State) (hok : s.ok) : outOk (execOwnerVwbWriteBack core g s) := by
  unfold execOwnerVwbWriteBack
  grind [State.ok, outOk, vwbLine_ok]

theorem execEpochTick_ok (core : Nat) (s : State) (hok : s.ok) : outOk (execEpochTick core s) := by
  unfold execEpochTick
  grind [State.ok, outOk, onCore_ok, epochSweep_ok]

theorem execRetentionSleepEnter_ok (core : Nat) (s : State) (hok : s.ok) : outOk (execRetentionSleepEnter core s) := by
  unfold execRetentionSleepEnter
  grind [State.ok, outOk, foldl_ok, leaveL1_ok, vwbLine_ok, onCore_ok]

theorem execRetentionWake_ok (core : Nat) (s : State) (hok : s.ok) : outOk (execRetentionWake core s) := by
  unfold execRetentionWake
  grind [State.ok, outOk, wakeL1_ok]

theorem execLoadReturn_ok (r : Nat) (s : State) (hok : s.ok) : outOk (execLoadReturn r s) := by
  unfold execLoadReturn
  grind [State.ok, outOk, countCsb_ok, dropReq_ok, onDrove_ok, finishReq_ok]

theorem parkReq_ok (s : State) (q : Req) (kind : Nat) (blocks : Bool) (hok : s.ok) : (parkReq s q kind blocks).ok := by
  unfold parkReq
  grind [State.ok, outOk, endParks_ok, park_ok]

theorem execLoadLaneFault_ok (r : Nat) (s : State) (hok : s.ok) : outOk (execLoadLaneFault r s) := by
  unfold execLoadLaneFault
  grind [State.ok, outOk, parkReq_ok]

theorem execStoreLaneFault_ok (r : Nat) (s : State) (hok : s.ok) : outOk (execStoreLaneFault r s) := by
  unfold execStoreLaneFault
  grind [State.ok, outOk, parkReq_ok]

theorem cancelTld_ok (s : State) (q : Req) (hok : s.ok) : (cancelTld s q).ok := by
  unfold cancelTld
  grind [State.ok, outOk, onFlock_ok, dropReq_ok, finishFlock_ok]

theorem execTldRowFault_ok (r : Nat) (s : State) (hok : s.ok) : outOk (execTldRowFault r s) := by
  unfold execTldRowFault
  grind [State.ok, outOk, cancelTld_ok, parkReq_ok]

theorem execStoreAck_ok (r : Nat) (s : State) (hok : s.ok) : outOk (execStoreAck r s) := by
  unfold execStoreAck
  change State.ok _
  split
  · exact hok
  · split
    · exact hok
    · extract_lets t
      have ht : t.ok := by
        unfold t
        split
        · exact hok
        · refine foldl_ok _ ?_ _ _ hok
          intro s j h
          split
          · rename_i q' a' _
            split
            · cases e : l1Store s q' j a' with
              | none => exact h
              | some t => exact l1Store_ok _ _ _ _ _ e h
            · exact h
          · exact h
      split
      · split
        · exact finishReq_ok _ _ ht
        · exact ht
      · exact ht

theorem execAtomicReturn_ok (r : Nat) (s : State) (hok : s.ok) : outOk (execAtomicReturn r s) := by
  unfold execAtomicReturn
  grind [State.ok, outOk, onDrove_ok, finishReq_ok, epochSweep_ok]

theorem execScratchpadBankAccess_ok (r j : Nat) (s : State) (hok : s.ok) : outOk (execScratchpadBankAccess r j s) := by
  unfold execScratchpadBankAccess
  dsimp only [outOk]
  split
  · exact hok
  · split
    · exact hok
    · split
      · exact finishAcc_ok _ _ _ _ _ hok
      · split
        · exact doneAcc_ok _ _ _ _ (spadWr_ok _ _ _ _ hok)
        · exact doneAcc_ok _ _ _ _ (spadWr_ok _ _ _ _ hok)

theorem farApply_ok (s : State) (q : Req) (j : Nat) (a : Acc) (p : Nat) (get : State → Memory) (put : State → Memory →
    State) (hok : s.ok) (hg : ∀ s, s.ok → Memory.wf (get s) = true)
    (hp : ∀ s m, s.ok → Memory.wf m = true → (put s m).ok) : (farApply s q j a p get put).ok := by
  have hw : ∀ s a n x, s.ok → (put s (memWrite (get s) a n x)).ok := fun s a n x h => hp _ _ h (memWrite_wf _ _ _ (hg _ h))
  unfold farApply
  extract_lets m
  split
  · exact finishAcc_ok _ _ _ _ _ hok
  · split
    · exact sendLow_ok _ _ _ _ _ _ (doneAcc_ok _ _ _ _ (hw _ _ _ _ hok))
    · exact doneAcc_ok _ _ _ _ (hw _ _ _ _ hok)
    · exact wideArrived_ok _ _ _ _ _ (hw _ _ _ _ hok)
    · exact evpostApply_ok _ _ _ _ _ _ hok (fun s n h => hw _ _ _ _ h)
    · split
      · exact doneAcc_ok _ _ _ _ (hw _ _ _ _ hok)
      · exact doneAcc_ok _ _ _ _ (hw _ _ _ _ hok)

theorem peerWrites_ok (s : State) (bs : List (Nat × Byte)) (hok : s.ok) : (peerWrites s bs).ok := by
  exact setPeer_ok _ _ hok (foldl_wf _ (fun m (x : Nat × Byte) h => memSet_wf _ _ h) _ _ (peer_ok hok))

theorem peerServes_ok (s : State) (r j : Nat) (cause : BitVec 8) (ws : List (Nat × Byte)) (hok : s.ok) : (peerServes s r
    j cause ws).ok := by
  have hp := peerWrites_ok s ws hok
  unfold peerServes
  split
  · exact hok
  · dsimp only
    repeat' split
    all_goals first
      | exact hp
      | exact onAcc_ok _ _ _ _ hp
      | exact accFault_ok _ _ _ _ _ hp
      | exact farApply_ok _ _ _ _ _ _ _ hp (fun s h => peer_ok h) (fun s m h k => setPeer_ok _ _ h k)

theorem peerIncoming_ok (s : State) (dev peerCtx ctx va size : Nat) (op : PeerOp) (hok : s.ok) : (peerIncoming s dev
    peerCtx ctx va size op).ok := by
  unfold peerIncoming
  grind [State.ok, outOk, dieAccess_ok, openPage_ok, pastureAccess_ok, takeRead_ok, putAt_ok, takeGranule_ok]

theorem execPeerAccessRequest_ok (x : PeerAccess) (s : State) (hok : s.ok) : outOk (execPeerAccessRequest x s) := by
  unfold execPeerAccessRequest
  grind [State.ok, outOk, peerServes_ok, peerIncoming_ok]

theorem execRoute10Ack_ok (r j : Nat) (ws : List (Nat × Byte)) (s : State) (hok : s.ok) : outOk (execRoute10Ack r j ws s)
    := by
  have ht := setHost_ok s _ hok (foldl_wf _ (fun m (x : Nat × Byte) h => memSet_wf (x.1 % 2 ^ 62) x.2 h) ws _ (host_ok hok))
  unfold execRoute10Ack
  change State.ok _
  split
  · exact hok
  · split
    · exact hok
    · dsimp only
      split
      · exact doneAcc_ok _ _ _ _ ht
      · exact farApply_ok _ _ _ _ _ _ _ ht (fun s h => host_ok h) (fun s m h k => setHost_ok _ _ h k)

theorem expansionDone_ok (s : State) (c : BitVec 16) (va : Nat) (fail : Option (BitVec 8)) (hok : s.ok) : (expansionDone s c
  va fail).ok := by
  unfold expansionDone
  grind [State.ok, outOk]

end Sys2Proof.Machine
end

