-- ==== Sys2Proof/Laws/KeepsMatrix.lean ====
section
/-! SUPPORT. The memories keep their canonical form: the operations of Machine/Matrix.lean. -/

set_option Elab.async false

namespace Sys2Proof.Machine

theorem postPass_ok (s : State) (pad k : Nat) (hok : s.ok) : (postPass s pad k).ok := by
  unfold postPass
  grind [State.ok, outOk]

theorem passOp_ok (op : Nat) (types : Nat → Nat → Bool) (td : BitVec 4) (ka : Bool) (a : BitVec 7) (kb : Bool) (b :
    BitVec 7) (eta : Bool) (s : State) (hok : s.ok) : outOk (passOp op types td ka a kb b eta s) := by
  unfold passOp
  grind [State.ok, outOk, issueIf_ok, newId_ok, onFl_ok, retire_ok, unpop_ok]

theorem execMma_ok (td : BitVec 4) (ka : Bool) (a : BitVec 7) (kb : Bool) (b : BitVec 7) (eta : Bool) (s : State) (hok :
    s.ok) : outOk (execMma td ka a kb b eta s) := by
  unfold execMma
  grind [State.ok, outOk, passOp_ok]

theorem execMmar_ok (td : BitVec 4) (ka : Bool) (a : BitVec 7) (kb : Bool) (b : BitVec 7) (eta : Bool) (s : State) (hok :
    s.ok) : outOk (execMmar td ka a kb b eta s) := by
  unfold execMmar
  grind [State.ok, outOk, passOp_ok]

theorem execMmab_ok (td : BitVec 4) (ka : Bool) (a : BitVec 7) (kb : Bool) (b : BitVec 7) (eta : Bool) (s : State) (hok :
    s.ok) : outOk (execMmab td ka a kb b eta s) := by
  unfold execMmab
  grind [State.ok, outOk, passOp_ok]

theorem execMatrixGrant_ok (pad k : Nat) (s : State) (hok : s.ok) : outOk (execMatrixGrant pad k s) := by
  unfold execMatrixGrant
  grind [State.ok, outOk, postPass_ok]

theorem execReservationAging_ok (pad k : Nat) (s : State) (hok : s.ok) : outOk (execReservationAging pad k s) := by
  unfold execReservationAging
  grind [State.ok, outOk]

theorem execPassComplete_ok (pad k : Nat) (s : State) (hok : s.ok) : outOk (execPassComplete pad k s) := by
  unfold execPassComplete
  grind [State.ok, outOk, foldl_ok, countLane16_ok, onFlock_ok, finishFlock_ok]

theorem execMxmodeApply_ok (pad : Nat) (s : State) (hok : s.ok) : outOk (execMxmodeApply pad s) := by
  unfold execMxmodeApply
  grind [State.ok, outOk]

theorem startTile_ok (s : State) (op td ta sub n : Nat) (hok : s.ok) : (startTile s op td ta sub n).ok := by
  unfold startTile
  grind [State.ok, outOk, foldl_ok, newId_ok, onFl_ok]

theorem execTzero_ok (t : BitVec 4) (s : State) (hok : s.ok) : outOk (execTzero t s) := by
  unfold execTzero
  grind [State.ok, outOk, issue_ok, retire_ok, startTile_ok]

theorem execTmov_ok (t u : BitVec 4) (p : BitVec 7) (s : State) (hok : s.ok) : outOk (execTmov t u p s) := by
  unfold execTmov
  grind [State.ok, outOk, issue_ok, retire_ok, startTile_ok]

theorem execTcvt_ok (t u : BitVec 4) (s : State) (hok : s.ok) : outOk (execTcvt t u s) := by
  unfold execTcvt
  grind [State.ok, outOk, issue_ok, retire_ok, startTile_ok]

theorem execTfold_ok (t u : BitVec 4) (p : BitVec 7) (s : State) (hok : s.ok) : outOk (execTfold t u p s) := by
  unfold execTfold
  grind [State.ok, outOk, issue_ok, retire_ok, startTile_ok]

theorem execTileOpComplete_ok (k : Nat) (s : State) (hok : s.ok) : outOk (execTileOpComplete k s) := by
  unfold execTileOpComplete
  grind [State.ok, outOk, onFlock_ok, finishFlock_ok, finishReq_ok]

theorem execTld_ok (t : BitVec 4) (n : BitVec 6) (s : State) (hok : s.ok) : outOk (execTld t n s) := by
  unfold execTld
  grind [State.ok, outOk, issueIf_ok, post_ok, retire_ok, onFl_ok]

theorem execTst_ok (t : BitVec 4) (n : BitVec 6) (s : State) (hok : s.ok) : outOk (execTst t n s) := by
  unfold execTst
  grind [State.ok, outOk, issueIf_ok, postStore_ok, startTile_ok]

theorem execTrd_ok (t : BitVec 4) (rc : Bool) (r i : BitVec 6) (v : BitVec 7) (s : State) (hok : s.ok) : outOk (execTrd t
    rc r i v s) := by
  unfold execTrd
  grind [State.ok, outOk, issue_ok, retire_ok, onDr_ok]

theorem execTwr_ok (t : BitVec 4) (rc : Bool) (r i : BitVec 6) (v : BitVec 7) (s : State) (hok : s.ok) : outOk (execTwr t
    rc r i v s) := by
  unfold execTwr
  grind [State.ok, outOk, foldl_ok, issue_ok, retire_ok, onFl_ok]

theorem execTscl_ok (side : Bool) (n m : BitVec 6) (s : State) (hok : s.ok) : outOk (execTscl side n m s) := by
  unfold execTscl
  grind [State.ok, outOk, issueIf_ok, retire_ok, onFl_ok]

end Sys2Proof.Machine
end

