-- ==== Sys2Proof/Laws/KeepsSystem.lean ====
section
/-! SUPPORT. The memories keep their canonical form: the operations of Machine/System.lean. -/

set_option Elab.async false

namespace Sys2Proof.Machine

theorem execTrap_ok (c : BitVec 24) (s : State) (hok : s.ok) : outOk (execTrap c s) := by
  unfold execTrap
  grind [State.ok, outOk, stopAfter_ok]

theorem execMcall_ok (p a b : BitVec 7) (k : BitVec 3) (s : State) (hok : s.ok) : outOk (execMcall p a b k s) := by
  unfold execMcall
  grind [State.ok, outOk, issueIf_ok, onDr_ok, onFl_ok]

theorem stopStep_ok (s : State) (cause : BitVec 8) (j : Nat) (hok : s.ok) : (stopStep s cause j).ok := by
  unfold stopStep
  grind [State.ok, outOk, takeStop_ok]

theorem putSlot_ok (s : State) (c : BitVec 16) (slot : Nat) (code : List W64) (hok : s.ok) : (putSlot s c slot code).ok := by
  unfold putSlot
  grind [State.ok, outOk]

theorem loadImage_ok (s : State) (slot : Nat) (code : List W64) (hok : s.ok) : (loadImage s slot code).ok := by
  unfold loadImage
  grind [State.ok, outOk, vaPut_ok, stopHere_ok, setCsbField_ok, putSlot_ok, onDr_ok, retire_ok]

theorem takeImage_ok (s : State) (va : Nat) (hok : s.ok) : (takeImage s va).ok := by
  unfold takeImage
  grind [State.ok, outOk, vaRead_ok, stopHere_ok, stopStep_ok, loadImage_ok]

theorem execMcw_ok (a : BitVec 6) (s : State) (hok : s.ok) : outOk (execMcw a s) := by
  unfold execMcw
  grind [State.ok, outOk, issueIf_ok, retire_ok, takeImage_ok]

theorem execSysrd_ok (d : BitVec 6) (n : BitVec 8) (s : State) (hok : s.ok) : outOk (execSysrd d n s) := by
  unfold execSysrd
  grind [State.ok, outOk, issue_ok, retire_ok, post_ok, onDr_ok]

theorem execSyswr_ok (a : BitVec 6) (n : BitVec 8) (s : State) (hok : s.ok) : outOk (execSyswr a n s) := by
  unfold execSyswr
  grind [State.ok, outOk, issueIf_ok, retire_ok, onDr_ok]

theorem writeDone_ok (s : State) (u : Nat) (hok : s.ok) : (writeDone s u).ok := by
  unfold writeDone
  grind [State.ok, outOk, retire_ok, select_ok]

theorem setStatus_ok (s : State) (u n x : Nat) (hok : s.ok) : (setStatus s u n x).ok := by
  unfold setStatus
  grind [State.ok, outOk, onDrove_ok]

theorem reloadRegions_ok (s : State) (p : BitVec 16 → Bool) (hok : s.ok) : (reloadRegions s p).ok := by
  unfold reloadRegions
  grind [State.ok, outOk]

theorem execTlbi_ok (a b : BitVec 6) (c : BitVec 2) (s : State) (hok : s.ok) : outOk (execTlbi a b c s) := by
  unfold execTlbi
  dsimp only
  split <;> grind [State.ok, outOk, issueIf_ok, retire_ok, reloadRegions_ok]

theorem execSlowSysrdReturn_ok (r : Nat) (s : State) (hok : s.ok) : outOk (execSlowSysrdReturn r s) := by
  unfold execSlowSysrdReturn
  grind [State.ok, outOk, onDrove_ok, dropReq_ok, countCsb_ok]

theorem plainWrite_ok (s : State) (n : Nat) (x : W64) (hok : s.ok) : (plainWrite s n x).ok := by
  unfold plainWrite
  grind [State.ok, outOk, setPriv_ok, onCtx_ok]

theorem execSysregWrite_ok (c : Nat) (s : State) (hok : s.ok) : outOk (execSysregWrite c s) := by
  unfold execSysregWrite
  grind [State.ok, outOk, writeDone_ok, plainWrite_ok]

theorem execLcctlClr_ok (c : Nat) (s : State) (hok : s.ok) : outOk (execLcctlClr c s) := by
  unfold execLcctlClr
  grind [State.ok, outOk, plainWrite_ok, writeDone_ok]

theorem command_ok (s : State) (c n : Nat) (run : State → W64 → State ⊕ BitVec 8 × Nat) (hok : s.ok) (hr : ∀ s x t,
    run s x = .inl t → s.ok → t.ok) : (command s c n run).ok := by
  unfold command
  grind [State.ok, outOk, writeDone_ok, stopHere_ok, select_ok]

theorem faultRecord_ok (s : State) (d : Drove) (hok : s.ok) : (faultRecord s d).2.ok := by
  unfold faultRecord
  grind [State.ok, outOk, vaRead_ok]

theorem onAnyDrove_ok (s : State) (d : Drove) (f : Drove → Drove) (hok : s.ok) : (onAnyDrove s d f).ok := by
  unfold onAnyDrove
  grind [State.ok, outOk, onDrove_ok, onSaved_ok]

theorem onAnyFlock_ok (s : State) (u : Nat) (f : Flock → Flock) (hok : s.ok) : (onAnyFlock s u f).ok := by
  unfold onAnyFlock
  grind [State.ok, outOk, onFlock_ok, onSaved_ok]

theorem abandonPlain_ok (s : State) (d : Drove) (kind : Nat) (hok : s.ok) : (abandonPlain s d kind).ok := by
  unfold abandonPlain
  grind [State.ok, outOk, onAnyFlock_ok, onAnyDrove_ok]

theorem settleAny_ok (s : State) (p : Park) (d : Drove) (action : Nat) (hok : s.ok) : (settleAny s p d action).ok := by
  unfold settleAny
  grind [State.ok, outOk, onSaved_ok]

theorem settlePark_ok (s : State) (d : Drove) (k action : Nat) (hok : s.ok) : (settlePark s d k action).ok := by
  unfold settlePark
  grind [State.ok, outOk, endParks_ok, abandonPlain_ok, settleAny_ok, onAnyDrove_ok]

theorem execEret_ok (s : State) (hok : s.ok) : outOk (execEret s) := by
  unfold execEret
  grind [State.ok, outOk, issue_ok, stopHere_ok, faultRecord_ok, retire_ok, terminate_ok, terminateSaved_ok,
    onAnyDrove_ok, onAnyFlock_ok, settlePark_ok]

theorem queueRead_ok (s : State) (e : DevEvent) (a n : Nat) (hok : s.ok) : (queueRead s e a n).2.ok := by
  unfold queueRead
  grind [State.ok, outOk, vaRead_ok]

theorem queuePut_ok (s : State) (e : DevEvent) (a : Nat) (bs : List Byte) (t : State) (e : queuePut s e a bs = some t)
    (hok : s.ok) : t.ok := by
  unfold queuePut at e
  grind [State.ok, outOk, homePut_ok, vaPut_ok]

theorem tryPost_ok (s : State) (x : DevEvent) (t : State) (e : tryPost s x = .posted t) (hok : s.ok) : t.ok := by
  unfold tryPost at e
  have hq := queueRead_ok s x x.va.toNat 32 hok
  dsimp only at e
  split at e
  · cases e
  · rename_i bs s' he
    rw [he] at hq
    split at e
    · cases e
    · split at e
      · cases e
      · split at e
        · cases e
        · rename_i u hu
          have hu' := queuePut_ok _ _ _ _ _ hu hq
          split at e
          · cases e
          · rename_i v hv
            have hv' := queuePut_ok _ _ _ _ _ hv hu'
            injection e with e
            exact e ▸ hv'

end Sys2Proof.Machine
end

