-- ==== Sys2Proof/Laws/KeepsLaunch.lean ====
section
/-! SUPPORT. The memories keep their canonical form: the operations of Machine/Launch.lean. -/

set_option Elab.async false

namespace Sys2Proof.Machine

theorem copyLaunch_ok (s : State) (ctx : BitVec 16) (va : Nat) (hok : s.ok) : (copyLaunch s ctx va).2.ok := by
  unfold copyLaunch
  grind [State.ok, outOk, vaRead_ok]

theorem postRange_ok (s : State) (r : Range) (typ : BitVec 16) (pay : Nat) (hok : s.ok) : (postRange s r typ pay).ok := by
  unfold postRange
  grind [State.ok, outOk, queueEvent_ok]

theorem acceptLaunch_ok (s : State) (ctx : BitVec 16) (va x : Nat) (hok : s.ok) : (acceptLaunch s ctx va x).ok := by
  unfold acceptLaunch
  grind [State.ok, outOk, postRange_ok, newId_ok]

theorem decrement_ok (s : State) (r : Range) (hok : s.ok) : (decrement s r).ok := by
  unfold decrement
  grind [State.ok, outOk, newId_ok, onRange_ok]

theorem present_ok (s : State) (ctx : BitVec 16) (va : Nat) (hok : s.ok) : (present s ctx va).2.ok := by
  unfold present
  grind [copyLaunch_ok, decrement_ok, acceptLaunch_ok]

theorem present_taken_ok (s : State) (ctx : BitVec 16) (va : Nat) (t u : State) (e : present s ctx va = (some t, u))
    (hok : s.ok) : t.ok := by
  unfold present at e
  grind [decrement_ok, copyLaunch_ok, acceptLaunch_ok]

theorem execRlaunch_ok (a : BitVec 6) (s : State) (hok : s.ok) : outOk (execRlaunch a s) := by
  unfold execRlaunch
  grind [State.ok, outOk, present_taken_ok, issueIf_ok, present_ok, retire_ok, parkMasked_ok, onDr_ok]

theorem onQueue_ok (s : State) (q : Nat) (f : LQueue → LQueue) (hok : s.ok) : (onQueue s q f).ok := by
  unfold onQueue
  grind [State.ok, outOk]

theorem execLaunchQueueDoorbell_ok (q v : Nat) (s : State) (hok : s.ok) : outOk (execLaunchQueueDoorbell q v s) := by
  unfold execLaunchQueueDoorbell
  grind [State.ok, outOk, countRecord_ok, onQueue_ok]

theorem queueAdvance_ok (s : State) (q : Nat) (hok : s.ok) : (queueAdvance s q).ok := by
  unfold queueAdvance
  grind [State.ok, outOk, onQueue_ok, homeWrite_ok]

theorem entryWord_ok (s : State) (a : Nat) (hok : s.ok) : (entryWord s a).2.ok := by
  unfold entryWord
  grind [State.ok, outOk, draw_ok]

theorem execLaunchQueueEntryTake_ok (q : Nat) (s : State) (hok : s.ok) : outOk (execLaunchQueueEntryTake q s) := by
  unfold execLaunchQueueEntryTake
  dsimp only
  repeat' split
  all_goals grind [State.ok, outOk, present_taken_ok, entryWord_ok, queueAdvance_ok, present_ok, enterPark_ok, onQueue_ok]

theorem execLqcfgWrite_ok (c : Nat) (s : State) (hok : s.ok) : outOk (execLqcfgWrite c s) := by
  unfold execLqcfgWrite
  grind [State.ok, outOk, command_ok, onQueue_ok]

theorem reserve_ok (s : State) (n : Need) (core : Nat) (hok : s.ok) : (reserve s n core).ok := by
  unfold reserve
  grind [State.ok, outOk]

theorem chooseSpad_ok (s : State) (core : Nat) (n : Need) (rest : List Need) (hok : s.ok) : (chooseSpad s core n
    rest).2.ok := by
  unfold chooseSpad
  grind [State.ok, outOk, draw_ok, reserve_ok]

theorem readyCore_ok (s : State) (ctx : BitVec 16) (core : Nat) (hok : s.ok) : (readyCore s ctx core).ok := by
  unfold readyCore
  grind [State.ok, outOk, admissionDrop_ok, wakeL1_ok, onCore_ok]

theorem addDrove_ok (r : Range) (f : Flock) (s : State) (i : Nat) (hok : s.ok) : (addDrove r f s i).ok := by
  unfold addDrove
  grind [State.ok, outOk, newId_ok]

theorem admitAt_ok (s : State) (r : Range) (lin core rest : Nat) (shepherd : Bool) (hok : s.ok) : (admitAt s r lin core
    rest shepherd).ok := by
  have h1 := chooseSpad_ok _ core (r.need none) (List.replicate rest (r.need none)) (readyCore_ok s r.ctx core hok)
  unfold admitAt
  dsimp only
  refine onRange_ok _ _ _ (foldl_ok _ (fun s i h => addDrove_ok _ _ _ _ h) _ _ ?_)
  change State.ok (ite _ _ _)
  split
  · exact h1
  · exact spadPut_ok _ _ _ h1

theorem execFlockAdmit_ok (g : Nat) (s : State) (hok : s.ok) : outOk (execFlockAdmit g s) := by
  unfold execFlockAdmit
  grind [State.ok, outOk, foldl_ok, admitAt_ok]

theorem execRangeComplete_ok (g : Nat) (s : State) (hok : s.ok) : outOk (execRangeComplete g s) := by
  unfold execRangeComplete
  grind [State.ok, outOk, postRange_ok]

theorem execDrovePromote_ok (d : Nat) (s : State) (hok : s.ok) : outOk (execDrovePromote d s) := by
  unfold execDrovePromote
  grind [State.ok, outOk, onDrove_ok]

end Sys2Proof.Machine
end

