-- ==== Sys2Proof/Laws/KeepsMapping.lean ====
section
/-! SUPPORT. The memories keep their canonical form: the operations of Machine/Mapping.lean. -/

set_option Elab.async false

namespace Sys2Proof.Machine

theorem putEntry_ok (s : State) (a w0 w1 : Nat) (hok : s.ok) : (putEntry s a w0 w1).ok := by
  unfold putEntry
  grind [State.ok, outOk, homeWrite_ok]

theorem linkTables_ok (va n : Nat) (s : State) (a spare level last : Nat) (hok : s.ok) :
    (linkTables va n s a spare level last).1.ok := by
  induction n generalizing s a spare level last with
  | zero => simpa only [linkTables] using hok
  | succ n ih =>
    simp only [linkTables]
    exact ih _ _ _ _ _ (putEntry_ok _ _ _ _ hok)

theorem reservePins_ok (s : State) (c : Cdr) (ctx : BitVec 16) (va dpa size : Nat) (hok : s.ok) : (reservePins s c ctx va
    dpa size).ok := by
  unfold reservePins
  grind [State.ok, outOk, foldl_ok, makeWay_ok, addVLine_ok]

theorem countLeaf_ok (s : State) (w0 size : Nat) (add : Bool) (hok : s.ok) : (countLeaf s w0 size add).ok := by
  unfold countLeaf
  grind [State.ok, outOk, onCdr_ok, onCore_ok]

theorem dropILines_ok (s : State) (p : ILine → Bool) (hok : s.ok) : (dropILines s p).ok := by
  unfold dropILines
  grind [State.ok, outOk]

theorem sweepPage_ok (s : State) (c : BitVec 16) (va size : Nat) (hok : s.ok) : (sweepPage s c va size).ok := by
  unfold sweepPage
  grind [State.ok, outOk, foldl_ok, dropILines_ok, leaveL1_ok, leaveVLine_ok]

theorem dropTlb_ok (s : State) (c : BitVec 16) (va size : Nat) (hok : s.ok) : (dropTlb s c va size).ok := by
  unfold dropTlb
  grind [State.ok, outOk]

theorem mapRefuse_ok (s : State) (m : MapRec) (st : Nat) (t : MapDone) (e : mapRefuse s m st = some t) (hok : s.ok) :
    t.s.ok := by
  unfold mapRefuse at e
  grind [State.ok, outOk]

theorem removePage_ok (s : State) (c : BitVec 16) (va : Nat) (p : Page) (hok : s.ok) : (removePage s c va p).ok := by
  unfold removePage
  grind [State.ok, outOk, foldl_ok, sweepPage_ok, homeWrite_ok, countLeaf_ok, dropTlb_ok]

theorem unmapPage_ok (s : State) (m : MapRec) (t : MapDone) (e : unmapPage s m = some t) (hok : s.ok) : t.s.ok := by
  unfold unmapPage at e
  grind [State.ok, outOk, mapRefuse_ok, removePage_ok]

theorem writeLeaf_ok (s : State) (m : MapRec) (path : Path) (hok : s.ok) : (writeLeaf s m path).1.ok := by
  unfold writeLeaf
  refine foldl_ok _ (fun s i h => putEntry_ok _ _ _ _ h) _ _ ?_
  cases path with
  | found t => exact hok
  | missing a n => exact linkTables_ok _ _ _ _ _ _ _ hok
  | blocked => exact hok

theorem mapEnter_ok (s : State) (m : MapRec) (path : Path) (old : Option Page) (size frame : Nat) (hok : s.ok) :
    (mapEnter s m path old size frame).s.ok := by
  unfold mapEnter
  cases old <;> grind [State.ok, writeLeaf_ok, countLeaf_ok, dropTlb_ok, reservePins_ok, sweepPage_ok]

theorem mapPage_ok (s : State) (m : MapRec) (t : MapDone) (e : mapPage s m = some t) (hok : s.ok) : t.s.ok := by
  have hr : ∀ st, mapRefuse s m st = some t → t.s.ok := fun st h => mapRefuse_ok _ _ _ _ h hok
  unfold mapPage at e
  extract_lets die sz size a root path old bare st frame at e
  clear_value st bare old path
  repeat' split at e
  all_goals first
    | exact hr _ e
    | cases e <;> exact mapEnter_ok _ _ _ _ _ _ hok

theorem clearAccessed_ok (s : State) (m : MapRec) (t : MapDone) (e : clearAccessed s m = some t) (hok : s.ok) : t.s.ok := by
  unfold clearAccessed at e
  grind [State.ok, outOk, foldl_ok, mapRefuse_ok, homeWrite_ok, dropTlb_ok]

theorem queryPage_ok (s : State) (m : MapRec) (t : MapDone) (e : queryPage s m = some t) (hok : s.ok) : t.s.ok := by
  unfold queryPage at e
  grind [State.ok, outOk, mapRefuse_ok]

theorem zoneRoom_ok (s : State) (die n : Nat) (hok : s.ok) : (zoneRoom s die n).2.ok := by
  unfold zoneRoom
  grind [State.ok, outOk, draw_ok]

theorem pushFrame_ok (s : State) (die frame : Nat) (t : State) (e : pushFrame s die frame = some t) (hok : s.ok) : t.ok := by
  unfold pushFrame at e
  grind [State.ok, outOk, homeWrite_ok]

theorem compressPage_ok (s : State) (m : MapRec) (t : MapDone) (e : compressPage s m = some t) (hok : s.ok) : t.s.ok := by
  have hr : ∀ s st, s.ok → mapRefuse s m st = some t → t.s.ok := fun s st h k => mapRefuse_ok _ _ _ _ k h
  unfold compressPage at e
  split at e
  · exact hr _ _ hok e
  · rename_i p _
    extract_lets die a frame raw n bs at e
    split at e
    · exact hr _ _ hok e
    · split at e
      · exact hr _ _ hok e
      · split at e
        · cases e
        · split at e
          · exact hr _ _ hok e
          · have hz := zoneRoom_ok s die n hok
            split at e
            · rename_i s' he
              rw [he] at hz
              exact hr _ _ hz e
            · rename_i z s' he
              rw [he] at hz
              split at e
              · exact hr _ _ hz e
              · rename_i u hu
                have hp : u.ok := pushFrame_ok _ _ _ _ hu (sweepPage_ok _ _ _ _ hz)
                injection e with e
                rw [← e]
                exact dropTlb_ok _ _ _ _ (foldl_ok _ (fun s i h => putEntry_ok _ _ _ _ h) _ _ (homePut_ok _ _ _ hp))

theorem mapCommand_ok (s : State) (c row : Nat) (run : State → MapRec → MapOut) (hok : s.ok) (hr : ∀ s r t,
    run s r = some t → s.ok → t.s.ok) : (mapCommand s c row run).ok := by
  unfold mapCommand
  dsimp only
  repeat' split
  all_goals grind [State.ok, outOk, vaRecord_ok, stopHere_ok, select_ok, putPlaces_ok, writeDone_ok, setStatus_ok]

theorem execMapcmdMap_ok (c : Nat) (s : State) (hok : s.ok) : outOk (execMapcmdMap c s) := by
  unfold execMapcmdMap
  grind [State.ok, outOk, mapCommand_ok, mapPage_ok, unmapPage_ok]

theorem execMapcmdUnmap_ok (c : Nat) (s : State) (hok : s.ok) : outOk (execMapcmdUnmap c s) := by
  unfold execMapcmdUnmap
  grind [State.ok, outOk, mapCommand_ok, unmapPage_ok]

theorem execMapcmdCompress_ok (c : Nat) (s : State) (hok : s.ok) : outOk (execMapcmdCompress c s) := by
  unfold execMapcmdCompress
  grind [State.ok, outOk, mapCommand_ok, compressPage_ok]

theorem execMapcmdClearAccessed_ok (c : Nat) (s : State) (hok : s.ok) : outOk (execMapcmdClearAccessed c s) := by
  unfold execMapcmdClearAccessed
  grind [State.ok, outOk, mapCommand_ok, clearAccessed_ok]

theorem execMapcmdQuery_ok (c : Nat) (s : State) (hok : s.ok) : outOk (execMapcmdQuery c s) := by
  unfold execMapcmdQuery
  grind [State.ok, outOk, mapCommand_ok, queryPage_ok]

theorem sweepLinks_ok (s : State) (d : Drove) (hok : s.ok) : (sweepLinks s d).ok := by
  unfold sweepLinks
  grind [State.ok, outOk, saveLinks_ok, onDrove_ok]

theorem sweepCtx_ok (s : State) (c : BitVec 16) (hok : s.ok) : (sweepCtx s c).ok := by
  unfold sweepCtx
  grind [State.ok, outOk, foldl_ok, sweepLinks_ok, dropILines_ok, leaveL1_ok, leaveVLine_ok, reportLeave_ok]

theorem execXtcrBind_ok (c : Nat) (s : State) (hok : s.ok) : outOk (execXtcrBind c s) := by
  unfold execXtcrBind
  grind [State.ok, outOk, writeDone_ok, setPriv_ok, sweepCtx_ok, onCtx_ok, reloadRegions_ok]

theorem execSramwinWrite_ok (c : Nat) (s : State) (hok : s.ok) : outOk (execSramwinWrite c s) := by
  unfold execSramwinWrite
  grind [State.ok, outOk, foldl_ok, writeDone_ok, setPriv_ok, onCore_ok, leaveL1_ok]

theorem execCzoneWrite_ok (c : Nat) (s : State) (hok : s.ok) : outOk (execCzoneWrite c s) := by
  unfold execCzoneWrite
  grind [State.ok, outOk, writeDone_ok, setPriv_ok]

end Sys2Proof.Machine
end

