-- ==== Sys2Proof/Laws/KeepsVCache.lean ====
section
/-! SUPPORT. The memories keep their canonical form: the operations of Machine/VCache.lean. -/

set_option Elab.async false

namespace Sys2Proof.Machine

theorem vcEvent_ok (s : State) (typ : BitVec 16) (c : Cdr) (share : Nat) (token pay : W64) (hok : s.ok) : (vcEvent s typ
    c share token pay).ok := by
  unfold vcEvent
  grind [State.ok, outOk, queueEvent_ok]

theorem unhouse_ok (s : State) (c : Cdr) (l : VLine) (hok : s.ok) : (unhouse s c l).ok := by
  unfold unhouse
  grind [State.ok, outOk, vcEvent_ok]

theorem placeCommons_ok (retires : Bool) (c : Cdr) (s : State) (l : VLine) (hok : s.ok) : (placeCommons retires c s l).ok :=
  by
  unfold placeCommons
  grind [State.ok, outOk, addVLine_ok, unhouse_ok]

theorem rehouseCommons_ok (retires : Bool) (before s : State) (hs : s.ok) : (rehouseCommons retires before s).ok := by
  unfold rehouseCommons
  grind [State.ok, outOk, foldl_ok, placeCommons_ok]

theorem withCommons_ok (s : State) (f : State → State) (hok : s.ok) (hf : ∀ s : State,
    s.ok → (f s).ok) : (withCommons s f).ok := by
  unfold withCommons
  grind [State.ok, outOk, rehouseCommons_ok]

theorem reserveMoved_ok (s : State) (vc : Nat) (hok : s.ok) : (reserveMoved s vc).ok := by
  unfold reserveMoved
  grind [State.ok, outOk, foldl_ok, addVLine_ok]

theorem startMigration_ok (s : State) (c : Cdr) (lsz ways : Nat) (shares : List Nat) (token : W64) (hok : s.ok) :
    (startMigration s c lsz ways shares token).ok := by
  unfold startMigration
  grind [State.ok, outOk, onCdr_ok, reserveMoved_ok, withCommons_ok]

theorem startRetiring_ok (s : State) (hok : s.ok) : (startRetiring s).ok := by
  unfold startRetiring
  grind [State.ok, outOk, foldl_ok, startMigration_ok]

theorem orderRetire_ok (s : State) (share : Nat) (token : W64) (hok : s.ok) : (orderRetire s share token).ok := by
  unfold orderRetire
  grind [State.ok, outOk, startRetiring_ok]

theorem retireShare_ok (s : State) (share : Nat) (hok : s.ok) : (retireShare s share).ok := by
  unfold retireShare
  grind [State.ok, outOk, orderRetire_ok]

theorem vcPerform_ok (s : State) (c : Cdr) (m : VcRec) (shares : List Nat) (hok : s.ok) : (vcPerform s c m shares).1.ok := by
  unfold vcPerform
  grind [State.ok, outOk, onCdr_ok, withCommons_ok, startMigration_ok, homePut_ok, orderRetire_ok]

theorem ite_out {α : Type} {p : Prop} [Decidable p] {a b : Option α} {x : α} {P : Prop} (e : (if p then a else b) = some x)
    (ha : a = some x → P) (hb : b = some x → P) : P := by
  split at e
  · exact ha e
  · exact hb e

theorem vcRun_ok (s : State) (m : VcRec) (t : State) (st : Nat) (e : vcRun s m = some (t, st)) (hok : s.ok) : t.ok := by
  have hs : ∀ u, some (s, u) = some (t, st) → t.ok := by
    intro u h
    injection h with h
    injection h with h _
    exact h ▸ hok
  have hp : ∀ c xs, some (vcPerform s c m xs) = some (t, st) → t.ok := by
    intro c xs h
    have := vcPerform_ok s c m xs hok
    injection h with h
    rw [h] at this
    exact this
  unfold vcRun at e
  split at e
  · exact hs _ e
  · refine ite_out e (hs _) fun e => ite_out e (hs _) fun e => ite_out e (hs _) fun e => ite_out e (hs _) fun e =>
      ite_out e (fun h => nomatch h) fun e => ite_out e (fun e => ite_out e (hs _) (hp _ _)) fun e =>
      ite_out e (hp _ _) fun e => ?_
    split at e
    · exact hs _ e
    · exact ite_out e (hs _) (hp _ _)

theorem vcCommand_ok (s : State) (c row : Nat) (hok : s.ok) : (vcCommand s c row).ok := by
  unfold vcCommand
  dsimp only
  repeat' split
  all_goals grind [State.ok, outOk, vcRun_ok, vaRecord_ok, stopHere_ok, select_ok, writeDone_ok, setStatus_ok, putPlaces_ok]

theorem execVcDefine_ok (c : Nat) (s : State) (hok : s.ok) : outOk (execVcDefine c s) := by
  unfold execVcDefine
  grind [State.ok, outOk, vcCommand_ok]

theorem execVcResize_ok (c : Nat) (s : State) (hok : s.ok) : outOk (execVcResize c s) := by
  unfold execVcResize
  grind [State.ok, outOk, vcCommand_ok]

theorem execVcMove_ok (c : Nat) (s : State) (hok : s.ok) : outOk (execVcMove c s) := by
  unfold execVcMove
  grind [State.ok, outOk, vcCommand_ok]

theorem execVcFree_ok (c : Nat) (s : State) (hok : s.ok) : outOk (execVcFree c s) := by
  unfold execVcFree
  grind [State.ok, outOk, vcCommand_ok]

theorem execVcRead_ok (c : Nat) (s : State) (hok : s.ok) : outOk (execVcRead c s) := by
  unfold execVcRead
  grind [State.ok, outOk, vcCommand_ok]

theorem execVcModify_ok (c : Nat) (s : State) (hok : s.ok) : outOk (execVcModify c s) := by
  unfold execVcModify
  grind [State.ok, outOk, vcCommand_ok]

theorem execVcRetireShare_ok (c : Nat) (s : State) (hok : s.ok) : outOk (execVcRetireShare c s) := by
  unfold execVcRetireShare
  grind [State.ok, outOk, vcCommand_ok]

theorem execVcShareMap_ok (c : Nat) (s : State) (hok : s.ok) : outOk (execVcShareMap c s) := by
  unfold execVcShareMap
  grind [State.ok, outOk, vcCommand_ok]

theorem sweepLine_ok (c : Cdr) (s : State) (l : VLine) (hok : s.ok) : (sweepLine c s l).ok := by
  unfold sweepLine
  grind [State.ok, outOk, leaveVLine_ok, unhouse_ok, moveVLine_ok, spareWay_ok]

theorem execVcSweepSet_ok (vc die : Nat) (s : State) (hok : s.ok) : outOk (execVcSweepSet vc die s) := by
  unfold execVcSweepSet
  grind [State.ok, outOk, foldl_ok, sweepLine_ok, onCdr_ok]

theorem joinRetired_ok (s : State) (xs : List Nat) (hok : s.ok) : (joinRetired s xs).ok := by
  unfold joinRetired
  grind [State.ok, outOk, foldl_ok]

theorem execVcMigrationComplete_ok (vc : Nat) (s : State) (hok : s.ok) : outOk (execVcMigrationComplete vc s) := by
  unfold execVcMigrationComplete
  grind [State.ok, outOk, onCdr_ok, withCommons_ok, joinRetired_ok, startRetiring_ok, vcEvent_ok]

theorem execVcFreeComplete_ok (vc : Nat) (s : State) (hok : s.ok) : outOk (execVcFreeComplete vc s) := by
  unfold execVcFreeComplete
  grind [State.ok, outOk, onCdr_ok, startRetiring_ok, vcEvent_ok, withCommons_ok]

theorem execShareRetireComplete_ok (share : Nat) (s : State) (hok : s.ok) : outOk (execShareRetireComplete share s) := by
  unfold execShareRetireComplete
  grind [State.ok, outOk, withCommons_ok, joinRetired_ok, vcEvent_ok, rehouseCommons_ok]

theorem execCorrectedError_ok (share : Nat) (s : State) (hok : s.ok) : outOk (execCorrectedError share s) := by
  unfold execCorrectedError
  grind [State.ok, outOk, countRecord_ok, retireShare_ok]

theorem unmapGranule_ok (s : State) (g : Nat) (hok : s.ok) : (unmapGranule s g).ok := by
  unfold unmapGranule
  grind [State.ok, outOk, foldl_ok, removePage_ok]

theorem enterAet_ok (s : State) (g : Nat) (m : BitVec 32) (hok : s.ok) : (enterAet s g m).ok := by
  unfold enterAet
  grind [State.ok, outOk, unmapGranule_ok]

theorem ownerError_ok (s : State) (dpa c : Nat) (hok : s.ok) : (ownerError s dpa c).ok := by
  unfold ownerError
  extract_lets g w e asked
  clear_value asked e w g
  repeat' split
  all_goals first
    | with_reducible exact hok
    | with_reducible exact enterAet_ok _ _ _ hok
    | with_reducible exact enterAet_ok _ _ _ (recallAll_ok _ _ hok)
    | with_reducible exact enterAet_ok _ _ _ (leaveL1_ok _ _ hok)

theorem execUncorrectableError_ok (dpa : Nat) (share : Option Nat) (s : State) (hok : s.ok) : outOk
    (execUncorrectableError dpa share s) := by
  unfold execUncorrectableError
  grind [State.ok, outOk, foldl_ok, ownerError_ok, enterAet_ok, countRecord_ok, setVLine_ok, reportLeave_ok,
    leaveVLine_ok, retireShare_ok]

theorem execAetclrWrite_ok (c : Nat) (s : State) (hok : s.ok) : outOk (execAetclrWrite c s) := by
  unfold execAetclrWrite
  grind [State.ok, outOk, writeDone_ok]

theorem execDeviceEventPost_ok (k : Nat) (s : State) (hok : s.ok) : outOk (execDeviceEventPost k s) := by
  unfold execDeviceEventPost
  change State.ok _
  split
  · exact hok
  · split
    · exact hok
    · rename_i t ht
      have h := tryPost_ok _ _ _ ht hok
      split
      · exact startRetiring_ok _ h
      · exact h
    · split
      · exact hok
      · exact countRecord_ok s 0x1A4A 0 64 hok

end Sys2Proof.Machine
end

