-- ==== Sys2Proof/Laws/KeepsCopy.lean ====
section
/-! SUPPORT. The memories keep their canonical form: the operations of Machine/Copy.lean. -/

set_option Elab.async false

namespace Sys2Proof.Machine

theorem execCpy_ok (a b : BitVec 6) (s : State) (hok : s.ok) : outOk (execCpy a b s) := by
  unfold execCpy
  grind [State.ok, outOk, issueIf_ok, takeTurn_ok, retire_ok]

theorem copyLeaf_ok (s : State) (c : CopyJob) (va n : Nat) (ask : Ask) (bx : Bool) (hok : s.ok) : (copyLeaf s c va n ask
  bx).2.ok := by
  unfold copyLeaf
  grind [State.ok, outOk, dieAccess_ok, openPage_ok]

theorem copyPasture_ok (s : State) (c : CopyJob) (l : Leaf) (a va : Nat) (write : Bool) (hok : s.ok) : (copyPasture s c l
    a va write).ok := by
  unfold copyPasture
  grind [State.ok, outOk, pastureAccess_ok]

theorem copyRead_ok (s : State) (c : CopyJob) (spad : Bool) (a n : Nat) (hok : s.ok) : (copyRead s c spad a n).2.ok := by
  unfold copyRead
  grind [State.ok, outOk, copyLeaf_ok, copyPasture_ok, takeRead_ok, draw_ok]

theorem copyWrite_ok (s : State) (c : CopyJob) (spad : Bool) (a : Nat) (bs : List Byte) (hok : s.ok) : (copyWrite s c
    spad a bs).2.ok := by
  unfold copyWrite
  dsimp only
  split
  · exact spadPut_ok _ _ _ hok
  · split
    · have hl := copyLeaf_ok s c (localOf s a) bs.length .write false hok
      split
      · rename_i he
        rw [he] at hl
        exact hl
      · rename_i he
        rw [he] at hl
        exact putAt_ok _ _ _ _ (copyPasture_ok _ _ _ _ _ _ hl)
    · split
      · exact draw_ok _ hok
      · exact setPeer_ok _ _ (draw_ok _ hok) (memPut_wf _ _ (peer_ok (draw_ok _ hok)))
    · exact hostPut_ok _ _ _ hok
    · exact hok

theorem copyReads_ok (c : CopyJob) (fuel : Nat) (s : State) (a n : Nat) (hok : s.ok) : (copyReads c fuel s a n).2.ok := by
  induction fuel generalizing s a n with
  | zero => exact hok
  | succ fuel ih =>
    unfold copyReads
    dsimp only
    split
    · exact hok
    · have h1 := copyRead_ok s c (copySsp c.d2) (a % 2 ^ 64) (min n (128 - a % 2 ^ 64 % 128)) hok
      split
      · rename_i he
        rw [he] at h1
        exact h1
      · rename_i s' he
        rw [he] at h1
        have h3 := ih s' (a % 2 ^ 64 + min n (128 - a % 2 ^ 64 % 128)) (n - min n (128 - a % 2 ^ 64 % 128)) h1
        split
        · rename_i he
          rw [he] at h3
          exact h3
        · exact h3

theorem plainRun_ok (c : CopyJob) (fuel : Nat) (s : State) (pos : Nat) (hok : s.ok) : (plainRun c fuel s pos).1.ok := by
  induction fuel generalizing s pos with
  | zero => exact hok
  | succ fuel ih =>
    unfold plainRun
    grind [copyReads_ok, copyWrite_ok]

theorem copyFrame_ok (s : State) (c : CopyJob) (a : Nat) (ask : Ask) (hok : s.ok) : (copyFrame s c a ask).2.ok := by
  unfold copyFrame
  grind [State.ok, outOk, copyLeaf_ok]

theorem copyTouch_ok (s : State) (c : CopyJob) (f : Frame) (l : Leaf) (va n : Nat) (write : Bool) (hok : s.ok) :
    (copyTouch s c f l va n write).ok := by
  unfold copyTouch
  grind [State.ok, outOk, foldl_ok, pastureAccess_ok]

theorem stageBlock_ok (s : State) (c : CopyJob) (f : Frame) (n i q : Nat) (hok : s.ok) : (stageBlock s c f n i q).ok := by
  have hok' := takeBlock_ok s f (f.reads s n) hok
  unfold stageBlock
  extract_lets s nb esc codes base corr count lows t outs
  have ht : t.ok := onSpad_ok s _ hok' (memWrite_wf _ _ _ (memPut_wf _ _ (spad_ok hok')))
  clear_value t corr
  split
  rename_i u k he
  have hu : (u, k).1.ok := by
    rw [← he]
    refine foldl_inv (fun x : State × Nat => x.1.ok) _ ?_ _ _ ht
    intro x m h
    obtain ⟨s1, k1⟩ := x
    dsimp only
    repeat' split
    all_goals first
      | with_reducible exact h
      | with_reducible exact countLane16_ok _ _ _ h
      | with_reducible exact spadWr_ok _ _ _ _ h
      | with_reducible exact spadWr_ok _ _ _ _ (countLane16_ok _ _ _ h)
  exact spadWr_ok _ _ _ _ hu

theorem stageRun_ok (c : CopyJob) (f : Frame) (e : Nat) (l : Leaf) (fuel : Nat) (s : State) (pos : Nat) (hok : s.ok) :
    (stageRun c f e l fuel s pos).1.ok := by
  induction fuel generalizing s pos with
  | zero => exact hok
  | succ fuel ih =>
    unfold stageRun
    dsimp only
    split
    · exact hok
    · split
      · exact hok
      · exact ih _ _ (stageBlock_ok _ _ _ _ _ _ (copyTouch_ok _ _ _ _ _ _ _ hok))

theorem encodeSource_ok (s : State) (c : CopyJob) (i q : Nat) (hok : s.ok) : (encodeSource s c i q).2.ok := by
  unfold encodeSource
  dsimp only
  repeat' split
  all_goals grind [State.ok, outOk, copyReads_ok]

theorem encodeRun_ok (c : CopyJob) (f : Frame) (e : Nat) (l : Leaf) (fuel : Nat) (s : State) (pos : Nat) (hok : s.ok) :
    (encodeRun c f e l fuel s pos).1.ok := by
  induction fuel generalizing s pos with
  | zero => exact hok
  | succ fuel ih =>
    unfold encodeRun
    dsimp only
    split
    · exact hok
    · have hs := encodeSource_ok s c (pos / copyNblk c.d2) (pos % copyNblk c.d2) hok
      split
      · rename_i he
        rw [he] at hs
        exact hs
      · rename_i he
        rw [he] at hs
        split
        · exact hs
        · exact ih _ _ (writeBlock_ok _ _ _ _ (copyTouch_ok _ _ _ _ _ _ _ hs))

theorem encodeGather_ok (c : CopyJob) (e fuel : Nat) (s : State) (pos : Nat) (hok : s.ok) :
    (encodeGather c e fuel s pos).2.ok := by
  induction fuel generalizing s pos with
  | zero => exact hok
  | succ fuel ih =>
    unfold encodeGather
    grind [encodeSource_ok]

theorem clearSide_ok (s : State) (f : Frame) (hok : s.ok) : (clearSide s f).ok := by
  unfold clearSide
  grind [State.ok, outOk, foldl_ok, takeBlock_ok, rawWrite_ok]

theorem encodeWhole_ok (s : State) (c : CopyJob) (f : Frame) (e : Nat) (l : Leaf) (hok : s.ok) : (encodeWhole s c f e
    l).1.ok := by
  unfold encodeWhole
  dsimp only
  repeat' split
  all_goals grind [State.ok, outOk, foldl_ok, encodeGather_ok, clearSide_ok, writeBlock_ok, copyTouch_ok]

theorem copyRun_ok (s : State) (c : CopyJob) (hok : s.ok) : (copyRun s c).1.ok := by
  unfold copyRun
  dsimp only
  repeat' split
  all_goals grind [State.ok, outOk, plainRun_ok, copyFrame_ok, stageRun_ok, encodeWhole_ok, encodeRun_ok]

theorem endCopy_ok (s : State) (c : CopyJob) (status : Nat) (hok : s.ok) : (endCopy s c status).ok := by
  unfold endCopy
  grind [State.ok, outOk]

theorem execCopyComplete_ok (k : Nat) (s : State) (hok : s.ok) : outOk (execCopyComplete k s) := by
  unfold execCopyComplete
  grind [State.ok, outOk, copyRun_ok, endCopy_ok]

theorem execCopyFault_ok (k : Nat) (s : State) (hok : s.ok) : outOk (execCopyFault k s) := by
  unfold execCopyFault
  grind [State.ok, outOk, copyRun_ok, newId_ok, endCopy_ok, enterPark_ok]

end Sys2Proof.Machine
end

