-- ==== Sys2Proof/Laws/KeepsColl.lean ====
section
/-! SUPPORT. The memories keep their canonical form: the operations of Machine/Coll.lean. -/

set_option Elab.async false

namespace Sys2Proof.Machine

theorem onColl_ok (s : State) (id : Nat) (f : CollOp → CollOp) (hok : s.ok) : (onColl s id f).ok := by
  unfold onColl
  grind [State.ok, outOk, onAnyFlock_ok]

theorem sendColl_ok (s : State) (f : Flock) (c : CollOp) (dest ptype level node chunk : Nat) (payload : List W32) (n :
    Option CollNode) (hok : s.ok) : (sendColl s f c dest ptype level node chunk payload n).ok := by
  unfold sendColl
  grind [State.ok, outOk, sendPacket_ok]

theorem finishColl_ok (s : State) (id status : Nat) (hok : s.ok) : (finishColl s id status).ok := by
  unfold finishColl
  grind [State.ok, outOk, foldl_ok, onColl_ok, onAnyFlock_ok, dropPark_ok]

theorem mismatch_ok (s : State) (id : Nat) (hok : s.ok) : (mismatch s id).ok := by
  unfold mismatch
  grind [State.ok, outOk, finishColl_ok, onColl_ok, cancelColl_ok]

theorem takeResults_ok (s : State) (id : Nat) (hok : s.ok) : (takeResults s id).ok := by
  unfold takeResults
  grind [State.ok, outOk, foldl_ok, finishColl_ok, onAnyFlock_ok]

theorem passDown_ok (s : State) (f : Flock) (c : CollOp) (n : CollNode) (k : Nat) (hok : s.ok) : (passDown s f c n k).ok
    := by
  unfold passDown
  grind [State.ok, outOk, foldl_ok, sendColl_ok]

theorem takeResult_ok (s : State) (id : Nat) (n : CollNode) (k : Nat) (hok : s.ok) : (takeResult s id n k).ok := by
  unfold takeResult
  grind [State.ok, outOk, takeResults_ok, onColl_ok, passDown_ok]

theorem raiseNode_ok (s : State) (id : Nat) (n : CollNode) (xs : List (W32 × W32)) (hok : s.ok) : (raiseNode s id n
    xs).ok := by
  unfold raiseNode
  grind [State.ok, outOk, onColl_ok, takeResult_ok, sendColl_ok]

theorem beginData_ok (s : State) (id : Nat) (agreed : List (BitVec 16)) (hok : s.ok) : (beginData s id agreed).ok := by
  unfold beginData
  grind [State.ok, outOk, foldl_ok, onColl_ok, raiseNode_ok]

theorem broadcastAgreed_ok (s : State) (f : Flock) (c : CollOp) (m : List (BitVec 16)) (hok : s.ok) : (broadcastAgreed s
    f c m).ok := by
  unfold broadcastAgreed
  grind [State.ok, outOk, foldl_ok, sendColl_ok, beginData_ok]

theorem climb_ok (id fuel : Nat) (s : State) (k : Nat) (hok : s.ok) : (climb id fuel s k).ok := by
  induction fuel generalizing s k with
  | zero => exact hok
  | succ fuel ih =>
    unfold climb
    split
    · exact hok
    · dsimp only
      split
      · exact hok
      · split
        · split
          · exact hok
          · exact broadcastAgreed_ok _ _ _ _ hok
        · split
          · split
            · exact hok
            · exact sendColl_ok _ _ _ _ _ _ _ _ _ _ (onColl_ok _ _ _ hok)
          · split
            · exact hok
            · refine ih _ _ ?_
              split
              · exact hok
              · exact onColl_ok _ _ _ hok

theorem readTable_ok (s : State) (ctx : BitVec 16) (a : CollArgs) (hok : s.ok) : (readTable s ctx a).2.ok := by
  unfold readTable
  grind [State.ok, outOk, draw_ok, vaPasture_ok, openPages_ok]

theorem phase0_ok (s : State) (id : Nat) (hok : s.ok) : (phase0 s id).ok := by
  unfold phase0
  dsimp only
  repeat' split
  all_goals grind [State.ok, outOk, readTable_ok, mismatch_ok, onColl_ok, climb_ok]

theorem lastTurn_ok (s : State) (id : Nat) (hok : s.ok) : (lastTurn s id).ok := by
  unfold lastTurn
  split <;> grind [State.ok, outOk, foldl_ok, onColl_ok, wake_ok, finishColl_ok]

theorem startColl_ok (s : State) (id : Nat) (hok : s.ok) : (startColl s id).ok := by
  unfold startColl
  grind [State.ok, outOk, onColl_ok, finishColl_ok, mismatch_ok, phase0_ok, lastTurn_ok]

theorem execColl_ok (t : BitVec 4) (d b : BitVec 6) (s : State) (hok : s.ok) : outOk (execColl t d b s) := by
  unfold execColl
  grind [State.ok, outOk, foldl_ok, issueIf_ok, takeTurn_ok, onFl_ok, startColl_ok, retire_ok]

theorem execExit_ok (s : State) (hok : s.ok) : outOk (execExit s) := by
  unfold execExit
  grind [State.ok, outOk, foldl_ok, issueIf_ok, leaveFlock_ok, retire_ok, onDr_ok, onRange_ok, startColl_ok, finishFlock_ok]

theorem unhold_ok (s : State) (ptype : Nat) (p : CollPacket) (hok : s.ok) : (unhold s ptype p).2.ok := by
  unfold unhold
  grind [State.ok, outOk]

theorem holdPacket_ok (s : State) (ptype : Nat) (p : CollPacket) (n : Option CollNode) (hok : s.ok) : (holdPacket s ptype
    p n).ok := by
  unfold holdPacket
  grind [State.ok, outOk]

theorem cancelBy_ok (s : State) (p : CollPacket) (hok : s.ok) : (cancelBy s p).ok := by
  unfold cancelBy
  grind [State.ok, outOk, cancelColl_ok]

theorem execCollPhase0Packet_ok (p : CollPacket) (s : State) (hok : s.ok) : outOk (execCollPhase0Packet p s) := by
  unfold execCollPhase0Packet
  dsimp only
  repeat' split
  all_goals grind [State.ok, outOk, foldl_ok, unhold_ok, cancelBy_ok, beginData_ok, holdPacket_ok, mismatch_ok, climb_ok,
    onColl_ok]

theorem takeData_ok (s : State) (p : CollPacket) (n : Option CollNode) (hok : s.ok) : (takeData s p n).ok := by
  unfold takeData
  grind [State.ok, outOk, holdPacket_ok, countRecord_ok, raiseNode_ok, onColl_ok]

theorem execCollDataPacket_ok (p : CollPacket) (s : State) (hok : s.ok) : outOk (execCollDataPacket p s) := by
  unfold execCollDataPacket
  grind [State.ok, outOk, unhold_ok, takeData_ok, cancelBy_ok]

theorem execCollResultPacket_ok (p : CollPacket) (s : State) (hok : s.ok) : outOk (execCollResultPacket p s) := by
  unfold execCollResultPacket
  grind [State.ok, outOk, unhold_ok, holdPacket_ok, countRecord_ok, takeResult_ok, cancelBy_ok]

theorem execCollCancelPacket_ok (p : CollPacket) (s : State) (hok : s.ok) : outOk (execCollCancelPacket p s) := by
  unfold execCollCancelPacket
  grind [State.ok, outOk, foldl_ok, holdPacket_ok, onColl_ok, finishColl_ok]

theorem execReduceFlockDispatch_ok (c level node chunk : Nat) (s : State) (hok : s.ok) : outOk (execReduceFlockDispatch c
    level node chunk s) := by
  unfold execReduceFlockDispatch
  grind [State.ok, outOk, raiseNode_ok]

theorem execCollGroupTableFault_ok (c : Nat) (s : State) (hok : s.ok) : outOk (execCollGroupTableFault c s) := by
  unfold execCollGroupTableFault
  grind [State.ok, outOk, vaRead_ok, lastTurn_ok, phase0_ok, mismatch_ok, newId_ok, onColl_ok, readTable_ok, countRecord_ok,
    enterPark_ok]

end Sys2Proof.Machine
end

