-- ==== Sys2Proof/Laws/KeepsRoutine.lean ====
section
/-! SUPPORT. The memories keep their canonical form: the operations of Machine/Routine.lean. -/

set_option Elab.async false

namespace Sys2Proof.Machine

theorem execSwitchCombine_ok (left right parent : CollPacket) (s : State) (hok : s.ok) :
    outOk (execSwitchCombine left right parent s) := by
  unfold execSwitchCombine
  grind [State.ok, outOk, takeData_ok]

end Sys2Proof.Machine
end

