-- ==== Sys2Proof/Laws/KeepsFaults.lean ====
section
/-! SUPPORT. The memories keep their canonical form: the operations of Machine/Faults.lean. -/

set_option Elab.async false

namespace Sys2Proof.Machine

theorem onPark_ok (s : State) (k : Nat) (f : Park → Park) (hok : s.ok) : (onPark s k f).ok := by
  unfold onPark
  grind [State.ok, outOk]

theorem execFaultTableEntryWrite_ok (k : Nat) (s : State) (hok : s.ok) : outOk (execFaultTableEntryWrite k s) := by
  unfold execFaultTableEntryWrite
  grind [State.ok, outOk, refill_ok, onPark_ok, countCsb_ok, vaPut_ok, onCtx_ok, postFevq_ok]

theorem onCopy_ok (s : State) (k : Nat) (f : CopyJob → CopyJob) (hok : s.ok) : (onCopy s k f).ok := by
  unfold onCopy
  grind [State.ok, outOk]

theorem replayPark_ok (s : State) (p : Park) (hok : s.ok) : (replayPark s p).ok := by
  unfold replayPark
  grind [State.ok, outOk, endParks_ok, onCopy_ok, onQueue_ok, onColl_ok]

theorem deliverPark_ok (s : State) (p : Park) (hok : s.ok) : (deliverPark s p).ok := by
  unfold deliverPark
  grind [State.ok, outOk, endParks_ok, endCopy_ok, queueAdvance_ok, lastTurn_ok, mismatch_ok, onColl_ok, countRecord_ok]

theorem actOn_ok (s : State) (k : Nat) (hok : s.ok) : (actOn s k).ok := by
  unfold actOn
  grind [State.ok, outOk, replayPark_ok, deliverPark_ok]

theorem setFtCause_ok (s : State) (c : BitVec 16) (k : Nat) (cause : BitVec 8) (hok : s.ok) : (setFtCause s c k cause).ok :=
  by
  unfold setFtCause
  grind [State.ok, outOk, vaPut_ok]

theorem tableExpanded_ok (s : State) (fail : Option (BitVec 8)) (p : Park) (hok : s.ok) : (tableExpanded s fail p).ok := by
  unfold tableExpanded
  grind [State.ok, outOk, setFtCause_ok, setFtState_ok, actOn_ok, onPark_ok]

theorem actParks_ok (s : State) (ds : List Drove) (hok : s.ok) : (actParks s ds).ok := by
  unfold actParks
  grind [State.ok, outOk, foldl_ok, actOn_ok]

theorem releaseSlow_ok (s : State) (hok : s.ok) : (releaseSlow s).ok := by
  unfold releaseSlow
  grind [State.ok, outOk, newId_ok]

theorem recordCommand_ok (s : State) (c n size : Nat) (run : State → Nat → Option (State × List (Nat × List Byte) × Nat))
    (hok : s.ok) (hr : ∀ s x t bs n, run s x = some (t, bs, n) → s.ok → t.ok) : (recordCommand s c n size run).ok := by
  unfold recordCommand
  grind [State.ok, outOk, foldl_ok, vaRead_ok, stopHere_ok, select_ok, putAt_ok, writeDone_ok, setStatus_ok, vaRecord_ok,
    putPlaces_ok]

theorem applyReply_ok (s : State) (x : Nat) (hok : s.ok) : (applyReply s x).1.ok := by
  unfold applyReply
  grind [State.ok, outOk, foldl_ok, setFtState_ok, onPark_ok, releaseSlow_ok, actOn_ok, countCsb_ok]

theorem reply_ok (s : State) (c : Nat) (deliver : Bool) (hok : s.ok) : (reply s c deliver).ok := by
  unfold reply
  grind [State.ok, outOk, recordCommand_ok, applyReply_ok]

theorem execFreplyReplay_ok (c : Nat) (s : State) (hok : s.ok) : outOk (execFreplyReplay c s) := by
  unfold execFreplyReplay
  grind [State.ok, outOk, reply_ok]

theorem execFreplyDeliver_ok (c : Nat) (s : State) (hok : s.ok) : outOk (execFreplyDeliver c s) := by
  unfold execFreplyDeliver
  grind [State.ok, outOk, reply_ok]

theorem execParkDelivery_ok (k : Nat) (s : State) (hok : s.ok) : outOk (execParkDelivery k s) := by
  unfold execParkDelivery
  grind [State.ok, outOk, onDr_ok, select_ok, takeStop_ok]

theorem execDbgcmdWrite_ok (c : Nat) (s : State) (hok : s.ok) : outOk (execDbgcmdWrite c s) := by
  unfold execDbgcmdWrite
  grind [State.ok, outOk, command_ok]

theorem execDbgcmdHalt_ok (u : Nat) (s : State) (hok : s.ok) : outOk (execDbgcmdHalt u s) := by
  unfold execDbgcmdHalt
  grind [State.ok, outOk, select_ok, stopHere_ok, onDr_ok]

theorem swapOrFail_ok (s : State) (f : Flock) (reason : BitVec 8) (hok : s.ok) : (swapOrFail s f reason).ok := by
  unfold swapOrFail
  grind [State.ok, outOk, onFlock_ok, countCsb_ok]

theorem execBudgetExpiry_ok (f : Nat) (s : State) (hok : s.ok) : outOk (execBudgetExpiry f s) := by
  unfold execBudgetExpiry
  grind [State.ok, outOk, swapOrFail_ok, countRecord_ok]

theorem execSlowFaultSwapout_ok (f : Nat) (s : State) (hok : s.ok) : outOk (execSlowFaultSwapout f s) := by
  unfold execSlowFaultSwapout
  grind [State.ok, outOk, onFlock_ok, onPark_ok, countCsb_ok]

theorem execWatchdogExpiry_ok (f : Nat) (s : State) (hok : s.ok) : outOk (execWatchdogExpiry f s) := by
  unfold execWatchdogExpiry
  grind [State.ok, outOk, foldl_ok, stopHere_ok, select_ok]

theorem execPageExpansionComplete_ok (ctx va : Nat) (s : State) (hok : s.ok) : outOk (execPageExpansionComplete ctx va s)
    := by
  unfold execPageExpansionComplete
  grind [State.ok, outOk, translate_ok, expansionDone_ok, expandAt_ok, foldl_ok, tableExpanded_ok]

end Sys2Proof.Machine
end

