-- ==== Sys2Proof/Laws/KeepsContext.lean ====
section
/-! SUPPORT. The memories keep their canonical form: the operations of Machine/Context.lean. -/

set_option Elab.async false

namespace Sys2Proof.Machine

theorem departFlock_ok (s : State) (f : Nat) (hok : s.ok) : (departFlock s f).ok := by
  unfold departFlock
  grind [State.ok, outOk]

theorem saveFlock_ok (s : State) (fl : Flock) (reason : BitVec 8) (hok : s.ok) : (saveFlock s fl reason).ok := by
  unfold saveFlock
  extract_lets stay mine gone dropped s1 s2 pre reqs src s3 s4 s4'
  have hstay : stay.ok := actParks_ok _ _ (onFlock_ok _ _ _ (countCsb_ok _ _ _ hok))
  have h1 : s1.ok := foldl_ok _ (fun s q h => standBefore_ok _ _ (dropReq_ok _ _ h)) _ _ hok
  have h2 : s2.ok := onFlock_ok _ _ _ h1
  have h4 : s4.ok := foldl_ok _ (fun s l h => leaveL1_ok _ _ h) _ s3 h2
  have h4' : s4'.ok := keepBrs_ok _ _ h4
  clear_value stay s4' reqs dropped
  split
  · exact hstay
  · rename_i slot _ _
    split
    rename_i s5 ds he
    have h5 : (s5, ds).1.ok := by
      rw [← he]
      refine foldl_inv (fun x : State × List Drove => x.1.ok) _ ?_ _ _ h4'
      intro x d h
      exact saveLinks_ok _ _ h
    split
    rename_i id s6 hn
    have h6 : (id, s6).2.ok := by
      rw [← hn]
      exact newId_ok _ h5
    dsimp only
    split
    · exact hstay
    · rename_i t e
      have hp : ((none, t) : Option (BitVec 8) × State).2.ok := by
        rw [← e]
        exact putImage_ok _ _ h6
      have ht := departFlock_ok t fl.uid hp
      have hd := foldl_ok (fun s (q : Req) => countCsb s q.ctx 0x48) (fun s q h => countCsb_ok _ _ _ h) dropped _ ht
      have hc := setCsbField_ok _ fl.ctx 0x38 8
        (csbField (dropped.foldl (fun s (q : Req) => countCsb s q.ctx 0x48) (departFlock t fl.uid)) fl.ctx 0x38 8 ||| 2 ^
    slot) hd
      exact postFevq_ok _ _ _ _ _ _ _ hc

theorem execSwapOut_ok (f : Nat) (s : State) (hok : s.ok) : outOk (execSwapOut f s) := by
  unfold execSwapOut
  grind [State.ok, outOk, saveFlock_ok]

theorem restoreDrove_ok (core : Nat) (s : State) (d : Drove) (hok : s.ok) : (restoreDrove core s d).ok := by
  unfold restoreDrove
  grind [State.ok, outOk]

theorem restoreAt_ok (s : State) (v : Saved) (core : Nat) (hok : s.ok) : (restoreAt s v core).ok := by
  unfold restoreAt
  generalize fromImage s v = v
  extract_lets w f s1 s1' s2 base s3 s4 s5 tag reqs src s6 s7 s8 va s9
  have h0 : s1.ok := readyCore_ok _ _ _ hok
  have h1 : s1'.ok := foldl_ok _ (fun s l h => leaveL1_ok s l h) _ s1 h0
  have h2 : s2.ok := spadPut_ok _ _ _ h1
  have h4 : s4.ok := foldl_ok _ (fun s d h => restoreDrove_ok _ _ _ h) _ s3 h2
  have h5 : s5.ok := by
    refine foldl_ok _ (fun s p h => ?_) _ s4 h4
    exact newId_ok s h
  have h7 : s7.ok := setCsbField_ok s6 _ _ _ _ h5
  have h8 : s8.ok := actParks_ok _ _ h7
  exact finishFlock_ok _ _ (postFevq_ok _ _ _ _ _ _ _ h8)

theorem execFlockResume_ok (k : Nat) (s : State) (hok : s.ok) : outOk (execFlockResume k s) := by
  unfold execFlockResume
  grind [State.ok, outOk, foldl_ok, restoreAt_ok]

theorem ctxStatus_ok (s : State) (n : Nat) (hok : s.ok) : (ctxStatus s n).1.ok := by
  unfold ctxStatus
  grind [State.ok, outOk]

theorem ctxCommand_ok (s : State) (c row : Nat) (run : State → Nat → Option (State × List (Nat × List Byte) × Nat)) (hok
    : s.ok) (hr : ∀ s x t bs n, run s x = some (t, bs, n) → s.ok → t.ok) : (ctxCommand s c row run).ok := by
  unfold ctxCommand
  refine recordCommand_ok _ _ _ _ _ hok ?_
  intro s x t bs n e h
  split at e
  · simp at e
  · split at e
    · obtain ⟨rfl, rfl, rfl⟩ := by simpa using e
      exact setPriv_ok _ _ _ (ctxStatus_ok _ _ h)
    · obtain ⟨⟨t', bs', n'⟩, e', e''⟩ := Option.map_eq_some_iff.1 e
      obtain ⟨rfl, rfl, rfl⟩ := by simpa using e''
      exact setPriv_ok _ _ _ (hr _ _ _ _ _ e' h)

theorem preempt_ok (s : State) (x : Nat) (t : State) (bs : List (Nat × List Byte)) (n : Nat)
    (e : preempt s x = some (t, bs, n)) (hok : s.ok) : t.ok := by
  unfold preempt at e
  have := ctxStatus_ok s 3 hok
  have := ctxStatus_ok (onCtx s (BitVec.ofNat 16 (recField x 2 2)) fun y => { y with held := false }) 0 (onCtx_ok _ _ _ hok)
  grind

theorem preemptMark_ok (s : State) (c : BitVec 16) (hok : s.ok) : (preemptMark s c).ok := by
  unfold preemptMark
  grind [State.ok, outOk, foldl_ok, onFlock_ok, onCtx_ok]

theorem execCtxPreempt_ok (c : Nat) (s : State) (hok : s.ok) : outOk (execCtxPreempt c s) := by
  unfold execCtxPreempt
  refine ctxCommand_ok _ _ _ _ ?_ preempt_ok
  split
  · exact preemptMark_ok _ _ hok
  · exact hok

theorem execCtxResume_ok (c : Nat) (s : State) (hok : s.ok) : outOk (execCtxResume c s) := by
  unfold execCtxResume
  refine ctxCommand_ok _ _ _ _ hok ?_
  intro s x t bs n e h
  obtain ⟨rfl, rfl, rfl⟩ := by simpa using e
  exact newId_ok s h

theorem endAll_ok (s : State) (fs : List Nat) (why : Nat) (hok : s.ok) : (endAll s fs why).ok := by
  unfold endAll
  grind [State.ok, outOk, foldl_ok, terminate_ok, terminateSaved_ok]

theorem execCtxTerminate_ok (c : Nat) (s : State) (hok : s.ok) : outOk (execCtxTerminate c s) := by
  unfold execCtxTerminate
  grind [State.ok, outOk, ctxCommand_ok, ctxStatus_ok, endAll_ok]

theorem shepherdRecord_ok (s : State) (x : Nat) (hok : s.ok) : (shepherdRecord s x).2.ok := by
  unfold shepherdRecord
  grind [State.ok, outOk, copyLaunch_ok]

theorem placeShepherd_ok (s : State) (r : Range) (pad : Nat) (hok : s.ok) : (placeShepherd s r pad).ok := by
  unfold placeShepherd
  grind [State.ok, outOk, endAll_ok, newId_ok, admitAt_ok]

theorem execCtxPlaceShepherd_ok (c : Nat) (s : State) (hok : s.ok) : outOk (execCtxPlaceShepherd c s) := by
  unfold execCtxPlaceShepherd
  grind [State.ok, outOk, shepherdRecord_ok, ctxCommand_ok, ctxStatus_ok, placeShepherd_ok]

theorem execCsbaddrWrite_ok (c : Nat) (s : State) (hok : s.ok) : outOk (execCsbaddrWrite c s) := by
  unfold execCsbaddrWrite
  grind [State.ok, outOk, command_ok, setPriv_ok, onCtx_ok, setCsbField_ok]

end Sys2Proof.Machine
end

