-- ==== Sys2Proof/Laws/KeepsDevice.lean ====
section
/-! SUPPORT. The memories keep their canonical form: the operations of Machine/Device.lean. -/

set_option Elab.async false

namespace Sys2Proof.Machine

theorem execMxmodeWrite_ok (c : Nat) (s : State) (hok : s.ok) : outOk (execMxmodeWrite c s) := by
  unfold execMxmodeWrite
  grind [State.ok, outOk, command_ok]

theorem execPwrprofWrite_ok (c : Nat) (s : State) (hok : s.ok) : outOk (execPwrprofWrite c s) := by
  unfold execPwrprofWrite
  grind [State.ok, outOk, command_ok]

theorem execProfileChangeTakesEffect_ok (s : State) (hok : s.ok) : outOk (execProfileChangeTakesEffect s) := by
  unfold execProfileChangeTakesEffect
  grind [State.ok, outOk]

theorem execThermalClockStep_ok (up : Bool) (s : State) (hok : s.ok) : outOk (execThermalClockStep up s) := by
  unfold execThermalClockStep
  grind [State.ok, outOk, countRecord_ok, draw_ok]

theorem setResends_ok (s : State) (link : Nat) (ts : List Nat) (hok : s.ok) : (setResends s link ts).ok := by
  unfold setResends
  grind [State.ok, outOk]

theorem execFlitCrcFail_ok (link : Nat) (s : State) (hok : s.ok) : outOk (execFlitCrcFail link s) := by
  unfold execFlitCrcFail
  grind [State.ok, outOk, setResends_ok]

theorem execLinkRetrain_ok (link : Nat) (s : State) (hok : s.ok) : outOk (execLinkRetrain link s) := by
  unfold execLinkRetrain
  grind [State.ok, outOk, countRecord_ok, setResends_ok]

theorem execLinkRetrainEnd_ok (link : Nat) (s : State) (hok : s.ok) : outOk (execLinkRetrainEnd link s) := by
  unfold execLinkRetrainEnd
  grind [State.ok, outOk]

theorem execPortDown_ok (port : Nat) (s : State) (hok : s.ok) : outOk (execPortDown port s) := by
  unfold execPortDown
  grind [State.ok, outOk]

theorem portAccs_ok (old s : State) (hs : s.ok) : (portAccs old s).ok := by
  unfold portAccs
  grind [State.ok, outOk]

theorem execPortTrained_ok (port : Nat) (s : State) (hok : s.ok) : outOk (execPortTrained port s) := by
  unfold execPortTrained
  grind [State.ok, outOk, foldl_ok, releaseSlow_ok, setFtState_ok, actOn_ok, onPark_ok, portAccs_ok]

theorem execNotifyClear_ok (v : BitVec 64) (s : State) (hok : s.ok) : outOk (execNotifyClear v s) := by
  unfold execNotifyClear
  grind [State.ok, outOk]

theorem execAttestRequest_ok (dpa : Nat) (s : State) (hok : s.ok) : outOk (execAttestRequest dpa s) := by
  unfold execAttestRequest
  grind [State.ok, outOk, reply_ok, homePut_ok]

theorem resetKeeping_ok (s : State) (hbm : Memory) (hok : s.ok) (hm : hbm.wf = true) : (resetKeeping s hbm).ok := by
  unfold resetKeeping
  unfold State.ok Mems.wf at *
  simp_all [Memory.wf, mapWf]

theorem commitRecord_ok (s : State) (hok : s.ok) : (commitRecord s).ok := hok

theorem boot_ok (s : State) (hok : s.ok) : (boot s).ok := by
  unfold boot
  grind [State.ok, outOk, countRecord_ok, bootContext_ok]

theorem execModuleReset_ok (s : State) (hok : s.ok) : outOk (execModuleReset s) := by
  unfold execModuleReset
  change State.ok _
  have : (if s.dev.bootState = 0 then s else commitRecord s).ok := by
    split
    · exact hok
    · exact hok
  exact boot_ok _ (resetKeeping_ok _ _ this (hbm_ok hok))

theorem execPowerLoss_ok (s : State) (hok : s.ok) : outOk (execPowerLoss s) := by
  unfold execPowerLoss
  change State.ok _
  exact resetKeeping_ok _ _ hok rfl

theorem execRecoveryImageWrite_ok (image : List Byte) (s : State) (hok : s.ok) : outOk (execRecoveryImageWrite image s) := by
  unfold execRecoveryImageWrite
  split
  · exact hok
  · change State.ok _
    refine boot_ok _ (resetKeeping_ok _ _ (commitRecord_ok _ ?_) (hbm_ok hok))
    exact hok

theorem ckptRecord_ok (s : State) (c dpa : Nat) (hok : s.ok) : (ckptRecord s c dpa).2.ok := by
  unfold ckptRecord
  grind [State.ok, outOk, vaRead_ok, vaRecord_ok]

theorem ckptStatus_ok (s : State) (rec' : List (Nat × Bool)) (n : Nat) (hok : s.ok) : (ckptStatus s rec' n).ok := by
  unfold ckptStatus
  grind [State.ok, outOk, setPriv_ok, putAt_ok, putPlaces_ok]

theorem ckptEvent_ok (s : State) (issuer : Option (BitVec 16 × BitVec 32 × W64)) (token : W64) (hok : s.ok) : (ckptEvent
    s issuer token).ok := by
  unfold ckptEvent
  grind [State.ok, outOk, postFevq_ok]

theorem ckptStop_ok (s : State) (c : Nat) (hok : s.ok) : (ckptStop s c).ok := by
  unfold ckptStop
  grind [State.ok, outOk, vaRead_ok, stopHere_ok, select_ok, vaRecord_ok]

theorem ckptGoOn_ok (s : State) (c : Nat) (hok : s.ok) : (ckptGoOn s c).ok := by
  unfold ckptGoOn
  grind [State.ok, outOk, writeDone_ok]

theorem ckptBegin_ok (s : State) (c x : Nat) (rec' : List (Nat × Bool)) (restore : Bool) (hok : s.ok) : (ckptBegin s c x
    rec' restore).ok := by
  unfold ckptBegin
  grind [State.ok, outOk, ckptGoOn_ok, ckptStatus_ok]

theorem ckptCommand_ok (s : State) (c dpa : Nat) (restore : Bool) (run : State → Nat → List (Nat × Bool) → State) (hok :
    s.ok) (hr : ∀ s n l, s.ok → (run s n l).ok) : (ckptCommand s c dpa restore run).ok := by
  unfold ckptCommand
  grind [State.ok, outOk, ckptRecord_ok, ckptStop_ok, ckptGoOn_ok, ckptStatus_ok]

theorem execCkptSave_ok (c dpa : Nat) (s : State) (hok : s.ok) : outOk (execCkptSave c dpa s) := by
  unfold execCkptSave
  grind [State.ok, outOk, foldl_ok, ckptCommand_ok, putAt_ok, ckptStatus_ok, ckptEvent_ok, ckptGoOn_ok, ckptBegin_ok,
    onFlock_ok, putPlaces_ok]

theorem dropCaches_ok (s : State) (hok : s.ok) : (dropCaches s).ok := by
  unfold dropCaches
  grind [State.ok, outOk, clearDir_ok]

theorem execCkptRestore_ok (c dpa : Nat) (s : State) (hok : s.ok) : outOk (execCkptRestore c dpa s) := by
  unfold execCkptRestore
  grind [State.ok, outOk, ckptCommand_ok, ckptBegin_ok, endAll_ok, dropCaches_ok]

theorem writeAllBack_ok (s : State) (hok : s.ok) : (writeAllBack s).ok := by
  unfold writeAllBack
  grind [State.ok, outOk, foldl_ok, leaveL1_ok, recallAll_ok]

theorem shifted_wf (m : Memory) (lo n off : Nat) (w : m.wf = true) : mapWf 0 off (shifted m lo n off) = true := by
  unfold shifted
  unfold Memory.wf at w
  suffices h : ∀ (k j : Nat) (m : Memory), mapWf 0 k m = true → (lo ≤ k → j ≤ k - lo + off) → (k < lo → j ≤ off) →
      mapWf 0 j ((m.filter fun x => decide (lo ≤ x.1) && decide (x.1 < lo + n)).map fun x => (x.1 - lo + off, x.2)) =
    true from
    h 0 off m w (fun h => by omega) (fun _ => Nat.le_refl _)
  intro k j m
  induction m generalizing k j with
  | nil => intros; rfl
  | cons x m ih =>
    intro w h1 h2
    simp only [mapWf, Bool.and_eq_true, decide_eq_true_eq] at w
    rw [List.filter_cons]
    split
    · rename_i h
      simp only [Bool.and_eq_true, decide_eq_true_eq] at h
      simp only [List.map_cons, mapWf, Bool.and_eq_true, decide_eq_true_eq]
      refine ⟨⟨by omega, w.1.2⟩, ih (x.1 + 1) _ w.2 (fun _ => by omega) (fun _ => by omega)⟩
    · exact ih (x.1 + 1) _ w.2 (fun _ => by omega) (fun _ => by omega)

theorem splice_wf (m new : Memory) (lo n : Nat) (w : m.wf = true) (hn : mapWf 0 lo new = true)
    (hk : ∀ x ∈ new, x.1 < lo + n) : (splice m new lo n).wf = true := by
  unfold splice Memory.wf
  rw [List.append_assoc]
  refine mapWf_append (k := lo) (mapWf_filter _ w) (by simp) (Nat.zero_le _) ?_
  exact mapWf_append (k := lo + n) hn hk (Nat.le_add_right _ _) (mapWf_from w)

theorem shifted_lt (m : Memory) (lo n off : Nat) : ∀ x ∈ shifted m lo n off, x.1 < off + n := by
  intro x h
  simp only [shifted, List.mem_map, List.mem_filter, Bool.and_eq_true, decide_eq_true_eq] at h
  obtain ⟨y, ⟨_, h1, h2⟩, rfl⟩ := h
  simp only
  omega

theorem endSave_ok (s : State) (k : Ckpt) (n : Nat) (hok : s.ok) : (endSave s k n).ok := by
  unfold endSave
  extract_lets s1 _ _ _ _ _
  have h1 : s1.ok := writeAllBack_ok _ hok
  clear_value s1
  exact setSafe_ok _ _ h1 (splice_wf _ _ _ _ (safe_ok h1) (shifted_wf _ _ _ _ (hbm_ok h1)) (shifted_lt _ _ _ _))

theorem endRestore_ok (s : State) (k : Ckpt) (n : Nat) (hok : s.ok) : (endRestore s k n).ok := by
  unfold endRestore
  extract_lets s1 snap m1 c1 s2 p1 q1
  have h1 : s1.ok := endAll_ok _ _ _ hok
  have h2 : (onHbm s1 fun _ => splice s1.mem.hbm (shifted s1.mem.safe k.store n 0) 0 n).ok :=
    onHbm_ok s1 (fun _ => splice s1.mem.hbm (shifted s1.mem.safe k.store n 0) 0 n) h1
      (splice_wf _ _ _ _ (hbm_ok h1) (shifted_wf _ _ _ _ (safe_ok h1)) (fun x h => by have := shifted_lt _ _ _ _ x h; omega))
  have h3 : s2.ok := dropCaches_ok _ h2
  clear_value p1 q1 s2 snap m1 c1
  split
  · exact h3
  · exact h3

theorem execCheckpointStreamEnd_ok (ok : Bool) (s : State) (hok : s.ok) : outOk (execCheckpointStreamEnd ok s) := by
  unfold execCheckpointStreamEnd
  grind [State.ok, outOk, draw_ok, endRestore_ok, endSave_ok, putAt_ok, ckptEvent_ok, ckptStatus_ok, putPlaces_ok]

theorem countMinute_ok (s : State) (hok : s.ok) : (countMinute s).ok := by
  unfold countMinute
  grind [State.ok, outOk, foldl_ok, countRecord_ok, draw_ok]

theorem execFieldRecordCommit_ok (s : State) (hok : s.ok) : outOk (execFieldRecordCommit s) := by
  unfold execFieldRecordCommit
  grind [State.ok, outOk, commitRecord_ok, countMinute_ok]

theorem execFrdataRead_ok (s : State) (hok : s.ok) : outOk (execFrdataRead s) := by
  unfold execFrdataRead
  grind [State.ok, outOk, draw_ok]

theorem takeMgmt_ok (s : State) (hok : s.ok) : (takeMgmt s).ok := by
  unfold takeMgmt
  grind [State.ok, outOk]

theorem execTraceBrFlush_ok (die : Nat) (s : State) (hok : s.ok) : outOk (execTraceBrFlush die s) := by
  unfold execTraceBrFlush
  grind [State.ok, outOk, turnTo_ok, flushBr_ok, flushAll_ok]

theorem execTraceForcedSync_ok (die : Nat) (s : State) (hok : s.ok) : outOk (execTraceForcedSync die s) := by
  unfold execTraceForcedSync
  grind [State.ok, outOk, turnTo_ok, flushAll_ok]

theorem execTraceLoss_ok (die : Nat) (s : State) (hok : s.ok) : outOk (execTraceLoss die s) := by
  unfold execTraceLoss
  grind [State.ok, outOk, draw_ok, onStream_ok]

theorem execEmptyIssueSlot_ok (s : State) (hok : s.ok) : outOk (execEmptyIssueSlot s) := by
  unfold execEmptyIssueSlot
  grind [State.ok, outOk, draw_ok, laneAdd_ok]

theorem execBellwetherTurn_ok (u : Nat) (s : State) (hok : s.ok) : outOk (execBellwetherTurn u s) := by
  unfold execBellwetherTurn
  grind [State.ok, outOk, onDrove_ok]

end Sys2Proof.Machine
end

