-- ==== Sys2Proof/Laws/KeepsSched.lean ====
section
/-! SUPPORT. The memories keep their canonical form: the operations of Machine/Sched.lean. -/

set_option Elab.async false

namespace Sys2Proof.Machine

theorem choose_ok (s : State) (ws : List Work) (hok : s.ok) : (choose s ws).2.ok := by
  unfold choose
  grind [State.ok, outOk, draw_ok]

theorem passTime_ok (s : State) (hok : s.ok) : (passTime s).ok := by
  unfold passTime
  grind [State.ok, outOk, draw_ok]

theorem slotTime_ok (s : State) (d : Drove) (hok : s.ok) : (slotTime s d).ok := by
  unfold slotTime
  grind [State.ok, outOk, draw_ok]

theorem nextOf_ok (s : State) (u : Nat) (hok : s.ok) : (nextOf s u).1.ok := by
  unfold nextOf
  grind [State.ok, outOk, select_ok, breakStop_ok, nextInstr_ok, chooseGang_ok, slotTime_ok, takeStop_ok]

theorem onWork_ok (s : State) (w : Work) (hok : s.ok) : (onWork s w).ok := by
  unfold onWork
  grind [State.ok, outOk]

theorem leaveQueues_ok (s : State) (w : Work) (hok : s.ok) : (leaveQueues s w).ok := by
  unfold leaveQueues
  grind [State.ok, outOk]

theorem backOff_ok (s : State) (cycle fresh : Nat) (hok : s.ok) : (backOff s cycle fresh).ok := by
  unfold backOff
  grind [State.ok, outOk, onDr_ok]

theorem waitFor_ok (s : State) (g : Nat) (w : Work) (hok : s.ok) : (waitFor s g w).ok := by
  unfold waitFor
  grind [State.ok, outOk, leaveQueues_ok, setDir_ok]

theorem nextDue_ok (s t : State) (i : Instr) (e : nextDue s = some (t, i)) (hok : s.ok) : t.ok := by
  unfold nextDue at e
  grind [State.ok, onDr_ok, select_ok]

theorem nextWork_ok (s : State) (hok : s.ok) : (nextWork s).1.ok := by
  unfold nextWork
  grind [State.ok, outOk, nextInstr_ok, choose_ok, passTime_ok, nextOf_ok, onWork_ok, nextDue_ok, flushUnsent_ok,
    takeMgmt_ok]

theorem portDrove_ok (s : State) (hok : s.ok) : (portDrove s).ok := by
  unfold portDrove
  grind [State.ok, outOk, placed_ok]

theorem placeWord_ok (s : State) (w : Nat) (hok : s.ok) : (placeWord s w).ok := by
  unfold placeWord
  extract_lets a s1 x s2 s3
  have h1 : s1.ok := onHbm_ok _ _ (recallAll_ok _ _ hok) (memWrite_wf _ _ _ (hbm_ok (recallAll_ok _ _ hok)))
  have h2 : s2.ok := onCore_ok _ _ _ h1
  have h3 : s3.ok := onDr_ok s2 _ h2
  exact h3

end Sys2Proof.Machine
end

