-- ==== Sys2Proof/Laws/KeepsPerform.lean ====
section
/-! SUPPORT. The memories keep their canonical form: the operations of Machine/Perform.lean. -/

set_option Elab.async false

namespace Sys2Proof.Machine

theorem perform_ok (e : Event) (s : State) (hok : s.ok) : outOk (perform e s) := by
  unfold perform
  grind [State.ok, outOk, execLoadReturn_ok, execSlowSysrdReturn_ok, execLoadLaneFault_ok, execStoreAck_ok,
    execStoreLaneFault_ok, execLinkStackSpillFill_ok, execOwningDieAccess_ok, execAtomicProbeResult_ok,
    execAtomicReturn_ok, execCatomLowUpdate_ok, execScratchpadBankAccess_ok, execPageExpansionComplete_ok,
    execHomeOLoadMiss_ok, execHomeILoadMiss_ok, execHomeSLoadMiss_ok, execHomeWLoad_ok, execHomeOwnershipRequest_ok,
    execHomeWriteThrough_ok, execHomeAtomic_ok, execOwnerWmaskAccess_ok, execOwnerWriteBack_ok, execOwnerVwbWriteBack_ok,
    execRecallToShared_ok, execRecall_ok, execClaim_ok, execInvalidate_ok, execUpdate_ok, execDirectoryTComplete_ok,
    execRequestRefusedResend_ok, execReplicaLineLeave_ok, execHostCleanDrop_ok, execPeerAccessRequest_ok,
    execRoute10Ack_ok, execEpochTick_ok, execRetentionSleepEnter_ok, execRetentionWake_ok, execMatrixGrant_ok,
    execPassComplete_ok, execReservationAging_ok, execTileOpComplete_ok, execTldRowFault_ok, execBarrierChecksum_ok,
    execWideBarrierArrival_ok, execAsyncObjectArrival_ok, execChutePopServed_ok, execChutePushRoom_ok,
    execCopyComplete_ok, execCopyFault_ok, execCollPhase0Packet_ok, execCollDataPacket_ok, execCollResultPacket_ok,
    execCollCancelPacket_ok, execReduceFlockDispatch_ok, execCollGroupTableFault_ok, execBellwetherTurn_ok,
    execPassiveWake_ok, execDeviceEventPost_ok, execLaunchQueueEntryTake_ok, execFlockAdmit_ok, execRangeComplete_ok,
    execDrovePromote_ok, execRegangTimeout_ok, execYieldTimeout_ok, execBudgetExpiry_ok, execWatchdogExpiry_ok,
    execSlowFaultSwapout_ok, execMxmodeApply_ok, execFaultTableEntryWrite_ok, execParkDelivery_ok, execSwapOut_ok,
    execFlockResume_ok, execDbgcmdHalt_ok, execMapcmdMap_ok, execMapcmdUnmap_ok, execMapcmdCompress_ok,
    execMapcmdClearAccessed_ok, execMapcmdQuery_ok, execXtcrBind_ok, execSramwinWrite_ok, execCzoneWrite_ok,
    execVcDefine_ok, execVcResize_ok, execVcMove_ok, execVcFree_ok, execVcRead_ok, execVcModify_ok, execVcRetireShare_ok,
    execVcShareMap_ok, execVcSweepSet_ok, execVcMigrationComplete_ok, execVcFreeComplete_ok, execShareRetireComplete_ok,
    execAetclrWrite_ok, execCsbaddrWrite_ok, execFreplyReplay_ok, execFreplyDeliver_ok, execCtxPreempt_ok,
    execCtxResume_ok, execCtxTerminate_ok, execCtxPlaceShepherd_ok, execLqcfgWrite_ok, execMxmodeWrite_ok,
    execDbgcmdWrite_ok, execLcctlClr_ok, execPwrprofWrite_ok, execSysregWrite_ok, execCkptSave_ok, execCkptRestore_ok,
    execFieldRecordCommit_ok, execModuleReset_ok, execLinkRetrain_ok, execTraceBrFlush_ok, execTraceForcedSync_ok,
    execTraceLoss_ok, execCheckpointStreamEnd_ok, execLinkRetrainEnd_ok, execEmptyIssueSlot_ok,
    execProfileChangeTakesEffect_ok]

end Sys2Proof.Machine
end

