-- ==== Sys2Proof/Laws/PerInstr.lean ====
section
/-! SUPPORT. The family RoundTrip: the encoded word of every instruction is a 32-bit word that decodes to it; a
      device step
has no word. -/

namespace Sys2Proof.Laws

set_option linter.unusedSimpArgs false

/-- The word of an instruction is a 32-bit word, and decodes to the instruction where it is well-formed. -/
def RoundTrip.Statement (i : Instr) : Prop :=
  ∀ w, encodeNat i = some w → w < 2 ^ 32 ∧ (i.wellFormed = true → decodeNat w = some i)

theorem RoundTrip.sadd (d : BitVec 6) (a : BitVec 6) (b : BitVec 6) (ea : Bool) (eb : Bool) (ed : Bool) :
      RoundTrip.Statement (.sadd d a b ea eb ed) := by
  intro w h
  obtain ⟨hl, hx, hy, h0, h1, h2, h3, h4, h5, h6⟩ := shape0 0 1 w (by decide) (by decide) d a b ea eb ed
      (Option.some.inj h)
  exact ⟨hl, decode_of_raw (by simp only [decodeRaw, hx, hy, decodeRow0, h0, h1, h2, h3, h4, h5, h6, Bool.and_self,
      if_true])⟩

theorem RoundTrip.ssub (d : BitVec 6) (a : BitVec 6) (b : BitVec 6) (ea : Bool) (eb : Bool) (ed : Bool) :
      RoundTrip.Statement (.ssub d a b ea eb ed) := by
  intro w h
  obtain ⟨hl, hx, hy, h0, h1, h2, h3, h4, h5, h6⟩ := shape0 0 2 w (by decide) (by decide) d a b ea eb ed
      (Option.some.inj h)
  exact ⟨hl, decode_of_raw (by simp only [decodeRaw, hx, hy, decodeRow0, h0, h1, h2, h3, h4, h5, h6, Bool.and_self,
      if_true])⟩

theorem RoundTrip.smul (d : BitVec 6) (a : BitVec 6) (b : BitVec 6) (ea : Bool) (eb : Bool) (ed : Bool) :
      RoundTrip.Statement (.smul d a b ea eb ed) := by
  intro w h
  obtain ⟨hl, hx, hy, h0, h1, h2, h3, h4, h5, h6⟩ := shape0 0 3 w (by decide) (by decide) d a b ea eb ed
      (Option.some.inj h)
  exact ⟨hl, decode_of_raw (by simp only [decodeRaw, hx, hy, decodeRow0, h0, h1, h2, h3, h4, h5, h6, Bool.and_self,
      if_true])⟩

theorem RoundTrip.smulh (d : BitVec 6) (a : BitVec 6) (b : BitVec 6) (ea : Bool) (eb : Bool) (ed : Bool) :
      RoundTrip.Statement (.smulh d a b ea eb ed) := by
  intro w h
  obtain ⟨hl, hx, hy, h0, h1, h2, h3, h4, h5, h6⟩ := shape0 0 4 w (by decide) (by decide) d a b ea eb ed
      (Option.some.inj h)
  exact ⟨hl, decode_of_raw (by simp only [decodeRaw, hx, hy, decodeRow0, h0, h1, h2, h3, h4, h5, h6, Bool.and_self,
      if_true])⟩

theorem RoundTrip.smulhn (d : BitVec 6) (a : BitVec 6) (b : BitVec 6) (ea : Bool) (eb : Bool) (ed : Bool) :
      RoundTrip.Statement (.smulhn d a b ea eb ed) := by
  intro w h
  obtain ⟨hl, hx, hy, h0, h1, h2, h3, h4, h5, h6⟩ := shape0 0 5 w (by decide) (by decide) d a b ea eb ed
      (Option.some.inj h)
  exact ⟨hl, decode_of_raw (by simp only [decodeRaw, hx, hy, decodeRow0, h0, h1, h2, h3, h4, h5, h6, Bool.and_self,
      if_true])⟩

theorem RoundTrip.sand (d : BitVec 6) (a : BitVec 6) (b : BitVec 6) (ea : Bool) (eb : Bool) (ed : Bool) :
      RoundTrip.Statement (.sand d a b ea eb ed) := by
  intro w h
  obtain ⟨hl, hx, hy, h0, h1, h2, h3, h4, h5, h6⟩ := shape0 0 6 w (by decide) (by decide) d a b ea eb ed
      (Option.some.inj h)
  exact ⟨hl, decode_of_raw (by simp only [decodeRaw, hx, hy, decodeRow0, h0, h1, h2, h3, h4, h5, h6, Bool.and_self,
      if_true])⟩

theorem RoundTrip.sor (d : BitVec 6) (a : BitVec 6) (b : BitVec 6) (ea : Bool) (eb : Bool) (ed : Bool) :
      RoundTrip.Statement (.sor d a b ea eb ed) := by
  intro w h
  obtain ⟨hl, hx, hy, h0, h1, h2, h3, h4, h5, h6⟩ := shape0 0 7 w (by decide) (by decide) d a b ea eb ed
      (Option.some.inj h)
  exact ⟨hl, decode_of_raw (by simp only [decodeRaw, hx, hy, decodeRow0, h0, h1, h2, h3, h4, h5, h6, Bool.and_self,
      if_true])⟩

theorem RoundTrip.sxor (d : BitVec 6) (a : BitVec 6) (b : BitVec 6) (ea : Bool) (eb : Bool) (ed : Bool) :
      RoundTrip.Statement (.sxor d a b ea eb ed) := by
  intro w h
  obtain ⟨hl, hx, hy, h0, h1, h2, h3, h4, h5, h6⟩ := shape0 0 8 w (by decide) (by decide) d a b ea eb ed
      (Option.some.inj h)
  exact ⟨hl, decode_of_raw (by simp only [decodeRaw, hx, hy, decodeRow0, h0, h1, h2, h3, h4, h5, h6, Bool.and_self,
      if_true])⟩

theorem RoundTrip.sandn (d : BitVec 6) (a : BitVec 6) (b : BitVec 6) (ea : Bool) (eb : Bool) (ed : Bool) :
      RoundTrip.Statement (.sandn d a b ea eb ed) := by
  intro w h
  obtain ⟨hl, hx, hy, h0, h1, h2, h3, h4, h5, h6⟩ := shape0 0 9 w (by decide) (by decide) d a b ea eb ed
      (Option.some.inj h)
  exact ⟨hl, decode_of_raw (by simp only [decodeRaw, hx, hy, decodeRow0, h0, h1, h2, h3, h4, h5, h6, Bool.and_self,
      if_true])⟩

theorem RoundTrip.sshl (d : BitVec 6) (a : BitVec 6) (b : BitVec 6) (ea : Bool) (eb : Bool) (ed : Bool) :
      RoundTrip.Statement (.sshl d a b ea eb ed) := by
  intro w h
  obtain ⟨hl, hx, hy, h0, h1, h2, h3, h4, h5, h6⟩ := shape0 0 10 w (by decide) (by decide) d a b ea eb ed
      (Option.some.inj h)
  exact ⟨hl, decode_of_raw (by simp only [decodeRaw, hx, hy, decodeRow0, h0, h1, h2, h3, h4, h5, h6, Bool.and_self,
      if_true])⟩

theorem RoundTrip.sshr (d : BitVec 6) (a : BitVec 6) (b : BitVec 6) (ea : Bool) (eb : Bool) (ed : Bool) :
      RoundTrip.Statement (.sshr d a b ea eb ed) := by
  intro w h
  obtain ⟨hl, hx, hy, h0, h1, h2, h3, h4, h5, h6⟩ := shape0 0 11 w (by decide) (by decide) d a b ea eb ed
      (Option.some.inj h)
  exact ⟨hl, decode_of_raw (by simp only [decodeRaw, hx, hy, decodeRow0, h0, h1, h2, h3, h4, h5, h6, Bool.and_self,
      if_true])⟩

theorem RoundTrip.ssra (d : BitVec 6) (a : BitVec 6) (b : BitVec 6) (ea : Bool) (eb : Bool) (ed : Bool) :
      RoundTrip.Statement (.ssra d a b ea eb ed) := by
  intro w h
  obtain ⟨hl, hx, hy, h0, h1, h2, h3, h4, h5, h6⟩ := shape0 0 12 w (by decide) (by decide) d a b ea eb ed
      (Option.some.inj h)
  exact ⟨hl, decode_of_raw (by simp only [decodeRaw, hx, hy, decodeRow0, h0, h1, h2, h3, h4, h5, h6, Bool.and_self,
      if_true])⟩

theorem RoundTrip.smin (d : BitVec 6) (a : BitVec 6) (b : BitVec 6) (ea : Bool) (eb : Bool) (ed : Bool) :
      RoundTrip.Statement (.smin d a b ea eb ed) := by
  intro w h
  obtain ⟨hl, hx, hy, h0, h1, h2, h3, h4, h5, h6⟩ := shape0 0 13 w (by decide) (by decide) d a b ea eb ed
      (Option.some.inj h)
  exact ⟨hl, decode_of_raw (by simp only [decodeRaw, hx, hy, decodeRow0, h0, h1, h2, h3, h4, h5, h6, Bool.and_self,
      if_true])⟩

theorem RoundTrip.smax (d : BitVec 6) (a : BitVec 6) (b : BitVec 6) (ea : Bool) (eb : Bool) (ed : Bool) :
      RoundTrip.Statement (.smax d a b ea eb ed) := by
  intro w h
  obtain ⟨hl, hx, hy, h0, h1, h2, h3, h4, h5, h6⟩ := shape0 0 14 w (by decide) (by decide) d a b ea eb ed
      (Option.some.inj h)
  exact ⟨hl, decode_of_raw (by simp only [decodeRaw, hx, hy, decodeRow0, h0, h1, h2, h3, h4, h5, h6, Bool.and_self,
      if_true])⟩

theorem RoundTrip.sminn (d : BitVec 6) (a : BitVec 6) (b : BitVec 6) (ea : Bool) (eb : Bool) (ed : Bool) :
      RoundTrip.Statement (.sminn d a b ea eb ed) := by
  intro w h
  obtain ⟨hl, hx, hy, h0, h1, h2, h3, h4, h5, h6⟩ := shape0 0 15 w (by decide) (by decide) d a b ea eb ed
      (Option.some.inj h)
  exact ⟨hl, decode_of_raw (by simp only [decodeRaw, hx, hy, decodeRow0, h0, h1, h2, h3, h4, h5, h6, Bool.and_self,
      if_true])⟩

theorem RoundTrip.smaxn (d : BitVec 6) (a : BitVec 6) (b : BitVec 6) (ea : Bool) (eb : Bool) (ed : Bool) :
      RoundTrip.Statement (.smaxn d a b ea eb ed) := by
  intro w h
  obtain ⟨hl, hx, hy, h0, h1, h2, h3, h4, h5, h6⟩ := shape0 1 0 w (by decide) (by decide) d a b ea eb ed
      (Option.some.inj h)
  exact ⟨hl, decode_of_raw (by simp only [decodeRaw, hx, hy, decodeRow1, h0, h1, h2, h3, h4, h5, h6, Bool.and_self,
      if_true])⟩

theorem RoundTrip.seq (d : BitVec 6) (a : BitVec 6) (b : BitVec 6) (ea : Bool) (eb : Bool) (ed : Bool) :
      RoundTrip.Statement (.seq d a b ea eb ed) := by
  intro w h
  obtain ⟨hl, hx, hy, h0, h1, h2, h3, h4, h5, h6⟩ := shape0 1 1 w (by decide) (by decide) d a b ea eb ed
      (Option.some.inj h)
  exact ⟨hl, decode_of_raw (by simp only [decodeRaw, hx, hy, decodeRow1, h0, h1, h2, h3, h4, h5, h6, Bool.and_self,
      if_true])⟩

theorem RoundTrip.slt (d : BitVec 6) (a : BitVec 6) (b : BitVec 6) (ea : Bool) (eb : Bool) (ed : Bool) :
      RoundTrip.Statement (.slt d a b ea eb ed) := by
  intro w h
  obtain ⟨hl, hx, hy, h0, h1, h2, h3, h4, h5, h6⟩ := shape0 1 2 w (by decide) (by decide) d a b ea eb ed
      (Option.some.inj h)
  exact ⟨hl, decode_of_raw (by simp only [decodeRaw, hx, hy, decodeRow1, h0, h1, h2, h3, h4, h5, h6, Bool.and_self,
      if_true])⟩

theorem RoundTrip.sltn (d : BitVec 6) (a : BitVec 6) (b : BitVec 6) (ea : Bool) (eb : Bool) (ed : Bool) :
      RoundTrip.Statement (.sltn d a b ea eb ed) := by
  intro w h
  obtain ⟨hl, hx, hy, h0, h1, h2, h3, h4, h5, h6⟩ := shape0 1 3 w (by decide) (by decide) d a b ea eb ed
      (Option.some.inj h)
  exact ⟨hl, decode_of_raw (by simp only [decodeRaw, hx, hy, decodeRow1, h0, h1, h2, h3, h4, h5, h6, Bool.and_self,
      if_true])⟩

theorem RoundTrip.ssel (d : BitVec 6) (a : BitVec 6) (b : BitVec 6) (ea : Bool) (eb : Bool) (ed : Bool) :
      RoundTrip.Statement (.ssel d a b ea eb ed) := by
  intro w h
  obtain ⟨hl, hx, hy, h0, h1, h2, h3, h4, h5, h6⟩ := shape0 1 4 w (by decide) (by decide) d a b ea eb ed
      (Option.some.inj h)
  exact ⟨hl, decode_of_raw (by simp only [decodeRaw, hx, hy, decodeRow1, h0, h1, h2, h3, h4, h5, h6, Bool.and_self,
      if_true])⟩

theorem RoundTrip.sclz (d : BitVec 6) (a : BitVec 6) (ea : Bool) (ed : Bool) : RoundTrip.Statement (.sclz d a ea ed)
      := by
  intro w h
  obtain ⟨hl, hx, hy, h0, h1, h2, h3, h4, h5⟩ := shape1 1 5 w (by decide) (by decide) d a ea ed (Option.some.inj h)
  exact ⟨hl, decode_of_raw (by simp only [decodeRaw, hx, hy, decodeRow1, h0, h1, h2, h3, h4, h5, Bool.and_self,
      if_true])⟩

theorem RoundTrip.spop (d : BitVec 6) (a : BitVec 6) (ea : Bool) (ed : Bool) : RoundTrip.Statement (.spop d a ea ed)
      := by
  intro w h
  obtain ⟨hl, hx, hy, h0, h1, h2, h3, h4, h5⟩ := shape1 1 6 w (by decide) (by decide) d a ea ed (Option.some.inj h)
  exact ⟨hl, decode_of_raw (by simp only [decodeRaw, hx, hy, decodeRow1, h0, h1, h2, h3, h4, h5, Bool.and_self,
      if_true])⟩

theorem RoundTrip.sbrev (d : BitVec 6) (a : BitVec 6) (ea : Bool) (ed : Bool) : RoundTrip.Statement (.sbrev d a ea
      ed) := by
  intro w h
  obtain ⟨hl, hx, hy, h0, h1, h2, h3, h4, h5⟩ := shape1 1 7 w (by decide) (by decide) d a ea ed (Option.some.inj h)
  exact ⟨hl, decode_of_raw (by simp only [decodeRaw, hx, hy, decodeRow1, h0, h1, h2, h3, h4, h5, Bool.and_self,
      if_true])⟩

theorem RoundTrip.smov (d : BitVec 6) (a : BitVec 6) (ea : Bool) (ed : Bool) : RoundTrip.Statement (.smov d a ea ed)
      := by
  intro w h
  obtain ⟨hl, hx, hy, h0, h1, h2, h3, h4, h5⟩ := shape1 1 8 w (by decide) (by decide) d a ea ed (Option.some.inj h)
  exact ⟨hl, decode_of_raw (by simp only [decodeRaw, hx, hy, decodeRow1, h0, h1, h2, h3, h4, h5, Bool.and_self,
      if_true])⟩

theorem RoundTrip.saddi (d : BitVec 6) (a : BitVec 6) (i : BitVec 12) : RoundTrip.Statement (.saddi d a i) := by
  intro w h
  obtain ⟨hl, hx, hy, h0, h1, h2⟩ := shape2 1 9 w (by decide) (by decide) d a i (Option.some.inj h)
  exact ⟨hl, decode_of_raw (by simp only [decodeRaw, hx, hy, decodeRow1, h0, h1, h2])⟩

theorem RoundTrip.sandi (d : BitVec 6) (a : BitVec 6) (i : BitVec 12) : RoundTrip.Statement (.sandi d a i) := by
  intro w h
  obtain ⟨hl, hx, hy, h0, h1, h2⟩ := shape2 1 10 w (by decide) (by decide) d a i (Option.some.inj h)
  exact ⟨hl, decode_of_raw (by simp only [decodeRaw, hx, hy, decodeRow1, h0, h1, h2])⟩

theorem RoundTrip.sori (d : BitVec 6) (a : BitVec 6) (i : BitVec 12) : RoundTrip.Statement (.sori d a i) := by
  intro w h
  obtain ⟨hl, hx, hy, h0, h1, h2⟩ := shape2 1 11 w (by decide) (by decide) d a i (Option.some.inj h)
  exact ⟨hl, decode_of_raw (by simp only [decodeRaw, hx, hy, decodeRow1, h0, h1, h2])⟩

theorem RoundTrip.sxori (d : BitVec 6) (a : BitVec 6) (i : BitVec 12) : RoundTrip.Statement (.sxori d a i) := by
  intro w h
  obtain ⟨hl, hx, hy, h0, h1, h2⟩ := shape2 1 12 w (by decide) (by decide) d a i (Option.some.inj h)
  exact ⟨hl, decode_of_raw (by simp only [decodeRaw, hx, hy, decodeRow1, h0, h1, h2])⟩

theorem RoundTrip.sshli (d : BitVec 6) (a : BitVec 6) (i : BitVec 6) : RoundTrip.Statement (.sshli d a i) := by
  intro w h
  obtain ⟨hl, hx, hy, h0, h1, h2, h3⟩ := shape3 1 13 w (by decide) (by decide) d a i (Option.some.inj h)
  exact ⟨hl, decode_of_raw (by simp only [decodeRaw, hx, hy, decodeRow1, h0, h1, h2, h3, Bool.and_self, if_true])⟩

theorem RoundTrip.sshri (d : BitVec 6) (a : BitVec 6) (i : BitVec 6) : RoundTrip.Statement (.sshri d a i) := by
  intro w h
  obtain ⟨hl, hx, hy, h0, h1, h2, h3⟩ := shape3 1 14 w (by decide) (by decide) d a i (Option.some.inj h)
  exact ⟨hl, decode_of_raw (by simp only [decodeRaw, hx, hy, decodeRow1, h0, h1, h2, h3, Bool.and_self, if_true])⟩

theorem RoundTrip.ssrai (d : BitVec 6) (a : BitVec 6) (i : BitVec 6) : RoundTrip.Statement (.ssrai d a i) := by
  intro w h
  obtain ⟨hl, hx, hy, h0, h1, h2, h3⟩ := shape3 1 15 w (by decide) (by decide) d a i (Option.some.inj h)
  exact ⟨hl, decode_of_raw (by simp only [decodeRaw, hx, hy, decodeRow1, h0, h1, h2, h3, Bool.and_self, if_true])⟩

theorem RoundTrip.seqi (d : BitVec 6) (a : BitVec 6) (i : BitVec 12) : RoundTrip.Statement (.seqi d a i) := by
  intro w h
  obtain ⟨hl, hx, hy, h0, h1, h2⟩ := shape2 2 0 w (by decide) (by decide) d a i (Option.some.inj h)
  exact ⟨hl, decode_of_raw (by simp only [decodeRaw, hx, hy, decodeRow2, h0, h1, h2])⟩

theorem RoundTrip.slti (d : BitVec 6) (a : BitVec 6) (i : BitVec 12) : RoundTrip.Statement (.slti d a i) := by
  intro w h
  obtain ⟨hl, hx, hy, h0, h1, h2⟩ := shape2 2 1 w (by decide) (by decide) d a i (Option.some.inj h)
  exact ⟨hl, decode_of_raw (by simp only [decodeRaw, hx, hy, decodeRow2, h0, h1, h2])⟩

theorem RoundTrip.sli (d : BitVec 6) (i : BitVec 18) : RoundTrip.Statement (.sli d i) := by
  intro w h
  obtain ⟨hl, hx, hy, h0, h1⟩ := shape4 2 2 w (by decide) (by decide) d i (Option.some.inj h)
  exact ⟨hl, decode_of_raw (by simp only [decodeRaw, hx, hy, decodeRow2, h0, h1])⟩

theorem RoundTrip.slui (d : BitVec 6) (i : BitVec 18) : RoundTrip.Statement (.slui d i) := by
  intro w h
  obtain ⟨hl, hx, hy, h0, h1⟩ := shape4 2 3 w (by decide) (by decide) d i (Option.some.inj h)
  exact ⟨hl, decode_of_raw (by simp only [decodeRaw, hx, hy, decodeRow2, h0, h1])⟩

theorem RoundTrip.bra (off : BitVec 18) : RoundTrip.Statement (.bra off) := by
  intro w h
  obtain ⟨hl, hx, hy, h0, h1⟩ := shape5 2 8 w (by decide) (by decide) off (Option.some.inj h)
  exact ⟨hl, decode_of_raw (by simp only [decodeRaw, hx, hy, decodeRow2, h0, h1, Bool.and_self, if_true])⟩

theorem RoundTrip.brz (c : BitVec 6) (off : BitVec 18) : RoundTrip.Statement (.brz c off) := by
  intro w h
  obtain ⟨hl, hx, hy, h0, h1⟩ := shape4 2 9 w (by decide) (by decide) c off (Option.some.inj h)
  exact ⟨hl, decode_of_raw (by simp only [decodeRaw, hx, hy, decodeRow2, h0, h1])⟩

theorem RoundTrip.brnz (c : BitVec 6) (off : BitVec 18) : RoundTrip.Statement (.brnz c off) := by
  intro w h
  obtain ⟨hl, hx, hy, h0, h1⟩ := shape4 2 10 w (by decide) (by decide) c off (Option.some.inj h)
  exact ⟨hl, decode_of_raw (by simp only [decodeRaw, hx, hy, decodeRow2, h0, h1])⟩

theorem RoundTrip.call (off : BitVec 18) : RoundTrip.Statement (.call off) := by
  intro w h
  obtain ⟨hl, hx, hy, h0, h1⟩ := shape5 2 11 w (by decide) (by decide) off (Option.some.inj h)
  exact ⟨hl, decode_of_raw (by simp only [decodeRaw, hx, hy, decodeRow2, h0, h1, Bool.and_self, if_true])⟩

theorem RoundTrip.callr (a : BitVec 6) (ea : Bool) : RoundTrip.Statement (.callr a ea) := by
  intro w h
  obtain ⟨hl, hx, hy, h0, h1, h2, h3, h4⟩ := shape6 2 12 w (by decide) (by decide) a ea (Option.some.inj h)
  exact ⟨hl, decode_of_raw (by simp only [decodeRaw, hx, hy, decodeRow2, h0, h1, h2, h3, h4, Bool.and_self, if_true])⟩

theorem RoundTrip.jmpr (a : BitVec 6) (ea : Bool) : RoundTrip.Statement (.jmpr a ea) := by
  intro w h
  obtain ⟨hl, hx, hy, h0, h1, h2, h3, h4⟩ := shape6 2 14 w (by decide) (by decide) a ea (Option.some.inj h)
  exact ⟨hl, decode_of_raw (by simp only [decodeRaw, hx, hy, decodeRow2, h0, h1, h2, h3, h4, Bool.and_self, if_true])⟩

theorem RoundTrip.brk (c : BitVec 24) : RoundTrip.Statement (.brk c) := by
  intro w h
  obtain ⟨hl, hx, hy, h0⟩ := shape7 3 2 w (by decide) (by decide) c (Option.some.inj h)
  exact ⟨hl, decode_of_raw (by simp only [decodeRaw, hx, hy, decodeRow3, h0])⟩

theorem RoundTrip.modeSet (d : BitVec 6) (a : BitVec 6) (ea : Bool) (ed : Bool) : RoundTrip.Statement (.modeSet d a
      ea ed) := by
  intro w h
  obtain ⟨hl, hx, hy, h0, h1, h2, h3, h4, h5⟩ := shape1 3 4 w (by decide) (by decide) d a ea ed (Option.some.inj h)
  exact ⟨hl, decode_of_raw (by simp only [decodeRaw, hx, hy, decodeRow3, h0, h1, h2, h3, h4, h5, Bool.and_self,
      if_true])⟩

theorem RoundTrip.modeFld (fld : BitVec 4) (v : BitVec 6) : RoundTrip.Statement (.modeFld fld v) := by
  intro w h
  obtain ⟨hl, hx, hy, h0, h1, h2⟩ := shape8 3 5 w (by decide) (by decide) fld v (Option.some.inj h)
  exact ⟨hl, decode_of_raw (by simp only [decodeRaw, hx, hy, decodeRow3, h0, h1, h2, Bool.and_self, if_true])⟩

theorem RoundTrip.modeGet (d : BitVec 6) (ed : Bool) : RoundTrip.Statement (.modeGet d ed) := by
  intro w h
  obtain ⟨hl, hx, hy, h0, h1, h2⟩ := shape9 3 6 w (by decide) (by decide) d ed (Option.some.inj h)
  exact ⟨hl, decode_of_raw (by simp only [decodeRaw, hx, hy, decodeRow3, h0, h1, h2, Bool.and_self, if_true])⟩

theorem RoundTrip.vadd (d : BitVec 7) (a : BitVec 7) (b : BitVec 7) (ea : Bool) (eb : Bool) (ed : Bool) :
      RoundTrip.Statement (.vadd d a b ea eb ed) := by
  intro w h
  obtain ⟨hl, hx, hy, h0, h1, h2, h3, h4, h5⟩ := shape10 4 0 w (by decide) (by decide) d a b ea eb ed
      (Option.some.inj h)
  exact ⟨hl, decode_of_raw (by simp only [decodeRaw, hx, hy, decodeRow4, h0, h1, h2, h3, h4, h5])⟩

theorem RoundTrip.vsub (d : BitVec 7) (a : BitVec 7) (b : BitVec 7) (ea : Bool) (eb : Bool) (ed : Bool) :
      RoundTrip.Statement (.vsub d a b ea eb ed) := by
  intro w h
  obtain ⟨hl, hx, hy, h0, h1, h2, h3, h4, h5⟩ := shape10 4 1 w (by decide) (by decide) d a b ea eb ed
      (Option.some.inj h)
  exact ⟨hl, decode_of_raw (by simp only [decodeRaw, hx, hy, decodeRow4, h0, h1, h2, h3, h4, h5])⟩

theorem RoundTrip.vmul (d : BitVec 7) (a : BitVec 7) (b : BitVec 7) (ea : Bool) (eb : Bool) (ed : Bool) :
      RoundTrip.Statement (.vmul d a b ea eb ed) := by
  intro w h
  obtain ⟨hl, hx, hy, h0, h1, h2, h3, h4, h5⟩ := shape10 4 2 w (by decide) (by decide) d a b ea eb ed
      (Option.some.inj h)
  exact ⟨hl, decode_of_raw (by simp only [decodeRaw, hx, hy, decodeRow4, h0, h1, h2, h3, h4, h5])⟩

theorem RoundTrip.vmulh (d : BitVec 7) (a : BitVec 7) (b : BitVec 7) (ea : Bool) (eb : Bool) (ed : Bool) :
      RoundTrip.Statement (.vmulh d a b ea eb ed) := by
  intro w h
  obtain ⟨hl, hx, hy, h0, h1, h2, h3, h4, h5⟩ := shape10 4 3 w (by decide) (by decide) d a b ea eb ed
      (Option.some.inj h)
  exact ⟨hl, decode_of_raw (by simp only [decodeRaw, hx, hy, decodeRow4, h0, h1, h2, h3, h4, h5])⟩

theorem RoundTrip.vmad (d : BitVec 7) (a : BitVec 7) (b : BitVec 7) (ea : Bool) (eb : Bool) (ed : Bool) :
      RoundTrip.Statement (.vmad d a b ea eb ed) := by
  intro w h
  obtain ⟨hl, hx, hy, h0, h1, h2, h3, h4, h5⟩ := shape10 4 4 w (by decide) (by decide) d a b ea eb ed
      (Option.some.inj h)
  exact ⟨hl, decode_of_raw (by simp only [decodeRaw, hx, hy, decodeRow4, h0, h1, h2, h3, h4, h5])⟩

theorem RoundTrip.vand (d : BitVec 7) (a : BitVec 7) (b : BitVec 7) (ea : Bool) (eb : Bool) (ed : Bool) :
      RoundTrip.Statement (.vand d a b ea eb ed) := by
  intro w h
  obtain ⟨hl, hx, hy, h0, h1, h2, h3, h4, h5⟩ := shape10 4 5 w (by decide) (by decide) d a b ea eb ed
      (Option.some.inj h)
  exact ⟨hl, decode_of_raw (by simp only [decodeRaw, hx, hy, decodeRow4, h0, h1, h2, h3, h4, h5])⟩

theorem RoundTrip.vor (d : BitVec 7) (a : BitVec 7) (b : BitVec 7) (ea : Bool) (eb : Bool) (ed : Bool) :
      RoundTrip.Statement (.vor d a b ea eb ed) := by
  intro w h
  obtain ⟨hl, hx, hy, h0, h1, h2, h3, h4, h5⟩ := shape10 4 6 w (by decide) (by decide) d a b ea eb ed
      (Option.some.inj h)
  exact ⟨hl, decode_of_raw (by simp only [decodeRaw, hx, hy, decodeRow4, h0, h1, h2, h3, h4, h5])⟩

theorem RoundTrip.vxor (d : BitVec 7) (a : BitVec 7) (b : BitVec 7) (ea : Bool) (eb : Bool) (ed : Bool) :
      RoundTrip.Statement (.vxor d a b ea eb ed) := by
  intro w h
  obtain ⟨hl, hx, hy, h0, h1, h2, h3, h4, h5⟩ := shape10 4 7 w (by decide) (by decide) d a b ea eb ed
      (Option.some.inj h)
  exact ⟨hl, decode_of_raw (by simp only [decodeRaw, hx, hy, decodeRow4, h0, h1, h2, h3, h4, h5])⟩

theorem RoundTrip.vandn (d : BitVec 7) (a : BitVec 7) (b : BitVec 7) (ea : Bool) (eb : Bool) (ed : Bool) :
      RoundTrip.Statement (.vandn d a b ea eb ed) := by
  intro w h
  obtain ⟨hl, hx, hy, h0, h1, h2, h3, h4, h5⟩ := shape10 4 8 w (by decide) (by decide) d a b ea eb ed
      (Option.some.inj h)
  exact ⟨hl, decode_of_raw (by simp only [decodeRaw, hx, hy, decodeRow4, h0, h1, h2, h3, h4, h5])⟩

theorem RoundTrip.vshl (d : BitVec 7) (a : BitVec 7) (b : BitVec 7) (ea : Bool) (eb : Bool) (ed : Bool) :
      RoundTrip.Statement (.vshl d a b ea eb ed) := by
  intro w h
  obtain ⟨hl, hx, hy, h0, h1, h2, h3, h4, h5⟩ := shape10 4 9 w (by decide) (by decide) d a b ea eb ed
      (Option.some.inj h)
  exact ⟨hl, decode_of_raw (by simp only [decodeRaw, hx, hy, decodeRow4, h0, h1, h2, h3, h4, h5])⟩

theorem RoundTrip.vshr (d : BitVec 7) (a : BitVec 7) (b : BitVec 7) (ea : Bool) (eb : Bool) (ed : Bool) :
      RoundTrip.Statement (.vshr d a b ea eb ed) := by
  intro w h
  obtain ⟨hl, hx, hy, h0, h1, h2, h3, h4, h5⟩ := shape10 4 10 w (by decide) (by decide) d a b ea eb ed
      (Option.some.inj h)
  exact ⟨hl, decode_of_raw (by simp only [decodeRaw, hx, hy, decodeRow4, h0, h1, h2, h3, h4, h5])⟩

theorem RoundTrip.vsra (d : BitVec 7) (a : BitVec 7) (b : BitVec 7) (ea : Bool) (eb : Bool) (ed : Bool) :
      RoundTrip.Statement (.vsra d a b ea eb ed) := by
  intro w h
  obtain ⟨hl, hx, hy, h0, h1, h2, h3, h4, h5⟩ := shape10 4 11 w (by decide) (by decide) d a b ea eb ed
      (Option.some.inj h)
  exact ⟨hl, decode_of_raw (by simp only [decodeRaw, hx, hy, decodeRow4, h0, h1, h2, h3, h4, h5])⟩

theorem RoundTrip.vmin (d : BitVec 7) (a : BitVec 7) (b : BitVec 7) (ea : Bool) (eb : Bool) (ed : Bool) :
      RoundTrip.Statement (.vmin d a b ea eb ed) := by
  intro w h
  obtain ⟨hl, hx, hy, h0, h1, h2, h3, h4, h5⟩ := shape10 4 12 w (by decide) (by decide) d a b ea eb ed
      (Option.some.inj h)
  exact ⟨hl, decode_of_raw (by simp only [decodeRaw, hx, hy, decodeRow4, h0, h1, h2, h3, h4, h5])⟩

theorem RoundTrip.vmax (d : BitVec 7) (a : BitVec 7) (b : BitVec 7) (ea : Bool) (eb : Bool) (ed : Bool) :
      RoundTrip.Statement (.vmax d a b ea eb ed) := by
  intro w h
  obtain ⟨hl, hx, hy, h0, h1, h2, h3, h4, h5⟩ := shape10 4 13 w (by decide) (by decide) d a b ea eb ed
      (Option.some.inj h)
  exact ⟨hl, decode_of_raw (by simp only [decodeRaw, hx, hy, decodeRow4, h0, h1, h2, h3, h4, h5])⟩

theorem RoundTrip.vabs (d : BitVec 7) (a : BitVec 7) (ea : Bool) (ed : Bool) : RoundTrip.Statement (.vabs d a ea ed)
      := by
  intro w h
  obtain ⟨hl, hx, hy, h0, h1, h2, h3, h4, h5⟩ := shape11 4 14 w (by decide) (by decide) d a ea ed (Option.some.inj h)
  exact ⟨hl, decode_of_raw (by simp only [decodeRaw, hx, hy, decodeRow4, h0, h1, h2, h3, h4, h5, Bool.and_self,
      if_true])⟩

theorem RoundTrip.vneg (d : BitVec 7) (a : BitVec 7) (ea : Bool) (ed : Bool) : RoundTrip.Statement (.vneg d a ea ed)
      := by
  intro w h
  obtain ⟨hl, hx, hy, h0, h1, h2, h3, h4, h5⟩ := shape11 4 15 w (by decide) (by decide) d a ea ed (Option.some.inj h)
  exact ⟨hl, decode_of_raw (by simp only [decodeRaw, hx, hy, decodeRow4, h0, h1, h2, h3, h4, h5, Bool.and_self,
      if_true])⟩

theorem RoundTrip.veqSub2 (x : BitVec 7) (a : BitVec 7) (d : BitVec 6) (ea : Bool) (eb : Bool) : RoundTrip.Statement
      (.veqSub2 x a d ea eb) := by
  intro w h
  obtain ⟨hl, hx, hy, h0, h1, h2, h3, h4, h5⟩ := shape12 5 0 w (by decide) (by decide) x a d ea eb (Option.some.inj h)
  exact ⟨hl, decode_of_raw (by simp only [decodeRaw, hx, hy, decodeRow5, h0, h1, h2, h3, h4, h5, Bool.and_self,
      if_true])⟩

theorem RoundTrip.veqSub3 (a : BitVec 7) (d : BitVec 6) (ea : Bool) : RoundTrip.Statement (.veqSub3 a d ea) := by
  intro w h
  obtain ⟨hl, hx, hy, h0, h1, h2, h3, h4, h5⟩ := shape13 5 0 w (by decide) (by decide) a d ea (Option.some.inj h)
  exact ⟨hl, decode_of_raw (by simp only [decodeRaw, hx, hy, decodeRow5, h0, h1, h2, h3, h4, h5, Bool.and_self,
      Bool.and_false, Bool.false_and, if_true, Bool.false_eq_true, if_false])⟩

theorem RoundTrip.vneSub2 (x : BitVec 7) (a : BitVec 7) (d : BitVec 6) (ea : Bool) (eb : Bool) : RoundTrip.Statement
      (.vneSub2 x a d ea eb) := by
  intro w h
  obtain ⟨hl, hx, hy, h0, h1, h2, h3, h4, h5⟩ := shape12 5 1 w (by decide) (by decide) x a d ea eb (Option.some.inj h)
  exact ⟨hl, decode_of_raw (by simp only [decodeRaw, hx, hy, decodeRow5, h0, h1, h2, h3, h4, h5, Bool.and_self,
      if_true])⟩

theorem RoundTrip.vneSub3 (a : BitVec 7) (d : BitVec 6) (ea : Bool) : RoundTrip.Statement (.vneSub3 a d ea) := by
  intro w h
  obtain ⟨hl, hx, hy, h0, h1, h2, h3, h4, h5⟩ := shape13 5 1 w (by decide) (by decide) a d ea (Option.some.inj h)
  exact ⟨hl, decode_of_raw (by simp only [decodeRaw, hx, hy, decodeRow5, h0, h1, h2, h3, h4, h5, Bool.and_self,
      Bool.and_false, Bool.false_and, if_true, Bool.false_eq_true, if_false])⟩

theorem RoundTrip.vltSub2 (x : BitVec 7) (a : BitVec 7) (d : BitVec 6) (ea : Bool) (eb : Bool) : RoundTrip.Statement
      (.vltSub2 x a d ea eb) := by
  intro w h
  obtain ⟨hl, hx, hy, h0, h1, h2, h3, h4, h5⟩ := shape12 5 2 w (by decide) (by decide) x a d ea eb (Option.some.inj h)
  exact ⟨hl, decode_of_raw (by simp only [decodeRaw, hx, hy, decodeRow5, h0, h1, h2, h3, h4, h5, Bool.and_self,
      if_true])⟩

theorem RoundTrip.vltSub3 (a : BitVec 7) (d : BitVec 6) (ea : Bool) : RoundTrip.Statement (.vltSub3 a d ea) := by
  intro w h
  obtain ⟨hl, hx, hy, h0, h1, h2, h3, h4, h5⟩ := shape13 5 2 w (by decide) (by decide) a d ea (Option.some.inj h)
  exact ⟨hl, decode_of_raw (by simp only [decodeRaw, hx, hy, decodeRow5, h0, h1, h2, h3, h4, h5, Bool.and_self,
      Bool.and_false, Bool.false_and, if_true, Bool.false_eq_true, if_false])⟩

theorem RoundTrip.vleSub2 (x : BitVec 7) (a : BitVec 7) (d : BitVec 6) (ea : Bool) (eb : Bool) : RoundTrip.Statement
      (.vleSub2 x a d ea eb) := by
  intro w h
  obtain ⟨hl, hx, hy, h0, h1, h2, h3, h4, h5⟩ := shape12 5 3 w (by decide) (by decide) x a d ea eb (Option.some.inj h)
  exact ⟨hl, decode_of_raw (by simp only [decodeRaw, hx, hy, decodeRow5, h0, h1, h2, h3, h4, h5, Bool.and_self,
      if_true])⟩

theorem RoundTrip.vleSub3 (a : BitVec 7) (d : BitVec 6) (ea : Bool) : RoundTrip.Statement (.vleSub3 a d ea) := by
  intro w h
  obtain ⟨hl, hx, hy, h0, h1, h2, h3, h4, h5⟩ := shape13 5 3 w (by decide) (by decide) a d ea (Option.some.inj h)
  exact ⟨hl, decode_of_raw (by simp only [decodeRaw, hx, hy, decodeRow5, h0, h1, h2, h3, h4, h5, Bool.and_self,
      Bool.and_false, Bool.false_and, if_true, Bool.false_eq_true, if_false])⟩

theorem RoundTrip.vselSub0 (d : BitVec 7) (a : BitVec 7) (s : BitVec 6) (ea : Bool) (eb : Bool) : RoundTrip.Statement
      (.vselSub0 d a s ea eb) := by
  intro w h
  obtain ⟨hl, hx, hy, h0, h1, h2, h3, h4, h5⟩ := shape14 5 4 w (by decide) (by decide) d a s ea eb (Option.some.inj h)
  exact ⟨hl, decode_of_raw (by simp only [decodeRaw, hx, hy, decodeRow5, h0, h1, h2, h3, h4, h5, Bool.and_self,
      if_true])⟩

theorem RoundTrip.vselSub1 (d : BitVec 7) (a : BitVec 7) (s : BitVec 6) (ea : Bool) (eb : Bool) : RoundTrip.Statement
      (.vselSub1 d a s ea eb) := by
  intro w h
  obtain ⟨hl, hx, hy, h0, h1, h2, h3, h4, h5, h6⟩ := shape15 5 4 w (by decide) (by decide) d a s ea eb
      (Option.some.inj h)
  exact ⟨hl, decode_of_raw (by simp only [decodeRaw, hx, hy, decodeRow5, h0, h1, h2, h3, h4, h5, h6, Bool.and_self,
      Bool.and_false, Bool.false_and, if_true, Bool.false_eq_true, if_false])⟩

theorem RoundTrip.vmov (d : BitVec 7) (a : BitVec 7) (ea : Bool) (ed : Bool) : RoundTrip.Statement (.vmov d a ea ed)
      := by
  intro w h
  obtain ⟨hl, hx, hy, h0, h1, h2, h3, h4, h5⟩ := shape11 5 5 w (by decide) (by decide) d a ea ed (Option.some.inj h)
  exact ⟨hl, decode_of_raw (by simp only [decodeRaw, hx, hy, decodeRow5, h0, h1, h2, h3, h4, h5, Bool.and_self,
      if_true])⟩

theorem RoundTrip.vbcast (d : BitVec 7) (s : BitVec 6) (eb : Bool) : RoundTrip.Statement (.vbcast d s eb) := by
  intro w h
  obtain ⟨hl, hx, hy, h0, h1, h2, h3, h4, h5⟩ := shape16 5 6 w (by decide) (by decide) d s eb (Option.some.inj h)
  exact ⟨hl, decode_of_raw (by simp only [decodeRaw, hx, hy, decodeRow5, h0, h1, h2, h3, h4, h5, Bool.and_self,
      if_true])⟩

theorem RoundTrip.vlid (d : BitVec 7) (ed : Bool) : RoundTrip.Statement (.vlid d ed) := by
  intro w h
  obtain ⟨hl, hx, hy, h0, h1, h2⟩ := shape17 5 7 w (by decide) (by decide) d ed (Option.some.inj h)
  exact ⟨hl, decode_of_raw (by simp only [decodeRaw, hx, hy, decodeRow5, h0, h1, h2, Bool.and_self, if_true])⟩

theorem RoundTrip.vpop (d : BitVec 7) (a : BitVec 7) (ea : Bool) (ed : Bool) : RoundTrip.Statement (.vpop d a ea ed)
      := by
  intro w h
  obtain ⟨hl, hx, hy, h0, h1, h2, h3, h4, h5⟩ := shape11 5 8 w (by decide) (by decide) d a ea ed (Option.some.inj h)
  exact ⟨hl, decode_of_raw (by simp only [decodeRaw, hx, hy, decodeRow5, h0, h1, h2, h3, h4, h5, Bool.and_self,
      if_true])⟩

theorem RoundTrip.vclz (d : BitVec 7) (a : BitVec 7) (ea : Bool) (ed : Bool) : RoundTrip.Statement (.vclz d a ea ed)
      := by
  intro w h
  obtain ⟨hl, hx, hy, h0, h1, h2, h3, h4, h5⟩ := shape11 5 9 w (by decide) (by decide) d a ea ed (Option.some.inj h)
  exact ⟨hl, decode_of_raw (by simp only [decodeRaw, hx, hy, decodeRow5, h0, h1, h2, h3, h4, h5, Bool.and_self,
      if_true])⟩

theorem RoundTrip.vcvt (d : BitVec 7) (a : BitVec 7) (ea : Bool) (ed : Bool) : RoundTrip.Statement (.vcvt d a ea ed)
      := by
  intro w h
  obtain ⟨hl, hx, hy, h0, h1, h2, h3, h4, h5⟩ := shape11 5 10 w (by decide) (by decide) d a ea ed (Option.some.inj h)
  exact ⟨hl, decode_of_raw (by simp only [decodeRaw, hx, hy, decodeRow5, h0, h1, h2, h3, h4, h5, Bool.and_self,
      if_true])⟩

theorem RoundTrip.vpack (d : BitVec 7) (a : BitVec 7) (b : BitVec 7) (ea : Bool) (eb : Bool) (ed : Bool) :
      RoundTrip.Statement (.vpack d a b ea eb ed) := by
  intro w h
  obtain ⟨hl, hx, hy, h0, h1, h2, h3, h4, h5⟩ := shape10 5 11 w (by decide) (by decide) d a b ea eb ed
      (Option.some.inj h)
  exact ⟨hl, decode_of_raw (by simp only [decodeRaw, hx, hy, decodeRow5, h0, h1, h2, h3, h4, h5])⟩

theorem RoundTrip.vunpack (d : BitVec 7) (a : BitVec 7) (b : BitVec 7) (ea : Bool) (eb : Bool) (ed : Bool) :
      RoundTrip.Statement (.vunpack d a b ea eb ed) := by
  intro w h
  obtain ⟨hl, hx, hy, h0, h1, h2, h3, h4, h5⟩ := shape10 5 12 w (by decide) (by decide) d a b ea eb ed
      (Option.some.inj h)
  exact ⟨hl, decode_of_raw (by simp only [decodeRaw, hx, hy, decodeRow5, h0, h1, h2, h3, h4, h5])⟩

theorem RoundTrip.vrand (d : BitVec 7) (ed : Bool) : RoundTrip.Statement (.vrand d ed) := by
  intro w h
  obtain ⟨hl, hx, hy, h0, h1, h2⟩ := shape17 5 13 w (by decide) (by decide) d ed (Option.some.inj h)
  exact ⟨hl, decode_of_raw (by simp only [decodeRaw, hx, hy, decodeRow5, h0, h1, h2, Bool.and_self, if_true])⟩

theorem RoundTrip.fadd (d : BitVec 7) (a : BitVec 7) (b : BitVec 7) (ea : Bool) (eb : Bool) (ed : Bool) :
      RoundTrip.Statement (.fadd d a b ea eb ed) := by
  intro w h
  obtain ⟨hl, hx, hy, h0, h1, h2, h3, h4, h5⟩ := shape10 6 0 w (by decide) (by decide) d a b ea eb ed
      (Option.some.inj h)
  exact ⟨hl, decode_of_raw (by simp only [decodeRaw, hx, hy, decodeRow6, h0, h1, h2, h3, h4, h5])⟩

theorem RoundTrip.fsub (d : BitVec 7) (a : BitVec 7) (b : BitVec 7) (ea : Bool) (eb : Bool) (ed : Bool) :
      RoundTrip.Statement (.fsub d a b ea eb ed) := by
  intro w h
  obtain ⟨hl, hx, hy, h0, h1, h2, h3, h4, h5⟩ := shape10 6 1 w (by decide) (by decide) d a b ea eb ed
      (Option.some.inj h)
  exact ⟨hl, decode_of_raw (by simp only [decodeRaw, hx, hy, decodeRow6, h0, h1, h2, h3, h4, h5])⟩

theorem RoundTrip.fmul (d : BitVec 7) (a : BitVec 7) (b : BitVec 7) (ea : Bool) (eb : Bool) (ed : Bool) :
      RoundTrip.Statement (.fmul d a b ea eb ed) := by
  intro w h
  obtain ⟨hl, hx, hy, h0, h1, h2, h3, h4, h5⟩ := shape10 6 2 w (by decide) (by decide) d a b ea eb ed
      (Option.some.inj h)
  exact ⟨hl, decode_of_raw (by simp only [decodeRaw, hx, hy, decodeRow6, h0, h1, h2, h3, h4, h5])⟩

theorem RoundTrip.ffma (d : BitVec 7) (a : BitVec 7) (b : BitVec 7) (ea : Bool) (eb : Bool) (ed : Bool) :
      RoundTrip.Statement (.ffma d a b ea eb ed) := by
  intro w h
  obtain ⟨hl, hx, hy, h0, h1, h2, h3, h4, h5⟩ := shape10 6 3 w (by decide) (by decide) d a b ea eb ed
      (Option.some.inj h)
  exact ⟨hl, decode_of_raw (by simp only [decodeRaw, hx, hy, decodeRow6, h0, h1, h2, h3, h4, h5])⟩

theorem RoundTrip.ffms (d : BitVec 7) (a : BitVec 7) (b : BitVec 7) (ea : Bool) (eb : Bool) (ed : Bool) :
      RoundTrip.Statement (.ffms d a b ea eb ed) := by
  intro w h
  obtain ⟨hl, hx, hy, h0, h1, h2, h3, h4, h5⟩ := shape10 6 4 w (by decide) (by decide) d a b ea eb ed
      (Option.some.inj h)
  exact ⟨hl, decode_of_raw (by simp only [decodeRaw, hx, hy, decodeRow6, h0, h1, h2, h3, h4, h5])⟩

theorem RoundTrip.fnma (d : BitVec 7) (a : BitVec 7) (b : BitVec 7) (ea : Bool) (eb : Bool) (ed : Bool) :
      RoundTrip.Statement (.fnma d a b ea eb ed) := by
  intro w h
  obtain ⟨hl, hx, hy, h0, h1, h2, h3, h4, h5⟩ := shape10 6 5 w (by decide) (by decide) d a b ea eb ed
      (Option.some.inj h)
  exact ⟨hl, decode_of_raw (by simp only [decodeRaw, hx, hy, decodeRow6, h0, h1, h2, h3, h4, h5])⟩

theorem RoundTrip.fmin (d : BitVec 7) (a : BitVec 7) (b : BitVec 7) (ea : Bool) (eb : Bool) (ed : Bool) :
      RoundTrip.Statement (.fmin d a b ea eb ed) := by
  intro w h
  obtain ⟨hl, hx, hy, h0, h1, h2, h3, h4, h5⟩ := shape10 6 6 w (by decide) (by decide) d a b ea eb ed
      (Option.some.inj h)
  exact ⟨hl, decode_of_raw (by simp only [decodeRaw, hx, hy, decodeRow6, h0, h1, h2, h3, h4, h5])⟩

theorem RoundTrip.fmax (d : BitVec 7) (a : BitVec 7) (b : BitVec 7) (ea : Bool) (eb : Bool) (ed : Bool) :
      RoundTrip.Statement (.fmax d a b ea eb ed) := by
  intro w h
  obtain ⟨hl, hx, hy, h0, h1, h2, h3, h4, h5⟩ := shape10 6 7 w (by decide) (by decide) d a b ea eb ed
      (Option.some.inj h)
  exact ⟨hl, decode_of_raw (by simp only [decodeRaw, hx, hy, decodeRow6, h0, h1, h2, h3, h4, h5])⟩

theorem RoundTrip.fabs (d : BitVec 7) (a : BitVec 7) (ea : Bool) (ed : Bool) : RoundTrip.Statement (.fabs d a ea ed)
      := by
  intro w h
  obtain ⟨hl, hx, hy, h0, h1, h2, h3, h4, h5⟩ := shape11 6 8 w (by decide) (by decide) d a ea ed (Option.some.inj h)
  exact ⟨hl, decode_of_raw (by simp only [decodeRaw, hx, hy, decodeRow6, h0, h1, h2, h3, h4, h5, Bool.and_self,
      if_true])⟩

theorem RoundTrip.fneg (d : BitVec 7) (a : BitVec 7) (ea : Bool) (ed : Bool) : RoundTrip.Statement (.fneg d a ea ed)
      := by
  intro w h
  obtain ⟨hl, hx, hy, h0, h1, h2, h3, h4, h5⟩ := shape11 6 9 w (by decide) (by decide) d a ea ed (Option.some.inj h)
  exact ⟨hl, decode_of_raw (by simp only [decodeRaw, hx, hy, decodeRow6, h0, h1, h2, h3, h4, h5, Bool.and_self,
      if_true])⟩

theorem RoundTrip.feqSub2 (x : BitVec 7) (a : BitVec 7) (d : BitVec 6) (ea : Bool) (eb : Bool) : RoundTrip.Statement
      (.feqSub2 x a d ea eb) := by
  intro w h
  obtain ⟨hl, hx, hy, h0, h1, h2, h3, h4, h5⟩ := shape12 6 10 w (by decide) (by decide) x a d ea eb (Option.some.inj h)
  exact ⟨hl, decode_of_raw (by simp only [decodeRaw, hx, hy, decodeRow6, h0, h1, h2, h3, h4, h5, Bool.and_self,
      if_true])⟩

theorem RoundTrip.feqSub3 (a : BitVec 7) (d : BitVec 6) (ea : Bool) : RoundTrip.Statement (.feqSub3 a d ea) := by
  intro w h
  obtain ⟨hl, hx, hy, h0, h1, h2, h3, h4, h5⟩ := shape13 6 10 w (by decide) (by decide) a d ea (Option.some.inj h)
  exact ⟨hl, decode_of_raw (by simp only [decodeRaw, hx, hy, decodeRow6, h0, h1, h2, h3, h4, h5, Bool.and_self,
      Bool.and_false, Bool.false_and, if_true, Bool.false_eq_true, if_false])⟩

theorem RoundTrip.fltSub2 (x : BitVec 7) (a : BitVec 7) (d : BitVec 6) (ea : Bool) (eb : Bool) : RoundTrip.Statement
      (.fltSub2 x a d ea eb) := by
  intro w h
  obtain ⟨hl, hx, hy, h0, h1, h2, h3, h4, h5⟩ := shape12 6 11 w (by decide) (by decide) x a d ea eb (Option.some.inj h)
  exact ⟨hl, decode_of_raw (by simp only [decodeRaw, hx, hy, decodeRow6, h0, h1, h2, h3, h4, h5, Bool.and_self,
      if_true])⟩

theorem RoundTrip.fltSub3 (a : BitVec 7) (d : BitVec 6) (ea : Bool) : RoundTrip.Statement (.fltSub3 a d ea) := by
  intro w h
  obtain ⟨hl, hx, hy, h0, h1, h2, h3, h4, h5⟩ := shape13 6 11 w (by decide) (by decide) a d ea (Option.some.inj h)
  exact ⟨hl, decode_of_raw (by simp only [decodeRaw, hx, hy, decodeRow6, h0, h1, h2, h3, h4, h5, Bool.and_self,
      Bool.and_false, Bool.false_and, if_true, Bool.false_eq_true, if_false])⟩

theorem RoundTrip.fleSub2 (x : BitVec 7) (a : BitVec 7) (d : BitVec 6) (ea : Bool) (eb : Bool) : RoundTrip.Statement
      (.fleSub2 x a d ea eb) := by
  intro w h
  obtain ⟨hl, hx, hy, h0, h1, h2, h3, h4, h5⟩ := shape12 6 12 w (by decide) (by decide) x a d ea eb (Option.some.inj h)
  exact ⟨hl, decode_of_raw (by simp only [decodeRaw, hx, hy, decodeRow6, h0, h1, h2, h3, h4, h5, Bool.and_self,
      if_true])⟩

theorem RoundTrip.fleSub3 (a : BitVec 7) (d : BitVec 6) (ea : Bool) : RoundTrip.Statement (.fleSub3 a d ea) := by
  intro w h
  obtain ⟨hl, hx, hy, h0, h1, h2, h3, h4, h5⟩ := shape13 6 12 w (by decide) (by decide) a d ea (Option.some.inj h)
  exact ⟨hl, decode_of_raw (by simp only [decodeRaw, hx, hy, decodeRow6, h0, h1, h2, h3, h4, h5, Bool.and_self,
      Bool.and_false, Bool.false_and, if_true, Bool.false_eq_true, if_false])⟩

theorem RoundTrip.funSub2 (x : BitVec 7) (a : BitVec 7) (d : BitVec 6) (ea : Bool) (eb : Bool) : RoundTrip.Statement
      (.funSub2 x a d ea eb) := by
  intro w h
  obtain ⟨hl, hx, hy, h0, h1, h2, h3, h4, h5⟩ := shape12 6 13 w (by decide) (by decide) x a d ea eb (Option.some.inj h)
  exact ⟨hl, decode_of_raw (by simp only [decodeRaw, hx, hy, decodeRow6, h0, h1, h2, h3, h4, h5, Bool.and_self,
      if_true])⟩

theorem RoundTrip.funSub3 (a : BitVec 7) (d : BitVec 6) (ea : Bool) : RoundTrip.Statement (.funSub3 a d ea) := by
  intro w h
  obtain ⟨hl, hx, hy, h0, h1, h2, h3, h4, h5⟩ := shape13 6 13 w (by decide) (by decide) a d ea (Option.some.inj h)
  exact ⟨hl, decode_of_raw (by simp only [decodeRaw, hx, hy, decodeRow6, h0, h1, h2, h3, h4, h5, Bool.and_self,
      Bool.and_false, Bool.false_and, if_true, Bool.false_eq_true, if_false])⟩

theorem RoundTrip.frcp (d : BitVec 7) (a : BitVec 7) (ea : Bool) (ed : Bool) : RoundTrip.Statement (.frcp d a ea ed)
      := by
  intro w h
  obtain ⟨hl, hx, hy, h0, h1, h2, h3, h4, h5⟩ := shape11 6 14 w (by decide) (by decide) d a ea ed (Option.some.inj h)
  exact ⟨hl, decode_of_raw (by simp only [decodeRaw, hx, hy, decodeRow6, h0, h1, h2, h3, h4, h5, Bool.and_self,
      if_true])⟩

theorem RoundTrip.frsq (d : BitVec 7) (a : BitVec 7) (ea : Bool) (ed : Bool) : RoundTrip.Statement (.frsq d a ea ed)
      := by
  intro w h
  obtain ⟨hl, hx, hy, h0, h1, h2, h3, h4, h5⟩ := shape11 6 15 w (by decide) (by decide) d a ea ed (Option.some.inj h)
  exact ⟨hl, decode_of_raw (by simp only [decodeRaw, hx, hy, decodeRow6, h0, h1, h2, h3, h4, h5, Bool.and_self,
      if_true])⟩

theorem RoundTrip.fsqrt (d : BitVec 7) (a : BitVec 7) (ea : Bool) (ed : Bool) : RoundTrip.Statement (.fsqrt d a ea
      ed) := by
  intro w h
  obtain ⟨hl, hx, hy, h0, h1, h2, h3, h4, h5⟩ := shape11 7 0 w (by decide) (by decide) d a ea ed (Option.some.inj h)
  exact ⟨hl, decode_of_raw (by simp only [decodeRaw, hx, hy, decodeRow7, h0, h1, h2, h3, h4, h5, Bool.and_self,
      if_true])⟩

theorem RoundTrip.fexp2 (d : BitVec 7) (a : BitVec 7) (ea : Bool) (ed : Bool) : RoundTrip.Statement (.fexp2 d a ea
      ed) := by
  intro w h
  obtain ⟨hl, hx, hy, h0, h1, h2, h3, h4, h5⟩ := shape11 7 1 w (by decide) (by decide) d a ea ed (Option.some.inj h)
  exact ⟨hl, decode_of_raw (by simp only [decodeRaw, hx, hy, decodeRow7, h0, h1, h2, h3, h4, h5, Bool.and_self,
      if_true])⟩

theorem RoundTrip.flog2 (d : BitVec 7) (a : BitVec 7) (ea : Bool) (ed : Bool) : RoundTrip.Statement (.flog2 d a ea
      ed) := by
  intro w h
  obtain ⟨hl, hx, hy, h0, h1, h2, h3, h4, h5⟩ := shape11 7 2 w (by decide) (by decide) d a ea ed (Option.some.inj h)
  exact ⟨hl, decode_of_raw (by simp only [decodeRaw, hx, hy, decodeRow7, h0, h1, h2, h3, h4, h5, Bool.and_self,
      if_true])⟩

theorem RoundTrip.fsin (d : BitVec 7) (a : BitVec 7) (ea : Bool) (ed : Bool) : RoundTrip.Statement (.fsin d a ea ed)
      := by
  intro w h
  obtain ⟨hl, hx, hy, h0, h1, h2, h3, h4, h5⟩ := shape11 7 3 w (by decide) (by decide) d a ea ed (Option.some.inj h)
  exact ⟨hl, decode_of_raw (by simp only [decodeRaw, hx, hy, decodeRow7, h0, h1, h2, h3, h4, h5, Bool.and_self,
      if_true])⟩

theorem RoundTrip.fcos (d : BitVec 7) (a : BitVec 7) (ea : Bool) (ed : Bool) : RoundTrip.Statement (.fcos d a ea ed)
      := by
  intro w h
  obtain ⟨hl, hx, hy, h0, h1, h2, h3, h4, h5⟩ := shape11 7 4 w (by decide) (by decide) d a ea ed (Option.some.inj h)
  exact ⟨hl, decode_of_raw (by simp only [decodeRaw, hx, hy, decodeRow7, h0, h1, h2, h3, h4, h5, Bool.and_self,
      if_true])⟩

theorem RoundTrip.fround (d : BitVec 7) (a : BitVec 7) (ea : Bool) (ed : Bool) : RoundTrip.Statement (.fround d a ea
      ed) := by
  intro w h
  obtain ⟨hl, hx, hy, h0, h1, h2, h3, h4, h5⟩ := shape11 7 5 w (by decide) (by decide) d a ea ed (Option.some.inj h)
  exact ⟨hl, decode_of_raw (by simp only [decodeRaw, hx, hy, decodeRow7, h0, h1, h2, h3, h4, h5, Bool.and_self,
      if_true])⟩

theorem RoundTrip.fcvt (d : BitVec 7) (a : BitVec 7) (ea : Bool) (ed : Bool) : RoundTrip.Statement (.fcvt d a ea ed)
      := by
  intro w h
  obtain ⟨hl, hx, hy, h0, h1, h2, h3, h4, h5⟩ := shape11 7 6 w (by decide) (by decide) d a ea ed (Option.some.inj h)
  exact ⟨hl, decode_of_raw (by simp only [decodeRaw, hx, hy, decodeRow7, h0, h1, h2, h3, h4, h5, Bool.and_self,
      if_true])⟩

theorem RoundTrip.fcvti (d : BitVec 7) (a : BitVec 7) (ea : Bool) (ed : Bool) : RoundTrip.Statement (.fcvti d a ea
      ed) := by
  intro w h
  obtain ⟨hl, hx, hy, h0, h1, h2, h3, h4, h5⟩ := shape11 7 7 w (by decide) (by decide) d a ea ed (Option.some.inj h)
  exact ⟨hl, decode_of_raw (by simp only [decodeRaw, hx, hy, decodeRow7, h0, h1, h2, h3, h4, h5, Bool.and_self,
      if_true])⟩

theorem RoundTrip.ficvt (d : BitVec 7) (a : BitVec 7) (ea : Bool) (ed : Bool) : RoundTrip.Statement (.ficvt d a ea
      ed) := by
  intro w h
  obtain ⟨hl, hx, hy, h0, h1, h2, h3, h4, h5⟩ := shape11 7 8 w (by decide) (by decide) d a ea ed (Option.some.inj h)
  exact ⟨hl, decode_of_raw (by simp only [decodeRaw, hx, hy, decodeRow7, h0, h1, h2, h3, h4, h5, Bool.and_self,
      if_true])⟩

theorem RoundTrip.fscale (d : BitVec 7) (a : BitVec 7) (b : BitVec 7) (ea : Bool) (eb : Bool) (ed : Bool) :
      RoundTrip.Statement (.fscale d a b ea eb ed) := by
  intro w h
  obtain ⟨hl, hx, hy, h0, h1, h2, h3, h4, h5⟩ := shape10 7 9 w (by decide) (by decide) d a b ea eb ed
      (Option.some.inj h)
  exact ⟨hl, decode_of_raw (by simp only [decodeRaw, hx, hy, decodeRow7, h0, h1, h2, h3, h4, h5])⟩

theorem RoundTrip.fgetexp (d : BitVec 7) (a : BitVec 7) (ea : Bool) (ed : Bool) : RoundTrip.Statement (.fgetexp d a
      ea ed) := by
  intro w h
  obtain ⟨hl, hx, hy, h0, h1, h2, h3, h4, h5⟩ := shape11 7 10 w (by decide) (by decide) d a ea ed (Option.some.inj h)
  exact ⟨hl, decode_of_raw (by simp only [decodeRaw, hx, hy, decodeRow7, h0, h1, h2, h3, h4, h5, Bool.and_self,
      if_true])⟩

theorem RoundTrip.fgetman (d : BitVec 7) (a : BitVec 7) (ea : Bool) (ed : Bool) : RoundTrip.Statement (.fgetman d a
      ea ed) := by
  intro w h
  obtain ⟨hl, hx, hy, h0, h1, h2, h3, h4, h5⟩ := shape11 7 11 w (by decide) (by decide) d a ea ed (Option.some.inj h)
  exact ⟨hl, decode_of_raw (by simp only [decodeRaw, hx, hy, decodeRow7, h0, h1, h2, h3, h4, h5, Bool.and_self,
      if_true])⟩

theorem RoundTrip.fclass (d : BitVec 7) (a : BitVec 7) (ea : Bool) (ed : Bool) : RoundTrip.Statement (.fclass d a ea
      ed) := by
  intro w h
  obtain ⟨hl, hx, hy, h0, h1, h2, h3, h4, h5⟩ := shape11 7 12 w (by decide) (by decide) d a ea ed (Option.some.inj h)
  exact ⟨hl, decode_of_raw (by simp only [decodeRaw, hx, hy, decodeRow7, h0, h1, h2, h3, h4, h5, Bool.and_self,
      if_true])⟩

theorem RoundTrip.twosum (d : BitVec 7) (a : BitVec 7) (b : BitVec 7) (ea : Bool) (eb : Bool) (ed : Bool) :
      RoundTrip.Statement (.twosum d a b ea eb ed) := by
  intro w h
  obtain ⟨hl, hx, hy, h0, h1, h2, h3, h4, h5⟩ := shape10 8 0 w (by decide) (by decide) d a b ea eb ed
      (Option.some.inj h)
  exact ⟨hl, decode_of_raw (by simp only [decodeRaw, hx, hy, decodeRow8, h0, h1, h2, h3, h4, h5])⟩

theorem RoundTrip.ftwosum (d : BitVec 7) (a : BitVec 7) (b : BitVec 7) (ea : Bool) (eb : Bool) (ed : Bool) :
      RoundTrip.Statement (.ftwosum d a b ea eb ed) := by
  intro w h
  obtain ⟨hl, hx, hy, h0, h1, h2, h3, h4, h5⟩ := shape10 8 1 w (by decide) (by decide) d a b ea eb ed
      (Option.some.inj h)
  exact ⟨hl, decode_of_raw (by simp only [decodeRaw, hx, hy, decodeRow8, h0, h1, h2, h3, h4, h5])⟩

theorem RoundTrip.twoprod (d : BitVec 7) (a : BitVec 7) (b : BitVec 7) (ea : Bool) (eb : Bool) (ed : Bool) :
      RoundTrip.Statement (.twoprod d a b ea eb ed) := by
  intro w h
  obtain ⟨hl, hx, hy, h0, h1, h2, h3, h4, h5⟩ := shape10 8 2 w (by decide) (by decide) d a b ea eb ed
      (Option.some.inj h)
  exact ⟨hl, decode_of_raw (by simp only [decodeRaw, hx, hy, decodeRow8, h0, h1, h2, h3, h4, h5])⟩

theorem RoundTrip.fmaerr (d : BitVec 7) (a : BitVec 7) (b : BitVec 7) (ea : Bool) (eb : Bool) (ed : Bool) :
      RoundTrip.Statement (.fmaerr d a b ea eb ed) := by
  intro w h
  obtain ⟨hl, hx, hy, h0, h1, h2, h3, h4, h5⟩ := shape10 8 3 w (by decide) (by decide) d a b ea eb ed
      (Option.some.inj h)
  exact ⟨hl, decode_of_raw (by simp only [decodeRaw, hx, hy, decodeRow8, h0, h1, h2, h3, h4, h5])⟩

theorem RoundTrip.xadd (d : BitVec 7) (a : BitVec 7) (b : BitVec 7) (ea : Bool) (eb : Bool) (ed : Bool) :
      RoundTrip.Statement (.xadd d a b ea eb ed) := by
  intro w h
  obtain ⟨hl, hx, hy, h0, h1, h2, h3, h4, h5⟩ := shape10 8 4 w (by decide) (by decide) d a b ea eb ed
      (Option.some.inj h)
  exact ⟨hl, decode_of_raw (by simp only [decodeRaw, hx, hy, decodeRow8, h0, h1, h2, h3, h4, h5])⟩

theorem RoundTrip.xsub (d : BitVec 7) (a : BitVec 7) (b : BitVec 7) (ea : Bool) (eb : Bool) (ed : Bool) :
      RoundTrip.Statement (.xsub d a b ea eb ed) := by
  intro w h
  obtain ⟨hl, hx, hy, h0, h1, h2, h3, h4, h5⟩ := shape10 8 5 w (by decide) (by decide) d a b ea eb ed
      (Option.some.inj h)
  exact ⟨hl, decode_of_raw (by simp only [decodeRaw, hx, hy, decodeRow8, h0, h1, h2, h3, h4, h5])⟩

theorem RoundTrip.xmul (d : BitVec 7) (a : BitVec 7) (b : BitVec 7) (ea : Bool) (eb : Bool) (ed : Bool) :
      RoundTrip.Statement (.xmul d a b ea eb ed) := by
  intro w h
  obtain ⟨hl, hx, hy, h0, h1, h2, h3, h4, h5⟩ := shape10 8 6 w (by decide) (by decide) d a b ea eb ed
      (Option.some.inj h)
  exact ⟨hl, decode_of_raw (by simp only [decodeRaw, hx, hy, decodeRow8, h0, h1, h2, h3, h4, h5])⟩

theorem RoundTrip.xfma (d : BitVec 7) (a : BitVec 7) (b : BitVec 7) (ea : Bool) (eb : Bool) (ed : Bool) :
      RoundTrip.Statement (.xfma d a b ea eb ed) := by
  intro w h
  obtain ⟨hl, hx, hy, h0, h1, h2, h3, h4, h5⟩ := shape10 8 7 w (by decide) (by decide) d a b ea eb ed
      (Option.some.inj h)
  exact ⟨hl, decode_of_raw (by simp only [decodeRaw, hx, hy, decodeRow8, h0, h1, h2, h3, h4, h5])⟩

theorem RoundTrip.xrenorm (d : BitVec 7) (a : BitVec 7) (ea : Bool) (ed : Bool) : RoundTrip.Statement (.xrenorm d a
      ea ed) := by
  intro w h
  obtain ⟨hl, hx, hy, h0, h1, h2, h3, h4, h5⟩ := shape11 8 8 w (by decide) (by decide) d a ea ed (Option.some.inj h)
  exact ⟨hl, decode_of_raw (by simp only [decodeRaw, hx, hy, decodeRow8, h0, h1, h2, h3, h4, h5, Bool.and_self,
      if_true])⟩

theorem RoundTrip.xcompress (d : BitVec 7) (a : BitVec 7) (ea : Bool) (ed : Bool) : RoundTrip.Statement (.xcompress d
      a ea ed) := by
  intro w h
  obtain ⟨hl, hx, hy, h0, h1, h2, h3, h4, h5⟩ := shape11 8 9 w (by decide) (by decide) d a ea ed (Option.some.inj h)
  exact ⟨hl, decode_of_raw (by simp only [decodeRaw, hx, hy, decodeRow8, h0, h1, h2, h3, h4, h5, Bool.and_self,
      if_true])⟩

theorem RoundTrip.xeqSub2 (x : BitVec 7) (a : BitVec 7) (d : BitVec 6) (ea : Bool) (eb : Bool) : RoundTrip.Statement
      (.xeqSub2 x a d ea eb) := by
  intro w h
  obtain ⟨hl, hx, hy, h0, h1, h2, h3, h4, h5⟩ := shape12 8 10 w (by decide) (by decide) x a d ea eb (Option.some.inj h)
  exact ⟨hl, decode_of_raw (by simp only [decodeRaw, hx, hy, decodeRow8, h0, h1, h2, h3, h4, h5, Bool.and_self,
      if_true])⟩

theorem RoundTrip.xeqSub3 (a : BitVec 7) (d : BitVec 6) (ea : Bool) : RoundTrip.Statement (.xeqSub3 a d ea) := by
  intro w h
  obtain ⟨hl, hx, hy, h0, h1, h2, h3, h4, h5⟩ := shape13 8 10 w (by decide) (by decide) a d ea (Option.some.inj h)
  exact ⟨hl, decode_of_raw (by simp only [decodeRaw, hx, hy, decodeRow8, h0, h1, h2, h3, h4, h5, Bool.and_self,
      Bool.and_false, Bool.false_and, if_true, Bool.false_eq_true, if_false])⟩

theorem RoundTrip.xltSub2 (x : BitVec 7) (a : BitVec 7) (d : BitVec 6) (ea : Bool) (eb : Bool) : RoundTrip.Statement
      (.xltSub2 x a d ea eb) := by
  intro w h
  obtain ⟨hl, hx, hy, h0, h1, h2, h3, h4, h5⟩ := shape12 8 11 w (by decide) (by decide) x a d ea eb (Option.some.inj h)
  exact ⟨hl, decode_of_raw (by simp only [decodeRaw, hx, hy, decodeRow8, h0, h1, h2, h3, h4, h5, Bool.and_self,
      if_true])⟩

theorem RoundTrip.xltSub3 (a : BitVec 7) (d : BitVec 6) (ea : Bool) : RoundTrip.Statement (.xltSub3 a d ea) := by
  intro w h
  obtain ⟨hl, hx, hy, h0, h1, h2, h3, h4, h5⟩ := shape13 8 11 w (by decide) (by decide) a d ea (Option.some.inj h)
  exact ⟨hl, decode_of_raw (by simp only [decodeRaw, hx, hy, decodeRow8, h0, h1, h2, h3, h4, h5, Bool.and_self,
      Bool.and_false, Bool.false_and, if_true, Bool.false_eq_true, if_false])⟩

theorem RoundTrip.xleSub2 (x : BitVec 7) (a : BitVec 7) (d : BitVec 6) (ea : Bool) (eb : Bool) : RoundTrip.Statement
      (.xleSub2 x a d ea eb) := by
  intro w h
  obtain ⟨hl, hx, hy, h0, h1, h2, h3, h4, h5⟩ := shape12 8 12 w (by decide) (by decide) x a d ea eb (Option.some.inj h)
  exact ⟨hl, decode_of_raw (by simp only [decodeRaw, hx, hy, decodeRow8, h0, h1, h2, h3, h4, h5, Bool.and_self,
      if_true])⟩

theorem RoundTrip.xleSub3 (a : BitVec 7) (d : BitVec 6) (ea : Bool) : RoundTrip.Statement (.xleSub3 a d ea) := by
  intro w h
  obtain ⟨hl, hx, hy, h0, h1, h2, h3, h4, h5⟩ := shape13 8 12 w (by decide) (by decide) a d ea (Option.some.inj h)
  exact ⟨hl, decode_of_raw (by simp only [decodeRaw, hx, hy, decodeRow8, h0, h1, h2, h3, h4, h5, Bool.and_self,
      Bool.and_false, Bool.false_and, if_true, Bool.false_eq_true, if_false])⟩

theorem RoundTrip.xneg (d : BitVec 7) (a : BitVec 7) (ea : Bool) (ed : Bool) : RoundTrip.Statement (.xneg d a ea ed)
      := by
  intro w h
  obtain ⟨hl, hx, hy, h0, h1, h2, h3, h4, h5⟩ := shape11 8 13 w (by decide) (by decide) d a ea ed (Option.some.inj h)
  exact ⟨hl, decode_of_raw (by simp only [decodeRaw, hx, hy, decodeRow8, h0, h1, h2, h3, h4, h5, Bool.and_self,
      if_true])⟩

theorem RoundTrip.xabs (d : BitVec 7) (a : BitVec 7) (ea : Bool) (ed : Bool) : RoundTrip.Statement (.xabs d a ea ed)
      := by
  intro w h
  obtain ⟨hl, hx, hy, h0, h1, h2, h3, h4, h5⟩ := shape11 8 14 w (by decide) (by decide) d a ea ed (Option.some.inj h)
  exact ⟨hl, decode_of_raw (by simp only [decodeRaw, hx, hy, decodeRow8, h0, h1, h2, h3, h4, h5, Bool.and_self,
      if_true])⟩

theorem RoundTrip.xsplit (d : BitVec 7) (a : BitVec 7) (ea : Bool) (ed : Bool) : RoundTrip.Statement (.xsplit d a ea
      ed) := by
  intro w h
  obtain ⟨hl, hx, hy, h0, h1, h2, h3, h4, h5⟩ := shape11 8 15 w (by decide) (by decide) d a ea ed (Option.some.inj h)
  exact ⟨hl, decode_of_raw (by simp only [decodeRaw, hx, hy, decodeRow8, h0, h1, h2, h3, h4, h5, Bool.and_self,
      if_true])⟩

theorem RoundTrip.xtop (d : BitVec 7) (a : BitVec 7) (ea : Bool) (ed : Bool) : RoundTrip.Statement (.xtop d a ea ed)
      := by
  intro w h
  obtain ⟨hl, hx, hy, h0, h1, h2, h3, h4, h5⟩ := shape11 9 0 w (by decide) (by decide) d a ea ed (Option.some.inj h)
  exact ⟨hl, decode_of_raw (by simp only [decodeRaw, hx, hy, decodeRow9, h0, h1, h2, h3, h4, h5, Bool.and_self,
      if_true])⟩

theorem RoundTrip.xcvt (d : BitVec 7) (a : BitVec 7) (c : BitVec 7) (ea : Bool) (ed : Bool) : RoundTrip.Statement
      (.xcvt d a c ea ed) := by
  intro w h
  obtain ⟨hl, hx, hy, h0, h1, h2, h3, h4, h5⟩ := shape18 9 1 w (by decide) (by decide) d a c ea ed (Option.some.inj h)
  exact ⟨hl, decode_of_raw (by simp only [decodeRaw, hx, hy, decodeRow9, h0, h1, h2, h3, h4, h5, Bool.and_self,
      if_true])⟩

theorem RoundTrip.xbound (d : BitVec 7) (a : BitVec 7) (ea : Bool) (ed : Bool) : RoundTrip.Statement (.xbound d a ea
      ed) := by
  intro w h
  obtain ⟨hl, hx, hy, h0, h1, h2, h3, h4, h5⟩ := shape11 9 2 w (by decide) (by decide) d a ea ed (Option.some.inj h)
  exact ⟨hl, decode_of_raw (by simp only [decodeRaw, hx, hy, decodeRow9, h0, h1, h2, h3, h4, h5, Bool.and_self,
      if_true])⟩

theorem RoundTrip.qswh (d : BitVec 7) (a : BitVec 7) (ea : Bool) (ed : Bool) : RoundTrip.Statement (.qswh d a ea ed)
      := by
  intro w h
  obtain ⟨hl, hx, hy, h0, h1, h2, h3, h4, h5⟩ := shape11 9 8 w (by decide) (by decide) d a ea ed (Option.some.inj h)
  exact ⟨hl, decode_of_raw (by simp only [decodeRaw, hx, hy, decodeRow9, h0, h1, h2, h3, h4, h5, Bool.and_self,
      if_true])⟩

theorem RoundTrip.qswv (d : BitVec 7) (a : BitVec 7) (ea : Bool) (ed : Bool) : RoundTrip.Statement (.qswv d a ea ed)
      := by
  intro w h
  obtain ⟨hl, hx, hy, h0, h1, h2, h3, h4, h5⟩ := shape11 9 9 w (by decide) (by decide) d a ea ed (Option.some.inj h)
  exact ⟨hl, decode_of_raw (by simp only [decodeRaw, hx, hy, decodeRow9, h0, h1, h2, h3, h4, h5, Bool.and_self,
      if_true])⟩

theorem RoundTrip.qswd (d : BitVec 7) (a : BitVec 7) (ea : Bool) (ed : Bool) : RoundTrip.Statement (.qswd d a ea ed)
      := by
  intro w h
  obtain ⟨hl, hx, hy, h0, h1, h2, h3, h4, h5⟩ := shape11 9 10 w (by decide) (by decide) d a ea ed (Option.some.inj h)
  exact ⟨hl, decode_of_raw (by simp only [decodeRaw, hx, hy, decodeRow9, h0, h1, h2, h3, h4, h5, Bool.and_self,
      if_true])⟩

theorem RoundTrip.qbc (d : BitVec 7) (a : BitVec 7) (n : BitVec 7) (ea : Bool) (ed : Bool) : RoundTrip.Statement
      (.qbc d a n ea ed) := by
  intro w h
  obtain ⟨hl, hx, hy, h0, h1, h2, h3, h4, h5⟩ := shape18 9 11 w (by decide) (by decide) d a n ea ed (Option.some.inj h)
  exact ⟨hl, decode_of_raw (by simp only [decodeRaw, hx, hy, decodeRow9, h0, h1, h2, h3, h4, h5, Bool.and_self,
      if_true])⟩

theorem RoundTrip.qddx (d : BitVec 7) (a : BitVec 7) (ea : Bool) (ed : Bool) : RoundTrip.Statement (.qddx d a ea ed)
      := by
  intro w h
  obtain ⟨hl, hx, hy, h0, h1, h2, h3, h4, h5⟩ := shape11 9 12 w (by decide) (by decide) d a ea ed (Option.some.inj h)
  exact ⟨hl, decode_of_raw (by simp only [decodeRaw, hx, hy, decodeRow9, h0, h1, h2, h3, h4, h5, Bool.and_self,
      if_true])⟩

theorem RoundTrip.qddy (d : BitVec 7) (a : BitVec 7) (ea : Bool) (ed : Bool) : RoundTrip.Statement (.qddy d a ea ed)
      := by
  intro w h
  obtain ⟨hl, hx, hy, h0, h1, h2, h3, h4, h5⟩ := shape11 9 13 w (by decide) (by decide) d a ea ed (Option.some.inj h)
  exact ⟨hl, decode_of_raw (by simp only [decodeRaw, hx, hy, decodeRow9, h0, h1, h2, h3, h4, h5, Bool.and_self,
      if_true])⟩

theorem RoundTrip.lshuf (d : BitVec 7) (a : BitVec 7) (b : BitVec 7) (ea : Bool) (eb : Bool) (ed : Bool) :
      RoundTrip.Statement (.lshuf d a b ea eb ed) := by
  intro w h
  obtain ⟨hl, hx, hy, h0, h1, h2, h3, h4, h5⟩ := shape10 10 0 w (by decide) (by decide) d a b ea eb ed
      (Option.some.inj h)
  exact ⟨hl, decode_of_raw (by simp only [decodeRaw, hx, hy, decodeRowA, h0, h1, h2, h3, h4, h5])⟩

theorem RoundTrip.lrot (d : BitVec 7) (a : BitVec 7) (b : BitVec 7) (ea : Bool) (eb : Bool) (ed : Bool) :
      RoundTrip.Statement (.lrot d a b ea eb ed) := by
  intro w h
  obtain ⟨hl, hx, hy, h0, h1, h2, h3, h4, h5⟩ := shape10 10 1 w (by decide) (by decide) d a b ea eb ed
      (Option.some.inj h)
  exact ⟨hl, decode_of_raw (by simp only [decodeRaw, hx, hy, decodeRowA, h0, h1, h2, h3, h4, h5])⟩

theorem RoundTrip.lscan (d : BitVec 7) (a : BitVec 7) (c : BitVec 7) (ea : Bool) (ed : Bool) : RoundTrip.Statement
      (.lscan d a c ea ed) := by
  intro w h
  obtain ⟨hl, hx, hy, h0, h1, h2, h3, h4, h5⟩ := shape18 10 2 w (by decide) (by decide) d a c ea ed (Option.some.inj h)
  exact ⟨hl, decode_of_raw (by simp only [decodeRaw, hx, hy, decodeRowA, h0, h1, h2, h3, h4, h5, Bool.and_self,
      if_true])⟩

theorem RoundTrip.lred (d : BitVec 7) (a : BitVec 7) (c : BitVec 7) (ea : Bool) (ed : Bool) : RoundTrip.Statement
      (.lred d a c ea ed) := by
  intro w h
  obtain ⟨hl, hx, hy, h0, h1, h2, h3, h4, h5⟩ := shape18 10 3 w (by decide) (by decide) d a c ea ed (Option.some.inj h)
  exact ⟨hl, decode_of_raw (by simp only [decodeRaw, hx, hy, decodeRowA, h0, h1, h2, h3, h4, h5, Bool.and_self,
      if_true])⟩

theorem RoundTrip.lballot (a : BitVec 7) (d : BitVec 6) (ea : Bool) : RoundTrip.Statement (.lballot a d ea) := by
  intro w h
  obtain ⟨hl, hx, hy, h0, h1, h2, h3, h4⟩ := shape19 10 4 w (by decide) (by decide) a d ea (Option.some.inj h)
  exact ⟨hl, decode_of_raw (by simp only [decodeRaw, hx, hy, decodeRowA, h0, h1, h2, h3, h4, Bool.and_self, if_true])⟩

theorem RoundTrip.lcompress (d : BitVec 7) (a : BitVec 7) (ea : Bool) (ed : Bool) : RoundTrip.Statement (.lcompress d
      a ea ed) := by
  intro w h
  obtain ⟨hl, hx, hy, h0, h1, h2, h3, h4, h5⟩ := shape11 10 5 w (by decide) (by decide) d a ea ed (Option.some.inj h)
  exact ⟨hl, decode_of_raw (by simp only [decodeRaw, hx, hy, decodeRowA, h0, h1, h2, h3, h4, h5, Bool.and_self,
      if_true])⟩

theorem RoundTrip.lexpand (d : BitVec 7) (a : BitVec 7) (ea : Bool) (ed : Bool) : RoundTrip.Statement (.lexpand d a
      ea ed) := by
  intro w h
  obtain ⟨hl, hx, hy, h0, h1, h2, h3, h4, h5⟩ := shape11 10 6 w (by decide) (by decide) d a ea ed (Option.some.inj h)
  exact ⟨hl, decode_of_raw (by simp only [decodeRaw, hx, hy, decodeRowA, h0, h1, h2, h3, h4, h5, Bool.and_self,
      if_true])⟩

theorem RoundTrip.lfirst (a : BitVec 7) (d : BitVec 6) (ea : Bool) : RoundTrip.Statement (.lfirst a d ea) := by
  intro w h
  obtain ⟨hl, hx, hy, h0, h1, h2, h3, h4⟩ := shape19 10 7 w (by decide) (by decide) a d ea (Option.some.inj h)
  exact ⟨hl, decode_of_raw (by simp only [decodeRaw, hx, hy, decodeRowA, h0, h1, h2, h3, h4, Bool.and_self, if_true])⟩

theorem RoundTrip.ldO (vt : BitVec 7) (sb : BitVec 6) (va : BitVec 7) (sz : BitVec 2) (ex : Bool) (sc : Bool) :
      RoundTrip.Statement (.ldO vt sb va sz ex sc) := by
  intro w h
  obtain ⟨hl, hx, hy, h0, h1, h2, h3, h4, h5⟩ := shape20 11 0 w (by decide) (by decide) vt sb va sz ex sc
      (Option.some.inj h)
  exact ⟨hl, decode_of_raw (by simp only [decodeRaw, hx, hy, decodeRowB, h0, h1, h2, h3, h4, h5])⟩

theorem RoundTrip.ldW (vt : BitVec 7) (sb : BitVec 6) (va : BitVec 7) (sz : BitVec 2) (ex : Bool) (sc : Bool) :
      RoundTrip.Statement (.ldW vt sb va sz ex sc) := by
  intro w h
  obtain ⟨hl, hx, hy, h0, h1, h2, h3, h4, h5⟩ := shape20 11 1 w (by decide) (by decide) vt sb va sz ex sc
      (Option.some.inj h)
  exact ⟨hl, decode_of_raw (by simp only [decodeRaw, hx, hy, decodeRowB, h0, h1, h2, h3, h4, h5])⟩

theorem RoundTrip.ldS (vt : BitVec 7) (sb : BitVec 6) (va : BitVec 7) (sz : BitVec 2) (ex : Bool) (sc : Bool) :
      RoundTrip.Statement (.ldS vt sb va sz ex sc) := by
  intro w h
  obtain ⟨hl, hx, hy, h0, h1, h2, h3, h4, h5⟩ := shape20 11 2 w (by decide) (by decide) vt sb va sz ex sc
      (Option.some.inj h)
  exact ⟨hl, decode_of_raw (by simp only [decodeRaw, hx, hy, decodeRowB, h0, h1, h2, h3, h4, h5])⟩

theorem RoundTrip.ldI (vt : BitVec 7) (sb : BitVec 6) (va : BitVec 7) (sz : BitVec 2) (ex : Bool) (sc : Bool) :
      RoundTrip.Statement (.ldI vt sb va sz ex sc) := by
  intro w h
  obtain ⟨hl, hx, hy, h0, h1, h2, h3, h4, h5⟩ := shape20 11 3 w (by decide) (by decide) vt sb va sz ex sc
      (Option.some.inj h)
  exact ⟨hl, decode_of_raw (by simp only [decodeRaw, hx, hy, decodeRowB, h0, h1, h2, h3, h4, h5])⟩

theorem RoundTrip.stO (vt : BitVec 7) (sb : BitVec 6) (va : BitVec 7) (sz : BitVec 2) (sc : Bool) :
      RoundTrip.Statement (.stO vt sb va sz sc) := by
  intro w h
  obtain ⟨hl, hx, hy, h0, h1, h2, h3, h4, h5⟩ := shape21 11 4 w (by decide) (by decide) vt sb va sz sc
      (Option.some.inj h)
  exact ⟨hl, decode_of_raw (by simp only [decodeRaw, hx, hy, decodeRowB, h0, h1, h2, h3, h4, h5, Bool.and_self,
      if_true])⟩

theorem RoundTrip.stW (vt : BitVec 7) (sb : BitVec 6) (va : BitVec 7) (sz : BitVec 2) (sc : Bool) :
      RoundTrip.Statement (.stW vt sb va sz sc) := by
  intro w h
  obtain ⟨hl, hx, hy, h0, h1, h2, h3, h4, h5⟩ := shape21 11 5 w (by decide) (by decide) vt sb va sz sc
      (Option.some.inj h)
  exact ⟨hl, decode_of_raw (by simp only [decodeRaw, hx, hy, decodeRowB, h0, h1, h2, h3, h4, h5, Bool.and_self,
      if_true])⟩

theorem RoundTrip.stS (vt : BitVec 7) (sb : BitVec 6) (va : BitVec 7) (sz : BitVec 2) (sc : Bool) :
      RoundTrip.Statement (.stS vt sb va sz sc) := by
  intro w h
  obtain ⟨hl, hx, hy, h0, h1, h2, h3, h4, h5⟩ := shape21 11 6 w (by decide) (by decide) vt sb va sz sc
      (Option.some.inj h)
  exact ⟨hl, decode_of_raw (by simp only [decodeRaw, hx, hy, decodeRowB, h0, h1, h2, h3, h4, h5, Bool.and_self,
      if_true])⟩

theorem RoundTrip.stI (vt : BitVec 7) (sb : BitVec 6) (va : BitVec 7) (sz : BitVec 2) (sc : Bool) :
      RoundTrip.Statement (.stI vt sb va sz sc) := by
  intro w h
  obtain ⟨hl, hx, hy, h0, h1, h2, h3, h4, h5⟩ := shape21 11 7 w (by decide) (by decide) vt sb va sz sc
      (Option.some.inj h)
  exact ⟨hl, decode_of_raw (by simp only [decodeRaw, hx, hy, decodeRowB, h0, h1, h2, h3, h4, h5, Bool.and_self,
      if_true])⟩

theorem RoundTrip.ldsO (vt : BitVec 6) (sb : BitVec 6) (imm : BitVec 10) (sz : BitVec 2) : RoundTrip.Statement (.ldsO
      vt sb imm sz) := by
  intro w h
  obtain ⟨hl, hx, hy, h0, h1, h2, h3⟩ := shape22 11 8 w (by decide) (by decide) vt sb imm sz (Option.some.inj h)
  exact ⟨hl, decode_of_raw (by simp only [decodeRaw, hx, hy, decodeRowB, h0, h1, h2, h3])⟩

theorem RoundTrip.ldsW (vt : BitVec 6) (sb : BitVec 6) (imm : BitVec 10) (sz : BitVec 2) : RoundTrip.Statement (.ldsW
      vt sb imm sz) := by
  intro w h
  obtain ⟨hl, hx, hy, h0, h1, h2, h3⟩ := shape22 11 9 w (by decide) (by decide) vt sb imm sz (Option.some.inj h)
  exact ⟨hl, decode_of_raw (by simp only [decodeRaw, hx, hy, decodeRowB, h0, h1, h2, h3])⟩

theorem RoundTrip.ldsS (vt : BitVec 6) (sb : BitVec 6) (imm : BitVec 10) (sz : BitVec 2) : RoundTrip.Statement (.ldsS
      vt sb imm sz) := by
  intro w h
  obtain ⟨hl, hx, hy, h0, h1, h2, h3⟩ := shape22 11 10 w (by decide) (by decide) vt sb imm sz (Option.some.inj h)
  exact ⟨hl, decode_of_raw (by simp only [decodeRaw, hx, hy, decodeRowB, h0, h1, h2, h3])⟩

theorem RoundTrip.ldsI (vt : BitVec 6) (sb : BitVec 6) (imm : BitVec 10) (sz : BitVec 2) : RoundTrip.Statement (.ldsI
      vt sb imm sz) := by
  intro w h
  obtain ⟨hl, hx, hy, h0, h1, h2, h3⟩ := shape22 11 11 w (by decide) (by decide) vt sb imm sz (Option.some.inj h)
  exact ⟨hl, decode_of_raw (by simp only [decodeRaw, hx, hy, decodeRowB, h0, h1, h2, h3])⟩

theorem RoundTrip.stsO (vt : BitVec 6) (sb : BitVec 6) (imm : BitVec 10) (sz : BitVec 2) : RoundTrip.Statement (.stsO
      vt sb imm sz) := by
  intro w h
  obtain ⟨hl, hx, hy, h0, h1, h2, h3⟩ := shape22 11 12 w (by decide) (by decide) vt sb imm sz (Option.some.inj h)
  exact ⟨hl, decode_of_raw (by simp only [decodeRaw, hx, hy, decodeRowB, h0, h1, h2, h3])⟩

theorem RoundTrip.stsW (vt : BitVec 6) (sb : BitVec 6) (imm : BitVec 10) (sz : BitVec 2) : RoundTrip.Statement (.stsW
      vt sb imm sz) := by
  intro w h
  obtain ⟨hl, hx, hy, h0, h1, h2, h3⟩ := shape22 11 13 w (by decide) (by decide) vt sb imm sz (Option.some.inj h)
  exact ⟨hl, decode_of_raw (by simp only [decodeRaw, hx, hy, decodeRowB, h0, h1, h2, h3])⟩

theorem RoundTrip.stsS (vt : BitVec 6) (sb : BitVec 6) (imm : BitVec 10) (sz : BitVec 2) : RoundTrip.Statement (.stsS
      vt sb imm sz) := by
  intro w h
  obtain ⟨hl, hx, hy, h0, h1, h2, h3⟩ := shape22 11 14 w (by decide) (by decide) vt sb imm sz (Option.some.inj h)
  exact ⟨hl, decode_of_raw (by simp only [decodeRaw, hx, hy, decodeRowB, h0, h1, h2, h3])⟩

theorem RoundTrip.stsI (vt : BitVec 6) (sb : BitVec 6) (imm : BitVec 10) (sz : BitVec 2) : RoundTrip.Statement (.stsI
      vt sb imm sz) := by
  intro w h
  obtain ⟨hl, hx, hy, h0, h1, h2, h3⟩ := shape22 11 15 w (by decide) (by decide) vt sb imm sz (Option.some.inj h)
  exact ⟨hl, decode_of_raw (by simp only [decodeRaw, hx, hy, decodeRowB, h0, h1, h2, h3])⟩

theorem RoundTrip.ldp (vt : BitVec 7) (sb : BitVec 6) (va : BitVec 7) (sz : BitVec 2) (ex : Bool) (sc : Bool) :
      RoundTrip.Statement (.ldp vt sb va sz ex sc) := by
  intro w h
  obtain ⟨hl, hx, hy, h0, h1, h2, h3, h4, h5⟩ := shape20 12 0 w (by decide) (by decide) vt sb va sz ex sc
      (Option.some.inj h)
  exact ⟨hl, decode_of_raw (by simp only [decodeRaw, hx, hy, decodeRowC, h0, h1, h2, h3, h4, h5])⟩

theorem RoundTrip.stp (vt : BitVec 7) (sb : BitVec 6) (va : BitVec 7) (sz : BitVec 2) (sc : Bool) :
      RoundTrip.Statement (.stp vt sb va sz sc) := by
  intro w h
  obtain ⟨hl, hx, hy, h0, h1, h2, h3, h4, h5⟩ := shape21 12 1 w (by decide) (by decide) vt sb va sz sc
      (Option.some.inj h)
  exact ⟨hl, decode_of_raw (by simp only [decodeRaw, hx, hy, decodeRowC, h0, h1, h2, h3, h4, h5, Bool.and_self,
      if_true])⟩

theorem RoundTrip.ldsp (vt : BitVec 7) (sb : BitVec 6) (va : BitVec 7) (sz : BitVec 2) (ex : Bool) (sc : Bool) :
      RoundTrip.Statement (.ldsp vt sb va sz ex sc) := by
  intro w h
  obtain ⟨hl, hx, hy, h0, h1, h2, h3, h4, h5⟩ := shape20 12 2 w (by decide) (by decide) vt sb va sz ex sc
      (Option.some.inj h)
  exact ⟨hl, decode_of_raw (by simp only [decodeRaw, hx, hy, decodeRowC, h0, h1, h2, h3, h4, h5])⟩

theorem RoundTrip.stsp (vt : BitVec 7) (sb : BitVec 6) (va : BitVec 7) (sz : BitVec 2) (sc : Bool) :
      RoundTrip.Statement (.stsp vt sb va sz sc) := by
  intro w h
  obtain ⟨hl, hx, hy, h0, h1, h2, h3, h4, h5⟩ := shape21 12 3 w (by decide) (by decide) vt sb va sz sc
      (Option.some.inj h)
  exact ⟨hl, decode_of_raw (by simp only [decodeRaw, hx, hy, decodeRowC, h0, h1, h2, h3, h4, h5, Bool.and_self,
      if_true])⟩

theorem RoundTrip.cst (vt : BitVec 7) (sb : BitVec 6) (va : BitVec 7) (sz : BitVec 2) (sc : Bool) :
      RoundTrip.Statement (.cst vt sb va sz sc) := by
  intro w h
  obtain ⟨hl, hx, hy, h0, h1, h2, h3, h4, h5⟩ := shape21 12 4 w (by decide) (by decide) vt sb va sz sc
      (Option.some.inj h)
  exact ⟨hl, decode_of_raw (by simp only [decodeRaw, hx, hy, decodeRowC, h0, h1, h2, h3, h4, h5, Bool.and_self,
      if_true])⟩

theorem RoundTrip.stm (vt : BitVec 7) (sb : BitVec 6) (va : BitVec 7) (sz : BitVec 2) (sc : Bool) :
      RoundTrip.Statement (.stm vt sb va sz sc) := by
  intro w h
  obtain ⟨hl, hx, hy, h0, h1, h2, h3, h4, h5⟩ := shape21 12 5 w (by decide) (by decide) vt sb va sz sc
      (Option.some.inj h)
  exact ⟨hl, decode_of_raw (by simp only [decodeRaw, hx, hy, decodeRowC, h0, h1, h2, h3, h4, h5, Bool.and_self,
      if_true])⟩

theorem RoundTrip.pref (tgt : BitVec 2) (sb : BitVec 6) (va : BitVec 7) (sz : BitVec 2) (sc : Bool) :
      RoundTrip.Statement (.pref tgt sb va sz sc) := by
  intro w h
  obtain ⟨hl, hx, hy, h0, h1, h2, h3, h4, h5, h6⟩ := shape23 12 6 w (by decide) (by decide) tgt sb va sz sc
      (Option.some.inj h)
  exact ⟨hl, decode_of_raw (by simp only [decodeRaw, hx, hy, decodeRowC, h0, h1, h2, h3, h4, h5, h6, Bool.and_self,
      if_true])⟩

theorem RoundTrip.vinv (a : BitVec 6) (l : BitVec 6) : RoundTrip.Statement (.vinv a l) := by
  intro w h
  obtain ⟨hl, hx, hy, h0, h1, h2⟩ := shape24 12 7 w (by decide) (by decide) a l (Option.some.inj h)
  exact ⟨hl, decode_of_raw (by simp only [decodeRaw, hx, hy, decodeRowC, h0, h1, h2, Bool.and_self, if_true])⟩

theorem RoundTrip.vwb (a : BitVec 6) (l : BitVec 6) : RoundTrip.Statement (.vwb a l) := by
  intro w h
  obtain ⟨hl, hx, hy, h0, h1, h2⟩ := shape24 12 8 w (by decide) (by decide) a l (Option.some.inj h)
  exact ⟨hl, decode_of_raw (by simp only [decodeRaw, hx, hy, decodeRowC, h0, h1, h2, Bool.and_self, if_true])⟩

theorem RoundTrip.atomRlx (d : BitVec 7) (s : BitVec 6) (a : BitVec 7) (p : BitVec 4) : RoundTrip.Statement (.atomRlx
      d s a p) := by
  intro w h
  obtain ⟨hl, hx, hy, h0, h1, h2, h3⟩ := shape25 13 0 w (by decide) (by decide) d s a p (Option.some.inj h)
  exact ⟨hl, decode_of_raw (by simp only [decodeRaw, hx, hy, decodeRowD, h0, h1, h2, h3])⟩

theorem RoundTrip.atomAcq (d : BitVec 7) (s : BitVec 6) (a : BitVec 7) (p : BitVec 4) : RoundTrip.Statement (.atomAcq
      d s a p) := by
  intro w h
  obtain ⟨hl, hx, hy, h0, h1, h2, h3⟩ := shape25 13 1 w (by decide) (by decide) d s a p (Option.some.inj h)
  exact ⟨hl, decode_of_raw (by simp only [decodeRaw, hx, hy, decodeRowD, h0, h1, h2, h3])⟩

theorem RoundTrip.atomRel (d : BitVec 7) (s : BitVec 6) (a : BitVec 7) (p : BitVec 4) : RoundTrip.Statement (.atomRel
      d s a p) := by
  intro w h
  obtain ⟨hl, hx, hy, h0, h1, h2, h3⟩ := shape25 13 2 w (by decide) (by decide) d s a p (Option.some.inj h)
  exact ⟨hl, decode_of_raw (by simp only [decodeRaw, hx, hy, decodeRowD, h0, h1, h2, h3])⟩

theorem RoundTrip.atomAr (d : BitVec 7) (s : BitVec 6) (a : BitVec 7) (p : BitVec 4) : RoundTrip.Statement (.atomAr d
      s a p) := by
  intro w h
  obtain ⟨hl, hx, hy, h0, h1, h2, h3⟩ := shape25 13 3 w (by decide) (by decide) d s a p (Option.some.inj h)
  exact ⟨hl, decode_of_raw (by simp only [decodeRaw, hx, hy, decodeRowD, h0, h1, h2, h3])⟩

theorem RoundTrip.redRlx (d : BitVec 7) (s : BitVec 6) (a : BitVec 7) (p : BitVec 4) : RoundTrip.Statement (.redRlx d
      s a p) := by
  intro w h
  obtain ⟨hl, hx, hy, h0, h1, h2, h3⟩ := shape25 13 4 w (by decide) (by decide) d s a p (Option.some.inj h)
  exact ⟨hl, decode_of_raw (by simp only [decodeRaw, hx, hy, decodeRowD, h0, h1, h2, h3])⟩

theorem RoundTrip.redRel (d : BitVec 7) (s : BitVec 6) (a : BitVec 7) (p : BitVec 4) : RoundTrip.Statement (.redRel d
      s a p) := by
  intro w h
  obtain ⟨hl, hx, hy, h0, h1, h2, h3⟩ := shape25 13 5 w (by decide) (by decide) d s a p (Option.some.inj h)
  exact ⟨hl, decode_of_raw (by simp only [decodeRaw, hx, hy, decodeRowD, h0, h1, h2, h3])⟩

theorem RoundTrip.catom (d : BitVec 7) (s : BitVec 6) (a : BitVec 7) : RoundTrip.Statement (.catom d s a) := by
  intro w h
  obtain ⟨hl, hx, hy, h0, h1, h2, h3⟩ := shape26 13 6 w (by decide) (by decide) d s a (Option.some.inj h)
  exact ⟨hl, decode_of_raw (by simp only [decodeRaw, hx, hy, decodeRowD, h0, h1, h2, h3, Bool.and_self, if_true])⟩

theorem RoundTrip.satom (d : BitVec 6) (s : BitVec 6) (o : BitVec 6) (p : BitVec 4) : RoundTrip.Statement (.satom d s
      o p) := by
  intro w h
  obtain ⟨hl, hx, hy, h0, h1, h2, h3, h4, h5⟩ := shape27 13 7 w (by decide) (by decide) d s o p (Option.some.inj h)
  exact ⟨hl, decode_of_raw (by simp only [decodeRaw, hx, hy, decodeRowD, h0, h1, h2, h3, h4, h5, Bool.and_self,
      if_true])⟩

theorem RoundTrip.mma (td : BitVec 4) (ka : Bool) (a : BitVec 7) (kb : Bool) (b : BitVec 7) (eta : Bool) :
      RoundTrip.Statement (.mma td ka a kb b eta) := by
  intro w h
  obtain ⟨hl, hx, hy, h0, h1, h2, h3, h4, h5, h6⟩ := shape28 13 8 w (by decide) (by decide) td ka a kb b eta
      (Option.some.inj h)
  exact ⟨hl, decode_of_raw (by simp only [decodeRaw, hx, hy, decodeRowD, h0, h1, h2, h3, h4, h5, h6, Bool.and_self,
      if_true])⟩

theorem RoundTrip.mmar (td : BitVec 4) (ka : Bool) (a : BitVec 7) (kb : Bool) (b : BitVec 7) (eta : Bool) :
      RoundTrip.Statement (.mmar td ka a kb b eta) := by
  intro w h
  obtain ⟨hl, hx, hy, h0, h1, h2, h3, h4, h5, h6⟩ := shape28 13 9 w (by decide) (by decide) td ka a kb b eta
      (Option.some.inj h)
  exact ⟨hl, decode_of_raw (by simp only [decodeRaw, hx, hy, decodeRowD, h0, h1, h2, h3, h4, h5, h6, Bool.and_self,
      if_true])⟩

theorem RoundTrip.mmab (td : BitVec 4) (ka : Bool) (a : BitVec 7) (kb : Bool) (b : BitVec 7) (eta : Bool) :
      RoundTrip.Statement (.mmab td ka a kb b eta) := by
  intro w h
  obtain ⟨hl, hx, hy, h0, h1, h2, h3, h4, h5, h6⟩ := shape28 13 10 w (by decide) (by decide) td ka a kb b eta
      (Option.some.inj h)
  exact ⟨hl, decode_of_raw (by simp only [decodeRaw, hx, hy, decodeRowD, h0, h1, h2, h3, h4, h5, h6, Bool.and_self,
      if_true])⟩

theorem RoundTrip.tld (t : BitVec 4) (n : BitVec 6) : RoundTrip.Statement (.tld t n) := by
  intro w h
  obtain ⟨hl, hx, hy, h0, h1, h2, h3⟩ := shape29 13 11 w (by decide) (by decide) t n (Option.some.inj h)
  exact ⟨hl, decode_of_raw (by simp only [decodeRaw, hx, hy, decodeRowD, h0, h1, h2, h3, Bool.and_self, if_true])⟩

theorem RoundTrip.tst (t : BitVec 4) (n : BitVec 6) : RoundTrip.Statement (.tst t n) := by
  intro w h
  obtain ⟨hl, hx, hy, h0, h1, h2, h3⟩ := shape29 13 12 w (by decide) (by decide) t n (Option.some.inj h)
  exact ⟨hl, decode_of_raw (by simp only [decodeRaw, hx, hy, decodeRowD, h0, h1, h2, h3, Bool.and_self, if_true])⟩

theorem RoundTrip.tzero (t : BitVec 4) : RoundTrip.Statement (.tzero t) := by
  intro w h
  obtain ⟨hl, hx, hy, h0, h1⟩ := shape30 13 13 w (by decide) (by decide) t (Option.some.inj h)
  exact ⟨hl, decode_of_raw (by simp only [decodeRaw, hx, hy, decodeRowD, h0, h1, Bool.and_self, if_true])⟩

theorem RoundTrip.trd (t : BitVec 4) (r : Bool) (s : BitVec 6) (i : BitVec 6) (v : BitVec 7) : RoundTrip.Statement
      (.trd t r s i v) := by
  intro w h
  obtain ⟨hl, hx, hy, h0, h1, h2, h3, h4⟩ := shape31 13 14 w (by decide) (by decide) t r s i v (Option.some.inj h)
  exact ⟨hl, decode_of_raw (by simp only [decodeRaw, hx, hy, decodeRowD, h0, h1, h2, h3, h4])⟩

theorem RoundTrip.twr (t : BitVec 4) (r : Bool) (s : BitVec 6) (i : BitVec 6) (v : BitVec 7) : RoundTrip.Statement
      (.twr t r s i v) := by
  intro w h
  obtain ⟨hl, hx, hy, h0, h1, h2, h3, h4⟩ := shape31 13 15 w (by decide) (by decide) t r s i v (Option.some.inj h)
  exact ⟨hl, decode_of_raw (by simp only [decodeRaw, hx, hy, decodeRowD, h0, h1, h2, h3, h4])⟩

theorem RoundTrip.tfold (t : BitVec 4) (u : BitVec 4) (p : BitVec 7) : RoundTrip.Statement (.tfold t u p) := by
  intro w h
  obtain ⟨hl, hx, hy, h0, h1, h2, h3, h4, h5⟩ := shape32 14 0 w (by decide) (by decide) t u p (Option.some.inj h)
  exact ⟨hl, decode_of_raw (by simp only [decodeRaw, hx, hy, decodeRowE, h0, h1, h2, h3, h4, h5, Bool.and_self,
      if_true])⟩

theorem RoundTrip.tscl (s : Bool) (n : BitVec 6) (m : BitVec 6) : RoundTrip.Statement (.tscl s n m) := by
  intro w h
  obtain ⟨hl, hx, hy, h0, h1, h2, h3, h4, h5, h6⟩ := shape33 14 1 w (by decide) (by decide) s n m (Option.some.inj h)
  exact ⟨hl, decode_of_raw (by simp only [decodeRaw, hx, hy, decodeRowE, h0, h1, h2, h3, h4, h5, h6, Bool.and_self,
      if_true])⟩

theorem RoundTrip.tmov (t : BitVec 4) (u : BitVec 4) (p : BitVec 7) : RoundTrip.Statement (.tmov t u p) := by
  intro w h
  obtain ⟨hl, hx, hy, h0, h1, h2, h3, h4, h5⟩ := shape32 14 2 w (by decide) (by decide) t u p (Option.some.inj h)
  exact ⟨hl, decode_of_raw (by simp only [decodeRaw, hx, hy, decodeRowE, h0, h1, h2, h3, h4, h5, Bool.and_self,
      if_true])⟩

theorem RoundTrip.tcvt (t : BitVec 4) (u : BitVec 4) : RoundTrip.Statement (.tcvt t u) := by
  intro w h
  obtain ⟨hl, hx, hy, h0, h1, h2, h3⟩ := shape34 14 3 w (by decide) (by decide) t u (Option.some.inj h)
  exact ⟨hl, decode_of_raw (by simp only [decodeRaw, hx, hy, decodeRowE, h0, h1, h2, h3, Bool.and_self, if_true])⟩

theorem RoundTrip.bar (n : BitVec 4) : RoundTrip.Statement (.bar n) := by
  intro w h
  obtain ⟨hl, hx, hy, h0, h1⟩ := shape35 14 8 w (by decide) (by decide) n (Option.some.inj h)
  exact ⟨hl, decode_of_raw (by simp only [decodeRaw, hx, hy, decodeRowE, h0, h1, Bool.and_self, if_true])⟩

theorem RoundTrip.barv (d : BitVec 6) (a : BitVec 6) (p : BitVec 2) (n : BitVec 4) : RoundTrip.Statement (.barv d a p
      n) := by
  intro w h
  obtain ⟨hl, hx, hy, h0, h1, h2, h3, h4⟩ := shape36 14 9 w (by decide) (by decide) d a p n (Option.some.inj h)
  exact ⟨hl, decode_of_raw (by simp only [decodeRaw, hx, hy, decodeRowE, h0, h1, h2, h3, h4, Bool.and_self, if_true])⟩

theorem RoundTrip.barw (a : BitVec 6) (b : BitVec 6) : RoundTrip.Statement (.barw a b) := by
  intro w h
  obtain ⟨hl, hx, hy, h0, h1, h2⟩ := shape24 14 10 w (by decide) (by decide) a b (Option.some.inj h)
  exact ⟨hl, decode_of_raw (by simp only [decodeRaw, hx, hy, decodeRowE, h0, h1, h2, Bool.and_self, if_true])⟩

theorem RoundTrip.abinit (a : BitVec 6) (b : BitVec 6) : RoundTrip.Statement (.abinit a b) := by
  intro w h
  obtain ⟨hl, hx, hy, h0, h1, h2⟩ := shape24 14 11 w (by decide) (by decide) a b (Option.some.inj h)
  exact ⟨hl, decode_of_raw (by simp only [decodeRaw, hx, hy, decodeRowE, h0, h1, h2, Bool.and_self, if_true])⟩

theorem RoundTrip.abarr (d : BitVec 6) (a : BitVec 6) : RoundTrip.Statement (.abarr d a) := by
  intro w h
  obtain ⟨hl, hx, hy, h0, h1, h2⟩ := shape24 14 12 w (by decide) (by decide) d a (Option.some.inj h)
  exact ⟨hl, decode_of_raw (by simp only [decodeRaw, hx, hy, decodeRowE, h0, h1, h2, Bool.and_self, if_true])⟩

theorem RoundTrip.abwait (a : BitVec 6) (b : BitVec 6) : RoundTrip.Statement (.abwait a b) := by
  intro w h
  obtain ⟨hl, hx, hy, h0, h1, h2⟩ := shape24 14 13 w (by decide) (by decide) a b (Option.some.inj h)
  exact ⟨hl, decode_of_raw (by simp only [decodeRaw, hx, hy, decodeRowE, h0, h1, h2, Bool.and_self, if_true])⟩

theorem RoundTrip.qpush (a : BitVec 7) (n : BitVec 3) : RoundTrip.Statement (.qpush a n) := by
  intro w h
  obtain ⟨hl, hx, hy, h0, h1, h2⟩ := shape37 14 14 w (by decide) (by decide) a n (Option.some.inj h)
  exact ⟨hl, decode_of_raw (by simp only [decodeRaw, hx, hy, decodeRowE, h0, h1, h2, Bool.and_self, if_true])⟩

theorem RoundTrip.qpop (d : BitVec 7) (n : BitVec 3) : RoundTrip.Statement (.qpop d n) := by
  intro w h
  obtain ⟨hl, hx, hy, h0, h1, h2⟩ := shape37 14 15 w (by decide) (by decide) d n (Option.some.inj h)
  exact ⟨hl, decode_of_raw (by simp only [decodeRaw, hx, hy, decodeRowE, h0, h1, h2, Bool.and_self, if_true])⟩

theorem RoundTrip.qtry (d : BitVec 7) (s : BitVec 6) (n : BitVec 3) : RoundTrip.Statement (.qtry d s n) := by
  intro w h
  obtain ⟨hl, hx, hy, h0, h1, h2, h3⟩ := shape38 15 0 w (by decide) (by decide) d s n (Option.some.inj h)
  exact ⟨hl, decode_of_raw (by simp only [decodeRaw, hx, hy, decodeRowF, h0, h1, h2, h3, Bool.and_self, if_true])⟩

theorem RoundTrip.qallow (a : BitVec 6) (n : BitVec 3) : RoundTrip.Statement (.qallow a n) := by
  intro w h
  obtain ⟨hl, hx, hy, h0, h1, h2⟩ := shape39 15 1 w (by decide) (by decide) a n (Option.some.inj h)
  exact ⟨hl, decode_of_raw (by simp only [decodeRaw, hx, hy, decodeRowF, h0, h1, h2, Bool.and_self, if_true])⟩

theorem RoundTrip.rtake (d : BitVec 6) (a : BitVec 6) (ea : Bool) (ed : Bool) : RoundTrip.Statement (.rtake d a ea
      ed) := by
  intro w h
  obtain ⟨hl, hx, hy, h0, h1, h2, h3, h4, h5⟩ := shape1 15 2 w (by decide) (by decide) d a ea ed (Option.some.inj h)
  exact ⟨hl, decode_of_raw (by simp only [decodeRaw, hx, hy, decodeRowF, h0, h1, h2, h3, h4, h5, Bool.and_self,
      if_true])⟩

theorem RoundTrip.cpy (a : BitVec 6) (b : BitVec 6) : RoundTrip.Statement (.cpy a b) := by
  intro w h
  obtain ⟨hl, hx, hy, h0, h1, h2⟩ := shape24 15 3 w (by decide) (by decide) a b (Option.some.inj h)
  exact ⟨hl, decode_of_raw (by simp only [decodeRaw, hx, hy, decodeRowF, h0, h1, h2, Bool.and_self, if_true])⟩

theorem RoundTrip.coll (t : BitVec 4) (d : BitVec 6) (s : BitVec 6) : RoundTrip.Statement (.coll t d s) := by
  intro w h
  obtain ⟨hl, hx, hy, h0, h1, h2, h3⟩ := shape40 15 4 w (by decide) (by decide) t d s (Option.some.inj h)
  exact ⟨hl, decode_of_raw (by simp only [decodeRaw, hx, hy, decodeRowF, h0, h1, h2, h3, Bool.and_self, if_true])⟩

theorem RoundTrip.evpost (a : BitVec 6) (b : BitVec 6) : RoundTrip.Statement (.evpost a b) := by
  intro w h
  obtain ⟨hl, hx, hy, h0, h1, h2⟩ := shape24 15 5 w (by decide) (by decide) a b (Option.some.inj h)
  exact ⟨hl, decode_of_raw (by simp only [decodeRaw, hx, hy, decodeRowF, h0, h1, h2, Bool.and_self, if_true])⟩

theorem RoundTrip.rlaunch (a : BitVec 6) : RoundTrip.Statement (.rlaunch a) := by
  intro w h
  obtain ⟨hl, hx, hy, h0, h1⟩ := shape41 15 6 w (by decide) (by decide) a (Option.some.inj h)
  exact ⟨hl, decode_of_raw (by simp only [decodeRaw, hx, hy, decodeRowF, h0, h1, Bool.and_self, if_true])⟩

theorem RoundTrip.trap (c : BitVec 24) : RoundTrip.Statement (.trap c) := by
  intro w h
  obtain ⟨hl, hx, hy, h0⟩ := shape7 15 8 w (by decide) (by decide) c (Option.some.inj h)
  exact ⟨hl, decode_of_raw (by simp only [decodeRaw, hx, hy, decodeRowF, h0])⟩

theorem RoundTrip.mcall (p : BitVec 7) (a : BitVec 7) (b : BitVec 7) (k : BitVec 3) : RoundTrip.Statement (.mcall p a
      b k) := by
  intro w h
  obtain ⟨hl, hx, hy, h0, h1, h2, h3⟩ := shape42 15 10 w (by decide) (by decide) p a b k (Option.some.inj h)
  exact ⟨hl, decode_of_raw (by simp only [decodeRaw, hx, hy, decodeRowF, h0, h1, h2, h3])⟩

theorem RoundTrip.mcw (a : BitVec 6) : RoundTrip.Statement (.mcw a) := by
  intro w h
  obtain ⟨hl, hx, hy, h0, h1⟩ := shape41 15 11 w (by decide) (by decide) a (Option.some.inj h)
  exact ⟨hl, decode_of_raw (by simp only [decodeRaw, hx, hy, decodeRowF, h0, h1, Bool.and_self, if_true])⟩

theorem RoundTrip.sysrd (d : BitVec 6) (n : BitVec 8) : RoundTrip.Statement (.sysrd d n) := by
  intro w h
  obtain ⟨hl, hx, hy, h0, h1, h2⟩ := shape43 15 12 w (by decide) (by decide) d n (Option.some.inj h)
  exact ⟨hl, decode_of_raw (by simp only [decodeRaw, hx, hy, decodeRowF, h0, h1, h2, Bool.and_self, if_true])⟩

theorem RoundTrip.syswr (a : BitVec 6) (n : BitVec 8) : RoundTrip.Statement (.syswr a n) := by
  intro w h
  obtain ⟨hl, hx, hy, h0, h1, h2⟩ := shape43 15 13 w (by decide) (by decide) a n (Option.some.inj h)
  exact ⟨hl, decode_of_raw (by simp only [decodeRaw, hx, hy, decodeRowF, h0, h1, h2, Bool.and_self, if_true])⟩

theorem RoundTrip.tlbi (a : BitVec 6) (b : BitVec 6) (c : BitVec 2) : RoundTrip.Statement (.tlbi a b c) := by
  intro w h
  obtain ⟨hl, hx, hy, h0, h1, h2, h3⟩ := shape44 15 14 w (by decide) (by decide) a b c (Option.some.inj h)
  exact ⟨hl, decode_of_raw (by simp only [decodeRaw, hx, hy, decodeRowF, h0, h1, h2, h3, Bool.and_self, if_true])⟩

theorem RoundTrip.ret : RoundTrip.Statement (.ret) := by
  intro w h
  obtain ⟨hl, hx, hy, h0⟩ := shape45 2 13 w (by decide) (by decide) (Option.some.inj h)
  exact ⟨hl, decode_of_raw (by simp only [decodeRaw, hx, hy, decodeRow2, h0, Bool.and_self, if_true])⟩

theorem RoundTrip.exit : RoundTrip.Statement (.exit) := by
  intro w h
  obtain ⟨hl, hx, hy, h0⟩ := shape45 2 15 w (by decide) (by decide) (Option.some.inj h)
  exact ⟨hl, decode_of_raw (by simp only [decodeRaw, hx, hy, decodeRow2, h0, Bool.and_self, if_true])⟩

theorem RoundTrip.regang : RoundTrip.Statement (.regang) := by
  intro w h
  obtain ⟨hl, hx, hy, h0⟩ := shape45 3 0 w (by decide) (by decide) (Option.some.inj h)
  exact ⟨hl, decode_of_raw (by simp only [decodeRaw, hx, hy, decodeRow3, h0, Bool.and_self, if_true])⟩

theorem RoundTrip.nop : RoundTrip.Statement (.nop) := by
  intro w h
  obtain ⟨hl, hx, hy, h0⟩ := shape45 3 1 w (by decide) (by decide) (Option.some.inj h)
  exact ⟨hl, decode_of_raw (by simp only [decodeRaw, hx, hy, decodeRow3, h0, Bool.and_self, if_true])⟩

theorem RoundTrip.yield : RoundTrip.Statement (.yield) := by
  intro w h
  obtain ⟨hl, hx, hy, h0⟩ := shape45 3 3 w (by decide) (by decide) (Option.some.inj h)
  exact ⟨hl, decode_of_raw (by simp only [decodeRaw, hx, hy, decodeRow3, h0, Bool.and_self, if_true])⟩

theorem RoundTrip.qhelp : RoundTrip.Statement (.qhelp) := by
  intro w h
  obtain ⟨hl, hx, hy, h0⟩ := shape45 9 14 w (by decide) (by decide) (Option.some.inj h)
  exact ⟨hl, decode_of_raw (by simp only [decodeRaw, hx, hy, decodeRow9, h0, Bool.and_self, if_true])⟩

theorem RoundTrip.fenceAcq : RoundTrip.Statement (.fenceAcq) := by
  intro w h
  obtain ⟨hl, hx, hy, h0⟩ := shape45 12 9 w (by decide) (by decide) (Option.some.inj h)
  exact ⟨hl, decode_of_raw (by simp only [decodeRaw, hx, hy, decodeRowC, h0, Bool.and_self, if_true])⟩

theorem RoundTrip.fenceRel : RoundTrip.Statement (.fenceRel) := by
  intro w h
  obtain ⟨hl, hx, hy, h0⟩ := shape45 12 10 w (by decide) (by decide) (Option.some.inj h)
  exact ⟨hl, decode_of_raw (by simp only [decodeRaw, hx, hy, decodeRowC, h0, Bool.and_self, if_true])⟩

theorem RoundTrip.fenceSc : RoundTrip.Statement (.fenceSc) := by
  intro w h
  obtain ⟨hl, hx, hy, h0⟩ := shape45 12 11 w (by decide) (by decide) (Option.some.inj h)
  exact ⟨hl, decode_of_raw (by simp only [decodeRaw, hx, hy, decodeRowC, h0, Bool.and_self, if_true])⟩

theorem RoundTrip.eret : RoundTrip.Statement (.eret) := by
  intro w h
  obtain ⟨hl, hx, hy, h0⟩ := shape45 15 9 w (by decide) (by decide) (Option.some.inj h)
  exact ⟨hl, decode_of_raw (by simp only [decodeRaw, hx, hy, decodeRowF, h0, Bool.and_self, if_true])⟩

theorem RoundTrip.illegalWord (w : BitVec 32) : RoundTrip.Statement (.illegalWord w) :=
  fun _ h => nomatch h

theorem RoundTrip.instructionFetchFault (cause : BitVec 8) : RoundTrip.Statement (.instructionFetchFault cause) :=
  fun _ h => nomatch h

theorem RoundTrip.directoryEntryUe (g : Nat) : RoundTrip.Statement (.directoryEntryUe g) :=
  fun _ h => nomatch h

theorem RoundTrip.hrd (dpa : Nat) : RoundTrip.Statement (.hrd dpa) :=
  fun _ h => nomatch h

theorem RoundTrip.hrdx (dpa : Nat) (data : List Byte) (enables : BitVec 64) : RoundTrip.Statement (.hrdx dpa data
      enables) :=
  fun _ h => nomatch h

theorem RoundTrip.hwr (dpa : Nat) (data : List Byte) (enables : BitVec 64) : RoundTrip.Statement (.hwr dpa data
      enables) :=
  fun _ h => nomatch h

theorem RoundTrip.hwb (g : Nat) : RoundTrip.Statement (.hwb g) :=
  fun _ h => nomatch h

theorem RoundTrip.peerAccessRequest (x : PeerAccess) : RoundTrip.Statement (.peerAccessRequest x) :=
  fun _ h => nomatch h

theorem RoundTrip.route10Ack (r : Nat) (j : Nat) (hostWrites : List (Nat × Byte)) : RoundTrip.Statement (.route10Ack
      r j hostWrites) :=
  fun _ h => nomatch h

theorem RoundTrip.collPhase0Packet (p : CollPacket) : RoundTrip.Statement (.collPhase0Packet p) :=
  fun _ h => nomatch h

theorem RoundTrip.collDataPacket (p : CollPacket) : RoundTrip.Statement (.collDataPacket p) :=
  fun _ h => nomatch h

theorem RoundTrip.collResultPacket (p : CollPacket) : RoundTrip.Statement (.collResultPacket p) :=
  fun _ h => nomatch h

theorem RoundTrip.collCancelPacket (p : CollPacket) : RoundTrip.Statement (.collCancelPacket p) :=
  fun _ h => nomatch h

theorem RoundTrip.switchCombine (left : CollPacket) (right : CollPacket) (parent : CollPacket) : RoundTrip.Statement
      (.switchCombine left right parent) :=
  fun _ h => nomatch h

theorem RoundTrip.launchQueueDoorbell (q : Nat) (v : Nat) : RoundTrip.Statement (.launchQueueDoorbell q v) :=
  fun _ h => nomatch h

theorem RoundTrip.correctedError (share : Nat) : RoundTrip.Statement (.correctedError share) :=
  fun _ h => nomatch h

theorem RoundTrip.uncorrectableError (dpa : Nat) (share : Option Nat) : RoundTrip.Statement (.uncorrectableError dpa
      share) :=
  fun _ h => nomatch h

theorem RoundTrip.ckptSave (c : Nat) (dpa : Nat) : RoundTrip.Statement (.ckptSave c dpa) :=
  fun _ h => nomatch h

theorem RoundTrip.ckptRestore (c : Nat) (dpa : Nat) : RoundTrip.Statement (.ckptRestore c dpa) :=
  fun _ h => nomatch h

theorem RoundTrip.attestRequest (dpa : Nat) : RoundTrip.Statement (.attestRequest dpa) :=
  fun _ h => nomatch h

theorem RoundTrip.notifyClear (v : BitVec 64) : RoundTrip.Statement (.notifyClear v) :=
  fun _ h => nomatch h

theorem RoundTrip.recoveryImageWrite (image : List Byte) : RoundTrip.Statement (.recoveryImageWrite image) :=
  fun _ h => nomatch h

theorem RoundTrip.thermalClockStep (up : Bool) : RoundTrip.Statement (.thermalClockStep up) :=
  fun _ h => nomatch h

theorem RoundTrip.flitCrcFail (link : Nat) : RoundTrip.Statement (.flitCrcFail link) :=
  fun _ h => nomatch h

theorem RoundTrip.portDown (port : Nat) : RoundTrip.Statement (.portDown port) :=
  fun _ h => nomatch h

theorem RoundTrip.portTrained (port : Nat) : RoundTrip.Statement (.portTrained port) :=
  fun _ h => nomatch h

theorem RoundTrip.frdataRead : RoundTrip.Statement (.frdataRead) :=
  fun _ h => nomatch h

theorem RoundTrip.fieldRecordCommit : RoundTrip.Statement (.fieldRecordCommit) :=
  fun _ h => nomatch h

theorem RoundTrip.moduleReset : RoundTrip.Statement (.moduleReset) :=
  fun _ h => nomatch h

theorem RoundTrip.emptyIssueSlot : RoundTrip.Statement (.emptyIssueSlot) :=
  fun _ h => nomatch h

theorem RoundTrip.profileChangeTakesEffect : RoundTrip.Statement (.profileChangeTakesEffect) :=
  fun _ h => nomatch h

theorem RoundTrip.powerLoss : RoundTrip.Statement (.powerLoss) :=
  fun _ h => nomatch h

theorem RoundTrip.loadReturn (r : Nat) : RoundTrip.Statement (.loadReturn r) :=
  fun _ h => nomatch h

theorem RoundTrip.slowSysrdReturn (r : Nat) : RoundTrip.Statement (.slowSysrdReturn r) :=
  fun _ h => nomatch h

theorem RoundTrip.loadLaneFault (r : Nat) : RoundTrip.Statement (.loadLaneFault r) :=
  fun _ h => nomatch h

theorem RoundTrip.storeAck (r : Nat) : RoundTrip.Statement (.storeAck r) :=
  fun _ h => nomatch h

theorem RoundTrip.storeLaneFault (r : Nat) : RoundTrip.Statement (.storeLaneFault r) :=
  fun _ h => nomatch h

theorem RoundTrip.linkStackSpillFill (d : Nat) : RoundTrip.Statement (.linkStackSpillFill d) :=
  fun _ h => nomatch h

theorem RoundTrip.owningDieAccess (r : Nat) (j : Nat) : RoundTrip.Statement (.owningDieAccess r j) :=
  fun _ h => nomatch h

theorem RoundTrip.atomicProbeResult (r : Nat) : RoundTrip.Statement (.atomicProbeResult r) :=
  fun _ h => nomatch h

theorem RoundTrip.atomicReturn (r : Nat) : RoundTrip.Statement (.atomicReturn r) :=
  fun _ h => nomatch h

theorem RoundTrip.catomLowUpdate (r : Nat) (j : Nat) : RoundTrip.Statement (.catomLowUpdate r j) :=
  fun _ h => nomatch h

theorem RoundTrip.scratchpadBankAccess (r : Nat) (j : Nat) : RoundTrip.Statement (.scratchpadBankAccess r j) :=
  fun _ h => nomatch h

theorem RoundTrip.pageExpansionComplete (ctx : Nat) (va : Nat) : RoundTrip.Statement (.pageExpansionComplete ctx va) :=
  fun _ h => nomatch h

theorem RoundTrip.homeOLoadMiss (r : Nat) (j : Nat) : RoundTrip.Statement (.homeOLoadMiss r j) :=
  fun _ h => nomatch h

theorem RoundTrip.homeILoadMiss (r : Nat) (j : Nat) : RoundTrip.Statement (.homeILoadMiss r j) :=
  fun _ h => nomatch h

theorem RoundTrip.homeSLoadMiss (r : Nat) (j : Nat) : RoundTrip.Statement (.homeSLoadMiss r j) :=
  fun _ h => nomatch h

theorem RoundTrip.homeWLoad (r : Nat) (j : Nat) : RoundTrip.Statement (.homeWLoad r j) :=
  fun _ h => nomatch h

theorem RoundTrip.homeOwnershipRequest (r : Nat) (j : Nat) : RoundTrip.Statement (.homeOwnershipRequest r j) :=
  fun _ h => nomatch h

theorem RoundTrip.homeWriteThrough (r : Nat) (j : Nat) : RoundTrip.Statement (.homeWriteThrough r j) :=
  fun _ h => nomatch h

theorem RoundTrip.homeAtomic (r : Nat) (j : Nat) : RoundTrip.Statement (.homeAtomic r j) :=
  fun _ h => nomatch h

theorem RoundTrip.ownerWmaskAccess (r : Nat) (j : Nat) : RoundTrip.Statement (.ownerWmaskAccess r j) :=
  fun _ h => nomatch h

theorem RoundTrip.ownerWriteBack (core : Nat) (g : Nat) : RoundTrip.Statement (.ownerWriteBack core g) :=
  fun _ h => nomatch h

theorem RoundTrip.ownerVwbWriteBack (core : Nat) (g : Nat) : RoundTrip.Statement (.ownerVwbWriteBack core g) :=
  fun _ h => nomatch h

theorem RoundTrip.recallToShared (g : Nat) : RoundTrip.Statement (.recallToShared g) :=
  fun _ h => nomatch h

theorem RoundTrip.recall (g : Nat) : RoundTrip.Statement (.recall g) :=
  fun _ h => nomatch h

theorem RoundTrip.claim (g : Nat) : RoundTrip.Statement (.claim g) :=
  fun _ h => nomatch h

theorem RoundTrip.invalidate (g : Nat) (holder : Nat) : RoundTrip.Statement (.invalidate g holder) :=
  fun _ h => nomatch h

theorem RoundTrip.update (g : Nat) (die : Nat) : RoundTrip.Statement (.update g die) :=
  fun _ h => nomatch h

theorem RoundTrip.directoryTComplete (g : Nat) : RoundTrip.Statement (.directoryTComplete g) :=
  fun _ h => nomatch h

theorem RoundTrip.requestRefusedResend (r : Nat) (j : Nat) : RoundTrip.Statement (.requestRefusedResend r j) :=
  fun _ h => nomatch h

theorem RoundTrip.replicaLineLeave (g : Nat) (die : Nat) : RoundTrip.Statement (.replicaLineLeave g die) :=
  fun _ h => nomatch h

theorem RoundTrip.hostCleanDrop (g : Nat) : RoundTrip.Statement (.hostCleanDrop g) :=
  fun _ h => nomatch h

theorem RoundTrip.epochTick (core : Nat) : RoundTrip.Statement (.epochTick core) :=
  fun _ h => nomatch h

theorem RoundTrip.retentionSleepEnter (core : Nat) : RoundTrip.Statement (.retentionSleepEnter core) :=
  fun _ h => nomatch h

theorem RoundTrip.retentionWake (core : Nat) : RoundTrip.Statement (.retentionWake core) :=
  fun _ h => nomatch h

theorem RoundTrip.matrixGrant (pad : Nat) (k : Nat) : RoundTrip.Statement (.matrixGrant pad k) :=
  fun _ h => nomatch h

theorem RoundTrip.passComplete (pad : Nat) (k : Nat) : RoundTrip.Statement (.passComplete pad k) :=
  fun _ h => nomatch h

theorem RoundTrip.reservationAging (pad : Nat) (k : Nat) : RoundTrip.Statement (.reservationAging pad k) :=
  fun _ h => nomatch h

theorem RoundTrip.tileOpComplete (k : Nat) : RoundTrip.Statement (.tileOpComplete k) :=
  fun _ h => nomatch h

theorem RoundTrip.tldRowFault (r : Nat) : RoundTrip.Statement (.tldRowFault r) :=
  fun _ h => nomatch h

theorem RoundTrip.barrierChecksum (d : Nat) : RoundTrip.Statement (.barrierChecksum d) :=
  fun _ h => nomatch h

theorem RoundTrip.wideBarrierArrival (f : Nat) : RoundTrip.Statement (.wideBarrierArrival f) :=
  fun _ h => nomatch h

theorem RoundTrip.asyncObjectArrival (k : Nat) : RoundTrip.Statement (.asyncObjectArrival k) :=
  fun _ h => nomatch h

theorem RoundTrip.chutePopServed (f : Nat) (n : Nat) : RoundTrip.Statement (.chutePopServed f n) :=
  fun _ h => nomatch h

theorem RoundTrip.chutePushRoom (d : Nat) : RoundTrip.Statement (.chutePushRoom d) :=
  fun _ h => nomatch h

theorem RoundTrip.copyComplete (k : Nat) : RoundTrip.Statement (.copyComplete k) :=
  fun _ h => nomatch h

theorem RoundTrip.copyFault (k : Nat) : RoundTrip.Statement (.copyFault k) :=
  fun _ h => nomatch h

theorem RoundTrip.reduceFlockDispatch (c : Nat) (level : Nat) (node : Nat) (chunk : Nat) : RoundTrip.Statement
      (.reduceFlockDispatch c level node chunk) :=
  fun _ h => nomatch h

theorem RoundTrip.collGroupTableFault (c : Nat) : RoundTrip.Statement (.collGroupTableFault c) :=
  fun _ h => nomatch h

theorem RoundTrip.bellwetherTurn (d : Nat) : RoundTrip.Statement (.bellwetherTurn d) :=
  fun _ h => nomatch h

theorem RoundTrip.passiveWake (d : Nat) : RoundTrip.Statement (.passiveWake d) :=
  fun _ h => nomatch h

theorem RoundTrip.deviceEventPost (k : Nat) : RoundTrip.Statement (.deviceEventPost k) :=
  fun _ h => nomatch h

theorem RoundTrip.launchQueueEntryTake (q : Nat) : RoundTrip.Statement (.launchQueueEntryTake q) :=
  fun _ h => nomatch h

theorem RoundTrip.flockAdmit (g : Nat) : RoundTrip.Statement (.flockAdmit g) :=
  fun _ h => nomatch h

theorem RoundTrip.rangeComplete (g : Nat) : RoundTrip.Statement (.rangeComplete g) :=
  fun _ h => nomatch h

theorem RoundTrip.drovePromote (d : Nat) : RoundTrip.Statement (.drovePromote d) :=
  fun _ h => nomatch h

theorem RoundTrip.regangTimeout (d : Nat) : RoundTrip.Statement (.regangTimeout d) :=
  fun _ h => nomatch h

theorem RoundTrip.yieldTimeout (d : Nat) : RoundTrip.Statement (.yieldTimeout d) :=
  fun _ h => nomatch h

theorem RoundTrip.budgetExpiry (f : Nat) : RoundTrip.Statement (.budgetExpiry f) :=
  fun _ h => nomatch h

theorem RoundTrip.watchdogExpiry (f : Nat) : RoundTrip.Statement (.watchdogExpiry f) :=
  fun _ h => nomatch h

theorem RoundTrip.slowFaultSwapout (f : Nat) : RoundTrip.Statement (.slowFaultSwapout f) :=
  fun _ h => nomatch h

theorem RoundTrip.mxmodeApply (pad : Nat) : RoundTrip.Statement (.mxmodeApply pad) :=
  fun _ h => nomatch h

theorem RoundTrip.faultTableEntryWrite (k : Nat) : RoundTrip.Statement (.faultTableEntryWrite k) :=
  fun _ h => nomatch h

theorem RoundTrip.parkDelivery (k : Nat) : RoundTrip.Statement (.parkDelivery k) :=
  fun _ h => nomatch h

theorem RoundTrip.swapOut (f : Nat) : RoundTrip.Statement (.swapOut f) :=
  fun _ h => nomatch h

theorem RoundTrip.flockResume (k : Nat) : RoundTrip.Statement (.flockResume k) :=
  fun _ h => nomatch h

theorem RoundTrip.dbgcmdHalt (d : Nat) : RoundTrip.Statement (.dbgcmdHalt d) :=
  fun _ h => nomatch h

theorem RoundTrip.mapcmdMap (c : Nat) : RoundTrip.Statement (.mapcmdMap c) :=
  fun _ h => nomatch h

theorem RoundTrip.mapcmdUnmap (c : Nat) : RoundTrip.Statement (.mapcmdUnmap c) :=
  fun _ h => nomatch h

theorem RoundTrip.mapcmdCompress (c : Nat) : RoundTrip.Statement (.mapcmdCompress c) :=
  fun _ h => nomatch h

theorem RoundTrip.mapcmdClearAccessed (c : Nat) : RoundTrip.Statement (.mapcmdClearAccessed c) :=
  fun _ h => nomatch h

theorem RoundTrip.mapcmdQuery (c : Nat) : RoundTrip.Statement (.mapcmdQuery c) :=
  fun _ h => nomatch h

theorem RoundTrip.xtcrBind (c : Nat) : RoundTrip.Statement (.xtcrBind c) :=
  fun _ h => nomatch h

theorem RoundTrip.sramwinWrite (c : Nat) : RoundTrip.Statement (.sramwinWrite c) :=
  fun _ h => nomatch h

theorem RoundTrip.czoneWrite (c : Nat) : RoundTrip.Statement (.czoneWrite c) :=
  fun _ h => nomatch h

theorem RoundTrip.vcDefine (c : Nat) : RoundTrip.Statement (.vcDefine c) :=
  fun _ h => nomatch h

theorem RoundTrip.vcResize (c : Nat) : RoundTrip.Statement (.vcResize c) :=
  fun _ h => nomatch h

theorem RoundTrip.vcMove (c : Nat) : RoundTrip.Statement (.vcMove c) :=
  fun _ h => nomatch h

theorem RoundTrip.vcFree (c : Nat) : RoundTrip.Statement (.vcFree c) :=
  fun _ h => nomatch h

theorem RoundTrip.vcRead (c : Nat) : RoundTrip.Statement (.vcRead c) :=
  fun _ h => nomatch h

theorem RoundTrip.vcModify (c : Nat) : RoundTrip.Statement (.vcModify c) :=
  fun _ h => nomatch h

theorem RoundTrip.vcRetireShare (c : Nat) : RoundTrip.Statement (.vcRetireShare c) :=
  fun _ h => nomatch h

theorem RoundTrip.vcShareMap (c : Nat) : RoundTrip.Statement (.vcShareMap c) :=
  fun _ h => nomatch h

theorem RoundTrip.vcSweepSet (vc : Nat) (die : Nat) : RoundTrip.Statement (.vcSweepSet vc die) :=
  fun _ h => nomatch h

theorem RoundTrip.vcMigrationComplete (vc : Nat) : RoundTrip.Statement (.vcMigrationComplete vc) :=
  fun _ h => nomatch h

theorem RoundTrip.vcFreeComplete (vc : Nat) : RoundTrip.Statement (.vcFreeComplete vc) :=
  fun _ h => nomatch h

theorem RoundTrip.shareRetireComplete (share : Nat) : RoundTrip.Statement (.shareRetireComplete share) :=
  fun _ h => nomatch h

theorem RoundTrip.aetclrWrite (c : Nat) : RoundTrip.Statement (.aetclrWrite c) :=
  fun _ h => nomatch h

theorem RoundTrip.csbaddrWrite (c : Nat) : RoundTrip.Statement (.csbaddrWrite c) :=
  fun _ h => nomatch h

theorem RoundTrip.freplyReplay (c : Nat) : RoundTrip.Statement (.freplyReplay c) :=
  fun _ h => nomatch h

theorem RoundTrip.freplyDeliver (c : Nat) : RoundTrip.Statement (.freplyDeliver c) :=
  fun _ h => nomatch h

theorem RoundTrip.ctxPreempt (c : Nat) : RoundTrip.Statement (.ctxPreempt c) :=
  fun _ h => nomatch h

theorem RoundTrip.ctxResume (c : Nat) : RoundTrip.Statement (.ctxResume c) :=
  fun _ h => nomatch h

theorem RoundTrip.ctxTerminate (c : Nat) : RoundTrip.Statement (.ctxTerminate c) :=
  fun _ h => nomatch h

theorem RoundTrip.ctxPlaceShepherd (c : Nat) : RoundTrip.Statement (.ctxPlaceShepherd c) :=
  fun _ h => nomatch h

theorem RoundTrip.lqcfgWrite (c : Nat) : RoundTrip.Statement (.lqcfgWrite c) :=
  fun _ h => nomatch h

theorem RoundTrip.mxmodeWrite (c : Nat) : RoundTrip.Statement (.mxmodeWrite c) :=
  fun _ h => nomatch h

theorem RoundTrip.dbgcmdWrite (c : Nat) : RoundTrip.Statement (.dbgcmdWrite c) :=
  fun _ h => nomatch h

theorem RoundTrip.lcctlClr (c : Nat) : RoundTrip.Statement (.lcctlClr c) :=
  fun _ h => nomatch h

theorem RoundTrip.pwrprofWrite (c : Nat) : RoundTrip.Statement (.pwrprofWrite c) :=
  fun _ h => nomatch h

theorem RoundTrip.sysregWrite (c : Nat) : RoundTrip.Statement (.sysregWrite c) :=
  fun _ h => nomatch h

theorem RoundTrip.linkRetrain (link : Nat) : RoundTrip.Statement (.linkRetrain link) :=
  fun _ h => nomatch h

theorem RoundTrip.traceBrFlush (die : Nat) : RoundTrip.Statement (.traceBrFlush die) :=
  fun _ h => nomatch h

theorem RoundTrip.traceForcedSync (die : Nat) : RoundTrip.Statement (.traceForcedSync die) :=
  fun _ h => nomatch h

theorem RoundTrip.traceLoss (die : Nat) : RoundTrip.Statement (.traceLoss die) :=
  fun _ h => nomatch h

theorem RoundTrip.checkpointStreamEnd (ok : Bool) : RoundTrip.Statement (.checkpointStreamEnd ok) :=
  fun _ h => nomatch h

theorem RoundTrip.linkRetrainEnd (link : Nat) : RoundTrip.Statement (.linkRetrainEnd link) :=
  fun _ h => nomatch h

end Sys2Proof.Laws
end

