-- ==== Sys2Proof/Laws/Perform.lean ====
section
/-! SUPPORT. An event is performed as `exec` performs its row. -/

namespace Sys2Proof.Machine

/-- The instruction whose row an event is. -/
noncomputable def Event.row (e : Event) : Instr :=
  match e with
  | .loadReturn r => .loadReturn r
  | .slowSysrdReturn r => .slowSysrdReturn r
  | .loadLaneFault r => .loadLaneFault r
  | .storeAck r => .storeAck r
  | .storeLaneFault r => .storeLaneFault r
  | .linkStackSpillFill d => .linkStackSpillFill d
  | .owningDieAccess r j => .owningDieAccess r j
  | .atomicProbeResult r => .atomicProbeResult r
  | .atomicReturn r => .atomicReturn r
  | .catomLowUpdate r j => .catomLowUpdate r j
  | .scratchpadBankAccess r j => .scratchpadBankAccess r j
  | .pageExpansionComplete ctx va => .pageExpansionComplete ctx va
  | .homeOLoadMiss r j => .homeOLoadMiss r j
  | .homeILoadMiss r j => .homeILoadMiss r j
  | .homeSLoadMiss r j => .homeSLoadMiss r j
  | .homeWLoad r j => .homeWLoad r j
  | .homeOwnershipRequest r j => .homeOwnershipRequest r j
  | .homeWriteThrough r j => .homeWriteThrough r j
  | .homeAtomic r j => .homeAtomic r j
  | .ownerWmaskAccess r j => .ownerWmaskAccess r j
  | .ownerWriteBack core g => .ownerWriteBack core g
  | .ownerVwbWriteBack core g => .ownerVwbWriteBack core g
  | .recallToShared g => .recallToShared g
  | .recall g => .recall g
  | .claim g => .claim g
  | .invalidate g holder => .invalidate g holder
  | .update g die => .update g die
  | .directoryTComplete g => .directoryTComplete g
  | .requestRefusedResend r j => .requestRefusedResend r j
  | .replicaLineLeave g die => .replicaLineLeave g die
  | .hostCleanDrop g => .hostCleanDrop g
  | .peerAccessRequest x => .peerAccessRequest x
  | .route10Ack r j hostWrites => .route10Ack r j hostWrites
  | .epochTick core => .epochTick core
  | .retentionSleepEnter core => .retentionSleepEnter core
  | .retentionWake core => .retentionWake core
  | .matrixGrant pad k => .matrixGrant pad k
  | .passComplete pad k => .passComplete pad k
  | .reservationAging pad k => .reservationAging pad k
  | .tileOpComplete k => .tileOpComplete k
  | .tldRowFault r => .tldRowFault r
  | .barrierChecksum d => .barrierChecksum d
  | .wideBarrierArrival f => .wideBarrierArrival f
  | .asyncObjectArrival k => .asyncObjectArrival k
  | .chutePopServed f n => .chutePopServed f n
  | .chutePushRoom d => .chutePushRoom d
  | .copyComplete k => .copyComplete k
  | .copyFault k => .copyFault k
  | .collPhase0Packet p => .collPhase0Packet p
  | .collDataPacket p => .collDataPacket p
  | .collResultPacket p => .collResultPacket p
  | .collCancelPacket p => .collCancelPacket p
  | .reduceFlockDispatch c level node chunk => .reduceFlockDispatch c level node chunk
  | .collGroupTableFault c => .collGroupTableFault c
  | .bellwetherTurn d => .bellwetherTurn d
  | .passiveWake d => .passiveWake d
  | .deviceEventPost k => .deviceEventPost k
  | .launchQueueEntryTake q => .launchQueueEntryTake q
  | .flockAdmit g => .flockAdmit g
  | .rangeComplete g => .rangeComplete g
  | .drovePromote d => .drovePromote d
  | .regangTimeout d => .regangTimeout d
  | .yieldTimeout d => .yieldTimeout d
  | .budgetExpiry f => .budgetExpiry f
  | .watchdogExpiry f => .watchdogExpiry f
  | .slowFaultSwapout f => .slowFaultSwapout f
  | .mxmodeApply pad => .mxmodeApply pad
  | .faultTableEntryWrite k => .faultTableEntryWrite k
  | .parkDelivery k => .parkDelivery k
  | .swapOut f => .swapOut f
  | .flockResume k => .flockResume k
  | .dbgcmdHalt d => .dbgcmdHalt d
  | .mapcmdMap c => .mapcmdMap c
  | .mapcmdUnmap c => .mapcmdUnmap c
  | .mapcmdCompress c => .mapcmdCompress c
  | .mapcmdClearAccessed c => .mapcmdClearAccessed c
  | .mapcmdQuery c => .mapcmdQuery c
  | .xtcrBind c => .xtcrBind c
  | .sramwinWrite c => .sramwinWrite c
  | .czoneWrite c => .czoneWrite c
  | .vcDefine c => .vcDefine c
  | .vcResize c => .vcResize c
  | .vcMove c => .vcMove c
  | .vcFree c => .vcFree c
  | .vcRead c => .vcRead c
  | .vcModify c => .vcModify c
  | .vcRetireShare c => .vcRetireShare c
  | .vcShareMap c => .vcShareMap c
  | .vcSweepSet vc die => .vcSweepSet vc die
  | .vcMigrationComplete vc => .vcMigrationComplete vc
  | .vcFreeComplete vc => .vcFreeComplete vc
  | .shareRetireComplete share => .shareRetireComplete share
  | .aetclrWrite c => .aetclrWrite c
  | .csbaddrWrite c => .csbaddrWrite c
  | .freplyReplay c => .freplyReplay c
  | .freplyDeliver c => .freplyDeliver c
  | .ctxPreempt c => .ctxPreempt c
  | .ctxResume c => .ctxResume c
  | .ctxTerminate c => .ctxTerminate c
  | .ctxPlaceShepherd c => .ctxPlaceShepherd c
  | .lqcfgWrite c => .lqcfgWrite c
  | .mxmodeWrite c => .mxmodeWrite c
  | .dbgcmdWrite c => .dbgcmdWrite c
  | .lcctlClr c => .lcctlClr c
  | .pwrprofWrite c => .pwrprofWrite c
  | .sysregWrite c => .sysregWrite c
  | .ckptSave c dpa => .ckptSave c dpa
  | .ckptRestore c dpa => .ckptRestore c dpa
  | .fieldRecordCommit => .fieldRecordCommit
  | .moduleReset => .moduleReset
  | .linkRetrain link => .linkRetrain link
  | .traceBrFlush die => .traceBrFlush die
  | .traceForcedSync die => .traceForcedSync die
  | .traceLoss die => .traceLoss die
  | .checkpointStreamEnd ok => .checkpointStreamEnd ok
  | .linkRetrainEnd link => .linkRetrainEnd link
  | .emptyIssueSlot => .emptyIssueSlot
  | .profileChangeTakesEffect => .profileChangeTakesEffect

theorem perform_eq_exec (e : Event) (s : State) : perform e s = exec e.row s := by
  cases e <;> rfl

end Sys2Proof.Machine
end

