-- ==== Sys2Proof/Laws/Side.lean ====
section
/-! SUPPORT. What an access of the device's own leaves as it was: `vaPut` and `vaRead`, and every operation below them, change
neither the droves and flocks, nor the requests, the contexts, the parks or the saved flocks. -/

set_option Elab.async false

namespace Sys2Proof.Machine

/-- State `t` agrees with `s` on droves, flocks, requests, contexts, parks and saved flocks. -/
def State.sameSide (s t : State) : Prop :=
  t.dr = s.dr ∧ t.droves = s.droves ∧ t.fl = s.fl ∧ t.flocks = s.flocks ∧ t.reqs = s.reqs ∧ t.sch.ctxs = s.sch.ctxs ∧
    t.sch.parks = s.sch.parks ∧ t.sch.saved = s.sch.saved

theorem vc_side {z s : State} (v : Pasture) (h : z.sameSide s) : z.sameSide { s with vc := v } := h

theorem coh_side {z s : State} (v : Coh) (h : z.sameSide s) : z.sameSide { s with coh := v } := h

theorem foldl_side {α : Type} (z : State) (f : State → α → State) (hf : ∀ s a, z.sameSide s → z.sameSide (f s a)) (l : List
    α) (s : State)
    (h : z.sameSide s) : z.sameSide (l.foldl f s) := by
  induction l generalizing s with
  | nil => exact h
  | cons a l ih => exact ih _ (hf _ _ h)

theorem draw_side (z : State) (s : State) (hok : z.sameSide s) : z.sameSide (draw s).2 := by
  unfold draw
  grind [State.sameSide]

theorem setDir_side (z : State) (s : State) (e : DirEntry) (hok : z.sameSide s) : z.sameSide (setDir s e) := by
  unfold setDir
  grind [State.sameSide]

theorem onHbm_side (z : State) (s : State) (f : Memory → Memory) (hok : z.sameSide s) : z.sameSide (onHbm s f) := by
  unfold onHbm
  grind [State.sameSide]

theorem mapL1_side (z : State) (s : State) (p : L1Line → Bool) (f : L1Line → L1Line) (hok : z.sameSide s) : z.sameSide (mapL1
    s p f) := by
  unfold mapL1
  grind [State.sameSide]

theorem dropL1_side (z : State) (s : State) (p : L1Line → Bool) (hok : z.sameSide s) : z.sameSide (dropL1 s p) := by
  unfold dropL1
  grind [State.sameSide]

theorem countDie_side (z : State) (s : State) (die k : Nat) (hok : z.sameSide s) : z.sameSide (countDie s die k) := by
  unfold countDie
  grind [State.sameSide]

theorem dropReplicas_side (z : State) (s : State) (g : Nat) (dies : BitVec 4) (hok : z.sameSide s) : z.sameSide (dropReplicas
    s g dies) := by
  unfold dropReplicas
  grind [State.sameSide]

theorem recallAll_side (z : State) (s : State) (g : Nat) (hok : z.sameSide s) : z.sameSide (recallAll s g) := by
  unfold recallAll
  grind [State.sameSide, setDir_side, onHbm_side, dropL1_side, dropReplicas_side]

theorem meetBusy_side (z : State) (s : State) (g : Nat) (hok : z.sameSide s) : z.sameSide (meetBusy s g) := by
  unfold meetBusy
  grind [State.sameSide]

theorem claimNow_side (z : State) (s : State) (e : DirEntry) (m : BitVec 32) (hok : z.sameSide s) : z.sameSide (claimNow s e
    m) := by
  unfold claimNow
  grind [State.sameSide, setDir_side, onHbm_side, mapL1_side, countDie_side]

theorem takeWrite_side (z : State) (s : State) (g : Nat) (m : BitVec 32) (nc : Bool) (die : Option Nat) (hok : z.sameSide s)
    : z.sameSide (takeWrite s g m nc die) := by
  unfold takeWrite
  grind [State.sameSide, setDir_side, dropL1_side, dropReplicas_side, recallAll_side, meetBusy_side, claimNow_side]

theorem putAt_side (z : State) (s : State) (ds : List (Nat × Bool)) (bs : List Byte) (die : Option Nat) (hok : z.sameSide s)
    : z.sameSide (putAt s ds bs die) := by
  unfold putAt
  grind [State.sameSide, foldl_side, onHbm_side, takeWrite_side]

theorem hostPut_side (z : State) (s : State) (p : Nat) (bs : List Byte) (hok : z.sameSide s) : z.sameSide (hostPut s p bs) := by
  unfold hostPut
  grind [State.sameSide, foldl_side]

theorem farPut_side (z : State) (s : State) (a : Nat) (b : Byte) (hok : z.sameSide s) : z.sameSide (farPut s a b) := by
  unfold farPut
  grind [State.sameSide, hostPut_side]

theorem putPlaces_side (z : State) (s : State) (ds : List (Nat × Bool)) (bs : List Byte) (die : Option Nat) (hok : z.sameSide
    s) : z.sameSide (putPlaces s ds bs die) := by
  unfold putPlaces
  grind [State.sameSide, foldl_side, putAt_side, farPut_side]

theorem homePut_side (z : State) (s : State) (a : Nat) (bs : List Byte) (hok : z.sameSide s) : z.sameSide (homePut s a bs) := by
  unfold homePut
  grind [State.sameSide, putAt_side]

theorem homeWrite_side (z : State) (s : State) (a n x : Nat) (hok : z.sameSide s) : z.sameSide (homeWrite s a n x) := by
  unfold homeWrite
  grind [State.sameSide, homePut_side]

theorem setPriv_side (z : State) (s : State) (n : Nat) (x : W64) (hok : z.sameSide s) : z.sameSide (setPriv s n x) := by
  unfold setPriv
  grind [State.sameSide]

theorem countRecord_side (z : State) (s : State) (i lo w : Nat) (hok : z.sameSide s) : z.sameSide (countRecord s i lo w) := by
  unfold countRecord
  grind [State.sameSide]

theorem queueEvent_side (z : State) (s : State) (e : DevEvent) (hok : z.sameSide s) : z.sameSide (queueEvent s e) := by
  unfold queueEvent
  grind [State.sameSide]

theorem postFevq_side (z : State) (s : State) (c : BitVec 16) (typ : BitVec 16) (id : BitVec 32) (pc pay : W64) (stamp :
    Option W64) (hok : z.sameSide s) : z.sameSide (postFevq s c typ id pc pay stamp) := by
  unfold postFevq
  grind [State.sameSide, queueEvent_side]

theorem cacheTlb_side (z : State) (s : State) (t : Tlb) (hok : z.sameSide s) : z.sameSide (cacheTlb s t) := by
  unfold cacheTlb
  grind [coh_side, draw_side]

theorem translate_side (z : State) (s : State) (c : BitVec 16) (va : Nat) (hok : z.sameSide s) : z.sameSide (translate s c
    va).2 := by
  unfold translate
  grind [State.sameSide, homeWrite_side, countRecord_side, cacheTlb_side]

theorem dieAccess_side (z : State) (s : State) (c : BitVec 16) (va : Nat) (ask : Ask) (bx : Bool) (hok : z.sameSide s) :
    z.sameSide (dieAccess s c va ask bx).2 := by
  unfold dieAccess
  grind [State.sameSide, translate_side]

theorem zoneError_side (z : State) (s : State) (die : Nat) (hok : z.sameSide s) : z.sameSide (zoneError s die) := by
  unfold zoneError
  grind [State.sameSide, setPriv_side]

theorem takeFrame_side (z : State) (s : State) (die : Nat) (hok : z.sameSide s) : z.sameSide (takeFrame s die).2 := by
  unfold takeFrame
  grind [State.sameSide, homeWrite_side]

theorem expandAt_side (z : State) (s : State) (die entry : Nat) (hok : z.sameSide s) : z.sameSide (expandAt s die entry).2 := by
  unfold expandAt
  grind [vc_side, foldl_side, homePut_side, homeWrite_side, zoneError_side, takeFrame_side]

theorem openPage_side (z : State) (s : State) (c : BitVec 16) (va : Nat) (hok : z.sameSide s) : z.sameSide (openPage s c va)
    := by
  unfold openPage
  grind [State.sameSide, countRecord_side, translate_side, expandAt_side]

theorem openPages_side (z : State) (s : State) (c : BitVec 16) (va n : Nat) (hok : z.sameSide s) : z.sameSide (openPages s c
    va n) := by
  unfold openPages
  grind [State.sameSide, foldl_side, draw_side, openPage_side]

theorem setVLine_side (z : State) (s : State) (l : VLine) (hok : z.sameSide s) : z.sameSide (setVLine s l) := by
  unfold setVLine
  grind [State.sameSide]

theorem dropVLine_side (z : State) (s : State) (l : VLine) (hok : z.sameSide s) : z.sameSide (dropVLine s l) := by
  unfold dropVLine
  grind [State.sameSide]

theorem onCdr_side (z : State) (s : State) (vc : Nat) (f : Cdr → Cdr) (hok : z.sameSide s) : z.sameSide (onCdr s vc f) := by
  unfold onCdr
  grind [State.sameSide]

theorem reportLeave_side (z : State) (s : State) (l : VLine) (hok : z.sameSide s) : z.sameSide (reportLeave s l) := by
  unfold reportLeave
  grind [State.sameSide, foldl_side, setDir_side]

theorem leaveVLine_side (z : State) (s : State) (l : VLine) (hok : z.sameSide s) : z.sameSide (leaveVLine s l) := by
  unfold leaveVLine
  grind [State.sameSide, dropVLine_side, reportLeave_side]

theorem makeWay_side (z : State) (s : State) (c : Cdr) (old : Bool) (die set : Nat) (hok : z.sameSide s) : z.sameSide
    (makeWay s c old die set).2 := by
  unfold makeWay
  grind [vc_side, leaveVLine_side]

theorem fillWay_side (z : State) (s : State) (c : Cdr) (die set : Nat) (hok : z.sameSide s) : z.sameSide (fillWay s c die
    set).2 := by
  unfold fillWay
  grind [State.sameSide, makeWay_side]

theorem addVLine_side (z : State) (s : State) (l : VLine) (hok : z.sameSide s) : z.sameSide (addVLine s l) := by
  unfold addVLine
  grind [State.sameSide]

theorem movePart_side (z : State) (room : State → Nat → Option Nat × State) (c : Cdr) (l : VLine) (s : State) (b : Nat) (hok
    : z.sameSide s) (hr : ∀ s n, z.sameSide s → z.sameSide (room s n).2) : z.sameSide (movePart room c l s b) := by
  unfold movePart
  grind [State.sameSide, setVLine_side, reportLeave_side, addVLine_side]

theorem moveVLine_side (z : State) (room : Nat → State → Nat → Option Nat × State) (s : State) (c : Cdr) (l : VLine) (hok :
    z.sameSide s) (hr : ∀ b s n, z.sameSide s → z.sameSide (room b s n).2) : z.sameSide (moveVLine room s c l) := by
  unfold moveVLine
  grind [State.sameSide, foldl_side, dropVLine_side, movePart_side]

theorem spareWay_side (z : State) (c : Cdr) (die : Nat) (s : State) (set : Nat) (hok : z.sameSide s) : z.sameSide (spareWay c
    die s set).2 := by
  unfold spareWay
  grind [State.sameSide]

theorem countHit_side (z : State) (s : State) (vc : Nat) (hok : z.sameSide s) : z.sameSide (countHit s vc) := by
  unfold countHit
  grind [State.sameSide, onCdr_side]

theorem countMiss_side (z : State) (s : State) (vc : Nat) (hok : z.sameSide s) : z.sameSide (countMiss s vc) := by
  unfold countMiss
  grind [State.sameSide, onCdr_side]

theorem clearAges_side (z : State) (s : State) (es : List DirEntry) (hok : z.sameSide s) : z.sameSide (clearAges s es) := by
  unfold clearAges
  grind [State.sameSide]

theorem seatEntry_side (z : State) (s : State) (g : Nat) (hok : z.sameSide s) : z.sameSide (seatEntry s g) := by
  unfold seatEntry
  grind [State.sameSide, setDir_side, countDie_side, recallAll_side, meetBusy_side, clearAges_side]

theorem registerReplica_side (z : State) (s : State) (c : Cdr) (die g : Nat) (hok : z.sameSide s) : z.sameSide
    (registerReplica s c die g) := by
  unfold registerReplica
  grind [State.sameSide, setDir_side, seatEntry_side]

theorem useVLine_side (z : State) (s : State) (c : Cdr) (l : VLine) (g : Geo) (dpa : Nat) (dirty : Bool) (hok : z.sameSide s)
    : z.sameSide (useVLine s c l g dpa dirty) := by
  unfold useVLine
  grind [State.sameSide, setVLine_side, countHit_side, countMiss_side, registerReplica_side]

theorem fillVLine_side (z : State) (s : State) (c : Cdr) (ctx : BitVec 16) (va dpa die : Nat) (write : Bool) (hok :
    z.sameSide s) : z.sameSide (fillVLine s c ctx va dpa die write) := by
  unfold fillVLine
  grind [State.sameSide, fillWay_side, addVLine_side, countMiss_side, registerReplica_side]

theorem pastureLookup_side (z : State) (s : State) (c : Cdr) (ctx : BitVec 16) (va dpa die : Nat) (write : Bool) (hok :
    z.sameSide s) : z.sameSide (pastureLookup s c ctx va dpa die write) := by
  unfold pastureLookup
  dsimp only
  split
  · exact hok
  split
  · split
    · split
      · exact countMiss_side z _ _ (by grind [fillWay_side])
      · exact countHit_side z _ _ (setVLine_side z _ _ (by grind [fillWay_side]))
    · split <;> first
      | exact useVLine_side z _ _ _ _ _ _ (moveVLine_side z _ _ _ _ (by grind [fillWay_side]) (by grind [spareWay_side]))
      | exact fillVLine_side z _ _ _ _ _ _ _ (moveVLine_side z _ _ _ _ (by grind [fillWay_side]) (by grind [spareWay_side]))
  · exact useVLine_side z _ _ _ _ _ _ hok
  · exact fillVLine_side z _ _ _ _ _ _ _ hok

theorem purgeLine_side (z : State) (s : State) (c : Cdr) (dpa : Nat) (hok : z.sameSide s) : z.sameSide (purgeLine s c dpa) := by
  unfold purgeLine
  grind [State.sameSide, foldl_side, setVLine_side, reportLeave_side, leaveVLine_side]

theorem pastureAccess_side (z : State) (s : State) (attr : W64) (ctx : BitVec 16) (va dpa r : Nat) (write : Bool) (hok :
    z.sameSide s) : z.sameSide (pastureAccess s attr ctx va dpa r write) := by
  unfold pastureAccess
  grind [State.sameSide, pastureLookup_side, purgeLine_side]

theorem vaPasture_side (z : State) (s : State) (c : BitVec 16) (va n : Nat) (write : Bool) (die : Option Nat) (hok :
    z.sameSide s) : z.sameSide (vaPasture s c va n write die) := by
  unfold vaPasture
  grind [State.sameSide, foldl_side, dieAccess_side, pastureAccess_side]

theorem vaRead_side (z : State) (s : State) (c : BitVec 16) (va n : Nat) (die : Option Nat) (hok : z.sameSide s) : z.sameSide
    (vaRead s c va n die).2 := by
  unfold vaRead
  grind [State.sameSide, openPages_side, vaPasture_side]

theorem vaPut_side (z : State) (s : State) (c : BitVec 16) (va : Nat) (bs : List Byte) (die : Option Nat) (hok : z.sameSide
    s) : z.sameSide (vaPut s c va bs die).2 := by
  unfold vaPut
  grind [State.sameSide, putPlaces_side, openPages_side, vaPasture_side]

theorem sameSide_refl (s : State) : s.sameSide s := ⟨rfl, rfl, rfl, rfl, rfl, rfl, rfl, rfl⟩

theorem vaPut_dr {s t : State} {c : BitVec 16} {va : Nat} {bs : List Byte} {x : Option (BitVec 8)} (h : vaPut s c va bs = (x,
    t)) :
    t.dr = s.dr ∧ t.sch.ctxs = s.sch.ctxs := by
  have := vaPut_side s s c va bs none (sameSide_refl s)
  rw [h] at this
  exact ⟨this.1, this.2.2.2.2.2.1⟩

theorem vaRead_dr {s t : State} {c : BitVec 16} {va n : Nat} {x : List Byte ⊕ BitVec 8} (h : vaRead s c va n = (x, t)) :
    t.dr = s.dr ∧ t.sch.ctxs = s.sch.ctxs := by
  have := vaRead_side s s c va n none (sameSide_refl s)
  rw [h] at this
  exact ⟨this.1, this.2.2.2.2.2.1⟩

end Sys2Proof.Machine
end

