-- ==== Sys2Proof/Laws/Vector.lean ====
section
/-! SUPPORT. What an instruction that changes its drove alone does, and what a vector instruction does lane by lane. -/

namespace Sys2Proof.Machine

/-- An instruction that passes its checks and changes its drove by `f` does exactly that. -/
theorem does_of_go {i : Instr} {s : State} {c : Chk} {dyn : State → Verdict} {f : Drove → Drove}
    (he : exec i s = .next (issueIf c dyn s fun s => retire (onDr s f))) (hv : verdict c s = .go) (hd : dyn s = .go)
    (hf : ∀ d o, (f (Drove.recorded d o)).bare = (f d).bare) : Does i s f := by
  refine ⟨_, by rw [he, issueIf_go _ hv hd], ?_⟩
  exact (issued_recorded _ s c.uses c.slots).retire_bare f hf

theorem Becomes.congr {s t : State} {f g : Drove → Drove} (h : Becomes s t f) (e : f s.dr = g s.dr) : Becomes s t g := by
  simpa only [Becomes, onDr, e] using h

theorem Does.congr {i : Instr} {s : State} {f g : Drove → Drove} (h : Does i s f) (e : f s.dr = g s.dr) : Does i s g := by
  obtain ⟨t, h1, h2⟩ := h
  exact ⟨t, h1, h2.congr e⟩

theorem foldl_flags (d : Drove) (f : Nat → Option LaneOut) (ls : List Nat) (n : Nat) (acc : Fl × Bool) (k : Nat) :
    (((ls.map f).zipIdx n).foldl (fun (x : Fl × Bool) (p : Option LaneOut × Nat) =>
      match p.1 with
      | some o => if (activeMask d).getLsbD p.2 then (x.1 ||| o.fl, x.2 || o.sat) else (x.1, x.2)
      | none => (x.1, x.2)) acc).1.getLsbD k =
    (acc.1.getLsbD k || ((ls.map f).zipIdx n).any fun p =>
      match p.1 with
      | some o => (activeMask d).getLsbD p.2 && o.fl.getLsbD k
      | none => false) := by
  induction ls generalizing n acc with
  | nil => simp
  | cons l ls ih =>
    simp only [List.map_cons, List.zipIdx_cons, List.foldl_cons, List.any_cons]
    rw [ih]
    cases f l with
    | none => simp
    | some o => by_cases h : (activeMask d).getLsbD n <;> simp [h, Bool.or_assoc]

theorem foldl_sat (d : Drove) (f : Nat → Option LaneOut) (ls : List Nat) (n : Nat) (acc : Fl × Bool) :
    (((ls.map f).zipIdx n).foldl (fun (x : Fl × Bool) (p : Option LaneOut × Nat) =>
      match p.1 with
      | some o => if (activeMask d).getLsbD p.2 then (x.1 ||| o.fl, x.2 || o.sat) else (x.1, x.2)
      | none => (x.1, x.2)) acc).2 =
    (acc.2 || ((ls.map f).zipIdx n).any fun p =>
      match p.1 with
      | some o => (activeMask d).getLsbD p.2 && o.sat
      | none => false) := by
  induction ls generalizing n acc with
  | nil => simp
  | cons l ls ih =>
    simp only [List.map_cons, List.zipIdx_cons, List.foldl_cons, List.any_cons]
    rw [ih]
    cases f l with
    | none => simp
    | some o => by_cases h : (activeMask d).getLsbD n <;> simp [h, Bool.or_assoc]

theorem zipIdx_any_range (g : Nat → Option LaneOut) (p : Option LaneOut → Nat → Bool) (n : Nat) :
    (((List.range n).map g).zipIdx.any fun q => p q.1 q.2) = (List.range n).any fun l => p (g l) l := by
  rw [Bool.eq_iff_iff]
  simp only [List.any_eq_true, List.mem_zipIdx_iff_getElem?, List.mem_range, Prod.exists]
  constructor
  · rintro ⟨o, l, h, hp⟩
    simp only [List.getElem?_map] at h
    by_cases hl : l < n
    · simp [hl] at h
      exact ⟨l, hl, by rw [h]; exact hp⟩
    · simp [hl] at h
  · rintro ⟨l, hl, hp⟩
    exact ⟨g l, l, by simp [hl], hp⟩

theorem activeFl_flag (d : Drove) (f : Nat → LaneOut) (k : Nat) : (activeFl d (laneOuts d f)).1.getLsbD k = raisedIn d f k := by
  unfold activeFl laneOuts
  refine (foldl_flags d (fun l => if takesPart d l = true then some (f l) else none) _ 0 _ k).trans ?_
  rw [zipIdx_any_range (p := fun o l => match o with | some o => (activeMask d).getLsbD l && o.fl.getLsbD k | none => false)]
  simp only [raisedIn, BitVec.ofNat_eq_ofNat, BitVec.getLsbD_zero, Bool.false_or]
  congr 1
  funext l
  by_cases h : takesPart d l <;> simp only [h, isActive]
  · have : l < d.width := by simp [takesPart] at h; exact h.1
    simp [this]
  · simp [takesPart] at h
    by_cases hw : l < d.width
    · simp [h hw]
    · simp [hw]

theorem activeFl_sat (d : Drove) (f : Nat → LaneOut) : (activeFl d (laneOuts d f)).2 = satIn d f := by
  unfold activeFl laneOuts
  refine (foldl_sat d (fun l => if takesPart d l = true then some (f l) else none) _ 0 _).trans ?_
  rw [zipIdx_any_range (p := fun o l => match o with | some o => (activeMask d).getLsbD l && o.sat | none => false)]
  simp only [satIn, Bool.false_or]
  congr 1
  funext l
  by_cases h : takesPart d l <;> simp only [h, isActive]
  · have : l < d.width := by simp [takesPart] at h; exact h.1
    simp [this]
  · simp [takesPart] at h
    by_cases hw : l < d.width
    · simp [h hw]
    · simp [hw]

theorem laneOuts_getD (d : Drove) (f : Nat → LaneOut) (l : Nat) (h : l < 64) :
    (laneOuts d f).getD l none = if takesPart d l then some (f l) else none := by
  simp [laneOuts, List.getD_eq_getElem?_getD, h]

theorem writeWord_rest (d : Drove) (outs : List (Option LaneOut)) (n i : Nat) :
    writeWord d outs n i = { d with v := (writeWord d outs n i).v } := rfl

theorem writeWord_ne (d : Drove) (outs : List (Option LaneOut)) (n i m : Nat) (h : m ≠ n) :
    vreg (writeWord d outs n i) m = vreg d m := by
  simp only [vreg, writeWord, setV]
  split
  · exact Vector.getElem_setIfInBounds_ne _ (Ne.symm h)
  · rfl

theorem writeWord_lane (d : Drove) (outs : List (Option LaneOut)) (n i l : Nat) (hn : n < 128) (hl : l < 64) :
    vlane (writeWord d outs n i) n l = match outs.getD l none with
      | some o => o.words.getD i 0
      | none => vlane d n l := by
  simp only [vlane, vreg, writeWord, setV, hn, dif_pos]
  rw [Vector.getElem_setIfInBounds_self]
  exact (lane_mkLanes _ _ hl).trans (by cases outs.getD l none <;> rfl)

/-- The destinations of a vector instruction, written one after the other. -/
def writeAll (d : Drove) (outs : List (Option LaneOut)) (ps : List (Nat × Nat)) : Drove :=
  ps.foldl (fun d (n, i) => writeWord d outs n i) d

theorem writeAll_rest (d : Drove) (outs : List (Option LaneOut)) (ps : List (Nat × Nat)) :
    writeAll d outs ps = { d with v := (writeAll d outs ps).v } := by
  induction ps generalizing d with
  | nil => rfl
  | cons p ps ih =>
    unfold writeAll at *
    simp only [List.foldl_cons]
    rw [ih]
    rfl

theorem writeAll_ne (d : Drove) (outs : List (Option LaneOut)) (ps : List (Nat × Nat)) (m : Nat) (h : m ∉ ps.map (·.1)) :
    vreg (writeAll d outs ps) m = vreg d m := by
  induction ps generalizing d with
  | nil => rfl
  | cons p ps ih =>
    simp only [List.map_cons, List.mem_cons, not_or] at h
    have := ih (writeWord d outs p.1 p.2) h.2
    unfold writeAll at *
    simp only [List.foldl_cons]
    rw [this, writeWord_ne _ _ _ _ _ h.1]

theorem writeAll_lane (d : Drove) (outs : List (Option LaneOut)) (ps : List (Nat × Nat)) (n i l : Nat)
    (hp : (n, i) ∈ ps) (hd : (ps.map (·.1)).Nodup) (hn : n < 128) (hl : l < 64) :
    vlane (writeAll d outs ps) n l = match outs.getD l none with
      | some o => o.words.getD i 0
      | none => vlane d n l := by
  induction ps generalizing d with
  | nil => simp at hp
  | cons p ps ih =>
    simp only [List.map_cons, List.nodup_cons] at hd
    have hstep : writeAll d outs (p :: ps) = writeAll (writeWord d outs p.1 p.2) outs ps := rfl
    rw [hstep]
    rcases List.mem_cons.mp hp with h | h
    · subst h
      have := writeAll_ne (writeWord d outs n i) outs ps n hd.1
      simp only [vlane, this]
      exact writeWord_lane d outs n i l hn hl
    · rw [ih _ h hd.2]
      have hne : n ≠ p.1 := by
        rintro rfl
        exact hd.1 (List.mem_map.mpr ⟨_, h, rfl⟩)
      have := writeWord_ne d outs p.1 p.2 n hne
      simp only [vlane, this]

/-- What a vector instruction with active lanes leaves of its drove. -/
theorem lanesInto_raise (d : Drove) (dsts : List Nat) (f : Nat → LaneOut) (hd : dsts.Nodup) :
    LanesInto d (raiseFlags (writeAll d (laneOuts d f) dsts.zipIdx) (activeFl d (laneOuts d f)).1 (activeFl d (laneOuts d f)).2)
      dsts f := by
  have hm : (dsts.zipIdx.map (·.1)) = dsts := by simp
  have hr := writeAll_rest d (laneOuts d f) dsts.zipIdx
  refine ⟨?_, ?_, ?_, ?_, ?_⟩
  · intro n hn
    exact writeAll_ne d _ _ n (by rw [hm]; exact hn)
  · intro i n l hi hn hl
    have := writeAll_lane d (laneOuts d f) dsts.zipIdx n i l (by simp [List.mem_zipIdx_iff_getElem?, hi]) (by rw [hm]; exact hd) hn hl
    refine Eq.trans this ?_
    rw [laneOuts_getD _ _ _ hl]
    by_cases h : takesPart d l <;> simp [h]
  · intro k _
    rw [← activeFl_flag]
    rw [hr]
    simp [raiseFlags]
  · rw [← activeFl_sat]
    rw [hr]
    simp [raiseFlags]
  · rw [hr]
    rfl

theorem flNV_and (x : Fl) : (x &&& flNV != 0) = x.getLsbD 0 := by
  revert x
  decide

theorem raisedIn_inactive (d : Drove) (f : Nat → LaneOut) (k : Nat) (h : activeMask d = 0) : raisedIn d f k = false := by
  simp [raisedIn, isActive, h]

/-- A vector instruction that passes its checks writes its lanes, and nothing else changes. -/
theorem vecOp_does {i : Instr} {s : State} {c : Chk} {dsts : List Nat} {f : Drove → Nat → LaneOut}
    (he : exec i s = vecOp c dsts f s) (hr : vecReady s c.uses c.typ (f s.dr) = true) (hn : c.noShep = false)
    (hp : c.priv = false) (hb : c.bad = false) (ho : c.odd = false) (hc : c.conv = false) (hs : c.sync = false)
    (hd : dsts.Nodup) (hf : ∀ d o, f (Drove.recorded d o) = f d) : VecDoes i s dsts (f s.dr) := by
  simp only [vecReady, Bool.and_eq_true, Bool.not_eq_true'] at hr
  obtain ⟨⟨⟨hfit, hmask⟩, htyp⟩, hfex⟩ := hr
  have hv : verdict { c with masks := true } s = .go :=
    verdict_go hfit (by simp [hn]) (by simp [hp]) hb ho htyp (.inl hc) (.inr hmask) (.inl hs)
  have hx : fexVerdict f s = .go := by
    simp only [fexVerdict, stopIf, flNV_and, activeFl_flag]
    by_cases h : activeMask s.dr = 0
    · simp [h]
    · simp_all
  let g : Drove → Drove := fun d =>
    if activeMask d = 0 then d
    else raiseFlags (writeAll d (laneOuts d (f d)) dsts.zipIdx) (activeFl d (laneOuts d (f d))).1 (activeFl d (laneOuts d (f d))).2
  have hrun : vecRun dsts f = fun s => retire (onDr s g) := by
    funext s
    unfold vecRun
    split
    · rename_i h
      simp [g, onDr, h]
    · rename_i h
      simp only [g, onDr, h, if_false]
      rfl
  have hdo : Does i s g := by
    refine does_of_go (c := { c with masks := true }) (dyn := fexVerdict f) ?_ hv hx ?_
    · rw [he, vecOp, hrun]
    · intro d o
      have hact : activeMask (Drove.recorded d o) = activeMask d := rfl
      simp only [g, hact, hf]
      split
      · rfl
      · have e1 : laneOuts (Drove.recorded d o) (f d) = laneOuts d (f d) := rfl
        have e2 : activeFl (Drove.recorded d o) (laneOuts d (f d)) = activeFl d (laneOuts d (f d)) := rfl
        rw [e1, e2]
        generalize laneOuts d (f d) = outs
        have : ∀ ps, writeAll (Drove.recorded d o) outs ps = Drove.recorded (writeAll d outs ps) o := by
          intro ps
          clear hact e1 e2
          generalize d = d'
          induction ps generalizing d' with
          | nil => rfl
          | cons p ps ih => exact ih (writeWord d' outs p.1 p.2)
        rw [this]
        rfl
  refine ⟨g s.dr, ?_, ?_, hdo.congr rfl⟩
  · intro h
    simp [g, h]
  · intro h
    simp only [g, h, if_false]
    exact lanesInto_raise s.dr dsts (f s.dr) hd

theorem total_bits (p : Nat → Bool) (n : Nat) :
    total ((List.range n).map fun l => b2n (p l) * 2 ^ l) < 2 ^ n ∧
    ∀ l, l < n → (total ((List.range n).map fun l => b2n (p l) * 2 ^ l)).testBit l = p l := by
  induction n with
  | zero => simp [total]
  | succ n ih =>
    have hstep : total ((List.range (n + 1)).map fun l => b2n (p l) * 2 ^ l) =
        b2n (p n) * 2 ^ n + total ((List.range n).map fun l => b2n (p l) * 2 ^ l) := by
      rw [List.range_succ, List.map_append]
      simp only [List.map_cons, List.map_nil, total, List.foldl_append, List.foldl_cons, List.foldl_nil]
      exact Nat.add_comm _ _
    rw [hstep]
    obtain ⟨hlt, hbit⟩ := ih
    constructor
    · have : b2n (p n) ≤ 1 := by cases p n <;> decide
      have : b2n (p n) * 2 ^ n ≤ 1 * 2 ^ n := Nat.mul_le_mul_right _ this
      rw [Nat.pow_succ]
      omega
    · intro l hl
      have hb : b2n (p n) * 2 ^ n + total ((List.range n).map fun l => b2n (p l) * 2 ^ l) =
          2 ^ n * b2n (p n) + total ((List.range n).map fun l => b2n (p l) * 2 ^ l) := by rw [Nat.mul_comm]
      rw [hb, Nat.testBit_two_pow_mul_add _ hlt]
      split
      · rename_i h
        exact hbit l h
      · have : l = n := by omega
        subst this
        cases p l <;> simp [b2n]

theorem compareMask_bit (d : Drove) (f : Nat → Bool × Fl) (l : Nat) (h : l < 64) :
    (compareMask d f).getLsbD l = ((activeMask d).getLsbD l && (f l).1) := by
  unfold compareMask
  rw [BitVec.getLsbD_ofNat]
  simp [h, (total_bits (fun l => (activeMask d).getLsbD l && (f l).1) 64).2 l h]

theorem foldl_cmp (d : Drove) (f : Nat → Bool × Fl) (ls : List Nat) (acc : Fl) (k : Nat) :
    (ls.foldl (fun fl l => if (activeMask d).getLsbD l then fl ||| (f l).2 else fl) acc).getLsbD k =
    (acc.getLsbD k || ls.any fun l => (activeMask d).getLsbD l && (f l).2.getLsbD k) := by
  induction ls generalizing acc with
  | nil => simp
  | cons l ls ih =>
    simp only [List.foldl_cons, List.any_cons]
    rw [ih]
    by_cases h : (activeMask d).getLsbD l <;> simp [h, Bool.or_assoc]

theorem compareFl_flag (d : Drove) (f : Nat → Bool × Fl) (k : Nat) : (compareFl d f).getLsbD k = cmpRaised d f k := by
  unfold compareFl cmpRaised
  rw [foldl_cmp]
  simp

/-- A compare that passes its checks writes its mask, and nothing else changes. -/
theorem cmpOp_does {i : Instr} {s : State} {c : Chk} {sd : Nat} {f : Drove → Nat → Bool × Fl}
    (he : exec i s = cmpOp c sd f s) (hr : cmpReady s c.uses c.typ (f s.dr) = true) (hn : c.noShep = false)
    (hp : c.priv = false) (hb : c.bad = false) (ho : c.odd = false) (hc : c.conv = false) (hs : c.sync = false)
    (hf : ∀ d o, f (Drove.recorded d o) = f d) : CmpDoes i s sd (f s.dr) := by
  simp only [cmpReady, Bool.and_eq_true, Bool.not_eq_true'] at hr
  obtain ⟨⟨⟨hfit, hmask⟩, htyp⟩, hfex⟩ := hr
  have hv : verdict { c with masks := true } s = .go :=
    verdict_go hfit (by simp [hn]) (by simp [hp]) hb ho htyp (.inl hc) (.inr hmask) (.inl hs)
  have hx : stopIf (modeFEX s.dr.mode && (compareFl s.dr (f s.dr) &&& flNV) != 0) 0x28 = .go := by
    simp only [stopIf, flNV_and, compareFl_flag]
    simp [hfex]
  let g : Drove → Drove := fun d =>
    if activeMask d = 0 then d else raiseFlags (setS d sd (compareMask d (f d))) (compareFl d (f d)) false
  have hdo : Does i s g := by
    refine does_of_go (c := { c with masks := true })
      (dyn := fun s => stopIf (modeFEX s.dr.mode && (compareFl s.dr (f s.dr) &&& flNV) != 0) 0x28) ?_ hv hx ?_
    · rw [he]
      unfold cmpOp
      congr 2
      funext s
      split
      · rename_i h
        simp [g, onDr, h]
      · rename_i h
        simp only [g, onDr, h, if_false]
    · intro d o
      have hact : activeMask (Drove.recorded d o) = activeMask d := rfl
      simp only [g, hact, hf]
      split
      · rfl
      · have e1 : compareMask (Drove.recorded d o) (f d) = compareMask d (f d) := rfl
        have e2 : compareFl (Drove.recorded d o) (f d) = compareFl d (f d) := rfl
        rw [e1, e2]
        unfold setS
        split <;> rfl
  refine ⟨g s.dr, ?_, ?_, hdo.congr rfl⟩
  · intro h
    simp [g, h]
  · intro h
    simp only [g, h, if_false]
    refine ⟨compareMask s.dr (f s.dr), fun l hl => compareMask_bit _ _ _ hl, ?_, ?_⟩
    · unfold setS raiseFlags
      split <;> simp
    · intro k _
      rw [← compareFl_flag]
      unfold setS raiseFlags
      split <;> simp

end Sys2Proof.Machine
end

