-- ==== Sys2Proof/Tests/Slice0.lean ====
section
/-! SUPPORT. Tests: words decoded, ill-formed terms refused, and for every statement with hypotheses a state that meets them. Expected
values come from the encodings and the worked figures of spec/. -/

section

-- One test at a time: tests that wait beside each other for the kernel each hold a stack.
set_option Elab.async false

open Sys2Proof Sys2Proof.Machine

/-- Words of opcodes 0x00 to 0x0F, composed from the fields of the opcode table (03 R72, 04 R102-R106). -/
theorem test_words_0 : ∀ p ∈ ([
    (0x0154A8C5, .sadd 21 10 35 true false true),
    (0x0254A8C5, .ssub 21 10 35 true false true),
    (0x0354A8C5, .smul 21 10 35 true false true),
    (0x0454A8C5, .smulh 21 10 35 true false true),
    (0x0554A8C5, .smulhn 21 10 35 true false true),
    (0x0654A8C5, .sand 21 10 35 true false true),
    (0x0754A8C5, .sor 21 10 35 true false true),
    (0x0854A8C5, .sxor 21 10 35 true false true),
    (0x0954A8C5, .sandn 21 10 35 true false true),
    (0x0A54A8C5, .sshl 21 10 35 true false true),
    (0x0B54A8C5, .sshr 21 10 35 true false true),
    (0x0C54A8C5, .ssra 21 10 35 true false true),
    (0x0D54A8C5, .smin 21 10 35 true false true),
    (0x0E54A8C5, .smax 21 10 35 true false true),
    (0x0F54A8C5, .sminn 21 10 35 true false true)] : List (Nat × Instr)), decodeTableWord 32 p.1 = some p.2 := by decide +kernel

/-- Words of opcodes 0x10 to 0x1F, composed from the fields of the opcode table (03 R72, 04 R102-R106). -/
theorem test_words_1 : ∀ p ∈ ([
    (0x1054A8C5, .smaxn 21 10 35 true false true),
    (0x1154A8C5, .seq 21 10 35 true false true),
    (0x1254A8C5, .slt 21 10 35 true false true),
    (0x1354A8C5, .sltn 21 10 35 true false true),
    (0x1454A8C5, .ssel 21 10 35 true false true),
    (0x1554A004, .sclz 21 10 true false),
    (0x1654A004, .spop 21 10 true false),
    (0x1754A004, .sbrev 21 10 true false),
    (0x1854A004, .smov 21 10 true false),
    (0x1954A804, .saddi 21 10 2052),
    (0x1A54A804, .sandi 21 10 2052),
    (0x1B54A804, .sori 21 10 2052),
    (0x1C54A804, .sxori 21 10 2052),
    (0x1D54A023, .sshli 21 10 35),
    (0x1E54A023, .sshri 21 10 35),
    (0x1F54A023, .ssrai 21 10 35)] : List (Nat × Instr)), decodeTableWord 32 p.1 = some p.2 := by decide +kernel

/-- Words of opcodes 0x20 to 0x2F, composed from the fields of the opcode table (03 R72, 04 R102-R106). -/
theorem test_words_2 : ∀ p ∈ ([
    (0x2054A804, .seqi 21 10 2052),
    (0x2154A804, .slti 21 10 2052),
    (0x22560003, .sli 21 131075),
    (0x23560003, .slui 21 131075),
    (0x28020002, .bra 131074),
    (0x29560003, .brz 21 131075),
    (0x2A560003, .brnz 21 131075),
    (0x2B020002, .call 131074),
    (0x2C015004, .callr 21 true),
    (0x2D000000, .ret),
    (0x2E015004, .jmpr 21 true),
    (0x2F000000, .exit)] : List (Nat × Instr)), decodeTableWord 32 p.1 = some p.2 := by decide +kernel

/-- Words of opcodes 0x30 to 0x3F, composed from the fields of the opcode table (03 R72, 04 R102-R106). -/
theorem test_words_3 : ∀ p ∈ ([
    (0x30000000, .regang),
    (0x31000000, .nop),
    (0x32800002, .brk 8388610),
    (0x33000000, .yield),
    (0x3454A004, .modeSet 21 10 true false),
    (0x3530000A, .modeFld 3 10),
    (0x36540001, .modeGet 21 true)] : List (Nat × Instr)), decodeTableWord 32 p.1 = some p.2 := by decide +kernel

/-- Words of opcodes 0x40 to 0x4F, composed from the fields of the opcode table (03 R72, 04 R102-R106). -/
theorem test_words_4 : ∀ p ∈ ([
    (0x40AA2B1D, .vadd 85 10 99 true false true),
    (0x41AA2B1D, .vsub 85 10 99 true false true),
    (0x42AA2B1D, .vmul 85 10 99 true false true),
    (0x43AA2B1D, .vmulh 85 10 99 true false true),
    (0x44AA2B1D, .vmad 85 10 99 true false true),
    (0x45AA2B1D, .vand 85 10 99 true false true),
    (0x46AA2B1D, .vor 85 10 99 true false true),
    (0x47AA2B1D, .vxor 85 10 99 true false true),
    (0x48AA2B1D, .vandn 85 10 99 true false true),
    (0x49AA2B1D, .vshl 85 10 99 true false true),
    (0x4AAA2B1D, .vshr 85 10 99 true false true),
    (0x4BAA2B1D, .vsra 85 10 99 true false true),
    (0x4CAA2B1D, .vmin 85 10 99 true false true),
    (0x4DAA2B1D, .vmax 85 10 99 true false true),
    (0x4EAA2804, .vabs 85 10 true false),
    (0x4FAA2804, .vneg 85 10 true false)] : List (Nat × Instr)), decodeTableWord 32 p.1 = some p.2 := by decide +kernel

/-- Words of opcodes 0x50 to 0x5F, composed from the fields of the opcode table (03 R72, 04 R102-R106). -/
theorem test_words_5 : ∀ p ∈ ([
    (0x50AA2A3A, .veqSub2 85 10 35 true false),
    (0x500154AB, .veqSub3 85 10 true),
    (0x51AA2A3A, .vneSub2 85 10 35 true false),
    (0x510154AB, .vneSub3 85 10 true),
    (0x52AA2A3A, .vltSub2 85 10 35 true false),
    (0x520154AB, .vltSub3 85 10 true),
    (0x53AA2A3A, .vleSub2 85 10 35 true false),
    (0x530154AB, .vleSub3 85 10 true),
    (0x54AA2A38, .vselSub0 85 10 35 true false),
    (0x54AA2A39, .vselSub1 85 10 35 true false),
    (0x55AA2804, .vmov 85 10 true false),
    (0x56AA00A4, .vbcast 85 10 true),
    (0x57AA0001, .vlid 85 true),
    (0x58AA2804, .vpop 85 10 true false),
    (0x59AA2804, .vclz 85 10 true false),
    (0x5AAA2804, .vcvt 85 10 true false),
    (0x5BAA2B1D, .vpack 85 10 99 true false true),
    (0x5CAA2B1D, .vunpack 85 10 99 true false true),
    (0x5DAA0001, .vrand 85 true)] : List (Nat × Instr)), decodeTableWord 32 p.1 = some p.2 := by decide +kernel

/-- Words of opcodes 0x60 to 0x6F, composed from the fields of the opcode table (03 R72, 04 R102-R106). -/
theorem test_words_6 : ∀ p ∈ ([
    (0x60AA2B1D, .fadd 85 10 99 true false true),
    (0x61AA2B1D, .fsub 85 10 99 true false true),
    (0x62AA2B1D, .fmul 85 10 99 true false true),
    (0x63AA2B1D, .ffma 85 10 99 true false true),
    (0x64AA2B1D, .ffms 85 10 99 true false true),
    (0x65AA2B1D, .fnma 85 10 99 true false true),
    (0x66AA2B1D, .fmin 85 10 99 true false true),
    (0x67AA2B1D, .fmax 85 10 99 true false true),
    (0x68AA2804, .fabs 85 10 true false),
    (0x69AA2804, .fneg 85 10 true false),
    (0x6AAA2A3A, .feqSub2 85 10 35 true false),
    (0x6A0154AB, .feqSub3 85 10 true),
    (0x6BAA2A3A, .fltSub2 85 10 35 true false),
    (0x6B0154AB, .fltSub3 85 10 true),
    (0x6CAA2A3A, .fleSub2 85 10 35 true false),
    (0x6C0154AB, .fleSub3 85 10 true),
    (0x6DAA2A3A, .funSub2 85 10 35 true false),
    (0x6D0154AB, .funSub3 85 10 true),
    (0x6EAA2804, .frcp 85 10 true false),
    (0x6FAA2804, .frsq 85 10 true false)] : List (Nat × Instr)), decodeTableWord 32 p.1 = some p.2 := by decide +kernel

/-- Words of opcodes 0x70 to 0x7F, composed from the fields of the opcode table (03 R72, 04 R102-R106). -/
theorem test_words_7 : ∀ p ∈ ([
    (0x70AA2804, .fsqrt 85 10 true false),
    (0x71AA2804, .fexp2 85 10 true false),
    (0x72AA2804, .flog2 85 10 true false),
    (0x73AA2804, .fsin 85 10 true false),
    (0x74AA2804, .fcos 85 10 true false),
    (0x75AA2804, .fround 85 10 true false),
    (0x76AA2804, .fcvt 85 10 true false),
    (0x77AA2804, .fcvti 85 10 true false),
    (0x78AA2804, .ficvt 85 10 true false),
    (0x79AA2B1D, .fscale 85 10 99 true false true),
    (0x7AAA2804, .fgetexp 85 10 true false),
    (0x7BAA2804, .fgetman 85 10 true false),
    (0x7CAA2804, .fclass 85 10 true false)] : List (Nat × Instr)), decodeTableWord 32 p.1 = some p.2 := by decide +kernel

/-- Words of opcodes 0x80 to 0x8F, composed from the fields of the opcode table (03 R72, 04 R102-R106). -/
theorem test_words_8 : ∀ p ∈ ([
    (0x80AA2B1D, .twosum 85 10 99 true false true),
    (0x81AA2B1D, .ftwosum 85 10 99 true false true),
    (0x82AA2B1D, .twoprod 85 10 99 true false true),
    (0x83AA2B1D, .fmaerr 85 10 99 true false true),
    (0x84AA2B1D, .xadd 85 10 99 true false true),
    (0x85AA2B1D, .xsub 85 10 99 true false true),
    (0x86AA2B1D, .xmul 85 10 99 true false true),
    (0x87AA2B1D, .xfma 85 10 99 true false true),
    (0x88AA2804, .xrenorm 85 10 true false),
    (0x89AA2804, .xcompress 85 10 true false),
    (0x8AAA2A3A, .xeqSub2 85 10 35 true false),
    (0x8A0154AB, .xeqSub3 85 10 true),
    (0x8BAA2A3A, .xltSub2 85 10 35 true false),
    (0x8B0154AB, .xltSub3 85 10 true),
    (0x8CAA2A3A, .xleSub2 85 10 35 true false),
    (0x8C0154AB, .xleSub3 85 10 true),
    (0x8DAA2804, .xneg 85 10 true false),
    (0x8EAA2804, .xabs 85 10 true false),
    (0x8FAA2804, .xsplit 85 10 true false)] : List (Nat × Instr)), decodeTableWord 32 p.1 = some p.2 := by decide +kernel

/-- Words of opcodes 0x90 to 0x9F, composed from the fields of the opcode table (03 R72, 04 R102-R106). -/
theorem test_words_9 : ∀ p ∈ ([
    (0x90AA2804, .xtop 85 10 true false),
    (0x91AA281C, .xcvt 85 10 3 true false),
    (0x92AA2804, .xbound 85 10 true false),
    (0x98AA2804, .qswh 85 10 true false),
    (0x99AA2804, .qswv 85 10 true false),
    (0x9AAA2804, .qswd 85 10 true false),
    (0x9BAA2814, .qbc 85 10 2 true false),
    (0x9CAA2804, .qddx 85 10 true false),
    (0x9DAA2804, .qddy 85 10 true false),
    (0x9E000000, .qhelp)] : List (Nat × Instr)), decodeTableWord 32 p.1 = some p.2 := by decide +kernel

/-- Words of opcodes 0xA0 to 0xAF, composed from the fields of the opcode table (03 R72, 04 R102-R106). -/
theorem test_words_A : ∀ p ∈ ([
    (0xA0AA2B1D, .lshuf 85 10 99 true false true),
    (0xA1AA2B1D, .lrot 85 10 99 true false true),
    (0xA2AA281C, .lscan 85 10 3 true false),
    (0xA3AA281C, .lred 85 10 3 true false),
    (0xA40154AB, .lballot 85 10 true),
    (0xA5AA2804, .lcompress 85 10 true false),
    (0xA6AA2804, .lexpand 85 10 true false),
    (0xA70154AB, .lfirst 85 10 true)] : List (Nat × Instr)), decodeTableWord 32 p.1 = some p.2 := by decide +kernel

/-- Words of opcodes 0xB0 to 0xBF, composed from the fields of the opcode table (03 R72, 04 R102-R106). -/
theorem test_words_B : ∀ p ∈ ([
    (0xB0AA5636, .ldO 85 10 99 1 true false),
    (0xB1AA5636, .ldW 85 10 99 1 true false),
    (0xB2AA5636, .ldS 85 10 99 1 true false),
    (0xB3AA5636, .ldI 85 10 99 1 true false),
    (0xB4AA5635, .stO 85 10 99 1 true),
    (0xB5AA5635, .stW 85 10 99 1 true),
    (0xB6AA5635, .stS 85 10 99 1 true),
    (0xB7AA5635, .stI 85 10 99 1 true),
    (0xB854A811, .ldsO 21 10 516 1),
    (0xB954A811, .ldsW 21 10 516 1),
    (0xBA54A811, .ldsS 21 10 516 1),
    (0xBB54A811, .ldsI 21 10 516 1),
    (0xBC54A811, .stsO 21 10 516 1),
    (0xBD54A811, .stsW 21 10 516 1),
    (0xBE54A811, .stsS 21 10 516 1),
    (0xBF54A811, .stsI 21 10 516 1)] : List (Nat × Instr)), decodeTableWord 32 p.1 = some p.2 := by decide +kernel

/-- Words of opcodes 0xC0 to 0xCF, composed from the fields of the opcode table (03 R72, 04 R102-R106). -/
theorem test_words_C : ∀ p ∈ ([
    (0xC0AA5636, .ldp 85 10 99 1 true false),
    (0xC1AA5635, .stp 85 10 99 1 true),
    (0xC2AA5636, .ldsp 85 10 99 1 true false),
    (0xC3AA5635, .stsp 85 10 99 1 true),
    (0xC4AA5635, .cst 85 10 99 1 true),
    (0xC5AA5635, .stm 85 10 99 1 true),
    (0xC6025635, .pref 1 10 99 1 true),
    (0xC754A000, .vinv 21 10),
    (0xC854A000, .vwb 21 10),
    (0xC9000000, .fenceAcq),
    (0xCA000000, .fenceRel),
    (0xCB000000, .fenceSc)] : List (Nat × Instr)), decodeTableWord 32 p.1 = some p.2 := by decide +kernel

/-- Words of opcodes 0xD0 to 0xDF, composed from the fields of the opcode table (03 R72, 04 R102-R106). -/
theorem test_words_D : ∀ p ∈ ([
    (0xD0AA5633, .atomRlx 85 10 99 3),
    (0xD1AA5633, .atomAcq 85 10 99 3),
    (0xD2AA5633, .atomRel 85 10 99 3),
    (0xD3AA5633, .atomAr 85 10 99 3),
    (0xD4AA5633, .redRlx 85 10 99 3),
    (0xD5AA5633, .redRel 85 10 99 3),
    (0xD6AA5630, .catom 85 10 99),
    (0xD72A5233, .satom 21 10 35 3),
    (0xD86A3038, .mma 6 true 35 false 3 true),
    (0xD96A3038, .mmar 6 true 35 false 3 true),
    (0xDA6A3038, .mmab 6 true 35 false 3 true),
    (0xDB68A000, .tld 6 10),
    (0xDC68A000, .tst 6 10),
    (0xDD600000, .tzero 6),
    (0xDE6C6343, .trd 6 true 35 6 67),
    (0xDF6C6343, .twr 6 true 35 6 67)] : List (Nat × Instr)), decodeTableWord 32 p.1 = some p.2 := by decide +kernel

/-- Words of opcodes 0xE0 to 0xEF, composed from the fields of the opcode table (03 R72, 04 R102-R106). -/
theorem test_words_E : ∀ p ∈ ([
    (0xE0604010, .tfold 6 4 1),
    (0xE118AA30, .tscl true 10 35),
    (0xE2604020, .tmov 6 4 2),
    (0xE3604000, .tcvt 6 4),
    (0xE8000006, .bar 6),
    (0xE954A016, .barv 21 10 1 6),
    (0xEA54A000, .barw 21 10),
    (0xEB54A000, .abinit 21 10),
    (0xEC54A000, .abarr 21 10),
    (0xED54A000, .abwait 21 10),
    (0xEEAA0005, .qpush 85 5),
    (0xEFAA0005, .qpop 85 5)] : List (Nat × Instr)), decodeTableWord 32 p.1 = some p.2 := by decide +kernel

/-- Words of opcodes 0xF0 to 0xFF, composed from the fields of the opcode table (03 R72, 04 R102-R106). -/
theorem test_words_F : ∀ p ∈ ([
    (0xF0AA5005, .qtry 85 10 5),
    (0xF1540005, .qallow 21 5),
    (0xF254A004, .rtake 21 10 true false),
    (0xF354A000, .cpy 21 10),
    (0xF462A300, .coll 6 10 35),
    (0xF554A000, .evpost 21 10),
    (0xF6540000, .rlaunch 21),
    (0xF8800002, .trap 8388610),
    (0xF9000000, .eret),
    (0xFA062B1D, .mcall 3 10 99 5),
    (0xFB540000, .mcw 21),
    (0xFC542800, .sysrd 21 10),
    (0xFD542800, .syswr 21 10),
    (0xFE54A001, .tlbi 21 10 1)] : List (Nat × Instr)), decodeTableWord 32 p.1 = some p.2 := by decide +kernel
/-- A module running context 0, with a drove of uid 3, flock 2 and range 1 at the issue port. -/
def base : State := placed State.reset
def wdr (f : Drove → Drove) : State := onDr base f
def wmode (fs : List (Nat × BitVec 6)) : State := wdr fun d => { d with mode := fs.foldl (fun m p => modeWith m p.1 p.2) d.mode }
def user : State := setCsbField base 0 0 4 0
/-- Three lanes active. -/
def three (s : State) : State := onDr s fun d => { d with pres := 7 }
def nxt (o : Host.Outcome State Fault Refusal) : State := match o with | .next t => t | _ => base

/-- An ill-formed term for each check of WellFormed. -/
theorem test_ill_formed : ([.modeFld 10 0, .xcvt 0 0 4 false false, .qbc 0 0 4 false false, .lscan 0 0 16 false false,
    .lscan 0 0 6 false false, .lred 0 0 16 false false, .lred 0 0 6 false false, .lred 0 0 9 false false, .ldO 0 0 0 2 true false,
    .ldW 0 0 0 2 true false, .ldS 0 0 0 2 true false, .ldI 0 0 0 2 true false, .ldp 0 0 0 2 true false, .ldsp 0 0 0 2 true false,
    .vinv 0 1, .vwb 0 1, .atomRlx 0 0 0 12, .atomAcq 0 0 0 12, .atomRel 0 0 0 12, .atomAr 0 0 0 12, .redRlx 0 0 0 12,
    .redRlx 0 0 0 6, .redRlx 0 0 0 7, .redRel 0 0 0 12, .redRel 0 0 0 6, .redRel 0 0 0 7, .satom 0 0 0 12, .mma 0 true 64 false 0 false,
    .mma 0 false 0 true 64 false, .mmar 0 true 64 false 0 false, .mmar 0 false 0 true 64 false, .mmab 0 true 64 false 0 false,
    .mmab 0 false 0 true 64 false, .tfold 0 0 2, .tmov 0 0 4, .tlbi 0 0 3] : List Instr).all
    (fun i => !i.wellFormed && (encodeNat i).all fun w => (decodeTableWord 32 w).isNone) = true := by decide +kernel

theorem witness_EncodeThenDecode : encodeNat (.fadd 4 2 3 false true false) = some 0x6008081A ∧
    (Instr.fadd 4 2 3 false true false).wellFormed = true := by decide

theorem witness_DecodeThenEncode : decodeTableWord 32 0x6008081A = some (.fadd 4 2 3 false true false) := by decide

theorem witness_IllegalWordStops : opcodeAssigned (bits (0x00000000#32).toNat 31 24) = false ∧
    (bits (0xFB000000#32).toNat 31 24 ∈ [0xF9, 0xFB, 0xFE] ∧ privileged user = false) ∧
    opcodeAssigned (bits (0x01000008#32).toNat 31 24) = true ∧ privileged base = true ∧ base.dr.shepherd = false := by decide +kernel

/-- A word fetched at PC, and its bytes under the translation of the placed drove's page. -/
def fetching : State := base.withFetchWord 32 0x31000000
def microAt : State := { wdr fun d => { d with micro := some { slot := 0, pa := 0, pb := 0, k := 0, step := 0, code := [0x31000000] } } with port := true }
def helping : State := { wdr fun d => { d with help := true, helpWord := some 0x6008081A } with port := true }
/-- Every other core holds a drove that has exited, so that the drove's next instruction is all that may happen. -/
def alone : State :=
  { fetching with port := false, droves := (List.range 63).map fun k => { base.dr with uid := 100 + k, core := k + 1, cond := .exited } }
/-- Two droves of one sub-core: 3 waits for a register, and 9 is ready, and promoted; which of the two stands at the port depends on
`at3`. -/
def late (at3 : Bool) : State :=
  let waits := { alone.dr with cond := .waiting (.reg .vec 5), gangDue := true }
  let ready := { alone.dr with uid := 9, idx := 1, droveId := 1, promoted := true }
  { alone with dr := if at3 then waits else ready, droves := (if at3 then ready else waits) :: alone.droves }

theorem witness_StepRunsDecoded_port : fetching.port = true ∧ fetching.dr.micro = none ∧ fetching.dr.help = false ∧
    (fetchAt { fetching with who := none, met := none, port := false } fetching.dr.pc.toNat).1 = .word 0x31000000 := by decide +kernel

theorem witness_StepRunsDecoded_help : helping.port = true ∧ helping.dr.micro = none ∧ helping.dr.help = true ∧
    helping.dr.helpWord = some 0x6008081A := by decide +kernel

theorem witness_StepRunsDecoded_micro : microAt.port = true ∧ microAt.dr.micro.isSome = true ∧
    (microAt.dr.micro.bind fun m => substWord m (m.code.getD m.step 0)) = some 0x31000000 := by decide +kernel

/-- Drove `u` as a free choice of `s` brings it to the port. -/
def chosen (s : State) (u : Nat) : State :=
  let t := chooseGang (select (onWork (choose s (enabled s)).2 (.run u)) u)
  let t := select t (gangHead t)
  slotTime t t.dr

/-- What the clause on a chosen drove asks of the state in which that drove stands at the port. -/
def runsNext (s : State) (w : BitVec 32) : Bool :=
  s.dr.stopDue.isNone && (breakpoint s).isNone && s.dr.micro.isNone && !s.dr.help && (fetchAt s s.dr.pc.toNat).1 == .word w

theorem witness_StepRunsDecoded_chosen : alone.port = false ∧ alone.due = [] ∧ ticksDue alone = [] ∧ enabled alone = [.run 3] ∧
    runsNext (chosen alone 3) 0x31000000 = true ∧ overtaken (chosen alone 3) (chosen alone 3).dr = false := by decide +kernel

theorem issuesBefore_waiting (s : State) (a d : Drove) (ha : a.promoted = true) (hd : d.promoted = false) :
    issuesBefore s a { d with cond := .ready, since := s.cycle } = true := by simp [issuesBefore, isPromoted, ha, hd]

theorem late_overtaken (b : Bool) : overtaken (chosen (late b) 3) (chosen (late b) 3).dr = true := by
  rw [overtaken, Bool.and_eq_true, List.any_eq_true]
  refine ⟨by cases b <;> decide +kernel, { alone.dr with uid := 9, idx := 1, droveId := 1, promoted := true },
    by cases b <;> decide +kernel, ?_⟩
  rw [issuesBefore_waiting _ _ _ (by decide +kernel) (by cases b <;> decide +kernel)]
  cases b <;> decide +kernel

theorem late_port (b : Bool) : (late b).port = false ∧ (late b).due = [] ∧ ticksDue (late b) = [] ∧
    enabled (late b) = (if b then [.run 3, .run 9] else [.run 9, .run 3]) ∧ runsNext (chosen (late b) 3) 0x31000000 = true := by
  cases b <;> decide +kernel

/-- Whatever the first free choice is, it brings the waiting drove to the port in one of the two states. -/
theorem witness_StepRunsDecoded_late : ∃ b, (late b).port = false ∧ (late b).due = [] ∧ ticksDue (late b) = [] ∧
    (choose (late b) (enabled (late b))).1 = some (.run 3) ∧ runsNext (chosen (late b) 3) 0x31000000 = true ∧
    overtaken (chosen (late b) 3) (chosen (late b) 3).dr = true := by
  have h (b : Bool) := late_port b
  rcases Nat.mod_two_eq_zero_or_one (Config.free alone.fresh) with e | e
  · refine ⟨true, (h true).1, (h true).2.1, (h true).2.2.1, ?_, (h true).2.2.2.2, late_overtaken true⟩
    rw [(h true).2.2.2.1]
    have e' : Config.free (late true).fresh % 2 = 0 := e
    simp [choose, draw, e']
  · refine ⟨false, (h false).1, (h false).2.1, (h false).2.2.1, ?_, (h false).2.2.2.2, late_overtaken false⟩
    rw [(h false).2.2.2.1]
    have e' : Config.free (late false).fresh % 2 = 1 := e
    simp [choose, draw, e']

theorem witness_StepRunsDecoded_due : (let s : State := { alone with due := [3], slot := some .nop }
    s.port = false ∧ s.due = 3 :: [] ∧ s.slot = some .nop) := by decide +kernel

theorem witness_StepRunsDecoded_settle : base.met = none ∧ (∀ e ∈ base.coh.dir, Asker.own (.run 3) ∉ e.queue) ∧
    ({ base with met := some 128 } : State).met = some 128 := by decide +kernel

theorem witness_StepRunsDecoded_bytes : (let s := onCore fetching 0 fun k => { k with icache := [] }
    routeOf 0x100000 == 0 && !inAperture 0x100000 && ((coreOf s s.dr.core).icache.all fun x => x.va != 0x100000) &&
      (dieAccess s s.dr.ctx 0x100000 .fetch true).1.isLeft) = true := by decide +kernel

theorem witness_StepKeepsMemory : base.mem.wf = true ∧ (step fetching matches .next _) = true := by decide +kernel

theorem witness_HomeWriteReads : base.mem.hbm.wf = true ∧ busyGranule base 0x100000 = false ∧ (dirOf base 0x100000).hostDirty = [] ∧
    (dirOf base 0x100000).st = .i ∧ (dirOf base 0x100000).queue = [] ∧ homeByte (homePut base 0x100000 [7]) 0x100000 = 7 := by decide +kernel

theorem witness_BecomesFrame : Becomes base (retire (onDr base id)) id ∧ base.dr.micro = none ∧ base.dr.after = none ∧ base.dr.help = false ∧
    base.dr.wakeAt = none := ⟨rfl, by decide, by decide, by decide, by decide⟩

theorem witness_ScalarRegisterWrite : 63 < 64 ∧ sreg (setS base.dr 63 5) 63 = 5 ∧ sreg (setS base.dr 0 5) 0 = BitVec.allOnes 64 := by decide

/-- Register 127 of 64 is outside, register 1 misaligns a pair, and an integer form refuses a float type. -/
theorem witness_ChecksInOrder :
    (let s := wdr fun d => { d with nv := 64 }
     ((allForms s 127 0 0 0 0 false false false)[0]?).any fun v => v.us.any fun u => decide (allocOf s.dr u.cls < u.base + u.n)) = true ∧
    (((convertForms (wmode [(0, 1)]) 1 0 0 false false false)[4]?).any fun v =>
      !(v.us.any fun u => decide (allocOf base.dr u.cls < u.base + u.n)) && v.us.any fun u => u.base % u.align != 0) = true ∧
    (((allForms base 0 0 0 0 0 false false false)[0]?).any fun v =>
      !(v.us.any fun u => decide (allocOf base.dr u.cls < u.base + u.n)) && !(v.us.any fun u => u.base % u.align != 0) && !v.typ) = true := by
  decide +kernel

/-- The compares, the lane instructions and `vrand`, with register 127 of 64; a reduction with a reserved operation, and one whose type
it does not take. -/
theorem witness_ChecksInOrder_lane :
    (let s := wdr fun d => { d with nv := 64 }
     (allCompares s 127 127 5 false false).all (fun v => v.us.any fun u => decide (allocOf s.dr u.cls < u.base + u.n)) &&
       (laneForms s 127 127 127 5 0 false false false).all (fun v => v.us.any fun u => decide (allocOf s.dr u.cls < u.base + u.n))) = true ∧
    (laneForms base 4 2 3 5 15 false false false).any (·.bad) = true ∧
    (laneForms (wmode [(0, 10)]) 4 2 3 5 0 false false false).any (fun v => !v.bad && !v.typ) = true := by decide +kernel

def emptyS (ns : List Nat) : State := wdr fun d => ns.foldl (fun d n => markS d n false) d

theorem witness_EmptyRegisterWaitsOrTraps : (63#6).toNat < base.dr.ns ∧
    isFull (emptyS [5]) .scl 5 = false ∧ (isFull (emptyS [63]) .scl 5 = true ∧ isFull (emptyS [63]) .scl 63 = false) ∧
    (isFull (emptyS [1]) .scl 5 = true ∧ isFull (emptyS [1]) .scl 63 = true ∧ isFull (emptyS [1]) .scl 1 = false) := by decide

theorem witness_BranchResult : fits base [srcS 63] = true ∧ sreg base.dr 63 = 0 ∧ sreg base.dr 0 ≠ 0 ∧ 0 < base.dr.ns ∧
    (63 < (emptyS [63]).dr.ns ∧ isFull (emptyS [63]) .scl 63 = false) ∧ (1#6) ≠ 0 := by decide

theorem test_branch_back : (nxt (exec (.bra 0x3FFFF) base)).dr.pc = base.dr.pc ∧
    (nxt (exec (.brz 0 5) base)).dr.pc = base.dr.pc + 4 := by decide +kernel

def linked (n : Nat) (top : W64) : State := wdr fun d => { d with depth := n, links := List.replicate (min n 16) top }

theorem witness_CallResult : (base.dr.depth ≠ 512 ∧ base.dr.links.length < 16 ∧ base.dr.pc.toNat % 4 = 0) ∧
    (fits base [srcS 5] = true ∧ (sreg base.dr 5).toNat % 4 = 0) ∧
    ((linked 1 0x100).dr.depth ≠ 0 ∧ (linked 1 0x100).dr.links = [0x100] ∧ (0x100#64).toNat % 4 = 0) ∧ (linked 512 0).dr.depth = 512 ∧
    base.dr.depth = 0 ∧ (fits base [srcS 0] = true ∧ (sreg base.dr 0).toNat % 4 ≠ 0) ∧
    ((linked 1 0x102).dr.links = [0x102] ∧ (0x102#64).toNat % 4 ≠ 0) := by decide

theorem witness_ModeGetResult : fits base [dstS 63 true] = true ∧ 63 < base.dr.ns ∧ isFull (emptyS [63]) .scl 63 = false := by decide

theorem witness_ModeResult : fits base [srcS 5 true, dstS 63 true] = true ∧ modeOk64 base.dr 0x000E0000 = true ∧
    modeOk64 base.dr 0x100000000 = false ∧ modeFldOk base.dr.ns 2 4 = true ∧ modeFldOk base.dr.ns 2 7 = false := by decide

def pausing (w : Wait) (t : Nat) : State := { wdr fun d => { d with cond := .waiting w } with cycle := t }

def sibling (w : Wait) : State := { pausing w 64 with droves := [{ base.dr with uid := 9, idx := 1, pc := 0x200 }] }

theorem witness_PauseResult : ((∀ t, base.dr.cond ≠ .waiting (.yield t)) ∧ yielded base base.cycle = true) ∧
    ((sibling .turn).dr.waited = false ∧ yielded (sibling .turn) (sibling .turn).cycle = false ∧ ∀ t, (sibling .turn).dr.cond ≠ .waiting (.yield t)) ∧
    (256 ≤ (pausing (.yield 0) 256).cycle - 0 ∧ (pausing (.yield 0) 256).dr.cond = .waiting (.yield 0) ∧ (pausing (.yield 0) 256).dr.uid = 3) ∧
    (wdr fun d => { d with waited := true }).dr.waited = true ∧
    (base.dr.waited = false ∧ ((subcoreSiblings base).filter (atRegang base)).length = (subcoreSiblings base).length) ∧
    ((sibling (.regang 0)).dr.waited = false ∧ (sibling (.regang 0)).dr.cond = .waiting (.regang 0) ∧ 64 ≤ (sibling (.regang 0)).cycle - 0) ∧
    (let s := { sibling (.regang 0) with dr := base.dr }
     s.dr.waited = false ∧ ((subcoreSiblings s).filter (atRegang s)).length ≠ (subcoreSiblings s).length ∧
       ∀ t, s.dr.cond ≠ .waiting (.regang t)) :=
  ⟨⟨nofun, by decide +kernel⟩, ⟨by decide +kernel, by decide +kernel, nofun⟩, by decide +kernel, by decide +kernel, by decide +kernel,
    by decide +kernel, by decide +kernel, by decide +kernel, nofun⟩

theorem witness_StopsWriteRecord : (let u := partGang base base.dr.uid
    frecBusy u u.dr = false ∧ (vaPut u base.dr.ctx base.dr.frec.toNat (List.replicate 128 1)).1 = none ∧ (ctxOf base base.dr.ctx).isSome = true) := by
  decide +kernel

theorem witness_BreakAndTrapStop : base.dr.micro = none ∧ (nxt (exec (.brk 7) base)).dr.cond = .stopped ∧
    (nxt (exec (.trap 7) base)).dr.stop.any (fun x => x.cause == 9) = true := by decide +kernel
theorem witness_ScalarRegisterResult : (scalarThree.length = 20 ∧ scalarTwo.length = 4) ∧
    fits base [srcS 62 true, srcS 0, dstS 63] = true ∧ fits base [srcS 0 true, dstS 0] = true := by decide

theorem test_scalar_products : (let s := wdr fun d => setS (setS d 2 (-2)) 3 3
    ((nxt (exec (.smulh 5 2 3 false false false) s)).dr.s[5] == -1) && ((nxt (exec (.smulhn 6 2 3 false false false) s)).dr.s[6] == 2) &&
      ((nxt (exec (.ssra 7 2 3 false false false) s)).dr.s[7] == -1)) = true := by decide +kernel

theorem witness_ScalarImmediateResult : (scalarImms.length = 6 ∧ scalarShifts.length = 3) ∧ fits base [srcS 0, dstS 63] = true ∧
    (63 < base.dr.ns ∧ isFull (emptyS [5]) .scl 5 = false) ∧ (isFull (emptyS [63]) .scl 5 = true ∧ isFull (emptyS [63]) .scl 63 = false) ∧
    64 ≤ (64#12).toNat := by decide

theorem witness_ScalarConstantResult : fits base [dstS 63] = true ∧ (63 < base.dr.ns ∧ isFull (emptyS [63]) .scl 63 = false) ∧
    (0x3FFFF#18).extractLsb' 0 10 = (BitVec.allOnes 64).extractLsb' 54 10 := by decide

theorem test_constant : (nxt (exec (.slui 21 0x104) (wdr fun d => setS d 21 0x100082))).dr.s[21] = 0x4002080104 := by decide +kernel

theorem witness_VectorIntegerResult : ((intForms (wmode [(0, 3)]) 4 2 3 false true false).all fun v => vecReady (wmode [(0, 3)]) v.us v.typ v.f) = true ∧
    ((rawForms base 127 2 3 63 false true false).all fun v => vecReady base v.us v.typ v.f) = true ∧
    ((shiftForms (wmode [(0, 9)]) 4 2 3 false true false).all fun v => vecReady (wmode [(0, 9)]) v.us v.typ v.f) = true ∧
    activeMask base.dr ≠ 0 ∧ activeMask (wdr fun d => { d with pres := 0 }).dr = 0 := by decide +kernel

theorem test_vadd_saturates : (let s := wmode [(0, 7), (7, 1)]
    let t := nxt (exec (.vadd 4 2 3 false false false) (onDr s fun d => setVm (setVm d 2 (-1) fun _ => 0x7F80FF01) 3 (-1) fun _ => 0x01FF0101))
    (vlane t.dr 4 63 == 0x7F800002) && t.dr.satd) = true := by decide +kernel

theorem witness_FloatResult : ((fpForms base 4 2 3 false true false).all fun v => vecReady base v.us v.typ v.f) = true ∧
    (([((3 : BitVec 6), (5 : BitVec 6), 0), (1, 0, 1), (3, 0, 2), (0, 3, 3), (1, 1, 4), (5, 3, 5)] : List (BitVec 6 × BitVec 6 × Nat)).all fun p =>
      let s := wmode [(0, p.1), (1, p.2.1)]
      (((convertForms s 4 2 6 false true false)[p.2.2]?).any fun v => vecReady s v.us v.typ v.f)) = true := by decide +kernel

/-- 06 R139: 1.5 + 2.25 in f32, and an inexact sum. -/
theorem test_fadd : (let t := nxt (exec (.fadd 4 2 3 false false false) (wdr fun d => setVm (setVm d 2 (-1) fun _ => 0x3FC00000) 3 (-1) fun _ => 0x40100000))
    (vlane t.dr 4 0 == 0x40700000) && t.dr.flags == 0) = true := by decide +kernel

theorem witness_QuadResult : ((quadForms base 4 2 3 false true).all fun v => vecReady base v.us v.typ v.f) = true := by decide +kernel

theorem witness_ExpansionResult : ((expansionForms (wmode [(5, 1)]) 4 8 12 false true false).all fun v =>
      vecReady (wmode [(5, 1)]) v.us v.typ v.f) = true ∧
    ((eftForms base 4 8 12 false true false).all fun v => vecReady base v.us v.typ v.f) = true ∧
    (([(0, 0), (1, 0), (2, 0), (3, 0)] : List (BitVec 2 × BitVec 6)).any fun p =>
      let v := xcvtForm (wmode [(1, p.2), (5, 1)]) 4 8 p.1 false true
      vecReady (wmode [(1, p.2), (5, 1)]) v.us v.typ v.f) = true := by decide +kernel

/-- 07 R155: 1 + 2^-30 leaves 1 and the error 2^-30. -/
theorem test_twosum : (let t := nxt (exec (.twosum 4 2 3 false false false) (wdr fun d => setVm (setVm d 2 (-1) fun _ => 0x3F800000) 3 (-1) fun _ => 0x30800000))
    (vlane t.dr 4 9 == 0x3F800000) && (vlane t.dr 5 9 == 0x30800000)) = true := by decide +kernel

theorem witness_CompareResult : ((intCompares (wmode [(0, 3)]) 4 2 63 false true).all fun v => cmpReady (wmode [(0, 3)]) v.us v.typ v.f) = true ∧
    ((fpCompares base 4 2 63 false true).all fun v => cmpReady base v.us v.typ v.f) = true ∧
    ((expCompares base 4 2 63 false true).all fun v => cmpReady base v.us v.typ v.f) = true := by decide +kernel

def fexNaN : State := onDr (wmode [(9, 1)]) fun d => setVm d 2 (-1) fun _ => 0x7F800001

theorem witness_InvalidOperationStops : ((fpForms fexNaN 4 2 3 false false false)[0]?).any (·.invalid fexNaN) = true := by decide +kernel

theorem witness_InvalidOperationStops_compare : (allCompares fexNaN 2 3 5 false false).any (·.invalid fexNaN) = true := by decide +kernel

theorem witness_InvalidOperationStops_lane :
    (laneForms fexNaN 4 2 3 5 0 false false false).any (fun v => v.ready fexNaN && v.invalid fexNaN) = true := by decide +kernel

theorem witness_LaneResult : ((laneForms (wmode [(0, 3)]) 4 2 3 63 0 false true false).all fun v =>
      v.ready (wmode [(0, 3)]) && !v.invalid (wmode [(0, 3)])) = true ∧
    (((laneForms base 4 2 3 63 8 false true false)[7]?).any fun v => v.ready base && !v.invalid base) = true := by decide +kernel

theorem test_compress : (let t := nxt (exec (.lcompress 4 2 false false) (wdr fun d => setS (setVm d 2 (-1) fun l => BitVec.ofNat 32 (100 + l)) (modeD d.mode) 0xA))
    (vlane t.dr 4 0 == 101) && (vlane t.dr 4 1 == 103)) = true := by decide +kernel

theorem witness_RandomResult : fits base [dstV 4] = true ∧ masksFull base = true ∧ (isF (etOf base) || isI (etOf base) || etOf base == 9) = true := by
  decide
/-- A quad of lanes at work, S[1] as given. -/
def quad (x : W64) (fs : List (Nat × BitVec 6)) : State :=
  wdr fun d => setS { d with pres := 0xF, slim := 0x40, pbase := 0x100000, losplit := 0x1000, mode := fs.foldl (fun m p => modeWith m p.1 p.2) d.mode } 1 x
def mem : State := quad 0x100000 []

theorem witness_LoadIssue : (((loadForms mem 4 1 2 2 true false).take 4).all (·.loads mem 1 2)) = true ∧
    ((loadForms (quad 0 []) 126 1 2 3 false true).all (·.loads (quad 0 []) 1 2)) = true ∧
    activeMask mem.dr ≠ 0 ∧ activeMask (wdr fun d => { d with pres := 0 }).dr = 0 := by decide +kernel

theorem witness_StoreIssue : (((storeForms mem 4 1 2 2 false).take 6).all fun p => p.1.stores mem p.2 1 2) = true ∧
    ((storeForms (quad 0 []) 126 1 2 3 true).all fun p => p.1.stores (quad 0 []) p.2 1 2) = true := by decide +kernel

theorem witness_ScalarMemoryIssue : plainFault (sreg mem.dr 1 + (0x3FF#10).signExtend 64 * 8).toNat 8 = none ∧ acqPending mem = false ∧
    fits mem [srcS 1, dstS 63] = true ∧ fits mem [srcS 1, srcS 63] = true ∧ sbcnt mem mem.dr.uid < 16 ∧ syncStore mem .o 0x100000 = false := by
  decide +kernel

theorem witness_MaintenanceIssue : acqPending mem = false ∧ fits mem [srcS 1, srcV 2] = true ∧ masksFull mem = true ∧
    ((activeLanes mem.dr).all fun l => (plainFault (mAddr mem 1 2 2 false l) 4).isNone) = true ∧
    (activeLanes (wdr fun d => { d with pres := 0 }).dr = []) ∧
    fits mem [srcS 1, srcS 5] = true ∧ fits mem [srcS 0, srcS 0] = true ∧ sbcnt mem mem.dr.uid < 16 ∧ loadsOut mem = false ∧
    sbcnt mem mem.dr.uid = 0 := by decide +kernel

theorem witness_AtomicIssue : (((atomForms (quad 0x100000 [(0, 3)]) 4 1 2 0).take 6).all fun v => v.ready (quad 0x100000 [(0, 3)]) 4 1 2) = true ∧
    (((atomForms (quad 0x100000 [(0, 3)]) 4 1 2 7).take 4).all fun v => v.ready (quad 0x100000 [(0, 3)]) 4 1 2) = true ∧
    (((atomForms mem 4 1 2 0)[6]?).any fun v => v.ready mem 4 1 2) = true ∧
    (let s := quad 0x100000 [(0, 3)]
     fits s [srcS 1, srcS 2, { cls := .scl, base := 4, n := 2, align := 2 }] && aopTypes 7 (modeET s.dr.mode) && mayGo s && !acqPending s &&
       (atomFault s.dr (sreg s.dr 1 + sreg s.dr 2).toNat).isNone) = true := by decide +kernel

/-- A load on its way: issued, and translated at its die. -/
def ld1 : State := nxt (execLdO 4 1 2 2 false false mem)
def ld2 : State := nxt (execOwningDieAccess 4 0 ld1)
def st1 : State := nxt (execStO 4 1 2 2 false mem)
def st2 : State := nxt (execOwningDieAccess 4 0 st1)
def at1 : State := nxt (execAtomRlx 4 1 2 0 (quad 0x100000 [(0, 3)]))
def at2 : State := nxt (execOwningDieAccess 4 0 (nxt (execAtomicProbeResult 4 at1)))
def now (s : State) (f : Req → Acc → Bool) : Bool := (accOf s 4 0).any fun x => homeNow s x.1 0 x.2 && f x.1 x.2
def entry (s : State) (f : DirEntry → DirEntry) : State := setDir s (f (dirOf s 0x100000))
def owned : State := entry ld2 fun e => { e with st := .w, owner := 0, wmask := BitVec.allOnes 32 }
def aged : State := onReq ld2 4 fun q => { q with accs := modNth (fun a => { a with aged := some 0 }) q.accs 0 }
def meeting : State :=
  nxt (execOwningDieAccess 4 0 (nxt (execAtomicProbeResult 4 (nxt (execBarw 1 5 (wdr fun d => setS (setS d 1 0x100000) 5 1))))))
def missing : State := quad 0x40000000000 []
def lost (s : State) : State := nxt (execOwningDieAccess 4 0 s)
def hitting : State := nxt (execHomeOLoadMiss 4 0 ld2)
def spad (f : State → Out) : State := nxt (f (quad 0 [(0, 3)]))
def far (x : W64) (f : State → Out) : State := nxt (f (quad x []))
def splitHigh : State := { mem with coh := { mem.coh with tlb := [{ bootTlb with attr := bootTlb.attr ||| 0x40 }] } }
def low : State := nxt (execHomeAtomic 4 0 (nxt (execOwningDieAccess 4 0 (nxt (execAtomicProbeResult 4 (nxt (execCatom 4 1 2 splitHigh)))))))
def packed : State := { base with coh := { base.coh with tlb := [{ bootTlb with attr := bootTlb.attr ||| 2 }] } }

def bound (f : State → Out) : State :=
  nxt (f { homeWrite (onCtx (quad (BitVec.ofNat 64 (2 ^ 62 + 5 * 2 ^ 52)) []) 0 fun c => { c with peert := 0x300000 }) 0x300028 8 (2 ^ 63 + 1)
           with dev := { base.dev with ports := 1 } })
def lostTld : State := lost (nxt (execTld 4 2 (wdr fun d => setS (setS d 2 0x40000000000) 3 0x200)))
def acc (s : State) (f : Req → Acc → Bool) : Bool := (accOf s 4 0).any fun x => f x.1 x.2

/-- A load of each policy, a store, an atomic, the owner of a masked word, a refused access and a wide barrier, each at its home. -/
theorem witness_HomeServes : (now ld2 (fun q a => loadEvent ld2 .oLoad q a (wantOf q a)) &&
    ([(execLdW 4 1 2 2 false false, Want.wLoad), (execLdS 4 1 2 2 false false, .sLoad), (execLdI 4 1 2 2 false false, .iLoad),
      (execStO 4 1 2 2 false, .own)].all fun p =>
      let s := nxt (execOwningDieAccess 4 0 (nxt (p.1 mem)))
      now s fun q a => loadEvent s p.2 q a (wantOf q a)) &&
    (let s := nxt (execOwningDieAccess 4 0 (nxt (execStW 4 1 2 2 false mem)))
     now s fun q a => (match wantOf q a with | .write _ _ => true | _ => false) && !ownsMasked s q a) &&
    now at2 (fun q _ => atomicKind q.kind) && now owned (fun q a => !atomicKind q.kind && ownsMasked owned q a) &&
    now aged (fun _ a => a.aged.isSome && !accQueued aged 4 0) && now meeting (fun _ _ => (meetOf meeting.fl).req == some 4)) = true := by
  decide +kernel

theorem witness_HomeValues : (now ld2 (fun q _ => readKind q.kind) &&
    (let s := nxt (execOwningDieAccess 4 0 (nxt (execStW 4 1 2 2 false mem)))
     now s fun q a => writes q.kind && !atomicKind q.kind && (match wantOf q a with | .write _ _ => true | _ => false) &&
       !hasOwner (dirOf s (granOf a.dpa)) && (sfWay (sfPeers s (granOf a.dpa))).isSome) && now at2 fun q _ => q.kind == .atom 0 false) = true := by decide +kernel

theorem witness_AccessServes_die : ((accOf hitting 4 1).any (fun x => dieReady hitting x.1 1 x.2 && readKind x.1.kind && (hitLine hitting x.1 x.2).isSome) &&
    acc ld1 (fun q a => dieReady ld1 q 0 a && (hitLine ld1 q a).isNone &&
      (match dieAccess ld1 q.ctx (localOf ld1 a.va) .read true with | (.inl l, _) => leafEf l.attr == 0 | _ => false)) &&
    (let s := nxt (execLdO 4 1 2 2 false false missing)
     acc s fun q a => dieReady s q 0 a && (hitLine s q a).isNone &&
       (match dieAccess s q.ctx (localOf s a.va) .read true with | (.inr c, _) => c != 0x12 | _ => false)) &&
    acc st1 (fun q a => dieReady st1 q 0 a && writes q.kind &&
      (match dieAccess st1 q.ctx (localOf st1 a.va) .write true with | (.inl _, t) => !bxRefused t q | _ => false)) &&
    (let s := nxt (execStO 4 1 2 2 false missing)
     acc s fun q a => dieReady s q 0 a && writes q.kind &&
       (match dieAccess s q.ctx (localOf s a.va) .write true with | (.inr c, _) => c != 0x12 | _ => false))) = true := by decide +kernel

/-- The module with the placed page's leaf in block format `f`, and the same with an address error, or an unhoused page, there. -/
def bx (f : W64) (s : State) : State := { s with coh := { s.coh with tlb := [{ bootTlb with attr := bootTlb.attr ||| (f <<< 12) }] } }
def broken (s : State) : State := { s with dev := { s.dev with aet := [(0x100000, BitVec.allOnes 32)] } }
def unhoused (s : State) : State := { s with vc := { s.vc with unhoused := [(0, 0x100000, 4096)] } }

theorem witness_AccessServes_error : ((accOf hitting 4 1).any (fun x => (hitLine hitting x.1 x.2).any fun l =>
      !aetMeets hitting (l.dpa + x.2.va % 128) x.2.size && aetMeets (broken hitting) (l.dpa + x.2.va % 128) x.2.size) &&
    ([(execLdO 4 1 2 3 false false, false), (execStO 4 1 2 3 false, true)].all fun p =>
      let s := bx 1 (nxt (p.1 mem))
      acc s (fun q a => dieReady s q 0 a && writes q.kind == p.2 && (match dieAccess s q.ctx (localOf s a.va) (if p.2 then .write else .read) true with
        | (.inl _, t) => bxBreaks t q a
        | _ => false)) &&
      acc (unhoused s) fun q a => dieReady (unhoused s) q 0 a && (hitLine (unhoused s) q a).isNone &&
        (match dieAccess (unhoused s) q.ctx (localOf s a.va) (if p.2 then .write else .read) true with
        | (.inr c, t) => c == 0x16 && bxBreaks t q a
        | _ => false)) &&
    (let s := broken (nxt (execLdO 4 1 2 2 false false mem))
     acc s fun q a => dieReady s q 0 a && (match dieAccess s q.ctx (localOf s a.va) .read true with
        | (.inr c, t) => c == 0x17 && !bxBreaks t q a
        | _ => false)) &&
    (let s := { mem with coh := packed.coh }
     let u := nxt (execLdO 4 1 2 2 false false s)
     acc u fun q a => dieReady u q 0 a && (match dieAccess u q.ctx (localOf u a.va) .read true with
        | (.inr c, _) => c == 0x12
        | _ => false))) = true := by decide +kernel

theorem witness_AccessServes_away : (([(spad (execLdsp 4 1 2 2 false false), true, false), (spad (execStsp 4 1 2 2 false), false, false),
      (nxt (execAtomRlx 4 1 2 0 (quad (BitVec.ofNat 64 apertureBase) [(0, 3)])), false, true)] : List (State × Bool × Bool)).all (fun p =>
        acc p.1 fun q a => !q.probing && spadAcc q.kind a && (a.st == .new || a.st == .sent) && !heldBack p.1 q 0 a && readKind q.kind == p.2.1 &&
          atomicKind q.kind == p.2.2) &&
    ([bound (execLdW 4 1 2 2 false false), bound (execStW 4 1 2 2 false)].all fun s => acc s fun q a => !q.probing && isPeer s a.va && a.st == .new &&
      !heldBack s q 0 a && (peerLocal s q.ctx (bits a.va 61 52)).isNone) &&
    (let s := far (BitVec.ofNat 64 (2 ^ 62 + 5 * 2 ^ 52)) (execLdW 4 1 2 2 false false)
     acc s fun q a => !q.probing && isPeer s a.va && !heldBack s q 0 a && (peerLocal s q.ctx (bits a.va 61 52)).isSome) &&
    ([(far (BitVec.ofNat 64 (2 ^ 63)) (execLdW 4 1 2 2 false false), 0), (far (BitVec.ofNat 64 (2 ^ 63 + 0x3FFFFFFFFFFFFEF8)) (execStW 4 1 2 2 false), 1),
      (far (BitVec.ofNat 64 (2 ^ 63 + 0x3FFFFFFFFFFFFF00)) (execStW 4 1 2 2 false), 2)] : List (State × Nat)).all fun p => acc p.1 fun q a =>
        !q.probing && routeOf a.va == 2 && a.st == .new && !spadAcc q.kind a && !heldBack p.1 q 0 a &&
          (if p.2 = 0 then readKind q.kind else !readKind q.kind && decide (a.va % 2 ^ 62 < 0x3FFFFFFFFFFFFF00) == (p.2 == 1))) = true := by decide +kernel

theorem witness_AccessServes_parks : ((([(lost (nxt (execLdO 4 1 2 2 false false missing)), 1), (lost (nxt (execStO 4 1 2 2 false missing)), 2),
      (lostTld, 3)] : List (State × Nat)).all fun p => (reqOf p.1 4).any fun q => (faultedAcc q).isSome && (droveOf p.1 q.drove).isSome && !hasPark p.1 4 &&
        p.1.sch.parks.isEmpty && (match q.kind with | .tld _ _ => p.2 == 3 | .store _ => p.2 == 2 | _ => p.2 == 1 && isLoad q))) = true := by decide +kernel

theorem witness_AccessServes_later : ((reqOf at1 4).any (fun q => q.probing && !probeWaits at1 q && (droveOf at1 q.drove).isSome &&
      (probeAll at1 q q.accs).1.isLeft) &&
    (reqOf low 4).any (fun q => (lowOf q 0).any fun u => !lowBehind low u && decide (u.dpa < 2 ^ 62) && !inAet low u.dpa &&
      homeFree low (granOf u.dpa) (lowParty low q 0) .rmw) &&
    (let s := onReq low 4 fun q => { q with lows := q.lows.map fun u => { u with dpa := 2 ^ 62 + 64 } }
     (reqOf s 4).any fun q => (lowOf q 0).any fun u => !lowBehind s u && decide (2 ^ 62 ≤ u.dpa)) &&
    (let s := onDr lostTld fun d => { d with cond := .exited }
     (reqOf s 4).any fun q => (faultedAcc q).isSome && (droveOf s q.drove).any (fun d => d.cond == .exited) && !hasPark s 4 && s.sch.parks.isEmpty) &&
    (match translate packed 0 0x100000 with
     | (.leaf l, t) => leafC l.attr && (expandAt t (bits 0x100000 61 60) l.entry).1 == some 0x10
     | _ => false)) = true := by decide +kernel
def done (s : State) (bs : Nat) : State := onReq s 4 fun q => { q with probing := false, accs := q.accs.map fun a => { a with st := .done, r := bs } }
def stale (s : State) : State := onDr s fun d => { d with gen := d.gen + 1 }
def slow : State := nxt (execSysrd 9 0x12 base)
def crook : State := done (nxt (execRtake 4 1 false false mem)) 5
/-- The granule of `hitting` in T with messages out, its copy in the L1 of core 0 owned and dirty. -/
def holder (own : Bool) : State :=
  { hitting with coh := { hitting.coh with l1 := hitting.coh.l1.map fun l => { l with owned := own, reg := !own, dirty := if own then 0xFF else 0 } } }
def inT (s : State) (ms : List Msg) (f : DirEntry → DirEntry) : State := entry s fun e => f { e with st := .t, msgs := ms, owner := 0, next := .i }
def rs : State := inT (holder true) [.recallShared] fun e => { e with next := .o }
def rc : State := inT (holder true) [.recall] fun e => { e with next := .o }
def cl : State := inT (holder true) [.claim 0xF] fun e => { e with next := .o }
def iv : State := inT (holder false) [.invalidate 0] fun e => { e with next := .s, sharers := 1 }
def ih : State := inT base [.invalidate 64] fun e => { e with next := .s, host := true }
def up : State := inT base [.update 0] fun e => { e with next := .s }
def te (n : DirSt) : State := inT base [] fun e => { e with next := n, sharers := 3 }
/-- A request has caused T, or waits in the queue of an entry that is not in T. -/
def asked (st : DirSt) : State := inT base [] fun e => { e with st := st, next := .s, sharers := 3, cause := some (.acc 4 0), queue := [.acc 5 0] }
def ow : State := entry (holder true) fun e => { e with st := .o, owner := 0 }
def vw : State := nxt (execVwb 1 5 (onDr ow fun d => setS d 5 0x80))
def replica : State :=
  { base with vc := { base.vc with
      cdrs := base.vc.cdrs.map fun c => { c with place := true }
      lines := [{ vc := 0, old := false, die := 1, set := 0, way := 0, ctx := 0, va := 0x100000, dpa := 0x100000, valid := 1, dirty := 0, age := false, pin := false }] } }
def ticking : State := { hitting with cycle := 0x100000 }
def sleepy (missed : Bool) : State :=
  { hitting with coh := { hitting.coh with cores := hitting.coh.cores.map fun c => { c with asleep := true, missed := missed } } }
def hostOwned : State := nxt (execHrdx 0x100000 [1, 2] 3 base)

theorem witness_ReturnsFillRegisters : ((reqOf (done ld1 7) 4).any (fun q => isLoad q && allDone q && !q.probing &&
      (droveOf (done ld1 7) q.drove).any (fun d => d.gen == q.gen) && q.kind == .load .o false && q.size == 4 && !q.dst2 && decide (q.dst < 128) &&
      q.accs.all fun a => leafEf a.attr == 0 && (q.accs.find? fun y => y.lane == a.lane) == some a && a.size == 4 && decide (a.lane < 64))) = true := by
  decide +kernel

theorem witness_ReturnsFillRegisters_stores : ((reqOf (stale ld1) 4).any (fun q => isLoad q && (droveOf (stale ld1) q.drove).any fun d => d.gen != q.gen) &&
    (let s := done (nxt (execLdsO 4 1 0 2 mem)) 9
     (reqOf s 4).any fun q => q.kind == .lds .o && q.accs.length == 1 && !isFull s .scl q.dst) &&
    (reqOf (done st1 0) 4).any (fun q => storeKind q.kind && !q.probing && entryDone (done st1 0) q)) = true := by
  decide +kernel

theorem witness_ReturnsFillRegisters_atomics : ((reqOf (done at2 9) 4).any (fun q => q.kind == .atom 0 false && !q.probing && allDone q && (q.accs.find? fun a => !a.helper).isSome) &&
    (reqOf crook 4).any (fun q => q.kind == .rtake && !q.probing && allDone q && (q.accs.find? fun a => !a.helper).isSome) &&
    (let s := done (nxt (execSatom 4 1 2 0 (quad 0x100000 [(0, 3)]))) 9
     (reqOf s 4).any fun q => q.kind == .satom 0 && !q.probing && allDone q && (q.accs.find? fun a => !a.helper).isSome)) = true := by
  decide +kernel

theorem witness_ReturnsFillRegisters_slow : ((reqOf slow 4).any (fun q => q.kind == .sysrd 0x12 && (droveOf slow q.drove).any fun d => d.gen == q.gen) &&
    (reqOf (stale slow) 4).any fun q => (droveOf (stale slow) q.drove).any fun d => d.gen != q.gen) = true := by decide +kernel

/-- 09 R183: the returned word stands in its lane. -/
theorem test_load_returns : (vlane (nxt (exec (.loadReturn 4) (done ld1 7))).dr 4 3 == 7) = true := by decide +kernel

theorem witness_MessagesAnswered : ([rs, rc, cl, iv, ih, up, te .i, te .s].all (fun s => (dirOf s 0x100000).st == .t) &&
    (dirOf rs 0x100000).msgs.contains .recallShared && (dirOf rc 0x100000).msgs.contains .recall && (dirOf cl 0x100000).msgs == [.claim 0xF] &&
    [rs, rc, cl].all (fun s => !(dirOf s 0x100000).hown && (ownedLine s (dirOf s 0x100000).owner 0x100000).isSome) &&
    !ownAtomic rc (dirOf rc 0x100000) && (dirOf iv 0x100000).msgs.contains (.invalidate 0) && (dirOf ih 0x100000).msgs.contains (.invalidate 64) &&
    (dirOf up 0x100000).msgs.contains (.update 0) && [te .i, te .s].all (fun s => (dirOf s 0x100000).msgs.isEmpty && (dirOf s 0x100000).queue.isEmpty) &&
    (dirOf (te .i) 0x100000).cause.isNone && (dirOf (asked .t) 0x100000).cause.isSome && (dirOf (asked .t) 0x100000).msgs.isEmpty &&
    (dirOf (asked .t) 0x100000).st == .t && (dirOf (asked .s) 0x100000).st != .t && !(dirOf (asked .s) 0x100000).queue.isEmpty) = true := by decide +kernel

theorem witness_CopiesLeave : ((ownedLine ow 0 0x100000).isSome && hasOwner (dirOf ow 0x100000) && 0x100000 % 128 == 0 &&
    (vw.coh.l1.find? (fun l => l.core == 0 && l.dpa == 0x100000 && l.dirty != 0 && vw.reqs.any (vwbCovers vw l))).any
      (fun l => l.owned && hasOwner (dirOf vw 0x100000)) &&
    (replica.vc.lines.find? fun l => l.die == 1 && !l.pin && (lineGranules l).contains 0x100000 &&
      ((cdrOf replica l.vc).map (·.place)) == some true).isSome &&
    (let s := entry base fun e => { e with st := .s, host := true }
     (dirOf s 0x100000).host && (dirOf s 0x100000).st != .t) &&
    decide (max 4096 (bits (privReg ticking 0xA5).toNat 31 0) ≤ ticking.cycle - (coreOf ticking 63).ticked) && decide (63 < ticking.coh.cores.length) &&
    !(coreOf ticking 63).asleep && (coreOf (sleepy true) 63).asleep && (coreOf (sleepy true) 63).missed && !(coreOf (sleepy false) 63).missed &&
    !coreBusy base 63 && !(coreOf base 63).asleep && decide (63 < base.coh.cores.length)) = true := by decide +kernel

theorem witness_HostRequests : ((0x7FFFFFFFFF < 2 ^ 39) && (base.coh.dir.all fun e => e.g != granOf 0x7FFFFFFFFF) &&
    (sfWay (sfPeers base (granOf 0x7FFFFFFFFF))).isSome && hasOwner (dirOf hostOwned 0x100000) && (dirOf hostOwned 0x100000).hown) = true := by
  decide +kernel
def pass1 : State := nxt (execMma 2 false 16 false 32 false base)
def slabs : State := wdr fun d => [(8, 0), (9, 0x1000000200), (10, 0), (11, 0x1000000200)].foldl (fun (d : Drove) (p : Nat × W64) => setS d p.1 p.2) d
def granted : State := nxt (execMatrixGrant 0 4 pass1)
def switching : State := { base with eng := { base.eng with mxpend := 1, mxreq := 1 } }
def tiling : State := nxt (execTmov 2 3 1 base)
def ilist : State := wdr fun d => [(8, 0), (9, 1), (10, 0), (11, 0)].foldl (fun (d : Drove) (p : Nat × W64) => setS d p.1 p.2) d
def two : State := { base with fl := { base.fl with droves := 2 }, droves := [{ base.dr with uid := 9, idx := 1 }] }
def second : State := select (nxt (execBar 3 two)) 9
def passed : State := { base with fl := { base.fl with bars := [(3, { arrived := [], contrib := [], released := [(0, 5, true)], left := [] })] } }
def wide (f : WideMeet → WideMeet) : State := onMeet { two with dr := setS (setS base.dr 1 0x100000) 5 2 } f
def chuted (f : Chute → Chute) : State :=
  { mem with fl := { mem.fl with chutes := List.replicate 8 (f { cap := 4, count := 0, head := 0, producers := [], everHad := false, closed := false, pops := [] }) } }
def scratch (a b : W64) : State := wdr fun d => setS (setS d 1 a) 2 b
def deciding : State := nxt (execAbarr 6 1 (scratch 0xFFF0 3))
def initing : State := nxt (execAbinit 1 2 (scratch 0xFFF0 3))
def popping : State := nxt (execQpop 4 7 (chuted fun c => { c with count := 4 }))
def pushing : State :=
  let s := nxt (execQpush 4 7 (chuted fun c => { c with count := 1 }))
  { s with fl := { s.fl with chutes := s.fl.chutes.map fun c => { c with count := 0 } } }
def logging : State := wdr fun d => { d with csumPc := some 0x100000, tctl := 0x100001 }
def turning : State := wdr fun d => { d with det := true, cond := .waiting .turn, passive := true, wakeAt := some 5 }

theorem witness_PassIssue : (matrixReady base [opdUse false 16, opdUse false 112, useT 15 true 1 1] &&
    matrixReady base [opdUse false 16, opdUse false 112, useT 14 true 2 2] && base.dr.width == 64 &&
    passVerdict base (opdAt base.dr 0 false 16) (opdAt base.dr 0 false 112) == .go && !spadOut base && !tableFull base (padOf base.dr.core) &&
    matrixReady slabs [opdUse true 8, opdUse true 10, useT 0 true 1 1] && passVerdict slabs (opdAt slabs.dr 0 true 8) (opdAt slabs.dr 0 true 10) == .go &&
    (let s := wmode [(0, 13)]
     matrixReady s [opdUse false 16, opdUse false 32, useT 0 true 1 1] && passVerdict s (opdAt s.dr 13 false 16) (opdAt s.dr 13 false 32) == .go)) = true := by
  decide +kernel

theorem witness_TileIssue :
    (let pair (n : Nat) : Use := { cls := .scl, base := n, n := 2, align := 2 }
     let t := wdr fun d => setS (setS d 2 0x100000) 3 0x200
     decide (15 < base.dr.ntiles) && matrixReady base (destTiles base 15 1) && matrixReady base ([useT 4] ++ destTiles base 15 1) &&
       matrixReady base ([useT 4 false 2 2] ++ destTiles base 15 1) && matrixReady base ([useT 4 false 2 2] ++ destTiles base 14 2) &&
       matrixReady t ([pair 2] ++ destTiles t 2 1) && !acqPending t && rowVerdict 2 t == .go && matrixReady t [pair 2, useT 15] && sbcnt t t.dr.uid == 0 &&
       !t.dr.det && matrixReady base [srcS 5, useT 15, dstV 127] && matrixReady base [srcS 5, useT 15 true, srcV 127] &&
       matrixReady ilist [pair 8, pair 10] && inGrant ilist.dr 0 1024 && corrOk (corrList ilist 0 0) && decide (ilist.fl.fifoA.length < 4)) = true := by
  decide +kernel

theorem witness_MatrixEngine : (((waitingPasses pass1 0).find? fun p => p.id == 4).isSome && decide ((runningPasses pass1 0).length < 1) &&
    (let s := { pass1 with eng := { pass1.eng with passes := pass1.eng.passes.map fun (p : Pass) => { p with posted := false } } }
     ((waitingPasses s 0).find? fun p => p.id == 4).isNone && (nextPosted s 0).any (fun p => p.id == 4) && !tableFull s 0) &&
    switching.eng.mxpend.getLsbD 0 && !detOnPad switching 0 && tableEmpty switching 0 && ((runningPasses granted 0).all fun p => p.seen.isEmpty) &&
    ((List.range 4).all fun o => (tiling.eng.tileOps.map fun (x : TileOp) => { x with op := o, sub := 0 }).any fun x => x.op == o) &&
    ((runningPasses granted 0).find? fun p => p.id == 4).any (fun p => let m := passView (p.open granted.mem.spad) granted.fresh granted.mem.spad 0
      p.opdA.escapes m (spadBase 0) + p.opdB.escapes m (spadBase 0) == 0) &&
    (tiling.eng.tileOps.find? fun x => x.id == 4).isSome) = true := by decide +kernel

theorem witness_BarrierIssue : ((releasedAt passed 3).any (fun x => x.2.2) && fits passed [srcS 5, dstS 6] &&
    (releasedAt two 3).isNone && !(barrierOf two.fl 3).arrived.contains 0 && releasePoint two == .go && members two.fl == [0, 1] &&
    (releasedAt second 3).isNone && (barrierOf second.fl 3).arrived == [0] && second.dr.idx == 1 && (barrierOf second.fl 3).released.isEmpty &&
    (let s := wide fun m => { m with done := [0] }
     fits s [srcS 1, srcS 5] && ((meetOf s.fl).members.all fun x => x.1 != s.dr.idx) && !(meetOf s.fl).left.contains s.dr.idx && (meetOf s.fl).done.contains s.dr.idx && !(meetOf s.fl).leave.contains s.dr.idx) &&
    (let s := wide fun m => { m with leave := [0] }
     fits s [srcS 1, srcS 5] && !(meetOf s.fl).left.contains s.dr.idx && (meetOf s.fl).leave.contains s.dr.idx) &&
    (let s := wide id
     !(meetOf s.fl).left.contains 0 && ((meetOf s.fl).members.all fun x => x.1 != 0 && x.1 != 1) && (members s.fl).contains 1 && !(meetOf s.fl).leave.contains 0 && !(meetOf s.fl).done.contains 0 && mayGo s && (meetOf s.fl).fail.isNone && releasePoint s == .go &&
       (sreg s.dr 5).toNat % 2 ^ 32 != 0 && (plainFault (sreg s.dr 1).toNat 8).isNone)) = true := by decide +kernel

theorem witness_SyncIssue : (let s := scratch 0xFFF0 3
    mayGo s && fits s [srcS 1, srcS 2] && objVerdict s.dr 0xFFF0 == .go && objPhase s s.dr.flock 0xFFF0 != 3 % 2 ^ 16 && !s.dr.det &&
      objPhase s s.dr.flock 0xFFF0 == (sreg s.dr 0x3F).toNat && releasePoint s == .go && fits s [srcS 1, dstS 6] && (plainFault 0x100000 64).isNone &&
      fits s [srcS 1, { cls := .scl, base := 62, n := 2, align := 2, dest := true, trap := false }] && !acqPending s) = true ∧
    (let s := chuted id
     let full := chuted fun c => { c with count := 1 }
     decide (7 < s.fl.chutes.length) && masksFull s && fits s [srcV 4] && (activeLanes s.dr).length == (chuteOf s.fl 7).cap && !(chuteOf s.fl 7).closed &&
       chuteRoom (chuteOf s.fl 7) 4 && !chuteRoom (chuteOf full.fl 7) 4 && fits s [dstV 127] && !s.dr.det &&
       fits s [dstV 127, { cls := .scl, base := 62, n := 2, align := 2, dest := true }] &&
       mayGo (onDr s fun d => { d with det := true, turn := true }) && sreg (setS s.dr 5 1) 5 == 1 && sreg s.dr 5 == 0) = true := by
  decide +kernel

theorem witness_SyncServes : ((deciding.eng.arrivals.find? fun x => x.id == 5).any (fun x => arrivalReady deciding x && x.init.isNone &&
      (x.req.bind (reqOf deciding)).isSome) &&
    (let s := { deciding with eng := { deciding.eng with arrivals := deciding.eng.arrivals.map fun (x : Arrival) => { x with req := none } } }
     (s.eng.arrivals.find? fun x => x.id == 5).any fun x => arrivalReady s x && x.req.isNone) &&
    (initing.eng.arrivals.find? fun x => x.id == 5).any (fun x => arrivalReady initing x && x.init.isSome && (x.req.bind (reqOf initing)).isSome) &&
    (flockOf base 2).isSome && base.mem.spad.wf && (drovesOf popping 2).head?.isSome &&
    (chuteOf popping.fl 7).pops.head?.any (fun p => decide (p.lanes.length ≤ (chuteOf popping.fl 7).count)) &&
    (droveOf pushing 3).bind (pushReady pushing) == some (7, 4) && turnReady turning turning.dr && turning.dr.wakeAt.isSome) = true := by decide +kernel

theorem witness_SyncServes_checksum : (logging.dr.csumPc.isSome && logging.dr.csumReq.isNone && checksumReady logging.dr && !isParked logging 3 &&
      logging.dr.cond != .stopped && !mustStop logging logging.dr && (plainFault 0x100000 4).isNone &&
    (let s := onReq (nxt (execBarrierChecksum 3 logging)) 4 fun q => { q with accs := q.accs.map fun (a : Acc) => { a with st := .done, r := 7 } }
     s.dr.csumPc.isSome && s.dr.csumReq == some 4 && csumSeq s s.dr == some 7 && decide (sbcnt s 3 ≤ 11) && !isParked s 3 && !mustStop s s.dr &&
       !syncStore s .o 0x100000)) = true := by decide +kernel

theorem test_abarr_last : (let s := { base with mem := { base.mem with spad := memWrite base.mem.spad (0xFFF0 + 4) 4 1 } }
    let t := (objArrive s 2 0xFFF0 0 0).2
    objPhase t 2 0xFFF0 == 1) = true := by decide +kernel
/-- The context of `base` and context 0 of device 5 are bound to each other. -/
def linkedTo5 (s : State) : State := homeWrite (onCtx s 0 fun c => { c with peert := 0x300000 }) 0x300028 8 (2 ^ 63 + 1)
def regs (xs : List (Nat × W64)) : State := wdr fun d => xs.foldl (fun (d : Drove) (p : Nat × W64) => setS d p.1 p.2) d
def copyRegs (src n : W64) : State := regs [(8, src), (9, 0x110000), (10, n), (11, 0), (12, 0xFFF0)]
def copying (src n : W64) : State := nxt (execCpy 8 12 (copyRegs src n))
def gather (d0 table : W64) : State := linkedTo5 (regs [(8, d0), (9, 4), (10, 0), (11, table), (12, 0xFFF0)])
/-- A flock of one drove in a group of two, as the rank given. -/
def member (rank : W64) : State := nxt (execColl 3 8 12 (gather ((rank <<< 48) ||| (2#64 <<< 32) ||| 7) 0x100000))
def tableAt (va : W64) : State := nxt (execColl 3 8 12 (gather ((2#64 <<< 32) ||| 7) va))
def packet (node level : Nat) (dg : W64) (xs : List W32) : CollPacket :=
  { ctx := 0, srcCtx := 0, level := level, routine := 1, group := 7, seq := 0, node := node, chunk := 0, srcDev := 5, opfld := 0, digest := dg,
    payload := xs, special := [], overflow := false }
def groupDigest : W64 := 8956606464332466446
def taken (s : State) (t : Nat) (p : CollPacket) (f : State → Flock → CollOp → Bool) (rank : Nat) : Bool :=
  packetBound s p && (let u := (unhold s t p).2; (memberAt u p rank).any fun x => f u x.1 x.2)

theorem witness_EngineResult_issue : (let s := copyRegs 0x100000 64
    fits s [{ cls := .scl, base := 8, n := 4, align := 4 }, srcS 12] && mayGo s && copyVerdict 8 12 s == .go) = true ∧
    (let s := gather ((2#64 <<< 32) ||| 7) 0x100000
     !s.dr.shepherd && fits s [{ cls := .scl, base := 8, n := 4, align := 4 }, srcS 12] && masksFull s && activeMask s.dr == s.dr.pres &&
       modeET s.dr.mode == 0 && decide (3 < s.dr.ntiles) && collVerdict 3 8 12 s == .go && !s.dr.det &&
       (joinable s.fl s.dr.idx).isNone) = true := by decide +kernel

theorem witness_EngineResult_copies : (let go (s : State) (f : CopyJob → Option (BitVec 8 × Nat) → Bool) : Bool :=
      (s.eng.copies.find? fun c => c.id == 4).any fun c => copyReady s c && f c (copyRun s c).2.2
    go (copying 0x100000 64) (fun c r => r.isNone && !c.orphan) &&
      go (copying 0x4050000000000000 64) (fun _ r => r.any fun x => x.1 == 0x11) &&
      go (copying 0x40000000000 64) (fun _ r => r.any fun x => x.1 == 0x10)) = true := by decide +kernel

theorem witness_EngineResult_packets : packetBound base (packet 1 0 groupDigest []) = false ∧
    taken (member 0) 0x10 (packet 1 0 groupDigest []) (fun u _ c => c.digest == groupDigest && (c.maxima.all fun x => x.1 != 0 || x.2.1 != 1) &&
      (collMembers u 0 7 0).all fun m => m.2.table.isEmpty || m.2.arg.depth != 0) 0 = true ∧
    taken (member 0) 0x10 (packet 1 0 5 []) (fun _ _ c => c.digest != 5) 0 = true ∧
    (let s := member 1; let p := packet 1 0 groupDigest []
     packetBound s p && (memberAt (unhold s 0x10 p).2 p 0).isNone) = true ∧
    taken (member 0) 0x11 (packet 1 0 groupDigest [1, 2, 3, 4]) (fun _ _ _ => true) 0 = true ∧
    taken (member 1) 0x12 (packet 1 0 groupDigest [1, 2, 3, 4]) (fun _ _ c => c.digest == groupDigest) 1 = true ∧
    taken (member 1) 0x12 (packet 1 0 5 [1, 2, 3, 4]) (fun _ _ c => c.digest != 5) 1 = true := by decide +kernel

/-- The peer's phase 0 and its row have come in. -/
def reducing : State := nxt (execCollDataPacket (packet 1 0 groupDigest [1, 2, 3, 4]) (nxt (execCollPhase0Packet (packet 1 0 groupDigest []) (member 0))))

theorem witness_EngineResult_trees : ((member 0).eng.held.any fun h => h.ptype == 0x13) = false ∧
    (collMembers (linkedTo5 base) 0 7 0).isEmpty = true ∧ packetBound (linkedTo5 base) (packet 1 0 groupDigest []) = true ∧
    (collOf reducing 4).any (fun x => reduceReady x.2 1 0 0 && ((kidsOf x.2 1 0 0).bind (combineNode x.2.arg 1 0 0)).isSome) = true ∧
    (let x := packet 2 0 groupDigest [1]; let y := packet 3 0 groupDigest [1]; let p := packet 1 1 groupDigest [2]
     packetBound reducing p && (switchMember reducing p).isSome && x.routine != 0 && y.node == x.node + 1 && x.node == 2 * p.node && [y, p].all (fun z =>
       z.group == x.group && z.seq == x.seq && z.chunk == x.chunk && z.routine == x.routine && z.digest == x.digest && z.opfld == x.opfld) && y.level == x.level &&
       p.level == x.level + 1) = true := by decide +kernel

/-- The table is at hand, or lies on a page that may not be read. -/
def tableBack (attr : W64) : State :=
  let s := tableAt 0x40000000000
  { s with
    coh := { s.coh with tlb := [{ bootTlb with attr := attr }] }
    fl := { s.fl with colls := s.fl.colls.map fun (c : CollOp) => { c with args := c.args.map fun x => (x.1, { x.2 with d3 := 0x100000 }) } } }

theorem witness_EngineResult_tables : (let at4 (s : State) (r : List Byte ⊕ (BitVec 8 × Nat) → Bool) : Bool := (collOf s 4).any fun x =>
      x.2.started && x.2.table.isEmpty && !x.2.parked && !x.2.bad && r (readTable s x.1.ctx x.2.arg).1 && routeOf (localOf s x.2.arg.d3.toNat) != 1 &&
        (firstStop s x.1.ctx x.2.arg.d3.toNat (8 * x.2.arg.ranks)).isSome == !(r (.inl []))
    at4 (tableAt 0x40000000000) (fun r => r matches .inr (0x10, _)) && at4 (tableBack bootTlb.attr) (·.isLeft) &&
      at4 (tableBack 1) (fun r => r matches .inr (0x11, _))) = true := by decide +kernel
def helped (w : Nat) : State := homeWrite base 0x100004 4 w

theorem witness_SystemResult : (fits base [dstS 5] && privileged base && privAssigned 0x80 && !privileged user &&
      (userWrite base.dr 0x02 5).isSome && (userWrite base.dr 0x01 0xFFFFFFFF00000000).isNone && recordAlign 0x81 != 0) = true ∧
    (fits base [srcS 1, srcS 2] && decide ((sreg base.dr 2).toNat < 2 ^ 16) && !usesOld base base.uid 0 (sreg base.dr 1).toNat (sreg base.dr 2) &&
      base.dr.cond == .ready) = true ∧
    (let s := onCore base 0 fun k => { k with cstore := some 0, slots := [(3, [0x31000000])] }
     slotCode s 3 == [0x31000000] && (slotCode base 3).isEmpty) = true ∧
    (((helpedWord (helped 0x6008081A)).1 == .word 0x6008081A && helpable 0x6008081A) &&
      ((helpedWord (helped 0x31000000)).1 == .word 0x31000000 && !helpable 0x31000000)) = true ∧
    (let s := regs [(5, 0x100000)]
     fits s [srcS 5] && decide ((sreg s.dr 5).toNat % 128 = 0) && releasePoint s == .go && (present s s.dr.ctx 0x100000).1.isSome) = true ∧
    (mayGo two && exitVerdict two == .go && two.fl.colls.isEmpty && (members two.fl).any fun i => i != two.dr.idx) = true ∧
    (let s (d n : Nat) := onDr (linked d 0x100) fun x => { x with links := List.replicate n 0x100, cond := .waiting .link, sbase := 0x110000 }
     let f := s 16 16
     f.dr.uid == 3 && f.dr.cond == .waiting .link && (vaPut f 0 (linkVa f.dr 0) (leBytes 8 0x100) (some 0)).1.isNone &&
       (vaRead (s 4 0) 0 (linkVa (s 4 0).dr 3) 8 (some 0)).1.isLeft) = true := by decide +kernel

/-- An image of one step for slot 3 lies at 0x110000, and the context keeps its control store at 0x120000. -/
def imaged : State := homeWrite (homeWrite (setCsbField (regs [(5, 0x110000)]) 0 0x40 8 0x120000) 0x110000 8 3) 0x110008 8 0x31000000

theorem witness_ControlStoreWrite : (let s := imaged
    fits s [srcS 5] && privileged s && s.dr.cond == .ready && csbField s 0 0x40 8 != 0 &&
      (match vaRead s 0 0x110000 8 with
       | (.inl h, t) => leNat h == 3 && t.dr.ctx == 0 && (match vaRead t 0 0x110008 8 with
         | (.inl b, u) => (stepCause (leNat b)).isNone && (match vaPut u 0 (csbField u 0 0x40 8 + 256 * 3) (b ++ List.replicate 248 0) with
           | (none, v) => u.dr.ctx == 0 && !callRunning (putSlot v 0 3 [BitVec.ofNat 64 (leNat b)]) 0 3 [BitVec.ofNat 64 (leNat b)]
           | _ => false)
         | _ => false)
       | _ => false)) = true := by decide +kernel

/-- A sibling has stopped; its record lies at 0x130000, and HSEL names it. `f` is what the handler has written there. -/
def halted (f : State → State) : State :=
  f (select (stopHere (onDr (select two 9) fun d => { d with frec := 0x130000 }) 0x09 0 0) 3)
def returning' (s : State) (f : Drove → Stop → Nat → Bool) : Bool :=
  privileged s && (stoppedDrove s (privReg s 0xC2)).any fun p =>
    match vaRead s p.1.ctx p.1.frec.toNat 128 with
    | (.inl b, _) => f p.1 p.2 (leNat b)
    | _ => false

theorem witness_ReturnFromStop : (privileged base && (stoppedDrove base (privReg base 0xC2)).isNone) = true := by
  decide +kernel

def sameEntry (s : State) (d : Drove) (r : Nat) : Bool :=
  recField r 6 2 == csbField s d.ctx 4 2 && recField r 0x0C 4 == (privReg s 0xC2).toNat % 2 ^ 32
def haltedAs (n : Nat) : State := halted fun s => homeWrite s 0x130040 1 n

theorem witness_ReturnFromStop_resume : (returning' (halted id) fun d st r =>
    sameEntry (halted id) d r && recField r 0x38 8 % 4 == 0 && recField r 0x40 1 == 0 && !st.again && st.step.isNone) = true := by decide +kernel

theorem witness_ReturnFromStop_action :
    (returning' (halted fun s => homeWrite s 0x130038 8 3) fun _ _ r => recField r 0x38 8 % 4 == 3) = true := by decide +kernel

theorem witness_ReturnFromStop_end : (returning' (halted fun s => homeWrite s 0x130038 8 2) fun d _ r =>
    sameEntry (halted fun s => homeWrite s 0x130038 8 2) d r && recField r 0x38 8 % 4 == 2 && recField r 0x40 1 == 0) = true := by decide +kernel

theorem witness_ReturnFromStop_cgen : (returning' (halted fun s => homeWrite s 0x130006 2 99) fun d _ r =>
    recField r 6 2 != csbField base d.ctx 4 2) = true := by decide +kernel

theorem witness_ReturnFromStop_other :
    (returning' (halted fun s => homeWrite s 0x13000C 4 77) fun _ _ r => recField r 0x0C 4 != 0) = true := by decide +kernel

theorem witness_ReturnFromStop_patch : (returning' (haltedAs 2) fun d _ r =>
    sameEntry (haltedAs 2) d r && patchable (recField r 0x40 1) && recField r 0x40 1 != 0 &&
      (userWrite d (recField r 0x40 1) (BitVec.ofNat 64 (recField r 0x48 8))).isSome) = true := by decide +kernel

theorem witness_ReturnFromStop_noPatch : (returning' (haltedAs 0x50) fun d _ r =>
    sameEntry (haltedAs 0x50) d r && !patchable (recField r 0x40 1) && recField r 0x40 1 != 0) = true := by decide +kernel
/-- The drove waits for its write of 0x110000 to register `n`, with the bytes given there. -/
def asking (n : Nat) (fs : List (Nat × Nat × Nat)) : State :=
  fs.foldl (fun s f => homeWrite s (0x110000 + f.1) f.2.1 f.2.2) (wdr fun d => { d with cond := .waiting (.write n 0x110000) })
def asked' (n len : Nat) (fs : List (Nat × Nat × Nat)) (f : State → Nat → Bool) : Bool :=
  let s := asking n fs
  (droveOf s 3).isSome && pendingWrite s 3 n == some 0x110000 && (deviceDpas s 0 0x110000 .write len).isLeft &&
    match vaRead s 0 0x110000 len with
    | (.inl b, t) => f t (leNat b)
    | _ => false

def mapAsked (op : Nat) (fs : List (Nat × Nat × Nat)) (f : State → MapRec → Option MapDone) : Bool :=
  asked' 0x8C 64 ((8, 1, op) :: fs) fun t r => !expanding t (parseMap r).ctx (parseMap r).va && mapRow (parseMap r).op == op && (f t (parseMap r)).isSome

theorem witness_RecordCommands_map : mapAsked 0 [(0, 8, 0x8000000), (0x10, 8, 1)]
    (fun s m => if m.op = 0 ∧ bitAt m.pte0 0 then mapPage s m else unmapPage s m) = true := by decide +kernel

theorem witness_RecordCommands_unmap : mapAsked 1 [] unmapPage = true := by decide +kernel

theorem witness_RecordCommands_compress : mapAsked 2 [(0, 8, 0x8000000)] compressPage = true := by decide +kernel

theorem witness_RecordCommands_accessed : mapAsked 3 [] clearAccessed = true := by decide +kernel

theorem witness_RecordCommands_query : mapAsked 4 []
    (fun s m => if (pageOf s m.ctx m.va).any fun p => mapCommon m p.size == 0 then queryPage s m else none) = true := by decide +kernel

def vcAsked (op : Nat) (fs : List (Nat × Nat × Nat)) : Bool :=
  asked' 0x90 64 ((0, 1, op) :: fs) fun t r => (parseVc r).op == op && (cdrOf t (parseVc r).vc).any fun k =>
    !vcBad k (parseVc r) && !vcMisplaced (parseVc r) && vcDenied t k (parseVc r) == 0 && decide (k.pinuse ≤ (parseVc r).pinq)
def vcRan (ops : List Nat) : Bool :=
  ops.all fun op => asked' 0x90 64 [(0, 1, op)] fun t r => vcRow (parseVc r).op == op && (vcRun t (parseVc r)).isSome

theorem witness_RecordCommands_vcOps03 : vcRan [0, 1, 2, 3] = true := by decide +kernel

theorem witness_RecordCommands_vcOps47 : vcRan [4, 5, 6, 7] = true := by decide +kernel

theorem witness_RecordCommands_vc4 : vcAsked 4 [(0x30, 8, 0x140000)] = true := by decide +kernel

theorem witness_RecordCommands_vc5 : vcAsked 5 [(8, 8, cfgOf (Cdr.atReset 0))] = true := by decide +kernel

theorem witness_RecordCommands_vc7 : vcAsked 7 [(0x30, 8, 0x140000)] = true := by decide +kernel

theorem witness_RecordCommands_replies : asked' 0xC3 32 [] (fun _ r => recField r 4 1 != 1) = true ∧ asked' 0xC3 32 [(4, 1, 1)] (fun _ r => recField r 4 1 == 1) = true ∧
    asked' 0xC4 32 [(0, 1, 1)] (fun _ r => !ctxMalformed r && recField r 0 1 == 1) = true ∧
    asked' 0xC4 32 [(0, 1, 2), (2, 2, 5)] (fun t r => !ctxMalformed r && recField r 0 1 == 2 && recField r 2 2 == 5 && t.fl.ctx == 0) = true := by decide +kernel

/-- Context 0 is open for op 0, whose flock has been saved. -/
def opened : State := onCtx (asking 0xC4 []) 0 fun c => { c with held := true }

theorem witness_RecordCommands_contexts : ((ctxOf opened 0).any (·.held) && (match vaRead opened 0 0x110000 32 with
      | (.inl b, t) => !ctxMalformed (leNat b) && (match preempt t (leNat b) with
        | some (u, ps, st) => st == 0 && ps.length == 1 && (ctxOf u 0).any fun c => !c.held
        | none => false)
      | _ => false)) = true := by decide +kernel

/-- A launch record for a Shepherd core lies at 0x150000, and op 3 names it. -/
def shepherding : State :=
  [(0, 8, 0x100000), (0x10, 4, 1), (0x14, 4, 1), (0x18, 4, 1), (0x1D, 1, 1), (0x20, 2, 8), (0x22, 1, 16)].foldl
    (fun s (f : Nat × Nat × Nat) => homeWrite s (0x150000 + f.1) f.2.1 f.2.2) (asking 0xC4 [(0, 1, 3), (8, 8, 0x150000)])

theorem witness_RecordCommands_shepherd : ((shepherding.fl.uid == 2) && (match vaRead shepherding 0 0x110000 32, deviceDpas shepherding 0 0x110000 .write 32 with
      | (.inl b, t), .inl ds => !ctxMalformed (leNat b) && recField (leNat b) 0 1 == 3 && (shepherdRecord shepherding (leNat b)).1.isSome &&
        (match shepherdRecord t (leNat b) with
         | (some _, v) =>
           let w := replied (setPriv v 0xC4 0) 3 0xC4 ds [(0x1C, leBytes 4 0)] 0
           (pendingWrite w 3 0xC4).isNone && (droveOf w 3).any fun d => d.cond == .ready
         | _ => false)
      | _, _ => false)) = true := by decide +kernel
/-- The drove waits for its write of `x` to register `n`. -/
def pend (n : Nat) (x : W64) : State := wdr fun d => { d with cond := .waiting (.write n x) }

theorem witness_RegisterWrites : ([(0x81, 8), (0x81, 0x80), (0x8F, 0), (0x84, 0), (0xC5, 0), (0xC1, 4), (0xC1, 0x1000), (0xB1, 0x8000000000001000), (0xB1, 0),
      (0xB5, 1), (0xD3, 1), (0xE8, 0), (0xE0, 2), (0xB4, 5)].all fun p => pendingWrite (pend p.1 p.2) 3 p.1 == some p.2) = true ∧
    (readTcr (pend 0x81 8) 8).isNone = true ∧ (readTcr (pend 0x81 0x80) 0x80).isSome = true ∧ ctxQuiet (pend 0x81 0x80) 0 = true ∧
    windowBytes 0 < (coreOf (onCore (pend 0x8F 0) 0 fun k => { k with winuse := 0x100000 }) 0).winuse ∧
    ((coreOf (pend 0x8F 0) 0).winuse ≤ windowBytes 0 ∧ (pend 0x8F 0).coh.l1 = []) ∧ base.vc.zimages = [] ∧
    (lqEn (queueOf base 0).cfg = true ∧ lqEn 0x8000000000001000 = true ∧ lqEn 0 = false ∧ lqEn (queueOf base 1).cfg = false) ∧
    (2#64).getLsbD 1 = true ∧ ownRow 0xB4 5 = false ∧ (droveOf (pend 0xB4 5) 3).any (fun d => writeOf d == some (0xB4, 5)) = true := by
  decide +kernel

/-- Cache 1 in a state, with what of it has been swept. -/
def caching (st : Nat) (swept : List (Nat × Nat)) : State :=
  { base with vc := { base.vc with cdrs := base.vc.cdrs.map fun (c : Cdr) =>
    if c.id = 1 then { c with state := st, shares := [0], olsz := 0, oways := 1, oshares := [1], swept := swept } else c } }
def sweptAll : List (Nat × Nat) := (List.range 4).map fun d => (d, 2 ^ 30)
def event0 : DevEvent := { ctx := 0, va := 0x3000, vcq := false, typ := 1, f1 := 0, id := 0, pc := 0, pay := 0, stamp := none }

theorem witness_CacheUnits : ([2, 3].all fun st => (cdrOf (caching st ((List.range 4).map fun d => (d, 0))) 1).any fun c =>
      c.state == st && sweepLeft (caching st ((List.range 4).map fun d => (d, 0))) c 0) = true ∧
    ([2, 3].all fun st => (cdrOf (caching st sweptAll) 1).any fun c => c.state == st && sweptOut (caching st sweptAll) c) = true ∧
    (let s : State := { base with vc := { base.vc with retiring := [{ share := 9, vc := 0, token := 5, stage := 1 }] } }
     (s.vc.retiring.find? fun r => r.share == 9).any (fun r => r.stage != 0) && ownerOf s 9 == 0) = true ∧
    (let s := setPriv base 0x92 1
     let e := (mapGet (0 : W64) (countRecord s 9 0 32).dev.record 9).toNat % 2 ^ 32
     decide (1 ≤ e) && (privReg s 0x92).toNat % 65536 == 1 && decide (e < (privReg base 0x92).toNat % 65536)) = true ∧
    (let s : State := { base with sch := { base.sch with events := [event0] } }
     (postable s 0).any fun e => tryPost s e matches .posted _) = true := by decide +kernel

/-- The queue's next entry stands at its head. -/
def queued (a : Nat) : State :=
  onQueue (homeWrite base (homeRead base (lqHdr (queueOf base 0).cfg) 8) 8 a) 0 fun q => { q with tail := 1 }
/-- A range of one flock waits for its place. -/
def waitingRange : State := { base with sch := { base.sch with ranges := [{ placedRange with uid := 8, nextFlock := 0 }] } }
def onRanges (s : State) (f : Range → Range) : State := { s with sch := { s.sch with ranges := s.sch.ranges.map f } }
/-- The context has eight save slots of 4 MiB. -/
def slotted (s : State) : State := setCsbField (setCsbField s 0 6 1 8) 0 0x30 8 0x400000
def parked0 (svc : Nat) : Park :=
  { id := 20, kind := 1, cause := 0x10, ctx := 0, drove := 3, droveId := 0, pc := 0, va := 0x40000000000, req := none, slot := none, svc := svc,
    since := 0, blocks := true, counted := false, slow := false, mask := 1, word := 0, noPort := false }
def parkedAt (svc : Nat) : State := { slotted base with cycle := 200000, sch := { (slotted base).sch with parks := [parked0 svc] } }

theorem witness_SchedulerEvents_queues : (lqEn (queueOf base 0).cfg && (queueOf base 0).tail == 0 &&
      decide (1 ≤ homeRead base (lqHdr (queueOf base 0).cfg + 16) 8 + homeRead base (lqHdr (queueOf base 0).cfg + 8) 4)) = true ∧
    (queueOf (queued 0x100000) 0).tail.toNat = 1 ∧
    (queueEntry (queued 0x100000) 0).any (fun a => decide (a + 8 ≤ 2 ^ 39) && (let w := entryWord (queued 0x100000) a
      w.1 == 0x100000 && (present w.2 (lqCtx (queueOf w.2 0).cfg) w.1).1.isSome)) = true ∧
    (queueEntry (queued 0x100001) 0).any (fun a => decide ((entryWord (queued 0x100001) a).1 % 128 ≠ 0)) = true := by decide +kernel

theorem witness_SchedulerEvents_places : (match entry waitingRange false 8 with
      | some [c] => (rangeOf waitingRange 8).any fun r => (chooseCore waitingRange (r.need none)).2 == some c
      | _ => false) = true ∧
    (let s := onRanges base fun r => { r with finished := 1 }
     (rangeOf s 1).any (fun r => rangeDone s r) && s.eng.held.isEmpty) = true ∧
    (base.dr.uid = 3 ∧ base.dr.cond = .ready ∧ 128 ≤ ({ base with cycle := 4096 } : State).cycle - base.dr.since) := by decide +kernel

theorem witness_SchedulerEvents_flocks : (let s := onCtx { slotted base with cycle := 0x100000 } 0 fun c => { c with budget := 5 }
     (flockOf s 2).any fun f => budgetOver s f && slotFor (countRecord s 0x1A30 0 64) f && !f.swapTried) = true ∧
    (flockOf (parkedAt 1) 2).any (fun f => (slowPark (parkedAt 1) f).isSome && f.swapDue.isNone && slotFor (parkedAt 1) f &&
      !(rangeOf (parkedAt 1) f.range).any (·.det)) = true ∧
    (let s : State := { wdr fun d => { d with cond := .waiting .mask } with cycle := 0x10000000 }
     (flockOf s 2).any fun f => watchdogDue s f) = true ∧
    (let s := onFlock base 2 fun f => { f with swapDue := some 0x30 }
     (flockOf s 2).any fun f => f.swapDue == some 0x30 && saveReady s f) = true := by decide +kernel

/-- The flock has been swapped out, ready to come back. -/
def away : State :=
  let v : Saved :=
    { id := 30, slot := 0, reason := 0x30, flock := base.fl, droves := [base.dr], reqs := [], passes := [], spad := [], ready := true, order := 30 }
  { base with fl := Flock.vacant, dr := Drove.vacant, sch := { base.sch with saved := [v] } }
def awayShepherd : State :=
  { away with sch := { away.sch with saved := away.sch.saved.map fun (v : Saved) => { v with flock := { v.flock with shepherd := true, core := 64 } } } }

theorem witness_SchedulerEvents_returns : (away.sch.saved.any fun v => (away.sch.saved.find? fun x => x.id == v.id).any fun x =>
      !x.flock.shepherd && !(rangeOf away x.flock.range).any (·.det) && (match entry away true v.id with
        | some [_] => true
        | _ => false)) = true ∧
    (awayShepherd.sch.saved.any fun v => v.flock.shepherd && v.ready && coreFree awayShepherd v.flock.core && awayShepherd.dev.ckpt.isNone) = true := by
  decide +kernel

theorem witness_SchedulerEvents_faults : ((parkedAt 1).sch.parks.find? fun p => p.id == 20).any (fun p => p.slot.isNone && p.svc == 1 && p.cause != 0x12 &&
      (match ftFree (parkedAt 1) 0 with
       | some n => (vaPut (parkedAt 1) 0 (ftVa (parkedAt 1) 0 n) (ftBytes p ((ctxOf (parkedAt 1) 0).elim 0 (·.parkSeq)))).1.isNone
       | none => false)) = true ∧
    ((parkedAt 3).sch.parks.find? fun p => p.id == 20 && p.svc == 3).any (fun p => (droveOf (parkedAt 3) p.drove).any fun d => stoppable (parkedAt 3) d && !leaving (parkedAt 3) d) = true ∧
    (let s := wdr fun d => { d with haltReq := true }
     (droveOf s 3).any fun d => d.haltReq && stoppable s d && (breakpoint (select s 3)).isNone) = true := by decide +kernel
def onDev (s : State) (f : Device → Device) : State := { s with dev := f s.dev }
/-- A checkpoint record of the host at 0x140000. -/
def storing (op : Nat) : State := homeWrite base 0x140000 8 op
def branching (t : Nat) : State := { wdr fun d => { d with trace := { d.trace with bits := [true], since := 0, last := 9 } } with cycle := t }
def ckpt0 : Ckpt := { restore := false, recAt := [], issuer := none, store := 0, token := 0, began := 0, flocks := [] }

theorem witness_DeviceEvents : base.dev.clockDown + 1 < profileClock base.dev.profCur ∧ (portsOf base.dev.profCur).getLsbD 0 = true ∧ base.sch.parks = [] ∧
    (let s := onDev base fun v => { v with resends := [(3, List.replicate 64 0)] }
     !retraining s 3 && decide (64 ≤ (recentResends s 3).length)) = true ∧
    homeRead base (0x140000 + 64) 8 + 1024 ≤ 2 ^ 39 ∧
    216000000000 ≤ ({ base with cycle := 216000004096 } : State).cycle - base.dev.committed ∧
    ([0, 1].all fun op => match ckptRecord (onDev (storing op) fun v => { v with ckptdb := 0x140000 }) 0 0x140000 with
      | (some (_, x), t) => !ckptMalformed x && recField x 0 1 == op && t.dev.ckpt.isNone && (ckptFailing { t with fl := Flock.vacant }).isNone
      | _ => false) = true ∧
    (let s := onDev { base with fl := Flock.vacant, dr := Drove.vacant } fun v => { v with ckpt := some ckpt0 }
     s.dev.ckpt.isSome && quiesced s) = true ∧
    (dueBr (branching 64) 0).isSome = true ∧ pendingBrs (branching 64) 0 = [(branching 64).dr] ∧
    (dueSync (branching 0x100000) 0).isSome = true ∧
    (let s := onDev base fun v => { v with traces := v.traces.map fun (t : TraceStream) => { t with dropped := 5 } }
     (streamOf s 0).dropped == 5 && decide (4096 ≤ (streamOf s 0).room) && decide ((streamOf s 0).room ≤ 65536) && decide (0 < s.dev.traces.length)) = true ∧
    (privReg (setPriv base 0xE0 1) 0xE0).getLsbD 0 = true ∧ (privReg base 0xE0).getLsbD 0 = false := by decide +kernel

theorem witness_DeviceEvents_checkpoint : (match ckptRecord (onDev { storing 0 with fl := Flock.vacant, dr := Drove.vacant } fun v => { v with ckptdb := 0x140000 })
      0 0x140000 with
      | (some (_, x), t) => !ckptMalformed x && recField x 0 1 == 0 && t.dev.ckpt.isNone && (ckptFailing t).isNone
      | _ => false) = true := by decide +kernel

end
end

namespace Sys2Proof.Machine

open Sys2Proof.Laws

/-! PROOFS. Branches, scalar immediates and constants, and `mode.get` (05 R112-R114, R122): their words, their waits for an
empty register, and their effects. -/

/-! Words. -/

/-- A word that spells no instruction at its opcode decodes to none. -/
theorem decodeTableWord_none {w : Nat} (hw : w < 2 ^ 32) (h : decodeRaw w = none) : decodeTableWord 32 w = none := by
  rw [decodeTableWord, if_pos (by decide), Nat.mod_eq_of_lt hw, decodeNat, h]

/-- The word of a well-formed instruction decodes to it. -/
theorem decodeTableWord_of_encode {i : Instr} {w : Nat} (hr : RoundTrip.Statement i) (hi : i.wellFormed = true)
    (hw : encodeNat i = some w) : decodeTableWord 32 w = some i := by
  obtain ⟨hlt, hdec⟩ := hr w hw
  rw [decodeTableWord, if_pos (by decide), Nat.mod_eq_of_lt hlt, hdec hi]

/-- The word of a form with one register above an immediate (03 R72). -/
theorem pack_reg_imm (m d i : Nat) : pack m [(d, 18), (i, 0)] = m + d * 2 ^ 18 + i := by
  simp only [pack]
  omega

/-- The word of a form with two registers above an immediate (03 R72). -/
theorem pack_two_regs_imm (m d a i : Nat) : pack m [(d, 18), (a, 12), (i, 0)] = m + d * 2 ^ 18 + a * 2 ^ 12 + i := by
  simp only [pack]
  omega

/-- An immediate shift with a bit set in [11:6] spells no instruction (05 R112, 03 R86). -/
theorem decodeTableWord_shift_reserved {op : Nat} (hop : op ∈ [0x1D, 0x1E, 0x1F]) (d a : BitVec 6) (i : BitVec 12)
    (hi : 64 ≤ i.toNat) : decodeTableWord 32 (op * 2 ^ 24 + d.toNat * 2 ^ 18 + a.toNat * 2 ^ 12 + i.toNat) = none := by
  have hd := d.isLt; have ha := a.isLt; have hl := i.isLt
  simp only [List.mem_cons, List.not_mem_nil, or_false] at hop
  generalize hw : op * 2 ^ 24 + d.toNat * 2 ^ 18 + a.toNat * 2 ^ 12 + i.toNat = w
  have hhi : w / 2 ^ 28 % 16 = 1 := by omega
  have hres : zeros 6 w 6 = false := zeros_ne (by omega)
  refine decodeTableWord_none (by omega) ?_
  have hlo : w / 2 ^ 24 % 16 = 13 ∨ w / 2 ^ 24 % 16 = 14 ∨ w / 2 ^ 24 % 16 = 15 := by omega
  rcases hlo with hlo | hlo | hlo <;>
    simp only [decodeRaw, hhi, hlo, decodeRow1, hres, Bool.false_eq_true, if_false]

/-- A `bra` whose sc field is not 0 spells no instruction (05 R114, 03 R86). -/
theorem decodeTableWord_bra_reserved (c : BitVec 6) (off : BitVec 18) (hc : c ≠ 0) :
    decodeTableWord 32 (0x28 * 2 ^ 24 + c.toNat * 2 ^ 18 + off.toNat) = none := by
  have hl := c.isLt; have ho := off.isLt
  have hn : c.toNat ≠ 0 := fun h => hc (BitVec.eq_of_toNat_eq h)
  generalize hw : 0x28 * 2 ^ 24 + c.toNat * 2 ^ 18 + off.toNat = w
  have hhi : w / 2 ^ 28 % 16 = 2 := by omega
  have hlo : w / 2 ^ 24 % 16 = 8 := by omega
  have hres : zeros 6 w 18 = false := zeros_ne (by omega)
  exact decodeTableWord_none (by omega) (by simp only [decodeRaw, hhi, hlo, decodeRow2, hres, Bool.false_eq_true, if_false])

/-- A word of opcode 0x36 is a `mode.get` when its reserved bits [17:1] are 0, else none (05 R122, 03 R86). -/
theorem decodeTableWord_modeGet (d : BitVec 6) (x : BitVec 18) :
    decodeTableWord 32 (0x36 * 2 ^ 24 + d.toNat * 2 ^ 18 + x.toNat) =
      if x.toNat < 2 then some (.modeGet d (x.toNat == 1)) else none := by
  have hd := d.isLt; have hx := x.isLt
  split
  · next h =>
    have hb : bit (x.toNat == 1) = x.toNat := by
      obtain h0 | h1 : x.toNat = 0 ∨ x.toNat = 1 := by omega
      · simp [h0, bit]
      · simp [h1, bit]
    refine decodeTableWord_of_encode (RoundTrip.modeGet d _) rfl ?_
    simp only [encodeNat, pack, hb, Option.some.injEq]
    omega
  · next h =>
    generalize hw : 0x36 * 2 ^ 24 + d.toNat * 2 ^ 18 + x.toNat = w
    have hhi : w / 2 ^ 28 % 16 = 3 := by omega
    have hlo : w / 2 ^ 24 % 16 = 6 := by omega
    have hres : zeros 17 w 1 = false := zeros_ne (by omega)
    exact decodeTableWord_none (by omega) (by simp only [decodeRaw, hhi, hlo, decodeRow3, hres, Bool.false_eq_true, if_false])

/-- A word of opcode 0x28 that is no instruction stops its drove with cause 0x02, in either mode and on every core (03 R86). -/
theorem stops_illegal_bra {w : BitVec 32} (s : State) (h : bits w.toNat 31 24 = 0x28) : Stops (.illegalWord w) s 0x02 0 0 := by
  show execIllegalWord w s = _
  simp [execIllegalWord, h, opcodeAssigned, privOpcode]

/-! Issue of an instruction that names scalar registers and checks nothing else. -/

/-- Every field lies in its allocation and is aligned (01 R22-R25). -/
def Allocated (s : State) (us : List Use) : Prop := ∀ u ∈ us, u.base + u.n ≤ allocOf s.dr u.cls ∧ u.base % u.align = 0

@[simp] theorem allocated_nil (s : State) : Allocated s [] := nofun

@[simp] theorem allocated_cons {s : State} {u : Use} {us : List Use} :
    Allocated s (u :: us) ↔ (u.base + u.n ≤ allocOf s.dr u.cls ∧ u.base % u.align = 0) ∧ Allocated s us := by
  simp [Allocated]

theorem allocated_srcS {s : State} {n : Nat} {t : Bool} (h : n < s.dr.ns) :
    (srcS n t).base + (srcS n t).n ≤ allocOf s.dr (srcS n t).cls ∧ (srcS n t).base % (srcS n t).align = 0 :=
  ⟨h, Nat.mod_one n⟩

theorem allocated_dstS {s : State} {n : Nat} {t : Bool} (h : n < s.dr.ns) :
    (dstS n t).base + (dstS n t).n ≤ allocOf s.dr (dstS n t).cls ∧ (dstS n t).base % (dstS n t).align = 0 :=
  ⟨h, Nat.mod_one n⟩

theorem firstEmpty_srcS (s : State) (n : Nat) (t : Bool) :
    firstEmpty s (srcS n t) = if isFull s .scl n then none else some n := by
  cases h : isFull s .scl n <;> simp [firstEmpty, srcS, h]

theorem firstEmpty_dstS (s : State) (n : Nat) (t : Bool) :
    firstEmpty s (dstS n t) = if isFull s .scl n then none else some n := by
  cases h : isFull s .scl n <;> simp [firstEmpty, dstS, h]

theorem Allocated.not_outside {s : State} {us : List Use} (h : Allocated s us) :
    (us.any fun u => decide (allocOf s.dr u.cls < u.base + u.n)) = false := by
  simpa using fun u hu => (h u hu).1

theorem Allocated.aligned {s : State} {us : List Use} (h : Allocated s us) :
    (us.any fun u => u.base % u.align != 0) = false := by
  simpa using fun u hu => (h u hu).2

/-- An empty register whose empty-action bit is set stops the instruction with cause 0x05 (01 R28, 03 R87). -/
theorem verdict_trap {s : State} {us : List Use} {u : Use} {n : Nat} (ha : Allocated s us)
    (h : anyEmpty s (us.filter (·.trap)) = some (u, n)) : verdict { uses := us } s = .stop 0x05 (regInfo u.cls n) 0 := by
  simp [verdict, ha.not_outside, ha.aligned, h]

/-- Where no field has its empty-action bit set, the first empty register decides (01 R28). -/
theorem verdict_empty {s : State} {us : List Use} {u : Use} {n : Nat} (ha : Allocated s us) (ht : ∀ u ∈ us, u.trap = false)
    (h : anyEmpty s us = some (u, n)) : verdict { uses := us } s = emptyVerdict s u n := by
  have trapping : us.filter (·.trap) = [] := by simpa using ht
  have waiting : (us.filter fun u => !u.trap) = us := by simpa using ht
  have nothing : anyEmpty s [] = none := rfl
  simp [verdict, ha.not_outside, ha.aligned, trapping, waiting, nothing, h]

/-- An instruction that only checks its registers waits for the first scalar register among them that is empty. -/
theorem waits_of_empty {i : Instr} {s : State} {us : List Use} {run : State → State} {u : Use} {n : Nat}
    (he : exec i s = .next (issue { uses := us } s run)) (ha : Allocated s us) (ht : ∀ u ∈ us, u.trap = false)
    (h : anyEmpty s us = some (u, n)) (hu : u.cls = .scl) : Waits i s (.reg .scl n) := by
  have hv : verdict { uses := us } s = .wait (.reg .scl n) := by rw [verdict_empty ha ht h, emptyVerdict, hu]
  exact he.trans (congrArg _ (issueIf_wait run hv))

/-- It stops at an empty register whose empty-action bit is set. -/
theorem stops_of_empty {i : Instr} {s : State} {us : List Use} {run : State → State} {u : Use} {n : Nat}
    (he : exec i s = .next (issue { uses := us } s run)) (ha : Allocated s us)
    (h : anyEmpty s (us.filter (·.trap)) = some (u, n)) : Stops i s 0x05 (regInfo u.cls n) 0 :=
  he.trans (congrArg _ (issueIf_stop run (verdict_trap ha h)))

/-- With its registers full it goes. -/
theorem verdict_uses_go {s : State} {us : List Use} (h : fits s us = true) : verdict { uses := us } s = .go :=
  verdict_go h rfl rfl rfl rfl rfl (.inl rfl) (.inl rfl) (.inl rfl)

/-- A write to a scalar register does not look at the records of observation. -/
theorem setS_recorded (d : Drove) (o : Seen) (n : Nat) (x : W64) : setS (d.recorded o) n x = (setS d n x).recorded o := by
  unfold setS
  split <;> rfl

/-- An instruction that writes S[n] := g of its drove, where g does not look at the records of observation. -/
theorem writesS_does {i : Instr} {s : State} {us : List Use} {n : Nat} {g : Drove → W64}
    (he : exec i s = .next (issue { uses := us } s fun s => retire (onDr s fun r => setS r n (g r))))
    (hg : ∀ d o, g (Drove.recorded d o) = g d) (hf : fits s us = true) : Does i s fun r => setS r n (g r) :=
  does_of_go he (verdict_uses_go hf) rfl fun d o => by rw [hg, setS_recorded]; rfl

/-! Immediate forms (05 R112). -/

theorem truth_beq (a b : W64) : truth (a == b) = if a = b then BitVec.allOnes 64 else 0 := by simp [truth]

theorem truth_slt (a b : W64) : truth (a.slt b) = if a.toInt < b.toInt then BitVec.allOnes 64 else 0 := by
  simp [truth, BitVec.slt]

/-- The immediate forms as the list gives them. -/
theorem exec_scalarImms {p : (BitVec 6 → BitVec 6 → BitVec 12 → Instr) × (W64 → W64 → W64)} (hp : p ∈ scalarImms)
    (d a : BitVec 6) (i : BitVec 12) (s : State) :
    exec (p.1 d a i) s = scalarImm d a (fun x => p.2 x (i.signExtend 64)) s := by
  simp only [scalarImms, List.mem_cons, List.not_mem_nil, or_false] at hp
  rcases hp with rfl | rfl | rfl | rfl | rfl | rfl
  iterate 4 rfl
  · have he : exec (.seqi d a i) s = scalarImm d a (fun x => truth (x == i.signExtend 64)) s := rfl
    simp only [he, truth_beq]
  · have he : exec (.slti d a i) s = scalarImm d a (fun x => truth (x.slt (i.signExtend 64))) s := rfl
    simp only [he, truth_slt]

/-- The immediate shifts as the list gives them. -/
theorem exec_scalarShifts {p : (BitVec 6 → BitVec 6 → BitVec 6 → Instr) × (W64 → Nat → W64)} (hp : p ∈ scalarShifts)
    (d a n : BitVec 6) (s : State) : exec (p.1 d a n) s = scalarImm d a (fun x => p.2 x n.toNat) s := by
  simp only [scalarShifts, List.mem_cons, List.not_mem_nil, or_false] at hp
  rcases hp with rfl | rfl | rfl <;> rfl

section
variable {i : Instr} {s : State} {d a : BitVec 6} {f : W64 → W64} (he : exec i s = scalarImm d a f s)
include he

theorem scalarImm_does (hf : fits s [srcS a.toNat, dstS d.toNat] = true) :
    Does i s fun r => setS r d.toNat (f (sreg r a.toNat)) :=
  writesS_does he (fun _ _ => rfl) hf

/-- It waits for S[sa] first, then for S[sd]. -/
theorem scalarImm_waits (hd : d.toNat < s.dr.ns) (ha : a.toNat < s.dr.ns) :
    (isFull s .scl a.toNat = false → Waits i s (.reg .scl a.toNat)) ∧
    (isFull s .scl a.toNat = true → isFull s .scl d.toNat = false → Waits i s (.reg .scl d.toNat)) := by
  have hin : Allocated s [srcS a.toNat, dstS d.toNat] := by simp [allocated_srcS ha, allocated_dstS hd]
  have ht : ∀ u ∈ [srcS a.toNat, dstS d.toNat], u.trap = false := by simp [srcS, dstS]
  constructor
  · intro h
    exact waits_of_empty (u := srcS a.toNat) he hin ht (by simp [anyEmpty, firstEmpty_srcS, h]) rfl
  · intro h h'
    exact waits_of_empty (u := dstS d.toNat) he hin ht (by simp [anyEmpty, firstEmpty_srcS, firstEmpty_dstS, h, h']) rfl

end

/-- Settles O24: each form of the two lists runs `scalarImm` with the list's function. -/
theorem scalarImmediateResult : Obligations.ScalarImmediateResult := by
  unfold Obligations.ScalarImmediateResult
  refine ⟨fun p hp d a i s => ?_, fun p hp d a n s => ?_, fun d a n i => ?_⟩
  · exact ⟨scalarImm_does (exec_scalarImms hp d a i s), scalarImm_waits (exec_scalarImms hp d a i s)⟩
  · exact ⟨scalarImm_does (exec_scalarShifts hp d a n s), scalarImm_waits (exec_scalarShifts hp d a n s)⟩
  · exact ⟨decodeTableWord_of_encode (RoundTrip.saddi d a i) rfl (congrArg some (pack_two_regs_imm _ _ _ _)),
      decodeTableWord_of_encode (RoundTrip.sandi d a i) rfl (congrArg some (pack_two_regs_imm _ _ _ _)),
      decodeTableWord_of_encode (RoundTrip.sori d a i) rfl (congrArg some (pack_two_regs_imm _ _ _ _)),
      decodeTableWord_of_encode (RoundTrip.sxori d a i) rfl (congrArg some (pack_two_regs_imm _ _ _ _)),
      decodeTableWord_of_encode (RoundTrip.seqi d a i) rfl (congrArg some (pack_two_regs_imm _ _ _ _)),
      decodeTableWord_of_encode (RoundTrip.slti d a i) rfl (congrArg some (pack_two_regs_imm _ _ _ _)),
      decodeTableWord_of_encode (RoundTrip.sshli d a n) rfl (congrArg some (pack_two_regs_imm _ _ _ _)),
      decodeTableWord_of_encode (RoundTrip.sshri d a n) rfl (congrArg some (pack_two_regs_imm _ _ _ _)),
      decodeTableWord_of_encode (RoundTrip.ssrai d a n) rfl (congrArg some (pack_two_regs_imm _ _ _ _)),
      fun _ hop hi => decodeTableWord_shift_reserved hop d a i hi⟩

/-! Constant forms (05 R113) and `mode.get` (05 R122): S[sd] alone is named. -/

/-- An instruction that names S[n] as its destination alone waits while it is empty. -/
theorem waits_dstS {i : Instr} {s : State} {run : State → State} {n : Nat}
    (he : exec i s = .next (issue { uses := [dstS n] } s run)) (hn : n < s.dr.ns) (h : isFull s .scl n = false) :
    Waits i s (.reg .scl n) :=
  waits_of_empty (u := dstS n) he (by simp [allocated_dstS hn]) (by simp [dstS]) (by simp [anyEmpty, firstEmpty_dstS, h]) rfl

/-- Under its empty-action bit it stops. -/
theorem stops_dstS {i : Instr} {s : State} {run : State → State} {n : Nat}
    (he : exec i s = .next (issue { uses := [dstS n true] } s run)) (hn : n < s.dr.ns) (h : isFull s .scl n = false) :
    Stops i s 0x05 (256 + n) 0 := by
  have trapping : [dstS n true].filter (·.trap) = [dstS n true] := rfl
  have hinfo : regInfo (dstS n true).cls n = 256 + n := by simp [regInfo, dstS]
  rw [← hinfo]
  exact stops_of_empty (u := dstS n true) he (by simp [allocated_dstS hn]) (by simp [trapping, anyEmpty, firstEmpty_dstS, h])

/-- Bit `j` after one `slui`: of the new chunk below bit 18, else the old bit 18 places lower. -/
theorem getLsbD_shift18_or (x : W64) (c : BitVec 18) (j : Nat) (hj : j < 64) :
    ((x <<< 18) ||| c.setWidth 64).getLsbD j = if j < 18 then c.getLsbD j else x.getLsbD (j - 18) := by
  by_cases h : j < 18
  · simp [h, hj]
  · rw [BitVec.getLsbD_or, BitVec.getLsbD_shiftLeft, BitVec.getLsbD_setWidth, BitVec.getLsbD_of_ge c j (by omega)]
    simp [h, hj]

/-- `sli` and three `slui` with the four chunks of a value build it, whatever lies above the first chunk's ten bits (05 R113). -/
theorem chunks_build (v : W64) (i : BitVec 18) (h : i.extractLsb' 0 10 = v.extractLsb' 54 10) :
    let next (x : W64) (c : BitVec 18) : W64 := (x <<< 18) ||| c.setWidth 64
    next (next (next (i.signExtend 64) (v.extractLsb' 36 18)) (v.extractLsb' 18 18)) (v.extractLsb' 0 18) = v := by
  have top (k : Nat) (hk : k < 10) : i.getLsbD k = v.getLsbD (54 + k) := by
    simpa [hk] using congrArg (·.getLsbD k) h
  refine BitVec.eq_of_getLsbD_eq fun j hj => ?_
  rw [getLsbD_shift18_or _ _ _ hj]
  split
  · next h0 => simp [h0]
  rw [getLsbD_shift18_or _ _ _ (by omega)]
  split
  · next h0 h1 => simp [h1, show 18 + (j - 18) = j by omega]
  rw [getLsbD_shift18_or _ _ _ (by omega)]
  split
  · next h0 h1 h2 => simp [h2, show 36 + (j - 18 - 18) = j by omega]
  · rw [BitVec.getLsbD_signExtend, if_pos (by omega), top _ (by omega), decide_eq_true (by omega), Bool.true_and,
      show 54 + (j - 18 - 18 - 18) = j by omega]

/-- Settles O25: both forms name S[sd] alone, and `chunks_build` follows a value's bits through the three shifts. -/
theorem scalarConstantResult : Obligations.ScalarConstantResult := by
  unfold Obligations.ScalarConstantResult
  refine ⟨fun d i s => ⟨fun hf => ⟨?_, ?_⟩, fun hd h => ⟨?_, ?_⟩, ?_, ?_⟩, chunks_build⟩
  · exact writesS_does rfl (fun _ _ => rfl) hf
  · exact writesS_does (g := fun r => (sreg r d.toNat <<< 18) ||| i.setWidth 64) rfl (fun _ _ => rfl) hf
  · exact waits_dstS rfl hd h
  · exact waits_dstS rfl hd h
  · exact decodeTableWord_of_encode (RoundTrip.sli d i) rfl (congrArg some (pack_reg_imm _ _ _))
  · exact decodeTableWord_of_encode (RoundTrip.slui d i) rfl (congrArg some (pack_reg_imm _ _ _))

/-- Settles O18: `mode.get` writes S[sd] from a field that observation does not record. -/
theorem modeGetResult : Obligations.ModeGetResult := by
  unfold Obligations.ModeGetResult
  refine fun s d ed => ⟨fun hf => ?_, fun hd h => ⟨?_, ?_⟩, decodeTableWord_modeGet d⟩
  · exact writesS_does (g := fun r => r.mode.setWidth 64) rfl (fun _ _ => rfl) hf
  · exact waits_dstS rfl hd h
  · exact stops_dstS rfl hd h

/-! Branches (05 R114). -/

theorem branchTarget_eq (d : Drove) (off : BitVec 18) : branchTarget d off = d.pc + 4 + 4 * off.signExtend 64 := by
  have hmul (x : W64) : x <<< 2 = 4 * x := by
    rw [BitVec.shiftLeft_eq_mul_twoPow, BitVec.mul_comm]
    rfl
  rw [branchTarget, sext, hmul]
  rfl

theorem Recorded.pc {s t : State} (h : Recorded s t) : t.dr.pc = s.dr.pc := by
  obtain ⟨o, li, fr, ds, ln, ts, du, hd, rfl⟩ := h
  rfl

theorem Recorded.sreg {s t : State} (h : Recorded s t) (n : Nat) : sreg t.dr n = sreg s.dr n := by
  obtain ⟨o, li, fr, ds, ln, ts, du, hd, rfl⟩ := h
  rfl

theorem Recorded.branchTarget {s t : State} (h : Recorded s t) (off : BitVec 18) :
    branchTarget t.dr off = branchTarget s.dr off := by
  rw [Machine.branchTarget, Machine.branchTarget, h.pc]

theorem retireDr_recorded_bare (d : Drove) (o : Seen) (pc : W64) (m : Option Micro) (now : Nat) :
    (retireDr (d.recorded o) pc m now).bare = (retireDr d pc m now).bare := rfl

/-- A transfer to `pc` is the same before and after the records of observation change. -/
theorem Recorded.retireAt_bare {s t : State} (h : Recorded s t) (pc : W64) : (retireAt t pc).bare = (retireAt s pc).bare := by
  obtain ⟨o, li, fr, ds, ln, ts, du, hd, rfl⟩ := h
  simp only [State.bare, retireAt, onDr, onFl, hd, retireDr_recorded_bare]
  rfl

/-- An instruction that goes and then transfers to `pc`, whatever records it leaves on the way. -/
theorem goes_of_recorded {i : Instr} {s t : State} {pc : W64} (he : exec i s = .next (retireAt t pc)) (h : Recorded s t) :
    Goes i s pc id :=
  ⟨_, he, h.retireAt_bare pc⟩

/-- An instruction that goes and only retires, whatever records it leaves on the way. -/
theorem does_of_recorded {i : Instr} {s t : State} (he : exec i s = .next (retire t)) (h : Recorded s t) : Does i s id :=
  ⟨_, he, h.retire_bare id fun _ _ => rfl⟩

theorem bra_goes (s : State) (off : BitVec 18) : Goes (.bra off) s (branchTarget s.dr off) id := by
  have hr := issued_recorded (canGo {} (fun _ => .go) s) s [] 1
  have he : exec (.bra off) s = .next (issue {} s fun s => retireAt s (branchTarget s.dr off)) := rfl
  rw [issue_go _ (verdict_uses_go (us := []) rfl), hr.branchTarget] at he
  exact goes_of_recorded he hr

section
variable {i : Instr} {s : State} {c : BitVec 6} {off : BitVec 18} {z : Bool} (he : exec i s = condBranch c off z s)
include he

/-- What a conditional branch leaves when it issues: `t` is the state before it, but for records of observation. -/
theorem condBranch_cases (hf : fits s [srcS c.toNat] = true) : ∃ t, Recorded s t ∧
    exec i s = .next (if ((sreg s.dr c.toNat == 0) == z) = true then retireAt t (branchTarget s.dr off) else retire t) := by
  have hv := verdict_uses_go hf
  rw [he, condBranch, issue_go _ hv]
  have hr := issued_recorded (canGo { uses := [srcS c.toNat] } (fun _ => .go) s) s [srcS c.toNat] 1
  generalize issued (canGo { uses := [srcS c.toNat] } (fun _ => .go) s) s [srcS c.toNat] 1 = u at hr ⊢
  have hb := hr.trans (traceBranch_recorded u ((sreg u.dr c.toNat == 0) == z)
    (if ((sreg u.dr c.toNat == 0) == z) = true then branchTarget u.dr off else u.dr.pc + 4))
  refine ⟨_, hb, ?_⟩
  dsimp only
  rw [hb.branchTarget, ← hr.sreg]

theorem condBranch_taken (hf : fits s [srcS c.toNat] = true) (h : (sreg s.dr c.toNat == 0) = z) :
    Goes i s (branchTarget s.dr off) id := by
  obtain ⟨t, hr, ht⟩ := condBranch_cases he hf
  exact goes_of_recorded (by rw [ht, h, beq_self_eq_true, if_pos rfl]) hr

theorem condBranch_not_taken (hf : fits s [srcS c.toNat] = true) (h : (sreg s.dr c.toNat == 0) = !z) : Does i s id := by
  obtain ⟨t, hr, ht⟩ := condBranch_cases he hf
  exact does_of_recorded (by rw [ht, h]; cases z <;> rfl) hr

theorem condBranch_waits (hc : c.toNat < s.dr.ns) (h : isFull s .scl c.toNat = false) : Waits i s (.reg .scl c.toNat) :=
  waits_of_empty (u := srcS c.toNat) he (by simp [allocated_srcS hc]) (by simp [srcS]) (by simp [anyEmpty, firstEmpty_srcS, h]) rfl

end

/-- s0 is full wherever it is allocated (01 R24). -/
theorem fits_s0 {s : State} (h : 0 < s.dr.ns) : fits s [srcS 0] = true := by
  simp [fits, srcS, allocOf, isFull]
  omega

/-- Settles O16: a branch leaves records of observation on its way, and what it transfers to does not look at them. -/
theorem branchResult : Obligations.BranchResult := by
  unfold Obligations.BranchResult
  intro s c off target
  have htarget : branchTarget s.dr off = target := branchTarget_eq s.dr off
  rw [← htarget]
  refine ⟨bra_goes s off, fun hf => ⟨fun h => ⟨?_, ?_⟩, fun h => ⟨?_, ?_⟩⟩, fun hs => ⟨?_, ?_⟩, fun hc h => ⟨?_, ?_⟩, ?_,
    fun hc => ⟨decodeTableWord_bra_reserved c off hc, ?_⟩, ?_, ?_⟩
  · exact condBranch_taken (z := true) rfl hf (beq_iff_eq.mpr h)
  · exact condBranch_not_taken (z := false) rfl hf (beq_iff_eq.mpr h)
  · exact condBranch_not_taken (z := true) rfl hf (beq_false_of_ne h)
  · exact condBranch_taken (z := false) rfl hf (beq_false_of_ne h)
  · exact condBranch_not_taken (c := 0) (z := true) rfl (fits_s0 hs) rfl
  · exact condBranch_taken (c := 0) (z := false) rfl (fits_s0 hs) rfl
  · exact condBranch_waits (z := true) rfl hc h
  · exact condBranch_waits (z := false) rfl hc h
  · exact decodeTableWord_of_encode (RoundTrip.bra off) rfl (by simp [encodeNat, pack]; omega)
  · refine stops_illegal_bra s ?_
    have hl := c.isLt; have ho := off.isLt
    simp only [bits, BitVec.toNat_ofNat]
    omega
  · exact decodeTableWord_of_encode (RoundTrip.brz c off) rfl (congrArg some (pack_reg_imm _ _ _))
  · exact decodeTableWord_of_encode (RoundTrip.brnz c off) rfl (congrArg some (pack_reg_imm _ _ _))

end Sys2Proof.Machine

namespace Sys2Proof.Machine

set_option Elab.async false

open Sys2Proof.Laws

/-! PROOFS. The encoder and the decoder are inverse to each other (03 R69, R72, R86): `RoundTrip` of every instruction one way; the
other way the fields that a row takes apart, its fixed codes and its reserved zeros are all of the word. -/

set_option linter.unusedSimpArgs false

/-- Every instruction keeps `RoundTrip.Statement`; a device step has no word. -/
theorem roundTrip (i : Instr) : RoundTrip.Statement i := by
  cases i with
  | sadd => apply RoundTrip.sadd
  | ssub => apply RoundTrip.ssub
  | smul => apply RoundTrip.smul
  | smulh => apply RoundTrip.smulh
  | smulhn => apply RoundTrip.smulhn
  | sand => apply RoundTrip.sand
  | sor => apply RoundTrip.sor
  | sxor => apply RoundTrip.sxor
  | sandn => apply RoundTrip.sandn
  | sshl => apply RoundTrip.sshl
  | sshr => apply RoundTrip.sshr
  | ssra => apply RoundTrip.ssra
  | smin => apply RoundTrip.smin
  | smax => apply RoundTrip.smax
  | sminn => apply RoundTrip.sminn
  | smaxn => apply RoundTrip.smaxn
  | seq => apply RoundTrip.seq
  | slt => apply RoundTrip.slt
  | sltn => apply RoundTrip.sltn
  | ssel => apply RoundTrip.ssel
  | sclz => apply RoundTrip.sclz
  | spop => apply RoundTrip.spop
  | sbrev => apply RoundTrip.sbrev
  | smov => apply RoundTrip.smov
  | saddi => apply RoundTrip.saddi
  | sandi => apply RoundTrip.sandi
  | sori => apply RoundTrip.sori
  | sxori => apply RoundTrip.sxori
  | sshli => apply RoundTrip.sshli
  | sshri => apply RoundTrip.sshri
  | ssrai => apply RoundTrip.ssrai
  | seqi => apply RoundTrip.seqi
  | slti => apply RoundTrip.slti
  | sli => apply RoundTrip.sli
  | slui => apply RoundTrip.slui
  | bra => apply RoundTrip.bra
  | brz => apply RoundTrip.brz
  | brnz => apply RoundTrip.brnz
  | call => apply RoundTrip.call
  | callr => apply RoundTrip.callr
  | ret => apply RoundTrip.ret
  | jmpr => apply RoundTrip.jmpr
  | exit => apply RoundTrip.exit
  | regang => apply RoundTrip.regang
  | nop => apply RoundTrip.nop
  | brk => apply RoundTrip.brk
  | yield => apply RoundTrip.yield
  | modeSet => apply RoundTrip.modeSet
  | modeFld => apply RoundTrip.modeFld
  | modeGet => apply RoundTrip.modeGet
  | vadd => apply RoundTrip.vadd
  | vsub => apply RoundTrip.vsub
  | vmul => apply RoundTrip.vmul
  | vmulh => apply RoundTrip.vmulh
  | vmad => apply RoundTrip.vmad
  | vand => apply RoundTrip.vand
  | vor => apply RoundTrip.vor
  | vxor => apply RoundTrip.vxor
  | vandn => apply RoundTrip.vandn
  | vshl => apply RoundTrip.vshl
  | vshr => apply RoundTrip.vshr
  | vsra => apply RoundTrip.vsra
  | vmin => apply RoundTrip.vmin
  | vmax => apply RoundTrip.vmax
  | vabs => apply RoundTrip.vabs
  | vneg => apply RoundTrip.vneg
  | veqSub2 => apply RoundTrip.veqSub2
  | veqSub3 => apply RoundTrip.veqSub3
  | vneSub2 => apply RoundTrip.vneSub2
  | vneSub3 => apply RoundTrip.vneSub3
  | vltSub2 => apply RoundTrip.vltSub2
  | vltSub3 => apply RoundTrip.vltSub3
  | vleSub2 => apply RoundTrip.vleSub2
  | vleSub3 => apply RoundTrip.vleSub3
  | vselSub0 => apply RoundTrip.vselSub0
  | vselSub1 => apply RoundTrip.vselSub1
  | vmov => apply RoundTrip.vmov
  | vbcast => apply RoundTrip.vbcast
  | vlid => apply RoundTrip.vlid
  | vpop => apply RoundTrip.vpop
  | vclz => apply RoundTrip.vclz
  | vcvt => apply RoundTrip.vcvt
  | vpack => apply RoundTrip.vpack
  | vunpack => apply RoundTrip.vunpack
  | vrand => apply RoundTrip.vrand
  | fadd => apply RoundTrip.fadd
  | fsub => apply RoundTrip.fsub
  | fmul => apply RoundTrip.fmul
  | ffma => apply RoundTrip.ffma
  | ffms => apply RoundTrip.ffms
  | fnma => apply RoundTrip.fnma
  | fmin => apply RoundTrip.fmin
  | fmax => apply RoundTrip.fmax
  | fabs => apply RoundTrip.fabs
  | fneg => apply RoundTrip.fneg
  | feqSub2 => apply RoundTrip.feqSub2
  | feqSub3 => apply RoundTrip.feqSub3
  | fltSub2 => apply RoundTrip.fltSub2
  | fltSub3 => apply RoundTrip.fltSub3
  | fleSub2 => apply RoundTrip.fleSub2
  | fleSub3 => apply RoundTrip.fleSub3
  | funSub2 => apply RoundTrip.funSub2
  | funSub3 => apply RoundTrip.funSub3
  | frcp => apply RoundTrip.frcp
  | frsq => apply RoundTrip.frsq
  | fsqrt => apply RoundTrip.fsqrt
  | fexp2 => apply RoundTrip.fexp2
  | flog2 => apply RoundTrip.flog2
  | fsin => apply RoundTrip.fsin
  | fcos => apply RoundTrip.fcos
  | fround => apply RoundTrip.fround
  | fcvt => apply RoundTrip.fcvt
  | fcvti => apply RoundTrip.fcvti
  | ficvt => apply RoundTrip.ficvt
  | fscale => apply RoundTrip.fscale
  | fgetexp => apply RoundTrip.fgetexp
  | fgetman => apply RoundTrip.fgetman
  | fclass => apply RoundTrip.fclass
  | twosum => apply RoundTrip.twosum
  | ftwosum => apply RoundTrip.ftwosum
  | twoprod => apply RoundTrip.twoprod
  | fmaerr => apply RoundTrip.fmaerr
  | xadd => apply RoundTrip.xadd
  | xsub => apply RoundTrip.xsub
  | xmul => apply RoundTrip.xmul
  | xfma => apply RoundTrip.xfma
  | xrenorm => apply RoundTrip.xrenorm
  | xcompress => apply RoundTrip.xcompress
  | xeqSub2 => apply RoundTrip.xeqSub2
  | xeqSub3 => apply RoundTrip.xeqSub3
  | xltSub2 => apply RoundTrip.xltSub2
  | xltSub3 => apply RoundTrip.xltSub3
  | xleSub2 => apply RoundTrip.xleSub2
  | xleSub3 => apply RoundTrip.xleSub3
  | xneg => apply RoundTrip.xneg
  | xabs => apply RoundTrip.xabs
  | xsplit => apply RoundTrip.xsplit
  | xtop => apply RoundTrip.xtop
  | xcvt => apply RoundTrip.xcvt
  | xbound => apply RoundTrip.xbound
  | qswh => apply RoundTrip.qswh
  | qswv => apply RoundTrip.qswv
  | qswd => apply RoundTrip.qswd
  | qbc => apply RoundTrip.qbc
  | qddx => apply RoundTrip.qddx
  | qddy => apply RoundTrip.qddy
  | qhelp => apply RoundTrip.qhelp
  | lshuf => apply RoundTrip.lshuf
  | lrot => apply RoundTrip.lrot
  | lscan => apply RoundTrip.lscan
  | lred => apply RoundTrip.lred
  | lballot => apply RoundTrip.lballot
  | lcompress => apply RoundTrip.lcompress
  | lexpand => apply RoundTrip.lexpand
  | lfirst => apply RoundTrip.lfirst
  | ldO => apply RoundTrip.ldO
  | ldW => apply RoundTrip.ldW
  | ldS => apply RoundTrip.ldS
  | ldI => apply RoundTrip.ldI
  | stO => apply RoundTrip.stO
  | stW => apply RoundTrip.stW
  | stS => apply RoundTrip.stS
  | stI => apply RoundTrip.stI
  | ldsO => apply RoundTrip.ldsO
  | ldsW => apply RoundTrip.ldsW
  | ldsS => apply RoundTrip.ldsS
  | ldsI => apply RoundTrip.ldsI
  | stsO => apply RoundTrip.stsO
  | stsW => apply RoundTrip.stsW
  | stsS => apply RoundTrip.stsS
  | stsI => apply RoundTrip.stsI
  | ldp => apply RoundTrip.ldp
  | stp => apply RoundTrip.stp
  | ldsp => apply RoundTrip.ldsp
  | stsp => apply RoundTrip.stsp
  | cst => apply RoundTrip.cst
  | stm => apply RoundTrip.stm
  | pref => apply RoundTrip.pref
  | vinv => apply RoundTrip.vinv
  | vwb => apply RoundTrip.vwb
  | fenceAcq => apply RoundTrip.fenceAcq
  | fenceRel => apply RoundTrip.fenceRel
  | fenceSc => apply RoundTrip.fenceSc
  | atomRlx => apply RoundTrip.atomRlx
  | atomAcq => apply RoundTrip.atomAcq
  | atomRel => apply RoundTrip.atomRel
  | atomAr => apply RoundTrip.atomAr
  | redRlx => apply RoundTrip.redRlx
  | redRel => apply RoundTrip.redRel
  | catom => apply RoundTrip.catom
  | satom => apply RoundTrip.satom
  | mma => apply RoundTrip.mma
  | mmar => apply RoundTrip.mmar
  | mmab => apply RoundTrip.mmab
  | tld => apply RoundTrip.tld
  | tst => apply RoundTrip.tst
  | tzero => apply RoundTrip.tzero
  | trd => apply RoundTrip.trd
  | twr => apply RoundTrip.twr
  | tfold => apply RoundTrip.tfold
  | tscl => apply RoundTrip.tscl
  | tmov => apply RoundTrip.tmov
  | tcvt => apply RoundTrip.tcvt
  | bar => apply RoundTrip.bar
  | barv => apply RoundTrip.barv
  | barw => apply RoundTrip.barw
  | abinit => apply RoundTrip.abinit
  | abarr => apply RoundTrip.abarr
  | abwait => apply RoundTrip.abwait
  | qpush => apply RoundTrip.qpush
  | qpop => apply RoundTrip.qpop
  | qtry => apply RoundTrip.qtry
  | qallow => apply RoundTrip.qallow
  | rtake => apply RoundTrip.rtake
  | cpy => apply RoundTrip.cpy
  | coll => apply RoundTrip.coll
  | evpost => apply RoundTrip.evpost
  | rlaunch => apply RoundTrip.rlaunch
  | trap => apply RoundTrip.trap
  | eret => apply RoundTrip.eret
  | mcall => apply RoundTrip.mcall
  | mcw => apply RoundTrip.mcw
  | sysrd => apply RoundTrip.sysrd
  | syswr => apply RoundTrip.syswr
  | tlbi => apply RoundTrip.tlbi
  | _ => exact fun _ h => nomatch h

/-- Settles O2, from the round trip of each instruction. -/
theorem encodeThenDecode : Obligations.EncodeThenDecode := by
  unfold Obligations.EncodeThenDecode
  intro i w hw hi
  exact ⟨(roundTrip i w hw).1, decodeTableWord_of_encode (roundTrip i) hi hw⟩

theorem toNat_fld (len w lo : Nat) : (fld len w lo).toNat = w / 2 ^ lo % 2 ^ len := by simp [fld]

theorem bit_flag (w lo : Nat) : bit (flag w lo) = w / 2 ^ lo % 2 ^ 1 := by
  unfold bit flag
  split <;> simp_all

theorem zeros_iff (len w lo : Nat) : zeros len w lo = true ↔ w / 2 ^ lo % 2 ^ len = 0 := decide_eq_true_iff

theorem code_iff (len w lo v : Nat) : code len w lo v = true ↔ w / 2 ^ lo % 2 ^ len = v := decide_eq_true_iff

/-- Two adjacent fields of a word are one field. -/
theorem adjacent_fields {w lo len lo' len' r : Nat} (h : lo = lo' + len') :
    w / 2 ^ lo % 2 ^ len * 2 ^ lo + (w / 2 ^ lo' % 2 ^ len' * 2 ^ lo' + r) =
      w / 2 ^ lo' % 2 ^ (len' + len) * 2 ^ lo' + r := by
  subst h
  have hmod := Nat.mod_mul (x := w / 2 ^ lo') (a := 2 ^ len') (b := 2 ^ len)
  rw [Nat.div_div_eq_div_mul, ← Nat.pow_add, ← Nat.pow_add] at hmod
  rw [hmod, Nat.add_mul, Nat.pow_add]
  ring

/-- What row `hi` of the opcode map decodes from a word is encoded as that word. -/
def RowEncodes (hi : Nat) (row : Nat → Nat → Option Instr) : Prop :=
  ∀ (w : Nat) (i : Instr), w < 2 ^ 32 → w / 2 ^ 28 % 16 = hi → row (w / 2 ^ 24 % 16) w = some i → encodeNat i = some w

theorem decodeRow0_encodes : RowEncodes 0 decodeRow0 := by
  intro w i hw hhi h
  generalize hlo : w / 2 ^ 24 % 16 = lo at h
  unfold decodeRow0 at h
  split at h
  all_goals repeat' split at h
  all_goals cases h
  all_goals simp_all only [encodeNat, pack, toNat_fld, bit_flag, adjacent_fields, Option.some.injEq, zeros_iff, code_iff,
    Bool.and_eq_true, -Nat.reducePow]
  all_goals omega

theorem decodeRow1_encodes : RowEncodes 1 decodeRow1 := by
  intro w i hw hhi h
  generalize hlo : w / 2 ^ 24 % 16 = lo at h
  unfold decodeRow1 at h
  split at h
  all_goals repeat' split at h
  all_goals cases h
  all_goals simp_all only [encodeNat, pack, toNat_fld, bit_flag, adjacent_fields, Option.some.injEq, zeros_iff, code_iff,
    Bool.and_eq_true, -Nat.reducePow]
  all_goals omega

theorem decodeRow2_encodes : RowEncodes 2 decodeRow2 := by
  intro w i hw hhi h
  generalize hlo : w / 2 ^ 24 % 16 = lo at h
  unfold decodeRow2 at h
  split at h
  all_goals repeat' split at h
  all_goals cases h
  all_goals simp_all only [encodeNat, pack, toNat_fld, bit_flag, adjacent_fields, Option.some.injEq, zeros_iff, code_iff,
    Bool.and_eq_true, -Nat.reducePow]
  all_goals omega

theorem decodeRow3_encodes : RowEncodes 3 decodeRow3 := by
  intro w i hw hhi h
  generalize hlo : w / 2 ^ 24 % 16 = lo at h
  unfold decodeRow3 at h
  split at h
  all_goals repeat' split at h
  all_goals cases h
  all_goals simp_all only [encodeNat, pack, toNat_fld, bit_flag, adjacent_fields, Option.some.injEq, zeros_iff, code_iff,
    Bool.and_eq_true, -Nat.reducePow]
  all_goals omega

theorem decodeRow4_encodes : RowEncodes 4 decodeRow4 := by
  intro w i hw hhi h
  generalize hlo : w / 2 ^ 24 % 16 = lo at h
  unfold decodeRow4 at h
  split at h
  all_goals repeat' split at h
  all_goals cases h
  all_goals simp_all only [encodeNat, pack, toNat_fld, bit_flag, adjacent_fields, Option.some.injEq, zeros_iff, code_iff,
    Bool.and_eq_true, -Nat.reducePow]
  all_goals omega

theorem decodeRow5_encodes : RowEncodes 5 decodeRow5 := by
  intro w i hw hhi h
  generalize hlo : w / 2 ^ 24 % 16 = lo at h
  unfold decodeRow5 at h
  split at h
  all_goals repeat' split at h
  all_goals cases h
  all_goals simp_all only [encodeNat, pack, toNat_fld, bit_flag, adjacent_fields, Option.some.injEq, zeros_iff, code_iff,
    Bool.and_eq_true, -Nat.reducePow]
  all_goals omega

theorem decodeRow6_encodes : RowEncodes 6 decodeRow6 := by
  intro w i hw hhi h
  generalize hlo : w / 2 ^ 24 % 16 = lo at h
  unfold decodeRow6 at h
  split at h
  all_goals repeat' split at h
  all_goals cases h
  all_goals simp_all only [encodeNat, pack, toNat_fld, bit_flag, adjacent_fields, Option.some.injEq, zeros_iff, code_iff,
    Bool.and_eq_true, -Nat.reducePow]
  all_goals omega

theorem decodeRow7_encodes : RowEncodes 7 decodeRow7 := by
  intro w i hw hhi h
  generalize hlo : w / 2 ^ 24 % 16 = lo at h
  unfold decodeRow7 at h
  split at h
  all_goals repeat' split at h
  all_goals cases h
  all_goals simp_all only [encodeNat, pack, toNat_fld, bit_flag, adjacent_fields, Option.some.injEq, zeros_iff, code_iff,
    Bool.and_eq_true, -Nat.reducePow]
  all_goals omega

theorem decodeRow8_encodes : RowEncodes 8 decodeRow8 := by
  intro w i hw hhi h
  generalize hlo : w / 2 ^ 24 % 16 = lo at h
  unfold decodeRow8 at h
  split at h
  all_goals repeat' split at h
  all_goals cases h
  all_goals simp_all only [encodeNat, pack, toNat_fld, bit_flag, adjacent_fields, Option.some.injEq, zeros_iff, code_iff,
    Bool.and_eq_true, -Nat.reducePow]
  all_goals omega

theorem decodeRow9_encodes : RowEncodes 9 decodeRow9 := by
  intro w i hw hhi h
  generalize hlo : w / 2 ^ 24 % 16 = lo at h
  unfold decodeRow9 at h
  split at h
  all_goals repeat' split at h
  all_goals cases h
  all_goals simp_all only [encodeNat, pack, toNat_fld, bit_flag, adjacent_fields, Option.some.injEq, zeros_iff, code_iff,
    Bool.and_eq_true, -Nat.reducePow]
  all_goals omega

theorem decodeRowA_encodes : RowEncodes 10 decodeRowA := by
  intro w i hw hhi h
  generalize hlo : w / 2 ^ 24 % 16 = lo at h
  unfold decodeRowA at h
  split at h
  all_goals repeat' split at h
  all_goals cases h
  all_goals simp_all only [encodeNat, pack, toNat_fld, bit_flag, adjacent_fields, Option.some.injEq, zeros_iff, code_iff,
    Bool.and_eq_true, -Nat.reducePow]
  all_goals omega

theorem decodeRowB_encodes : RowEncodes 11 decodeRowB := by
  intro w i hw hhi h
  generalize hlo : w / 2 ^ 24 % 16 = lo at h
  unfold decodeRowB at h
  split at h
  all_goals repeat' split at h
  all_goals cases h
  all_goals simp_all only [encodeNat, pack, toNat_fld, bit_flag, adjacent_fields, Option.some.injEq, zeros_iff, code_iff,
    Bool.and_eq_true, -Nat.reducePow]
  all_goals omega

theorem decodeRowC_encodes : RowEncodes 12 decodeRowC := by
  intro w i hw hhi h
  generalize hlo : w / 2 ^ 24 % 16 = lo at h
  unfold decodeRowC at h
  split at h
  all_goals repeat' split at h
  all_goals cases h
  all_goals simp_all only [encodeNat, pack, toNat_fld, bit_flag, adjacent_fields, Option.some.injEq, zeros_iff, code_iff,
    Bool.and_eq_true, -Nat.reducePow]
  all_goals omega

theorem decodeRowD_encodes : RowEncodes 13 decodeRowD := by
  intro w i hw hhi h
  generalize hlo : w / 2 ^ 24 % 16 = lo at h
  unfold decodeRowD at h
  split at h
  all_goals repeat' split at h
  all_goals cases h
  all_goals simp_all only [encodeNat, pack, toNat_fld, bit_flag, adjacent_fields, Option.some.injEq, zeros_iff, code_iff,
    Bool.and_eq_true, -Nat.reducePow]
  all_goals omega

theorem decodeRowE_encodes : RowEncodes 14 decodeRowE := by
  intro w i hw hhi h
  generalize hlo : w / 2 ^ 24 % 16 = lo at h
  unfold decodeRowE at h
  split at h
  all_goals repeat' split at h
  all_goals cases h
  all_goals simp_all only [encodeNat, pack, toNat_fld, bit_flag, adjacent_fields, Option.some.injEq, zeros_iff, code_iff,
    Bool.and_eq_true, -Nat.reducePow]
  all_goals omega

theorem decodeRowF_encodes : RowEncodes 15 decodeRowF := by
  intro w i hw hhi h
  generalize hlo : w / 2 ^ 24 % 16 = lo at h
  unfold decodeRowF at h
  split at h
  all_goals repeat' split at h
  all_goals cases h
  all_goals simp_all only [encodeNat, pack, toNat_fld, bit_flag, adjacent_fields, Option.some.injEq, zeros_iff, code_iff,
    Bool.and_eq_true, -Nat.reducePow]
  all_goals omega

theorem encodeNat_of_decodeRaw {w : Nat} {i : Instr} (hw : w < 2 ^ 32) (h : decodeRaw w = some i) : encodeNat i = some w := by
  unfold decodeRaw at h
  split at h
  · next hhi => exact decodeRow0_encodes w i hw hhi h
  · next hhi => exact decodeRow1_encodes w i hw hhi h
  · next hhi => exact decodeRow2_encodes w i hw hhi h
  · next hhi => exact decodeRow3_encodes w i hw hhi h
  · next hhi => exact decodeRow4_encodes w i hw hhi h
  · next hhi => exact decodeRow5_encodes w i hw hhi h
  · next hhi => exact decodeRow6_encodes w i hw hhi h
  · next hhi => exact decodeRow7_encodes w i hw hhi h
  · next hhi => exact decodeRow8_encodes w i hw hhi h
  · next hhi => exact decodeRow9_encodes w i hw hhi h
  · next hhi => exact decodeRowA_encodes w i hw hhi h
  · next hhi => exact decodeRowB_encodes w i hw hhi h
  · next hhi => exact decodeRowC_encodes w i hw hhi h
  · next hhi => exact decodeRowD_encodes w i hw hhi h
  · next hhi => exact decodeRowE_encodes w i hw hhi h
  · next hhi => exact decodeRowF_encodes w i hw hhi h
  · cases h

/-- Settles O3: each row of the map encodes what it decodes. -/
theorem decodeThenEncode : Obligations.DecodeThenEncode := by
  unfold Obligations.DecodeThenEncode
  intro i w hw h
  rw [decodeTableWord, if_pos (by decide), Nat.mod_eq_of_lt hw, decodeNat] at h
  split at h
  · next j hraw =>
    split at h
    · next hj =>
      cases h
      exact ⟨encodeNat_of_decodeRaw hw hraw, hj⟩
    · cases h
  · cases h

end Sys2Proof.Machine

namespace Sys2Proof.Machine

set_option Elab.async false

/-! PROOFS. Every step keeps memory in canonical form: the rows by `exec_ok`, the choice of what goes next by `nextWork_ok`. -/

theorem exec_ok (i : Instr) (s : State) (hok : s.ok) : outOk (exec i s) := by
  cases i with
  | sadd => exact execSadd_ok (hok := hok) ..
  | ssub => exact execSsub_ok (hok := hok) ..
  | smul => exact execSmul_ok (hok := hok) ..
  | smulh => exact execSmulh_ok (hok := hok) ..
  | smulhn => exact execSmulhn_ok (hok := hok) ..
  | sand => exact execSand_ok (hok := hok) ..
  | sor => exact execSor_ok (hok := hok) ..
  | sxor => exact execSxor_ok (hok := hok) ..
  | sandn => exact execSandn_ok (hok := hok) ..
  | sshl => exact execSshl_ok (hok := hok) ..
  | sshr => exact execSshr_ok (hok := hok) ..
  | ssra => exact execSsra_ok (hok := hok) ..
  | smin => exact execSmin_ok (hok := hok) ..
  | smax => exact execSmax_ok (hok := hok) ..
  | sminn => exact execSminn_ok (hok := hok) ..
  | smaxn => exact execSmaxn_ok (hok := hok) ..
  | seq => exact execSeq_ok (hok := hok) ..
  | slt => exact execSlt_ok (hok := hok) ..
  | sltn => exact execSltn_ok (hok := hok) ..
  | ssel => exact execSsel_ok (hok := hok) ..
  | sclz => exact execSclz_ok (hok := hok) ..
  | spop => exact execSpop_ok (hok := hok) ..
  | sbrev => exact execSbrev_ok (hok := hok) ..
  | smov => exact execSmov_ok (hok := hok) ..
  | saddi => exact execSaddi_ok (hok := hok) ..
  | sandi => exact execSandi_ok (hok := hok) ..
  | sori => exact execSori_ok (hok := hok) ..
  | sxori => exact execSxori_ok (hok := hok) ..
  | sshli => exact execSshli_ok (hok := hok) ..
  | sshri => exact execSshri_ok (hok := hok) ..
  | ssrai => exact execSsrai_ok (hok := hok) ..
  | seqi => exact execSeqi_ok (hok := hok) ..
  | slti => exact execSlti_ok (hok := hok) ..
  | sli => exact execSli_ok (hok := hok) ..
  | slui => exact execSlui_ok (hok := hok) ..
  | bra => exact execBra_ok (hok := hok) ..
  | brz => exact execBrz_ok (hok := hok) ..
  | brnz => exact execBrnz_ok (hok := hok) ..
  | call => exact execCall_ok (hok := hok) ..
  | callr => exact execCallr_ok (hok := hok) ..
  | ret => exact execRet_ok (hok := hok) ..
  | jmpr => exact execJmpr_ok (hok := hok) ..
  | exit => exact execExit_ok (hok := hok) ..
  | regang => exact execRegang_ok (hok := hok) ..
  | nop => exact execNop_ok (hok := hok) ..
  | brk => exact execBrk_ok (hok := hok) ..
  | yield => exact execYield_ok (hok := hok) ..
  | modeSet => exact execModeSet_ok (hok := hok) ..
  | modeFld => exact execModeFld_ok (hok := hok) ..
  | modeGet => exact execModeGet_ok (hok := hok) ..
  | vadd => exact execVadd_ok (hok := hok) ..
  | vsub => exact execVsub_ok (hok := hok) ..
  | vmul => exact execVmul_ok (hok := hok) ..
  | vmulh => exact execVmulh_ok (hok := hok) ..
  | vmad => exact execVmad_ok (hok := hok) ..
  | vand => exact execVand_ok (hok := hok) ..
  | vor => exact execVor_ok (hok := hok) ..
  | vxor => exact execVxor_ok (hok := hok) ..
  | vandn => exact execVandn_ok (hok := hok) ..
  | vshl => exact execVshl_ok (hok := hok) ..
  | vshr => exact execVshr_ok (hok := hok) ..
  | vsra => exact execVsra_ok (hok := hok) ..
  | vmin => exact execVmin_ok (hok := hok) ..
  | vmax => exact execVmax_ok (hok := hok) ..
  | vabs => exact execVabs_ok (hok := hok) ..
  | vneg => exact execVneg_ok (hok := hok) ..
  | veqSub2 => exact execVeqSub2_ok (hok := hok) ..
  | veqSub3 => exact execVeqSub3_ok (hok := hok) ..
  | vneSub2 => exact execVneSub2_ok (hok := hok) ..
  | vneSub3 => exact execVneSub3_ok (hok := hok) ..
  | vltSub2 => exact execVltSub2_ok (hok := hok) ..
  | vltSub3 => exact execVltSub3_ok (hok := hok) ..
  | vleSub2 => exact execVleSub2_ok (hok := hok) ..
  | vleSub3 => exact execVleSub3_ok (hok := hok) ..
  | vselSub0 => exact execVselSub0_ok (hok := hok) ..
  | vselSub1 => exact execVselSub1_ok (hok := hok) ..
  | vmov => exact execVmov_ok (hok := hok) ..
  | vbcast => exact execVbcast_ok (hok := hok) ..
  | vlid => exact execVlid_ok (hok := hok) ..
  | vpop => exact execVpop_ok (hok := hok) ..
  | vclz => exact execVclz_ok (hok := hok) ..
  | vcvt => exact execVcvt_ok (hok := hok) ..
  | vpack => exact execVpack_ok (hok := hok) ..
  | vunpack => exact execVunpack_ok (hok := hok) ..
  | vrand => exact execVrand_ok (hok := hok) ..
  | fadd => exact execFadd_ok (hok := hok) ..
  | fsub => exact execFsub_ok (hok := hok) ..
  | fmul => exact execFmul_ok (hok := hok) ..
  | ffma => exact execFfma_ok (hok := hok) ..
  | ffms => exact execFfms_ok (hok := hok) ..
  | fnma => exact execFnma_ok (hok := hok) ..
  | fmin => exact execFmin_ok (hok := hok) ..
  | fmax => exact execFmax_ok (hok := hok) ..
  | fabs => exact execFabs_ok (hok := hok) ..
  | fneg => exact execFneg_ok (hok := hok) ..
  | feqSub2 => exact execFeqSub2_ok (hok := hok) ..
  | feqSub3 => exact execFeqSub3_ok (hok := hok) ..
  | fltSub2 => exact execFltSub2_ok (hok := hok) ..
  | fltSub3 => exact execFltSub3_ok (hok := hok) ..
  | fleSub2 => exact execFleSub2_ok (hok := hok) ..
  | fleSub3 => exact execFleSub3_ok (hok := hok) ..
  | funSub2 => exact execFunSub2_ok (hok := hok) ..
  | funSub3 => exact execFunSub3_ok (hok := hok) ..
  | frcp => exact execFrcp_ok (hok := hok) ..
  | frsq => exact execFrsq_ok (hok := hok) ..
  | fsqrt => exact execFsqrt_ok (hok := hok) ..
  | fexp2 => exact execFexp2_ok (hok := hok) ..
  | flog2 => exact execFlog2_ok (hok := hok) ..
  | fsin => exact execFsin_ok (hok := hok) ..
  | fcos => exact execFcos_ok (hok := hok) ..
  | fround => exact execFround_ok (hok := hok) ..
  | fcvt => exact execFcvt_ok (hok := hok) ..
  | fcvti => exact execFcvti_ok (hok := hok) ..
  | ficvt => exact execFicvt_ok (hok := hok) ..
  | fscale => exact execFscale_ok (hok := hok) ..
  | fgetexp => exact execFgetexp_ok (hok := hok) ..
  | fgetman => exact execFgetman_ok (hok := hok) ..
  | fclass => exact execFclass_ok (hok := hok) ..
  | twosum => exact execTwosum_ok (hok := hok) ..
  | ftwosum => exact execFtwosum_ok (hok := hok) ..
  | twoprod => exact execTwoprod_ok (hok := hok) ..
  | fmaerr => exact execFmaerr_ok (hok := hok) ..
  | xadd => exact execXadd_ok (hok := hok) ..
  | xsub => exact execXsub_ok (hok := hok) ..
  | xmul => exact execXmul_ok (hok := hok) ..
  | xfma => exact execXfma_ok (hok := hok) ..
  | xrenorm => exact execXrenorm_ok (hok := hok) ..
  | xcompress => exact execXcompress_ok (hok := hok) ..
  | xeqSub2 => exact execXeqSub2_ok (hok := hok) ..
  | xeqSub3 => exact execXeqSub3_ok (hok := hok) ..
  | xltSub2 => exact execXltSub2_ok (hok := hok) ..
  | xltSub3 => exact execXltSub3_ok (hok := hok) ..
  | xleSub2 => exact execXleSub2_ok (hok := hok) ..
  | xleSub3 => exact execXleSub3_ok (hok := hok) ..
  | xneg => exact execXneg_ok (hok := hok) ..
  | xabs => exact execXabs_ok (hok := hok) ..
  | xsplit => exact execXsplit_ok (hok := hok) ..
  | xtop => exact execXtop_ok (hok := hok) ..
  | xcvt => exact execXcvt_ok (hok := hok) ..
  | xbound => exact execXbound_ok (hok := hok) ..
  | qswh => exact execQswh_ok (hok := hok) ..
  | qswv => exact execQswv_ok (hok := hok) ..
  | qswd => exact execQswd_ok (hok := hok) ..
  | qbc => exact execQbc_ok (hok := hok) ..
  | qddx => exact execQddx_ok (hok := hok) ..
  | qddy => exact execQddy_ok (hok := hok) ..
  | qhelp => exact execQhelp_ok (hok := hok) ..
  | lshuf => exact execLshuf_ok (hok := hok) ..
  | lrot => exact execLrot_ok (hok := hok) ..
  | lscan => exact execLscan_ok (hok := hok) ..
  | lred => exact execLred_ok (hok := hok) ..
  | lballot => exact execLballot_ok (hok := hok) ..
  | lcompress => exact execLcompress_ok (hok := hok) ..
  | lexpand => exact execLexpand_ok (hok := hok) ..
  | lfirst => exact execLfirst_ok (hok := hok) ..
  | ldO => exact execLdO_ok (hok := hok) ..
  | ldW => exact execLdW_ok (hok := hok) ..
  | ldS => exact execLdS_ok (hok := hok) ..
  | ldI => exact execLdI_ok (hok := hok) ..
  | stO => exact execStO_ok (hok := hok) ..
  | stW => exact execStW_ok (hok := hok) ..
  | stS => exact execStS_ok (hok := hok) ..
  | stI => exact execStI_ok (hok := hok) ..
  | ldsO => exact execLdsO_ok (hok := hok) ..
  | ldsW => exact execLdsW_ok (hok := hok) ..
  | ldsS => exact execLdsS_ok (hok := hok) ..
  | ldsI => exact execLdsI_ok (hok := hok) ..
  | stsO => exact execStsO_ok (hok := hok) ..
  | stsW => exact execStsW_ok (hok := hok) ..
  | stsS => exact execStsS_ok (hok := hok) ..
  | stsI => exact execStsI_ok (hok := hok) ..
  | ldp => exact execLdp_ok (hok := hok) ..
  | stp => exact execStp_ok (hok := hok) ..
  | ldsp => exact execLdsp_ok (hok := hok) ..
  | stsp => exact execStsp_ok (hok := hok) ..
  | cst => exact execCst_ok (hok := hok) ..
  | stm => exact execStm_ok (hok := hok) ..
  | pref => exact execPref_ok (hok := hok) ..
  | vinv => exact execVinv_ok (hok := hok) ..
  | vwb => exact execVwb_ok (hok := hok) ..
  | fenceAcq => exact execFenceAcq_ok (hok := hok) ..
  | fenceRel => exact execFenceRel_ok (hok := hok) ..
  | fenceSc => exact execFenceSc_ok (hok := hok) ..
  | atomRlx => exact execAtomRlx_ok (hok := hok) ..
  | atomAcq => exact execAtomAcq_ok (hok := hok) ..
  | atomRel => exact execAtomRel_ok (hok := hok) ..
  | atomAr => exact execAtomAr_ok (hok := hok) ..
  | redRlx => exact execRedRlx_ok (hok := hok) ..
  | redRel => exact execRedRel_ok (hok := hok) ..
  | catom => exact execCatom_ok (hok := hok) ..
  | satom => exact execSatom_ok (hok := hok) ..
  | mma => exact execMma_ok (hok := hok) ..
  | mmar => exact execMmar_ok (hok := hok) ..
  | mmab => exact execMmab_ok (hok := hok) ..
  | tld => exact execTld_ok (hok := hok) ..
  | tst => exact execTst_ok (hok := hok) ..
  | tzero => exact execTzero_ok (hok := hok) ..
  | trd => exact execTrd_ok (hok := hok) ..
  | twr => exact execTwr_ok (hok := hok) ..
  | tfold => exact execTfold_ok (hok := hok) ..
  | tscl => exact execTscl_ok (hok := hok) ..
  | tmov => exact execTmov_ok (hok := hok) ..
  | tcvt => exact execTcvt_ok (hok := hok) ..
  | bar => exact execBar_ok (hok := hok) ..
  | barv => exact execBarv_ok (hok := hok) ..
  | barw => exact execBarw_ok (hok := hok) ..
  | abinit => exact execAbinit_ok (hok := hok) ..
  | abarr => exact execAbarr_ok (hok := hok) ..
  | abwait => exact execAbwait_ok (hok := hok) ..
  | qpush => exact execQpush_ok (hok := hok) ..
  | qpop => exact execQpop_ok (hok := hok) ..
  | qtry => exact execQtry_ok (hok := hok) ..
  | qallow => exact execQallow_ok (hok := hok) ..
  | rtake => exact execRtake_ok (hok := hok) ..
  | cpy => exact execCpy_ok (hok := hok) ..
  | coll => exact execColl_ok (hok := hok) ..
  | evpost => exact execEvpost_ok (hok := hok) ..
  | rlaunch => exact execRlaunch_ok (hok := hok) ..
  | trap => exact execTrap_ok (hok := hok) ..
  | eret => exact execEret_ok (hok := hok) ..
  | mcall => exact execMcall_ok (hok := hok) ..
  | mcw => exact execMcw_ok (hok := hok) ..
  | sysrd => exact execSysrd_ok (hok := hok) ..
  | syswr => exact execSyswr_ok (hok := hok) ..
  | tlbi => exact execTlbi_ok (hok := hok) ..
  | illegalWord => exact execIllegalWord_ok (hok := hok) ..
  | instructionFetchFault => exact execInstructionFetchFault_ok (hok := hok) ..
  | loadReturn => exact execLoadReturn_ok (hok := hok) ..
  | slowSysrdReturn => exact execSlowSysrdReturn_ok (hok := hok) ..
  | loadLaneFault => exact execLoadLaneFault_ok (hok := hok) ..
  | storeAck => exact execStoreAck_ok (hok := hok) ..
  | storeLaneFault => exact execStoreLaneFault_ok (hok := hok) ..
  | linkStackSpillFill => exact execLinkStackSpillFill_ok (hok := hok) ..
  | owningDieAccess => exact execOwningDieAccess_ok (hok := hok) ..
  | atomicProbeResult => exact execAtomicProbeResult_ok (hok := hok) ..
  | atomicReturn => exact execAtomicReturn_ok (hok := hok) ..
  | catomLowUpdate => exact execCatomLowUpdate_ok (hok := hok) ..
  | scratchpadBankAccess => exact execScratchpadBankAccess_ok (hok := hok) ..
  | pageExpansionComplete => exact execPageExpansionComplete_ok (hok := hok) ..
  | homeOLoadMiss => exact execHomeOLoadMiss_ok (hok := hok) ..
  | homeILoadMiss => exact execHomeILoadMiss_ok (hok := hok) ..
  | homeSLoadMiss => exact execHomeSLoadMiss_ok (hok := hok) ..
  | homeWLoad => exact execHomeWLoad_ok (hok := hok) ..
  | homeOwnershipRequest => exact execHomeOwnershipRequest_ok (hok := hok) ..
  | homeWriteThrough => exact execHomeWriteThrough_ok (hok := hok) ..
  | homeAtomic => exact execHomeAtomic_ok (hok := hok) ..
  | ownerWmaskAccess => exact execOwnerWmaskAccess_ok (hok := hok) ..
  | ownerWriteBack => exact execOwnerWriteBack_ok (hok := hok) ..
  | ownerVwbWriteBack => exact execOwnerVwbWriteBack_ok (hok := hok) ..
  | recallToShared => exact execRecallToShared_ok (hok := hok) ..
  | claim => exact execClaim_ok (hok := hok) ..
  | invalidate => exact execInvalidate_ok (hok := hok) ..
  | update => exact execUpdate_ok (hok := hok) ..
  | directoryTComplete => exact execDirectoryTComplete_ok (hok := hok) ..
  | requestRefusedResend => exact execRequestRefusedResend_ok (hok := hok) ..
  | directoryEntryUe => exact execDirectoryEntryUe_ok (hok := hok) ..
  | replicaLineLeave => exact execReplicaLineLeave_ok (hok := hok) ..
  | hostCleanDrop => exact execHostCleanDrop_ok (hok := hok) ..
  | hrd => exact execHrd_ok (hok := hok) ..
  | hrdx => exact execHrdx_ok (hok := hok) ..
  | hwr => exact execHwr_ok (hok := hok) ..
  | hwb => exact execHwb_ok (hok := hok) ..
  | peerAccessRequest => exact execPeerAccessRequest_ok (hok := hok) ..
  | route10Ack => exact execRoute10Ack_ok (hok := hok) ..
  | epochTick => exact execEpochTick_ok (hok := hok) ..
  | retentionSleepEnter => exact execRetentionSleepEnter_ok (hok := hok) ..
  | retentionWake => exact execRetentionWake_ok (hok := hok) ..
  | matrixGrant => exact execMatrixGrant_ok (hok := hok) ..
  | passComplete => exact execPassComplete_ok (hok := hok) ..
  | reservationAging => exact execReservationAging_ok (hok := hok) ..
  | tileOpComplete => exact execTileOpComplete_ok (hok := hok) ..
  | tldRowFault => exact execTldRowFault_ok (hok := hok) ..
  | barrierChecksum => exact execBarrierChecksum_ok (hok := hok) ..
  | wideBarrierArrival => exact execWideBarrierArrival_ok (hok := hok) ..
  | asyncObjectArrival => exact execAsyncObjectArrival_ok (hok := hok) ..
  | chutePopServed => exact execChutePopServed_ok (hok := hok) ..
  | chutePushRoom => exact execChutePushRoom_ok (hok := hok) ..
  | copyComplete => exact execCopyComplete_ok (hok := hok) ..
  | copyFault => exact execCopyFault_ok (hok := hok) ..
  | collPhase0Packet => exact execCollPhase0Packet_ok (hok := hok) ..
  | collDataPacket => exact execCollDataPacket_ok (hok := hok) ..
  | collResultPacket => exact execCollResultPacket_ok (hok := hok) ..
  | collCancelPacket => exact execCollCancelPacket_ok (hok := hok) ..
  | reduceFlockDispatch => exact execReduceFlockDispatch_ok (hok := hok) ..
  | switchCombine => exact execSwitchCombine_ok (hok := hok) ..
  | collGroupTableFault => exact execCollGroupTableFault_ok (hok := hok) ..
  | bellwetherTurn => exact execBellwetherTurn_ok (hok := hok) ..
  | passiveWake => exact execPassiveWake_ok (hok := hok) ..
  | deviceEventPost => exact execDeviceEventPost_ok (hok := hok) ..
  | launchQueueDoorbell => exact execLaunchQueueDoorbell_ok (hok := hok) ..
  | launchQueueEntryTake => exact execLaunchQueueEntryTake_ok (hok := hok) ..
  | flockAdmit => exact execFlockAdmit_ok (hok := hok) ..
  | rangeComplete => exact execRangeComplete_ok (hok := hok) ..
  | drovePromote => exact execDrovePromote_ok (hok := hok) ..
  | regangTimeout => exact execRegangTimeout_ok (hok := hok) ..
  | yieldTimeout => exact execYieldTimeout_ok (hok := hok) ..
  | budgetExpiry => exact execBudgetExpiry_ok (hok := hok) ..
  | watchdogExpiry => exact execWatchdogExpiry_ok (hok := hok) ..
  | slowFaultSwapout => exact execSlowFaultSwapout_ok (hok := hok) ..
  | mxmodeApply => exact execMxmodeApply_ok (hok := hok) ..
  | faultTableEntryWrite => exact execFaultTableEntryWrite_ok (hok := hok) ..
  | parkDelivery => exact execParkDelivery_ok (hok := hok) ..
  | swapOut => exact execSwapOut_ok (hok := hok) ..
  | flockResume => exact execFlockResume_ok (hok := hok) ..
  | dbgcmdHalt => exact execDbgcmdHalt_ok (hok := hok) ..
  | mapcmdMap => exact execMapcmdMap_ok (hok := hok) ..
  | mapcmdUnmap => exact execMapcmdUnmap_ok (hok := hok) ..
  | mapcmdCompress => exact execMapcmdCompress_ok (hok := hok) ..
  | mapcmdClearAccessed => exact execMapcmdClearAccessed_ok (hok := hok) ..
  | mapcmdQuery => exact execMapcmdQuery_ok (hok := hok) ..
  | xtcrBind => exact execXtcrBind_ok (hok := hok) ..
  | sramwinWrite => exact execSramwinWrite_ok (hok := hok) ..
  | czoneWrite => exact execCzoneWrite_ok (hok := hok) ..
  | vcDefine => exact execVcDefine_ok (hok := hok) ..
  | vcResize => exact execVcResize_ok (hok := hok) ..
  | vcMove => exact execVcMove_ok (hok := hok) ..
  | vcFree => exact execVcFree_ok (hok := hok) ..
  | vcRead => exact execVcRead_ok (hok := hok) ..
  | vcModify => exact execVcModify_ok (hok := hok) ..
  | vcRetireShare => exact execVcRetireShare_ok (hok := hok) ..
  | vcShareMap => exact execVcShareMap_ok (hok := hok) ..
  | vcSweepSet => exact execVcSweepSet_ok (hok := hok) ..
  | vcMigrationComplete => exact execVcMigrationComplete_ok (hok := hok) ..
  | vcFreeComplete => exact execVcFreeComplete_ok (hok := hok) ..
  | shareRetireComplete => exact execShareRetireComplete_ok (hok := hok) ..
  | correctedError => exact execCorrectedError_ok (hok := hok) ..
  | uncorrectableError => exact execUncorrectableError_ok (hok := hok) ..
  | aetclrWrite => exact execAetclrWrite_ok (hok := hok) ..
  | csbaddrWrite => exact execCsbaddrWrite_ok (hok := hok) ..
  | freplyReplay => exact execFreplyReplay_ok (hok := hok) ..
  | freplyDeliver => exact execFreplyDeliver_ok (hok := hok) ..
  | ctxPreempt => exact execCtxPreempt_ok (hok := hok) ..
  | ctxResume => exact execCtxResume_ok (hok := hok) ..
  | ctxTerminate => exact execCtxTerminate_ok (hok := hok) ..
  | ctxPlaceShepherd => exact execCtxPlaceShepherd_ok (hok := hok) ..
  | lqcfgWrite => exact execLqcfgWrite_ok (hok := hok) ..
  | mxmodeWrite => exact execMxmodeWrite_ok (hok := hok) ..
  | dbgcmdWrite => exact execDbgcmdWrite_ok (hok := hok) ..
  | lcctlClr => exact execLcctlClr_ok (hok := hok) ..
  | pwrprofWrite => exact execPwrprofWrite_ok (hok := hok) ..
  | sysregWrite => exact execSysregWrite_ok (hok := hok) ..
  | ckptSave => exact execCkptSave_ok (hok := hok) ..
  | ckptRestore => exact execCkptRestore_ok (hok := hok) ..
  | attestRequest => exact execAttestRequest_ok (hok := hok) ..
  | notifyClear => exact execNotifyClear_ok (hok := hok) ..
  | frdataRead => exact execFrdataRead_ok (hok := hok) ..
  | fieldRecordCommit => exact execFieldRecordCommit_ok (hok := hok) ..
  | moduleReset => exact execModuleReset_ok (hok := hok) ..
  | recoveryImageWrite => exact execRecoveryImageWrite_ok (hok := hok) ..
  | thermalClockStep => exact execThermalClockStep_ok (hok := hok) ..
  | flitCrcFail => exact execFlitCrcFail_ok (hok := hok) ..
  | linkRetrain => exact execLinkRetrain_ok (hok := hok) ..
  | portDown => exact execPortDown_ok (hok := hok) ..
  | portTrained => exact execPortTrained_ok (hok := hok) ..
  | traceBrFlush => exact execTraceBrFlush_ok (hok := hok) ..
  | traceForcedSync => exact execTraceForcedSync_ok (hok := hok) ..
  | traceLoss => exact execTraceLoss_ok (hok := hok) ..
  | checkpointStreamEnd => exact execCheckpointStreamEnd_ok (hok := hok) ..
  | linkRetrainEnd => exact execLinkRetrainEnd_ok (hok := hok) ..
  | emptyIssueSlot => exact execEmptyIssueSlot_ok (hok := hok) ..
  | profileChangeTakesEffect => exact execProfileChangeTakesEffect_ok (hok := hok) ..
  | powerLoss => exact execPowerLoss_ok (hok := hok) ..
  -- The row of `recall`, a word that Mathlib keeps for a command.
  | _ => exact execRecall_ok (hok := hok) ..

theorem look_ok (s : State) (hok : s.ok) {r : Host.Outcome State Fault Refusal} (hr : outOk r) : outOk (look s r) := by
  cases r with
  | next t =>
    show State.ok (if _ then _ else _)
    split
    · exact hr
    · exact onDr_ok _ _ hok
  | fault => trivial
  | refused => trivial

theorem performTodo_ok (s : State) (w : Todo) (hok : s.ok) : outOk (performTodo s w) := by
  cases w with
  | row i => exact exec_ok i s hok
  | look i => exact look_ok s hok (exec_ok i s hok)
  | event e => exact perform_ok e s hok
  | settled => exact hok

theorem settle_ok (s : State) (w : Option Work) (cycle : Nat) {r : Host.Outcome State Fault Refusal} (hok : s.ok)
    (hr : outOk r) : outOk (settle s w cycle r) := by
  unfold settle
  grind [outOk, waitFor_ok, backOff_ok, leaveQueues_ok]

/-- Settles O10: the state in which the next work is performed is canonical, and so is what any work leaves. -/
theorem stepKeepsMemory : Obligations.StepKeepsMemory := by
  unfold Obligations.StepKeepsMemory
  intro s t hok ht
  have hn : (nextWork { s with who := none, met := none }).1.ok := nextWork_ok _ hok
  have h : outOk (step s) := settle_ok _ _ _ hok (performTodo_ok _ _ hn)
  rwa [ht] at h

end Sys2Proof.Machine

namespace Sys2Proof.Machine

set_option Elab.async false

/-! PROOFS. Scalar register forms (05 R111), their waits and stops for an empty register (01 R28), and words that are no instruction
(03 R86, R87). -/

theorem mulHigh_natCast (x y : Nat) : mulHigh x y = BitVec.ofNat 64 (x * y / 2 ^ 64) := by
  have h : ((x : Int) * y / 2 ^ 64) = ((x * y / 2 ^ 64 : Nat) : Int) := by push_cast; rfl
  rw [mulHigh, h, BitVec.ofInt_natCast]

theorem ite_slt_eq_ite_le (a b x y : W64) : (if a.slt b then x else y) = if b.toInt ≤ a.toInt then y else x := by
  by_cases h : a.toInt < b.toInt <;> simp [BitVec.slt, h]

theorem ite_ult_eq_ite_le (a b x y : W64) : (if a.ult b then x else y) = if b.toNat ≤ a.toNat then y else x := by
  by_cases h : a.toNat < b.toNat <;> simp [BitVec.ult, h]

theorem truth_ult (a b : W64) : truth (a.ult b) = if a.toNat < b.toNat then BitVec.allOnes 64 else 0 := by
  simp [truth, BitVec.ult]

/-- The forms with two sources run `scalar3` with the list's functions. -/
theorem exec_scalarThree {p : (BitVec 6 → BitVec 6 → BitVec 6 → Bool → Bool → Bool → Instr) × (W64 → W64 → W64 → W64)}
    (hp : p ∈ scalarThree) (d a b : BitVec 6) (ea eb ed : Bool) (s : State) :
    exec (p.1 d a b ea eb ed) s = scalar3 d a b ea eb ed p.2 s := by
  simp only [scalarThree, List.mem_cons, List.not_mem_nil, or_false] at hp
  rcases hp with rfl | rfl | rfl | rfl | rfl | rfl | rfl | rfl | rfl | rfl | rfl | rfl | rfl | rfl | rfl | rfl | rfl | rfl | rfl | rfl
  iterate 4 rfl
  · show scalar3 d a b ea eb ed (fun x y _ => mulHigh x.toNat y.toNat) s = _
    simp only [mulHigh_natCast]
  iterate 7 rfl
  · show scalar3 d a b ea eb ed (fun x y _ => if y.slt x then y else x) s = _
    simp only [ite_slt_eq_ite_le]
  · show scalar3 d a b ea eb ed (fun x y _ => if x.slt y then y else x) s = _
    simp only [ite_slt_eq_ite_le]
  · show scalar3 d a b ea eb ed (fun x y _ => if y.ult x then y else x) s = _
    simp only [ite_ult_eq_ite_le]
  · show scalar3 d a b ea eb ed (fun x y _ => if x.ult y then y else x) s = _
    simp only [ite_ult_eq_ite_le]
  · show scalar3 d a b ea eb ed (fun x y _ => truth (x == y)) s = _
    simp only [truth_beq]
  · show scalar3 d a b ea eb ed (fun x y _ => truth (x.slt y)) s = _
    simp only [truth_slt]
  · show scalar3 d a b ea eb ed (fun x y _ => truth (x.ult y)) s = _
    simp only [truth_ult]
  · rfl

/-- The forms with one source run `scalar2`. -/
theorem exec_scalarTwo {p : (BitVec 6 → BitVec 6 → Bool → Bool → Instr) × (W64 → W64)} (hp : p ∈ scalarTwo)
    (d a : BitVec 6) (ea ed : Bool) (s : State) : exec (p.1 d a ea ed) s = scalar2 d a ea ed p.2 s := by
  simp only [scalarTwo, List.mem_cons, List.not_mem_nil, or_false] at hp
  rcases hp with rfl | rfl | rfl | rfl <;> rfl

/-- Settles O23: both lists write S[sd] from registers, which the records of observation do not touch. -/
theorem scalarRegisterResult : Obligations.ScalarRegisterResult := by
  unfold Obligations.ScalarRegisterResult
  refine ⟨fun p hp d a b ea eb ed s hf => ?_, fun p hp d a ea ed s hf => ?_⟩
  · exact writesS_does (g := fun r => p.2 (sreg r a.toNat) (sreg r b.toNat) (sreg r d.toNat))
      (exec_scalarThree hp d a b ea eb ed s) (fun _ _ => rfl) hf
  · exact writesS_does (g := fun r => p.2 (sreg r a.toNat)) (exec_scalarTwo hp d a ea ed s) (fun _ _ => rfl) hf

section
variable {i : Instr} {s : State} {d a b : BitVec 6} {ea eb ed : Bool} {f : W64 → W64 → W64 → W64}

theorem allocated_scalar3 (hd : d.toNat < s.dr.ns) (ha : a.toNat < s.dr.ns) (hb : b.toNat < s.dr.ns) :
    Allocated s [srcS a.toNat ea, srcS b.toNat eb, dstS d.toNat ed] := by
  simp [allocated_srcS ha, allocated_srcS hb, allocated_dstS hd]

/-- A form without empty-action bits waits for the first empty register that it names. -/
theorem scalar3_waits {u : Use} {n : Nat} (he : exec i s = scalar3 d a b false false false f s)
    (hin : Allocated s [srcS a.toNat, srcS b.toNat, dstS d.toNat])
    (h : anyEmpty s [srcS a.toNat, srcS b.toNat, dstS d.toNat] = some (u, n)) (hu : u.cls = .scl) : Waits i s (.reg .scl n) :=
  waits_of_empty he hin (by simp [srcS, dstS]) h hu

/-- It stops at an empty register whose bit is set. -/
theorem scalar3_stops {u : Use} {n : Nat} (he : exec i s = scalar3 d a b ea eb ed f s)
    (hin : Allocated s [srcS a.toNat ea, srcS b.toNat eb, dstS d.toNat ed])
    (h : anyEmpty s ([srcS a.toNat ea, srcS b.toNat eb, dstS d.toNat ed].filter (·.trap)) = some (u, n)) (hu : u.cls = .scl) :
    Stops i s 0x05 (256 + n) 0 := by
  have hinfo : regInfo u.cls n = 256 + n := by simp [regInfo, hu]
  rw [← hinfo]
  exact stops_of_empty he hin h

end

/-- Settles O15: the first empty register of sa, sb and sd decides. -/
theorem emptyRegisterWaitsOrTraps : Obligations.EmptyRegisterWaitsOrTraps := by
  unfold Obligations.EmptyRegisterWaitsOrTraps
  intro p hp d a b s hd ha hb
  have he ea eb ed := exec_scalarThree hp d a b ea eb ed s
  have hin {ea eb ed} := allocated_scalar3 (ea := ea) (eb := eb) (ed := ed) hd ha hb
  have ta : [srcS a.toNat true, srcS b.toNat, dstS d.toNat].filter (·.trap) = [srcS a.toNat true] := rfl
  have tb : [srcS a.toNat, srcS b.toNat true, dstS d.toNat].filter (·.trap) = [srcS b.toNat true] := rfl
  have td : [srcS a.toNat, srcS b.toNat, dstS d.toNat true].filter (·.trap) = [dstS d.toNat true] := rfl
  refine ⟨fun h => ⟨?_, ?_⟩, fun h h' => ⟨?_, ?_⟩, fun h h' h'' => ⟨?_, ?_⟩⟩
  · exact scalar3_waits (u := srcS a.toNat) (he ..) hin (by simp [anyEmpty, firstEmpty_srcS, h]) rfl
  · exact scalar3_stops (u := srcS a.toNat true) (he ..) hin (by simp [ta, anyEmpty, firstEmpty_srcS, h]) rfl
  · exact scalar3_waits (u := srcS b.toNat) (he ..) hin (by simp [anyEmpty, firstEmpty_srcS, h, h']) rfl
  · exact scalar3_stops (u := srcS b.toNat true) (he ..) hin (by simp [tb, anyEmpty, firstEmpty_srcS, h']) rfl
  · exact scalar3_waits (u := dstS d.toNat) (he ..) hin (by simp [anyEmpty, firstEmpty_srcS, firstEmpty_dstS, h, h', h'']) rfl
  · exact scalar3_stops (u := dstS d.toNat true) (he ..) hin (by simp [td, anyEmpty, firstEmpty_dstS, h'']) rfl

/-- Settles O4: the meaning of the illegal word checks its opcode, then the mode, and answers 0x02 for the rest. -/
theorem illegalWordStops : Obligations.IllegalWordStops := by
  unfold Obligations.IllegalWordStops
  intro s w op matrix priv
  have hpriv : (privOpcode op || (op == 0xFC || op == 0xFD) && decide (0x80 ≤ sysNum w)) = true ↔ priv := by
    simp [priv, privOpcode, or_assoc]
  have he : exec (.illegalWord w) s = execIllegalWord w s := rfl
  simp only [Stops, he, execIllegalWord]
  have hmatrix : (decide (0xD8 ≤ op ∧ op ≤ 0xE3 ∨ op = 0xF4) && s.dr.shepherd) = true ↔ matrix ∧ s.dr.shepherd = true := by
    simp [matrix]
  refine ⟨fun h => ?_, fun hop hm => ⟨fun h => ?_, fun h => ?_⟩⟩
  · rcases h with hop | hm
    · rw [if_pos (by rw [hop]; rfl)]
    · rw [if_pos (hmatrix.mpr hm), ite_self]
  · rw [if_neg (by rw [hop]; decide), if_neg (mt hmatrix.mp hm), if_pos (by rw [hpriv.mpr h.1, h.2]; rfl)]
  · rw [if_neg (by rw [hop]; decide), if_neg (mt hmatrix.mp hm), if_neg]
    rw [Bool.and_eq_true, hpriv, Bool.not_eq_true']
    exact fun hx => h hx.symm

end Sys2Proof.Machine

namespace Sys2Proof.Machine

set_option Elab.async false

/-! PROOFS. Calls and returns (05 R115, R116), and the mode instructions (05 R121, R123). -/

/-- An effect on the drove that leaves its records of observation alone keeps two states apart in their records only. -/
theorem Recorded.onDr {s t : State} (h : Recorded s t) {f : Drove → Drove}
    (hf : ∀ d o, f (Drove.recorded d o) = (f d).recorded o) : Recorded (onDr s f) (onDr t f) := by
  obtain ⟨o, li, fr, ds, ln, ts, du, hd, rfl⟩ := h
  refine ⟨o, li, fr, ds, ln, ts, du, hd, ?_⟩
  simp only [Machine.onDr, hf]

/-- An instruction that changes its drove by `f` and transfers to `pc`, whatever records it leaves on the way. -/
theorem goes_of_recorded_onDr {i : Instr} {s t : State} {pc : W64} {f : Drove → Drove}
    (he : exec i s = .next (retireAt (onDr t f) pc)) (h : Recorded s t)
    (hf : ∀ d o, f (Drove.recorded d o) = (f d).recorded o) : Goes i s pc f :=
  ⟨_, he, (h.onDr hf).retireAt_bare pc⟩

theorem Recorded.links {s t : State} (h : Recorded s t) : t.dr.links = s.dr.links := by
  obtain ⟨o, li, fr, ds, ln, ts, du, hd, rfl⟩ := h
  rfl

theorem fits_srcS_trap (s : State) (n : Nat) (t : Bool) : fits s [srcS n t] = fits s [srcS n] := rfl

theorem branchTarget_aligned {d : Drove} (off : BitVec 18) (h : d.pc.toNat % 4 = 0) : (branchTarget d off).toNat % 4 = 0 := by
  rw [branchTarget_eq]
  have h4 : (4 : W64).toNat = 4 := rfl
  simp only [BitVec.toNat_add, BitVec.toNat_mul, h4]
  omega

theorem callVerdict_overflow {s : State} (target : State → W64) (h : s.dr.depth = 512) :
    callVerdict target s = .stop 0x0B 0 (s.dr.sbase + 0x1000).toNat := by
  simp [callVerdict, h, stopIf, firstOf]

theorem callVerdict_misaligned {s : State} {target : State → W64} (hd : s.dr.depth ≠ 512) (h : (target s).toNat % 4 ≠ 0) :
    callVerdict target s = .stop 0x14 0 0 := by
  simp [callVerdict, hd, h, stopIf, firstOf]

theorem callVerdict_go {s : State} {target : State → W64} (hd : s.dr.depth ≠ 512) (h : (target s).toNat % 4 = 0)
    (hl : s.dr.links.length < 16) : callVerdict target s = .go := by
  simp [callVerdict, hd, h, Nat.not_le.mpr hl, stopIf, waitIf, firstOf]

section
variable {s : State} {a : BitVec 6} {ea : Bool} {off : BitVec 18}

theorem call_goes (hd : s.dr.depth ≠ 512) (hl : s.dr.links.length < 16) (hpc : s.dr.pc.toNat % 4 = 0) :
    Goes (.call off) s (branchTarget s.dr off) fun d => { d with links := (d.pc + 4) :: d.links, depth := d.depth + 1 } := by
  have he : exec (.call off) s = .next (issueIf {} (callVerdict fun s => branchTarget s.dr off) s fun s =>
    pushCall (branchTarget s.dr off) s) := rfl
  rw [issueIf_go _ (verdict_uses_go (us := []) rfl) (callVerdict_go hd (branchTarget_aligned off hpc) hl)] at he
  have hr := issued_recorded (canGo {} (callVerdict fun s => branchTarget s.dr off) s) s [] 1
  rw [hr.branchTarget] at he
  exact goes_of_recorded_onDr he hr fun _ _ => rfl

theorem callr_goes (hd : s.dr.depth ≠ 512) (hl : s.dr.links.length < 16) (hf : fits s [srcS a.toNat] = true)
    (ht : (sreg s.dr a.toNat).toNat % 4 = 0) :
    Goes (.callr a ea) s (sreg s.dr a.toNat) fun d => { d with links := (d.pc + 4) :: d.links, depth := d.depth + 1 } := by
  have he : exec (.callr a ea) s = .next (issueIf { uses := [srcS a.toNat ea] } (callVerdict fun s => sreg s.dr a.toNat) s fun s =>
    pushCall (sreg s.dr a.toNat) (traceIndirect s (sreg s.dr a.toNat))) := rfl
  rw [issueIf_go _ (verdict_uses_go (us := [srcS a.toNat ea]) hf) (callVerdict_go hd ht hl)] at he
  have hr := issued_recorded (canGo { uses := [srcS a.toNat ea] } (callVerdict fun s => sreg s.dr a.toNat) s) s [srcS a.toNat ea] 1
  rw [hr.sreg] at he
  exact goes_of_recorded_onDr he (hr.trans (traceIndirect_recorded _ _)) fun _ _ => rfl

theorem ret_goes {top : W64} {rest : List W64} (hd : s.dr.depth ≠ 0) (hl : s.dr.links = top :: rest) (ht : top.toNat % 4 = 0) :
    Goes .ret s top fun d => { d with links := rest, depth := d.depth - 1 } := by
  have hx : retVerdict s = .go := by simp [retVerdict, hd, hl, stopIf, ht]
  have he : exec .ret s = .next (issueIf {} retVerdict s fun s => retireAt (onDr (traceIndirect s (s.dr.links.headD 0))
    fun d => { d with links := d.links.tail, depth := d.depth - 1 }) (s.dr.links.headD 0)) := rfl
  rw [issueIf_go _ (verdict_uses_go (us := []) rfl) hx] at he
  have hr := issued_recorded (canGo {} retVerdict s) s [] 1
  rw [hr.links, hl] at he
  obtain ⟨t, ht, hb⟩ := goes_of_recorded_onDr (f := fun d => { d with links := d.links.tail, depth := d.depth - 1 }) he
    (hr.trans (traceIndirect_recorded _ _)) fun _ _ => rfl
  refine ⟨t, ht, hb.trans ?_⟩
  simp only [onDr, hl, List.tail_cons, List.headD_cons]

theorem jmpr_goes (hf : fits s [srcS a.toNat] = true) (ht : (sreg s.dr a.toNat).toNat % 4 = 0) :
    Goes (.jmpr a ea) s (sreg s.dr a.toNat) id := by
  have hx : stopIf ((sreg s.dr a.toNat).toNat % 4 != 0) 0x14 = .go := by simp [stopIf, ht]
  have he : exec (.jmpr a ea) s = .next (issueIf { uses := [srcS a.toNat ea] } (fun s => stopIf ((sreg s.dr a.toNat).toNat % 4 != 0) 0x14) s
    fun s => retireAt (traceIndirect s (sreg s.dr a.toNat)) (sreg s.dr a.toNat)) := rfl
  rw [issueIf_go _ (verdict_uses_go (us := [srcS a.toNat ea]) hf) hx] at he
  have hr := issued_recorded (canGo { uses := [srcS a.toNat ea] } (fun s => stopIf ((sreg s.dr a.toNat).toNat % 4 != 0) 0x14) s) s
    [srcS a.toNat ea] 1
  rw [hr.sreg] at he
  exact goes_of_recorded he (hr.trans (traceIndirect_recorded _ _))

end

/-- An instruction whose fields pass and whose registers are full stops with the cause that their contents give (03 R87). -/
theorem stops_of_content {i : Instr} {s : State} {us : List Use} {dyn : State → Verdict} {run : State → State} {x : BitVec 8}
    {info addr : Nat} (he : exec i s = .next (issueIf { uses := us } dyn s run)) (hf : fits s us = true)
    (hd : dyn s = .stop x info addr) : Stops i s x info addr :=
  he.trans (congrArg _ (issueIf_stop' run (verdict_uses_go hf) hd))

/-- Settles O17: `callVerdict` and `retVerdict` order the causes; what goes pushes or pops on a state that differs in its records. -/
theorem callResult : Obligations.CallResult := by
  unfold Obligations.CallResult
  intro s a ea off target push
  have htarget : branchTarget s.dr off = target := branchTarget_eq s.dr off
  refine ⟨fun hd hl hpc => htarget ▸ call_goes hd hl hpc, fun hd hl hf ht => callr_goes hd hl hf ht,
    fun top rest hd hl ht => ret_goes hd hl ht, jmpr_goes, fun hd => ⟨?_, fun hf => ?_⟩, fun hd => ?_, fun hf ht => ⟨?_, fun hd => ?_⟩,
    fun top rest hd hl ht => ?_⟩
  · exact stops_of_content (us := []) rfl rfl (callVerdict_overflow _ hd)
  · exact stops_of_content (us := [srcS a.toNat ea]) rfl hf (callVerdict_overflow _ hd)
  · exact stops_of_content (us := []) (dyn := retVerdict) rfl rfl (by simp [retVerdict, hd])
  · exact stops_of_content (us := [srcS a.toNat ea]) (dyn := fun s => stopIf ((sreg s.dr a.toNat).toNat % 4 != 0) 0x14) rfl hf
      (by simp [stopIf, ht])
  · exact stops_of_content (us := [srcS a.toNat ea]) rfl hf (callVerdict_misaligned (target := fun s => sreg s.dr a.toNat) hd ht)
  · exact stops_of_content (us := []) (dyn := retVerdict) rfl rfl (by simp [retVerdict, hd, hl, stopIf, ht])

/-- Bit `i` of a mask of `w` bits from bit `lo` up. -/
theorem getLsbD_fieldMask (lo w i : Nat) (hi : i < 32) :
    (BitVec.ofNat 32 ((2 ^ w - 1) * 2 ^ lo)).getLsbD i = decide (lo ≤ i ∧ i < lo + w) := by
  rw [BitVec.getLsbD_ofNat, Nat.testBit_mul_two_pow, Nat.testBit_two_pow_sub_one]
  by_cases h : lo ≤ i
  · simp [hi, h]; omega
  · simp [h]

/-- A field write replaces the field's bits and no other (05 R123). -/
theorem getLsbD_field (m : BitVec 32) (v : BitVec 6) (lo w i : Nat) (hi : i < 32) :
    let mask : BitVec 32 := BitVec.ofNat 32 ((2 ^ w - 1) * 2 ^ lo)
    ((m &&& ~~~mask) ||| ((v.setWidth 32 <<< lo) &&& mask)).getLsbD i =
      if lo ≤ i ∧ i < lo + w then v.getLsbD (i - lo) else m.getLsbD i := by
  intro mask
  have hmask : mask.getLsbD i = decide (lo ≤ i ∧ i < lo + w) := getLsbD_fieldMask lo w i hi
  rw [BitVec.getLsbD_or, BitVec.getLsbD_and, BitVec.getLsbD_and, BitVec.getLsbD_not, hmask]
  by_cases h : lo ≤ i ∧ i < lo + w
  · simp [h, hi]
  · simp [h, hi]

/-- Settles O19: the two writes of MODE are effects on the drove, and a field's mask tells its bits from the others. -/
theorem modeResult : Obligations.ModeResult := by
  unfold Obligations.ModeResult
  refine ⟨fun s d a ea ed fld v => ⟨fun hf => ⟨fun hm => ?_, fun hm => ?_⟩, fun hm => ?_, fun hm => ?_⟩, fun m v p hp i hi => ?_⟩
  · refine does_of_go (c := { uses := [srcS a.toNat ea, dstS d.toNat ed] })
      (dyn := fun s => stopIf (!modeOk64 s.dr (sreg s.dr a.toNat)) 0x02) rfl (verdict_uses_go hf) (by simp [stopIf, hm]) fun d o => ?_
    rw [setS_recorded]
    rfl
  · exact stops_of_content (dyn := fun s => stopIf (!modeOk64 s.dr (sreg s.dr a.toNat)) 0x02) rfl hf (by simp [stopIf, hm])
  · exact does_of_go (c := { bad := !modeFldOk s.dr.ns fld.toNat v }) (dyn := fun _ => .go) rfl
      (verdict_go rfl rfl rfl (by simp [hm]) rfl rfl (.inl rfl) (.inl rfl) (.inl rfl)) rfl fun _ _ => rfl
  · have hv : verdict { bad := !modeFldOk s.dr.ns fld.toNat v } s = .stop 0x02 0 0 := by simp [verdict, hm]
    exact congrArg _ (issueIf_stop _ hv)
  · simp only [List.mem_cons, List.not_mem_nil, or_false] at hp
    rcases hp with rfl | rfl | rfl | rfl | rfl | rfl | rfl | rfl | rfl | rfl <;> exact getLsbD_field m v _ _ i hi

end Sys2Proof.Machine

namespace Sys2Proof.Machine

set_option Elab.async false

/-! PROOFS. The frame of an instruction that changes its drove alone, and what a stop writes (17 R363, R364). -/

/-- Outside a microprogram the next instruction is at PC + 4. -/
theorem retire_of_no_micro {s : State} (h : s.dr.micro = none) :
    retire s = { s with dr := retireDr s.dr (s.dr.pc + 4) none s.cycle, fl := { s.fl with lastIssue := s.cycle } } := by
  unfold retire
  rw [h]
  rfl

/-- What a home serves depends on device memory and on the copies alone. -/
theorem homeByte_congr {s t : State} (hm : t.mem = s.mem) (hc : t.coh = s.coh) (a : Nat) : homeByte t a = homeByte s a := by
  unfold homeByte merged dirOf ownedLine
  rw [hm, hc]

theorem nextLclk_of_plain {d : Drove} (hh : d.help = false) (hw : d.wakeAt = none) : nextLclk d = d.lclk + 1 := by
  simp [nextLclk, hh, hw]

theorem map_bare_frame {ds es : List Drove} (h : ds.map Drove.bare = es.map Drove.bare) :
    ds.map (fun d => (d.uid, d.s, d.v, d.pc)) = es.map fun d => (d.uid, d.s, d.v, d.pc) := by
  have hf := congrArg (List.map fun d => (d.uid, d.s, d.v, d.pc)) h
  rwa [List.map_map, List.map_map] at hf

/-- Settles O12: what `State.bare` forgets is what the statement leaves out, so each field follows from the equation of bare states. -/
theorem becomesFrame : Obligations.BecomesFrame := by
  unfold Obligations.BecomesFrame
  refine ⟨fun fit s us slots => (issued_recorded fit s us slots).bare, fun s t f h hm ha hh hw => ?_⟩
  rw [Becomes, retire_of_no_micro (s := onDr s f) hm] at h
  have st {α : Type} (g : State → α) := congrArg g h
  have dr {α : Type} (g : Drove → α) := congrArg (fun x : State => g x.dr) h
  have hmem : t.mem = s.mem := st (·.mem)
  have hcoh : t.coh = s.coh := st (·.coh)
  have hpriv : t.priv = s.priv := st (·.priv)
  have hpc : t.dr.pc = (f s.dr).pc + 4 := (dr (·.pc)).trans (by simp [State.bare, Drove.bare, retireDr, ha])
  have hlclk : t.dr.lclk = (f s.dr).lclk + 1 := (dr (·.lclk)).trans (nextLclk_of_plain hh hw)
  exact ⟨hpc, hlclk, dr (·.s), dr (·.v), dr (·.sfull), dr (·.vfull), dr (·.mode), dr (·.flags), dr (·.satd), dr (·.xoor), dr (·.pres),
    dr (·.links), dr (·.depth), dr (·.rkey), dr (·.rctr), dr (·.frec), dr (·.stop), dr (·.cond), hmem, st (·.reqs), hpriv, hcoh,
    st (·.vc), st (·.eng), st (·.sch), st (·.flocks), st (·.fl), map_bare_frame (st (·.droves)),
    homeByte_congr hmem hcoh, fun n => by rw [privReg, privReg, hpriv]⟩

/-- The drove at the port after it has parted from its gang. -/
theorem partGang_dr (s : State) : (partGang s s.dr.uid).dr = unGang s.dr := by simp [partGang]

@[simp] theorem partGang_sch (s : State) (u : Nat) : (partGang s u).sch = s.sch := rfl
@[simp] theorem partGang_mem (s : State) (u : Nat) : (partGang s u).mem = s.mem := rfl
@[simp] theorem partGang_coh (s : State) (u : Nat) : (partGang s u).coh = s.coh := rfl

theorem csbField_congr {s t : State} (hs : t.sch.ctxs = s.sch.ctxs) (hm : t.mem = s.mem) (hc : t.coh = s.coh) (c : BitVec 16) (off n : Nat) :
    csbField t c off n = csbField s c off n := by
  have hb (a : Nat) : homeBytes t a n = homeBytes s a n := by
    induction n generalizing a with
    | zero => rfl
    | succ n ih => simp only [homeBytes, homeByte_congr hm hc, ih]
  simp only [csbField, ctxOf, homeRead, hs, hb]

@[simp] theorem countRecord_mem (s : State) (i lo w : Nat) : (countRecord s i lo w).mem = s.mem := rfl
@[simp] theorem countRecord_sch (s : State) (i lo w : Nat) : (countRecord s i lo w).sch = s.sch := rfl
@[simp] theorem countRecord_dr (s : State) (i lo w : Nat) : (countRecord s i lo w).dr = s.dr := rfl

section
variable (s : State) (c typ : BitVec 16) (id : BitVec 32) (pc pay : W64) (stamp : Option W64)

/-- A record held for a context's queue changes the records that are held alone. -/
theorem postFevq_eq : ∃ es, postFevq s c typ id pc pay stamp = { s with sch := { s.sch with events := es } } := by
  unfold postFevq
  dsimp only
  split
  · exact ⟨s.sch.events, rfl⟩
  · exact ⟨_, rfl⟩

@[simp] theorem postFevq_mem : (postFevq s c typ id pc pay stamp).mem = s.mem := by
  obtain ⟨es, h⟩ := postFevq_eq s c typ id pc pay stamp; rw [h]
@[simp] theorem postFevq_dr : (postFevq s c typ id pc pay stamp).dr = s.dr := by
  obtain ⟨es, h⟩ := postFevq_eq s c typ id pc pay stamp; rw [h]
@[simp] theorem postFevq_ctxs : (postFevq s c typ id pc pay stamp).sch.ctxs = s.sch.ctxs := by
  obtain ⟨es, h⟩ := postFevq_eq s c typ id pc pay stamp; rw [h]

end

/-- A context that is bound reads as changed. -/
theorem ctxOf_onCtx {s : State} {c : BitVec 16} {x : Ctx} (f : Ctx → Ctx) (h : ctxOf s c = some x) (hid : ∀ y, (f y).id = y.id) :
    ctxOf (onCtx s c f) c = some (f x) := by
  have hsome : (ctxOf s c).isSome = true := by rw [h]; rfl
  have hfind : s.sch.ctxs.find? (fun y => y.id == c) = some x := h
  have hid' (y : Ctx) : (if (y.id == c) = true then f y else y).id = y.id := by
    split
    · exact hid y
    · rfl
  have hx : (x.id == c) = true := List.find?_some (p := fun y : Ctx => y.id == c) hfind
  rw [ctxOf, onCtx_sch, hsome, if_pos rfl]
  dsimp only [mapIf]
  rw [List.find?_map]
  simp only [Function.comp_def, hid', hfind, Option.map_some, hx, if_true]

/-- The drove of a stop that is taken: it issues nothing more, and keeps what the stop has to say. -/
def stoppedDr (i : StopInfo) (seq now : Nat) (d : Drove) : Drove :=
  { d with
    cond := .stopped, since := now, promoted := false, dog := false, brkSkip := false, stopDue := none
    stop := some { seq := seq, cause := i.cause, step := i.after, again := i.again,
                   resume := BitVec.ofNat 64 (i.resume.toNat / 4 * 4), deliver := i.deliver } }

/-- Where its record is free and can be written, a stop is taken: its drove is stopped, the context's stop sequence goes on, the stop
is counted and its event is held. -/
theorem takeStop_taken {s t : State} {i : StopInfo} (hf : frecBusy (partGang s s.dr.uid) (partGang s s.dr.uid).dr = false)
    (hp : vaPut (partGang s s.dr.uid) s.dr.ctx s.dr.frec.toNat (recordBytes s.dr i.cause i.kind i.step i.pc i.addr i.mask i.info i.resume
      ((ctxOf s s.dr.ctx).elim 0 (·.stopSeq)) (csbField s s.dr.ctx 4 2)) = (none, t)) :
    ∃ es, takeStop s i =
      { t with dr := stoppedDr i ((ctxOf s s.dr.ctx).elim 0 (·.stopSeq)) t.cycle (unGang s.dr)
               sch := { (onCtx t s.dr.ctx fun c => { c with stopSeq := (c.stopSeq + 1) % 2 ^ 32 }).sch with events := es }
               dev := (countRecord t (0x1A00 + i.cause.toNat % 64) 0 64).dev } := by
  have hdr : t.dr = unGang s.dr := (vaPut_dr hp).1.trans (partGang_dr s)
  have hcsb : csbField (partGang s s.dr.uid) s.dr.ctx 4 2 = csbField s s.dr.ctx 4 2 := csbField_congr rfl rfl rfl _ _ _
  have hctx : (partGang s s.dr.uid).dr.ctx = s.dr.ctx := by rw [partGang_dr]; rfl
  have hfrec : (partGang s s.dr.uid).dr.frec = s.dr.frec := by rw [partGang_dr]; rfl
  have hrec (seq cgen : Nat) : recordBytes (partGang s s.dr.uid).dr i.cause i.kind i.step i.pc i.addr i.mask i.info i.resume seq cgen =
      recordBytes s.dr i.cause i.kind i.step i.pc i.addr i.mask i.info i.resume seq cgen := by rw [partGang_dr]; rfl
  unfold takeStop
  dsimp only
  rw [hf, if_neg (by decide), hctx, hfrec, hrec, hcsb]
  have hseq : ctxOf (partGang s s.dr.uid) s.dr.ctx = ctxOf s s.dr.ctx := rfl
  rw [hseq, hp]
  dsimp only
  have hpost (v : State) : ∃ es, postFevq v v.dr.ctx 0x0201 v.dr.droveId i.pc v.dr.frec (if v.dr.det then some v.dr.lclk else none) =
      { v with sch := { v.sch with events := es } } := postFevq_eq ..
  obtain ⟨es, he⟩ := hpost (countRecord (onCtx t t.dr.ctx fun c => { c with stopSeq := (c.stopSeq + 1) % 2 ^ 32 })
    (0x1A00 + i.cause.toNat % 64) 0 64)
  rw [he, hdr]
  refine ⟨es, ?_⟩
  simp only [onDr, countRecord, onCtx, hdr]
  rfl

/-- Settles O21: what follows the write of the record touches neither memory nor the registers. -/
theorem stopsWriteRecord : Obligations.StopsWriteRecord := by
  unfold Obligations.StopsWriteRecord
  intro s t i u hf hp
  obtain ⟨es, h⟩ := takeStop_taken hf hp
  rw [h]
  refine ⟨rfl, rfl, rfl, rfl, rfl, rfl, rfl, rfl, fun c hc => ?_, ?_⟩
  · have hct : ctxOf t s.dr.ctx = some c := by rw [ctxOf, (vaPut_dr hp).2]; exact hc
    exact congrArg (Option.map (·.stopSeq)) (ctxOf_onCtx (fun c => { c with stopSeq := (c.stopSeq + 1) % 2 ^ 32 }) hct fun _ => rfl)
  · simp [stoppedDr]

end Sys2Proof.Machine

namespace Sys2Proof.Machine

set_option Elab.async false

/-! PROOFS. Vector, compare and lane forms: what each checks, refuses and does is proved once for `vecOp`, `cmpOp` and `laneIssue`;
a form then only says which checks and lanes it has. -/

/-- Register fields that are checked alike: the same allocation, alignment and registers (01 R22-R28, 03 R87). -/
def SameFields (us vs : List Use) : Prop :=
  ∀ s : State, fits s us = fits s vs ∧
    (us.any fun u => decide (allocOf s.dr u.cls < u.base + u.n)) = (vs.any fun u => decide (allocOf s.dr u.cls < u.base + u.n)) ∧
    (us.any fun u => u.base % u.align != 0) = vs.any fun u => u.base % u.align != 0

/-- The checks of an instruction on lanes: register fields as `us`, other fields as `bad`, types as `typ`, and the masks
(03 R86, R87). -/
structure Chk.LaneWise (c : Chk) (us : List Use) (bad typ : Bool) : Prop where
  noShep : c.noShep = false := by rfl
  priv   : c.priv = false := by rfl
  odd    : c.odd = false := by rfl
  conv   : c.conv = false := by rfl
  sync   : c.sync = false := by rfl
  fields : SameFields c.uses us := by exact fun _ => ⟨rfl, rfl, rfl⟩
  bad    : c.bad = bad := by rfl
  typ    : c.typ = typ := by rfl

namespace Chk.LaneWise

variable {c : Chk} {us : List Use} {bad typ : Bool} {s : State}

theorem verdict_outside (h : c.LaneWise us bad typ)
    (ho : (bad || us.any fun u => decide (allocOf s.dr u.cls < u.base + u.n)) = true) :
    verdict { c with masks := true } s = .stop 0x02 0 0 := by
  rw [← (h.fields s).2.1, ← h.bad] at ho
  simp only [verdict, h.noShep, h.priv, ho, Bool.false_and, if_true, Bool.false_eq_true, if_false]

theorem verdict_misaligned (h : c.LaneWise us bad typ)
    (ho : (bad || us.any fun u => decide (allocOf s.dr u.cls < u.base + u.n)) = false)
    (hm : (us.any fun u => u.base % u.align != 0) = true) : verdict { c with masks := true } s = .stop 0x04 0 0 := by
  rw [← (h.fields s).2.1, ← h.bad] at ho
  rw [← (h.fields s).2.2] at hm
  simp only [verdict, h.noShep, h.priv, ho, hm, Bool.false_and, Bool.or_true, if_true, Bool.false_eq_true, if_false]

theorem verdict_type (h : c.LaneWise us bad typ)
    (ho : (bad || us.any fun u => decide (allocOf s.dr u.cls < u.base + u.n)) = false)
    (hm : (us.any fun u => u.base % u.align != 0) = false) (ht : typ = false) :
    verdict { c with masks := true } s = .stop 0x03 0 0 := by
  rw [← (h.fields s).2.1, ← h.bad] at ho
  rw [← (h.fields s).2.2] at hm
  rw [← h.typ] at ht
  simp only [verdict, h.noShep, h.priv, ho, hm, h.odd, ht, Bool.false_and, Bool.false_or, Bool.not_false, if_true,
    Bool.false_eq_true, if_false]

theorem verdict_go (h : c.LaneWise us bad typ) (hf : fits s us = true) (hm : masksFull s = true) (hb : bad = false)
    (ht : typ = true) : verdict { c with masks := true } s = .go :=
  Machine.verdict_go ((h.fields s).1.trans hf) (by simp [h.noShep]) (by simp [h.priv]) (h.bad.trans hb) h.odd (h.typ.trans ht)
    (.inl h.conv) (.inr hm) (.inl h.sync)

end Chk.LaneWise

/-- The instruction checks its fields, then its tuples, then its types. -/
def InOrder (s : State) (i : Instr) (us : List Use) (bad typ : Bool) : Prop :=
  let outside := bad || us.any fun u => decide (allocOf s.dr u.cls < u.base + u.n)
  let misaligned := us.any fun u => u.base % u.align != 0
  (outside = true → Stops i s 0x02 0 0) ∧ (outside = false → misaligned = true → Stops i s 0x04 0 0) ∧
    (outside = false → misaligned = false → typ = false → Stops i s 0x03 0 0)

theorem inOrder_of_issueIf {i : Instr} {s : State} {c : Chk} {dyn : State → Verdict} {run : State → State} {us : List Use}
    {bad typ : Bool} (he : exec i s = .next (issueIf { c with masks := true } dyn s run)) (h : c.LaneWise us bad typ) :
    InOrder s i us bad typ :=
  ⟨fun ho => he.trans (congrArg _ (issueIf_stop run (h.verdict_outside ho))),
    fun ho hm => he.trans (congrArg _ (issueIf_stop run (h.verdict_misaligned ho hm))),
    fun ho hm ht => he.trans (congrArg _ (issueIf_stop run (h.verdict_type ho hm ht)))⟩

/-- The form is `vecOp` with checks `c` and lanes `f`. -/
structure VecForm.Is (s : State) (v : VecForm) (c : Chk) (f : Drove → Nat → LaneOut) : Prop where
  run    : exec v.i s = vecOp c v.dsts f s
  checks : c.LaneWise v.us false v.typ := by exact {}
  lanes  : f s.dr = v.f := by rfl
  unseen : ∀ d o, f (Drove.recorded d o) = f d := by exact fun _ _ => rfl
  dsts   : v.dsts.Nodup := by exact List.nodup_singleton _

/-- The form is a `vecOp`. -/
def VecForm.IsOp (s : State) (v : VecForm) : Prop := ∃ c f, v.Is s c f

theorem VecForm.IsOp.runs {s : State} {v : VecForm} (h : v.IsOp s) : v.Runs s := by
  obtain ⟨c, f, h⟩ := h
  intro hr
  rw [vecReady, ← (h.checks.fields s).1, ← h.checks.typ, ← h.lanes] at hr
  rw [← h.lanes]
  exact vecOp_does h.run hr h.checks.noShep h.checks.priv h.checks.bad h.checks.odd h.checks.conv h.checks.sync h.dsts h.unseen

theorem VecForm.IsOp.inOrder {s : State} {v : VecForm} (h : v.IsOp s) : InOrder s v.i v.us false v.typ := by
  obtain ⟨c, f, h⟩ := h
  exact inOrder_of_issueIf h.run h.checks

/-- NV in an active lane needs an active lane, and FEX then stops the instruction (06 R127). -/
theorem fexVerdict_stop {s : State} {f : Drove → Nat → LaneOut} (hx : modeFEX s.dr.mode = true)
    (hn : raisedIn s.dr (f s.dr) 0 = true) : fexVerdict f s = .stop 0x28 0 0 := by
  have ha : activeMask s.dr ≠ 0 := fun h => by simp [raisedIn_inactive _ _ _ h] at hn
  simp only [fexVerdict, stopIf, flNV_and, activeFl_flag, hx, hn, bne_iff_ne.2 ha, Bool.and_true, if_true]

theorem VecForm.IsOp.stops {s : State} {v : VecForm} (h : v.IsOp s) (hi : v.invalid s = true) : Stops v.i s 0x28 0 0 := by
  obtain ⟨c, f, h⟩ := h
  simp only [VecForm.invalid, ← h.lanes, Bool.and_eq_true] at hi
  obtain ⟨⟨⟨⟨hf, hm⟩, ht⟩, hx⟩, hn⟩ := hi
  exact h.run.trans (congrArg _ (issueIf_stop' _ (h.checks.verdict_go hf hm rfl ht) (fexVerdict_stop hx hn)))

/-- The compare is `cmpOp` with checks `c` and lanes `f`. -/
structure CmpForm.Is (s : State) (d : BitVec 6) (v : CmpForm) (c : Chk) (f : Drove → Nat → Bool × Fl) : Prop where
  run    : exec v.i s = cmpOp c d.toNat f s
  checks : c.LaneWise v.us false v.typ := by exact {}
  lanes  : f s.dr = v.f := by rfl
  unseen : ∀ d o, f (Drove.recorded d o) = f d := by exact fun _ _ => rfl

/-- The compare is a `cmpOp`. -/
def CmpForm.IsOp (s : State) (d : BitVec 6) (v : CmpForm) : Prop := ∃ c f, v.Is s d c f

section
variable {s : State} {d : BitVec 6} {v : CmpForm}

theorem CmpForm.IsOp.runs (h : v.IsOp s d) : v.Runs s d := by
  obtain ⟨c, f, h⟩ := h
  intro hr
  rw [cmpReady, ← (h.checks.fields s).1, ← h.checks.typ, ← h.lanes] at hr
  rw [← h.lanes]
  exact cmpOp_does h.run hr h.checks.noShep h.checks.priv h.checks.bad h.checks.odd h.checks.conv h.checks.sync h.unseen

theorem CmpForm.IsOp.inOrder (h : v.IsOp s d) : InOrder s v.i v.us false v.typ := by
  obtain ⟨c, f, h⟩ := h
  exact inOrder_of_issueIf h.run h.checks

theorem CmpForm.IsOp.stops (h : v.IsOp s d) (hi : v.invalid s = true) : Stops v.i s 0x28 0 0 := by
  obtain ⟨c, f, h⟩ := h
  simp only [CmpForm.invalid, ← h.lanes, Bool.and_eq_true] at hi
  obtain ⟨⟨⟨⟨hf, hm⟩, ht⟩, hx⟩, hn⟩ := hi
  exact h.run.trans (congrArg _ (issueIf_stop' _ (h.checks.verdict_go hf hm rfl ht)
    (by simp only [stopIf, flNV_and, compareFl_flag, hx, hn, Bool.and_true, if_true])))

end

/-- The form is `laneIssue` with checks `c`, the check `dyn` of its values and the effect `run`. -/
structure LaneForm.Is (s : State) (v : LaneForm) (c : Chk) (dyn : State → Verdict) (run : Drove → Drove) : Prop where
  issue  : exec v.i s = laneIssue c dyn s run
  checks : c.LaneWise v.us v.bad v.typ := by exact {}
  values : dyn s = stopIf (v.invalid s) 0x28
  effect : run s.dr = v.f s.dr := by rfl
  unseen : ∀ d o, run (Drove.recorded d o) = (run d).recorded o := by exact fun _ _ => rfl

/-- The form is a `laneIssue`. -/
def LaneForm.IsOp (s : State) (v : LaneForm) : Prop := ∃ c dyn run, v.Is s c dyn run

section
variable {s : State} {v : LaneForm}

theorem LaneForm.IsOp.runs (h : v.IsOp s) : v.Runs s := by
  obtain ⟨c, dyn, run, h⟩ := h
  intro hr hi
  simp only [LaneForm.ready, Bool.and_eq_true, Bool.not_eq_true'] at hr
  obtain ⟨⟨⟨hf, hm⟩, hb⟩, ht⟩ := hr
  have he : exec v.i s = .next (issueIf { c with masks := true } dyn s fun s =>
      retire (onDr s fun d => if activeMask d = 0 then d else run d)) := by
    refine h.issue.trans (congrArg (fun g => (.next (issueIf { c with masks := true } dyn s g) : Out)) (funext fun t => ?_))
    by_cases ha : activeMask t.dr = 0 <;> simp only [ha, if_true, if_false, onDr]
  refine (does_of_go he (h.checks.verdict_go hf hm hb ht) (by simp [h.values, hi, stopIf]) fun d o => ?_).congr ?_
  · have : activeMask (Drove.recorded d o) = activeMask d := rfl
    simp only [this, h.unseen]
    split <;> rfl
  · simp only [h.effect]

theorem LaneForm.IsOp.inOrder (h : v.IsOp s) : InOrder s v.i v.us v.bad v.typ := by
  obtain ⟨c, dyn, run, h⟩ := h
  exact inOrder_of_issueIf h.issue h.checks

theorem LaneForm.IsOp.stops (h : v.IsOp s) (hr : v.ready s = true) (hi : v.invalid s = true) : Stops v.i s 0x28 0 0 := by
  obtain ⟨c, dyn, run, h⟩ := h
  simp only [LaneForm.ready, Bool.and_eq_true, Bool.not_eq_true'] at hr
  obtain ⟨⟨⟨hf, hm⟩, hb⟩, ht⟩ := hr
  exact h.issue.trans (congrArg _ (issueIf_stop' _ (h.checks.verdict_go hf hm hb ht) (by simp [h.values, hi, stopIf])))

end

end Sys2Proof.Machine

namespace Sys2Proof.Machine

set_option Elab.async false

/-! PROOFS. Every form of the lists of chapters 06 to 08 is one operation with its own lanes. -/

theorem tupleRegs_nodup (n k : Nat) : (tupleRegs n k).Nodup :=
  List.nodup_range.map fun _ _ => Nat.add_left_cancel

/-- Word vd of a 3-tuple is checked with the tuple (07 R153). -/
theorem sameFields_fmaerr (a b d : Nat) (ea eb ed : Bool) :
    SameFields [srcV a ea, srcV b eb, srcV d ed, dstTuple d 3 ed] [srcV a, srcV b, dstTuple d 3 false] := by
  intro s
  refine ⟨?_, ?_, ?_⟩
  · simp [fits, srcV, dstTuple, dstV, List.range_succ]
    grind
  · simp [srcV, dstTuple, dstV]
    grind
  · simp [srcV, dstTuple, dstV, Nat.mod_one]

section
variable (s : State) (d a b : BitVec 7) (n : BitVec 6) (ea eb ed : Bool)

theorem intForms_isOp : ∀ v ∈ intForms s d a b ea eb ed, v.IsOp s := by
  simp only [intForms, List.forall_mem_cons]
  exact ⟨⟨_, _, { run := rfl }⟩, ⟨_, _, { run := rfl }⟩, ⟨_, _, { run := rfl }⟩, ⟨_, _, { run := rfl }⟩, ⟨_, _, { run := rfl }⟩,
    ⟨_, _, { run := rfl }⟩, ⟨_, _, { run := rfl }⟩, ⟨_, _, { run := rfl }⟩, ⟨_, _, { run := rfl }⟩, List.forall_mem_nil _⟩

theorem vselLane_true (r : Drove) (x y z l : Nat) :
    vselLane x y z true r l = if (sreg r z).getLsbD l then vlane r y l else vlane r x l := by
  simp only [vselLane, beq_true]

theorem vselLane_false (r : Drove) (x y z l : Nat) :
    vselLane x y z false r l = if (sreg r z).getLsbD l then vlane r x l else vlane r y l := by
  simp only [vselLane, beq_false]
  cases (sreg r z).getLsbD l <;> rfl

theorem rawForms_isOp : ∀ v ∈ rawForms s d a b n ea eb ed, v.IsOp s := by
  simp only [rawForms, List.forall_mem_cons]
  exact ⟨⟨_, _, { run := rfl }⟩, ⟨_, _, { run := rfl }⟩, ⟨_, _, { run := rfl }⟩, ⟨_, _, { run := rfl }⟩, ⟨_, _, { run := rfl }⟩,
    ⟨_, _, { run := rfl, lanes := by simp only [vselLane_true] }⟩,
    ⟨_, _, { run := rfl, lanes := by simp only [vselLane_false] }⟩,
    ⟨_, _, { run := rfl }⟩, ⟨_, _, { run := rfl }⟩, List.forall_mem_nil _⟩

theorem shiftForms_isOp : ∀ v ∈ shiftForms s d a b ea eb ed, v.IsOp s := by
  simp only [shiftForms, List.forall_mem_cons]
  exact ⟨⟨_, _, { run := rfl }⟩, ⟨_, _, { run := rfl }⟩, ⟨_, _, { run := rfl }⟩, ⟨_, _, { run := rfl }⟩, ⟨_, _, { run := rfl }⟩,
    List.forall_mem_nil _⟩

theorem convertForms_isOp : ∀ v ∈ convertForms s d a b ea eb ed, v.IsOp s := by
  simp only [convertForms, List.forall_mem_cons]
  exact ⟨⟨_, _, { run := rfl, dsts := tupleRegs_nodup _ _ }⟩, ⟨_, _, { run := rfl, dsts := tupleRegs_nodup _ _ }⟩,
    ⟨_, _, { run := rfl, dsts := tupleRegs_nodup _ _ }⟩, ⟨_, _, { run := rfl, dsts := tupleRegs_nodup _ _ }⟩,
    ⟨_, _, { run := rfl, dsts := tupleRegs_nodup _ _ }⟩, ⟨_, _, { run := rfl, dsts := tupleRegs_nodup _ _ }⟩,
    List.forall_mem_nil _⟩

theorem fpForms_isOp : ∀ v ∈ fpForms s d a b ea eb ed, v.IsOp s := by
  simp only [fpForms, List.forall_mem_cons]
  exact ⟨⟨_, _, { run := rfl }⟩, ⟨_, _, { run := rfl }⟩, ⟨_, _, { run := rfl }⟩, ⟨_, _, { run := rfl }⟩, ⟨_, _, { run := rfl }⟩,
    ⟨_, _, { run := rfl }⟩, ⟨_, _, { run := rfl }⟩, ⟨_, _, { run := rfl }⟩, ⟨_, _, { run := rfl }⟩, ⟨_, _, { run := rfl }⟩,
    ⟨_, _, { run := rfl }⟩, ⟨_, _, { run := rfl }⟩, ⟨_, _, { run := rfl }⟩, ⟨_, _, { run := rfl }⟩, ⟨_, _, { run := rfl }⟩,
    ⟨_, _, { run := rfl }⟩, ⟨_, _, { run := rfl }⟩, ⟨_, _, { run := rfl }⟩, ⟨_, _, { run := rfl }⟩, ⟨_, _, { run := rfl }⟩,
    ⟨_, _, { run := rfl }⟩, ⟨_, _, { run := rfl }⟩, List.forall_mem_nil _⟩

/-- The positions of a quad, as the spec's tables list them (08 R172, R173). -/
theorem quad_positions (l : Nat) :
    (l % 4 ^^^ 1 = [1, 0, 3, 2].getD (l % 4) 0) ∧ (l % 4 ^^^ 2 = [2, 3, 0, 1].getD (l % 4) 0) ∧
    (l % 4 ^^^ 3 = [3, 2, 1, 0].getD (l % 4) 0) ∧ (l % 4 / 2 * 2 + 1 = [1, 1, 3, 3].getD (l % 4) 0) ∧
    (l % 4 / 2 * 2 = [0, 0, 2, 2].getD (l % 4) 0) ∧ (l % 4 % 2 + 2 = [2, 3, 2, 3].getD (l % 4) 0) ∧
    (l % 4 % 2 = [0, 1, 0, 1].getD (l % 4) 0) := by
  have h : l % 4 < 4 := Nat.mod_lt _ (by decide)
  generalize l % 4 = i at h
  revert i
  decide

theorem toNat_setWidth_two (n : BitVec 2) : (n.setWidth 7).toNat = n.toNat := by
  revert n
  decide

theorem quadForms_isOp (n : BitVec 2) : ∀ v ∈ quadForms s d a n ea ed, v.IsOp s := by
  have hn : n.toNat < 4 := n.isLt
  simp only [quadForms, List.forall_mem_cons]
  refine ⟨⟨_, _, { run := rfl, lanes := funext fun l => ?_ }⟩, ⟨_, _, { run := rfl, lanes := funext fun l => ?_ }⟩,
    ⟨_, _, { run := rfl, lanes := funext fun l => ?_ }⟩,
    ⟨{ uses := useV2 d a ea ed, bad := decide (4 ≤ (n.setWidth 7).toNat) }, _,
      { run := rfl, checks := { bad := ?_ }, lanes := funext fun l => ?_ }⟩,
    ⟨_, _, { run := rfl, lanes := funext fun l => ?_ }⟩, ⟨_, _, { run := rfl, lanes := funext fun l => ?_ }⟩,
    List.forall_mem_nil _⟩
  · simp only [(quad_positions l).1]
  · simp only [(quad_positions l).2.1]
  · simp only [(quad_positions l).2.2.1]
  · exact decide_eq_false (by rw [toNat_setWidth_two]; omega)
  · simp only [toNat_setWidth_two, Nat.mod_eq_of_lt hn]
  · obtain ⟨-, -, -, h1, h2, -, -⟩ := quad_positions l
    simp only [← h1, ← h2]
    rfl
  · obtain ⟨-, -, -, -, -, h1, h2⟩ := quad_positions l
    simp only [← h1, ← h2]
    rfl

theorem expansionForms_isOp : ∀ v ∈ expansionForms s d a b ea eb ed, v.IsOp s := by
  simp only [expansionForms, List.forall_mem_cons]
  exact ⟨⟨_, _, { run := rfl, checks := { typ := (Bool.and_true _).symm }, dsts := tupleRegs_nodup _ _ }⟩,
    ⟨_, _, { run := rfl, checks := { typ := (Bool.and_true _).symm }, dsts := tupleRegs_nodup _ _ }⟩,
    ⟨_, _, { run := rfl, checks := { typ := (Bool.and_true _).symm }, dsts := tupleRegs_nodup _ _ }⟩,
    ⟨_, _, { run := rfl, checks := { typ := (Bool.and_true _).symm }, dsts := tupleRegs_nodup _ _ }⟩,
    ⟨_, _, { run := rfl, dsts := tupleRegs_nodup _ _ }⟩, ⟨_, _, { run := rfl, dsts := tupleRegs_nodup _ _ }⟩,
    ⟨_, _, { run := rfl, dsts := tupleRegs_nodup _ _ }⟩, ⟨_, _, { run := rfl, dsts := tupleRegs_nodup _ _ }⟩,
    ⟨_, _, { run := rfl, dsts := tupleRegs_nodup _ _ }⟩, ⟨_, _, { run := rfl, dsts := tupleRegs_nodup _ _ }⟩,
    List.forall_mem_nil _⟩

theorem eftForms_isOp : ∀ v ∈ eftForms s d a b ea eb ed, v.IsOp s := by
  simp only [eftForms, List.forall_mem_cons]
  exact ⟨⟨_, _, { run := rfl, dsts := tupleRegs_nodup _ _ }⟩, ⟨_, _, { run := rfl, dsts := tupleRegs_nodup _ _ }⟩,
    ⟨_, _, { run := rfl, dsts := tupleRegs_nodup _ _ }⟩,
    ⟨_, _, { run := rfl, checks := { fields := sameFields_fmaerr _ _ _ _ _ _ }, dsts := tupleRegs_nodup _ _ }⟩,
    ⟨_, _, { run := rfl, dsts := tupleRegs_nodup _ _ }⟩, List.forall_mem_nil _⟩

theorem xcvtForm_isOp (code : BitVec 2) : (xcvtForm s d a code ea ed).IsOp s := by
  have hc : ¬ 3 < code.toNat := by omega
  refine ⟨{ uses := [srcTuple a.toNat (xcvtSrc code.toNat (expLen s)) ea, dstTuple d.toNat (xcvtDst code.toNat (expLen s)) ed],
            typ := xcvtType code.toNat (stOf s) (etOf s), slots := expLen s, bad := decide (3 < code.toNat) },
    fun r l => expLane (etOf s) (xcvtDst code.toNat (expLen s)) fun j =>
      xcvtElem code.toNat (expLen s) a.toNat (stOf s) (etOf s) r l j,
    { run := ?_, checks := { bad := decide_eq_false hc }, dsts := tupleRegs_nodup _ _ }⟩
  change execXcvt d a (code.setWidth 7) ea ed s = _
  simp only [execXcvt, toNat_setWidth_two]
  rfl

theorem allForms_isOp (k : BitVec 2) : ∀ v ∈ allForms s d a b n k ea eb ed, v.IsOp s := by
  simp only [allForms, List.forall_mem_append, List.forall_mem_singleton]
  exact ⟨⟨⟨⟨⟨⟨⟨⟨intForms_isOp s d a b ea eb ed, rawForms_isOp s d a b n ea eb ed⟩, shiftForms_isOp s d a b ea eb ed⟩,
    convertForms_isOp s d a b ea eb ed⟩, fpForms_isOp s d a b ea eb ed⟩, quadForms_isOp s d a ea ed k⟩,
    expansionForms_isOp s d a b ea eb ed⟩, eftForms_isOp s d a b ea eb ed⟩, xcvtForm_isOp s d a ea ed k⟩

end

end Sys2Proof.Machine

namespace Sys2Proof.Machine

set_option Elab.async false

/-! PROOFS. The compares, the lane instructions and `vrand`, and the statements about all forms on lanes. -/

theorem intCmp2_isOp {s : State} {x a : BitVec 7} {d : BitVec 6} {ea eb : Bool} (i : Instr) (ok : Nat → Bool)
    (f : Nat → W32 → W32 → Bool) (he : exec i s = intCmp2 x a d ea eb ok f s) :
    ({ i := i, us := [srcV x.toNat, srcV a.toNat, dstS d.toNat], typ := ok (etOf s),
       f := fun l => (f (etOf s) (vlane s.dr x.toNat l) (vlane s.dr a.toNat l), 0) } : CmpForm).IsOp s d :=
  ⟨_, fun r l => (f (etOf s) (vlane r x.toNat l) (vlane r a.toNat l), 0), { run := he }⟩

theorem intCmp3_isOp {s : State} {a : BitVec 7} {d : BitVec 6} {ea : Bool} (i : Instr) (ok : Nat → Bool)
    (f : Nat → W32 → W32 → Bool) (he : exec i s = intCmp3 a d ea ok f s) :
    ({ i := i, us := [srcV a.toNat, dstS d.toNat], typ := ok (etOf s),
       f := fun l => (f (etOf s) (vlane s.dr a.toNat l) 0, 0) } : CmpForm).IsOp s d :=
  ⟨_, fun r l => (f (etOf s) (vlane r a.toNat l) 0, 0), { run := he }⟩

theorem fpCmp2_isOp {s : State} {x a : BitVec 7} {d : BitVec 6} {ea eb : Bool} (i : Instr) (quiet : Bool)
    (rel : FV → FV → Bool) (he : exec i s = fpCmp2 x a d ea eb quiet rel s) :
    ({ i := i, us := [srcV x.toNat, srcV a.toNat, dstS d.toNat], typ := isF (etOf s),
       f := fun l => fpRel (etOf s) quiet rel (fpOf s x l) (fpOf s a l) } : CmpForm).IsOp s d :=
  ⟨_, fun r l => fpRel (etOf s) quiet rel (fpElem r (etOf s) x.toNat l) (fpElem r (etOf s) a.toNat l), { run := he }⟩

theorem fpCmp3_isOp {s : State} {a : BitVec 7} {d : BitVec 6} {ea : Bool} (i : Instr) (quiet : Bool)
    (rel : FV → FV → Bool) (he : exec i s = fpCmp3 a d ea quiet rel s) :
    ({ i := i, us := [srcV a.toNat, dstS d.toNat], typ := isF (etOf s),
       f := fun l => fpRel (etOf s) quiet rel (fpOf s a l) fun _ => .fin false 0 0 } : CmpForm).IsOp s d :=
  ⟨_, fun r l => fpRel (etOf s) quiet rel (fpElem r (etOf s) a.toNat l) fun _ => .fin false 0 0, { run := he }⟩

/-- A compare of expansions in one lane: every element satisfies the relation, and the flags of each are added (07 R166). -/
def expLaneRel (s : State) (r : Drove) (quiet : Bool) (rel : FV → FV → Bool) (drel : Dy → Dy → Bool) (u v : Nat → List FV) :
    Bool × Fl :=
  let rs := (List.range (perLane (etOf s))).map fun j => expRel (fenvOf r.mode (etOf s)) quiet rel drel (u j) (v j)
  (rs.all (·.1), rs.foldl (fun fl r => fl ||| r.2) 0)

theorem expCmp2_isOp {s : State} {x a : BitVec 7} {d : BitVec 6} {ea eb : Bool} (i : Instr) (quiet : Bool)
    (rel : FV → FV → Bool) (drel : Dy → Dy → Bool) (he : exec i s = expCmp2 x a d ea eb quiet rel drel s) :
    ({ i := i, us := [srcTuple x.toNat (expLen s) false, srcTuple a.toNat (expLen s) false, dstS d.toNat], typ := isF (etOf s),
       f := fun l => expLaneRel s s.dr quiet rel drel (wordsOf s x l) (wordsOf s a l) } : CmpForm).IsOp s d :=
  ⟨_, fun r l => expLaneRel s r quiet rel drel (tupleElems r (etOf s) x.toNat (expLen s) l)
    (tupleElems r (etOf s) a.toNat (expLen s) l), { run := he }⟩

theorem expCmp3_isOp {s : State} {a : BitVec 7} {d : BitVec 6} {ea : Bool} (i : Instr) (quiet : Bool)
    (rel : FV → FV → Bool) (drel : Dy → Dy → Bool) (he : exec i s = expCmp3 a d ea quiet rel drel s) :
    ({ i := i, us := [srcTuple a.toNat (expLen s) false, dstS d.toNat], typ := isF (etOf s),
       f := fun l => expLaneRel s s.dr quiet rel drel (wordsOf s a l) fun _ => [.fin false 0 0] } : CmpForm).IsOp s d :=
  ⟨_, fun r l => expLaneRel s r quiet rel drel (tupleElems r (etOf s) a.toNat (expLen s) l) fun _ => [.fin false 0 0], { run := he }⟩

section
variable (s : State) (x a : BitVec 7) (d : BitVec 6) (ea eb : Bool)

theorem intCompares_isOp : ∀ v ∈ intCompares s x a d ea eb, v.IsOp s d := by
  simp only [intCompares, List.forall_mem_cons]
  exact ⟨intCmp2_isOp (.veqSub2 x a d ea eb) eqType (fun t p q => lanesAll t p q (· == ·)) rfl,
    intCmp3_isOp (.veqSub3 a d ea) eqType (fun t p q => lanesAll t p q (· == ·)) rfl,
    intCmp2_isOp (.vneSub2 x a d ea eb) eqType (fun t p q => !lanesAll t p q (· == ·)) rfl,
    intCmp3_isOp (.vneSub3 a d ea) eqType (fun t p q => !lanesAll t p q (· == ·)) rfl,
    intCmp2_isOp (.vltSub2 x a d ea eb) isI (fun t p q => lanesAll t p q fun u v => decide (u < v)) rfl,
    intCmp3_isOp (.vltSub3 a d ea) isI (fun t p q => lanesAll t p q fun u v => decide (u < v)) rfl,
    intCmp2_isOp (.vleSub2 x a d ea eb) isI (fun t p q => lanesAll t p q fun u v => decide (u ≤ v)) rfl,
    intCmp3_isOp (.vleSub3 a d ea) isI (fun t p q => lanesAll t p q fun u v => decide (u ≤ v)) rfl, List.forall_mem_nil _⟩

theorem fpCompares_isOp : ∀ v ∈ fpCompares s x a d ea eb, v.IsOp s d := by
  simp only [fpCompares, List.forall_mem_cons]
  exact ⟨fpCmp2_isOp (.feqSub2 x a d ea eb) true relEq rfl, fpCmp3_isOp (.feqSub3 a d ea) true relEq rfl,
    fpCmp2_isOp (.fltSub2 x a d ea eb) false relLt rfl, fpCmp3_isOp (.fltSub3 a d ea) false relLt rfl,
    fpCmp2_isOp (.fleSub2 x a d ea eb) false relLe rfl, fpCmp3_isOp (.fleSub3 a d ea) false relLe rfl,
    fpCmp2_isOp (.funSub2 x a d ea eb) true relUn rfl, fpCmp3_isOp (.funSub3 a d ea) true relUn rfl, List.forall_mem_nil _⟩

theorem expCompares_isOp : ∀ v ∈ expCompares s x a d ea eb, v.IsOp s d := by
  simp only [expCompares, List.forall_mem_cons]
  exact ⟨expCmp2_isOp (.xeqSub2 x a d ea eb) true relEq Dy.eq rfl, expCmp3_isOp (.xeqSub3 a d ea) true relEq Dy.eq rfl,
    expCmp2_isOp (.xltSub2 x a d ea eb) false relLt Dy.lt rfl, expCmp3_isOp (.xltSub3 a d ea) false relLt Dy.lt rfl,
    expCmp2_isOp (.xleSub2 x a d ea eb) false relLe (fun u v => !v.lt u) rfl,
    expCmp3_isOp (.xleSub3 a d ea) false relLe (fun u v => !v.lt u) rfl, List.forall_mem_nil _⟩

theorem allCompares_isOp : ∀ v ∈ allCompares s x a d ea eb, v.IsOp s d := by
  simp only [allCompares, List.forall_mem_append]
  exact ⟨⟨intCompares_isOp s x a d ea eb, fpCompares_isOp s x a d ea eb⟩, expCompares_isOp s x a d ea eb⟩

end

theorem elemFl_flag (es : List ElemOut) (k : Nat) : (elemFl es).1.getLsbD k = es.any fun e => e.fl.getLsbD k := by
  have key : ∀ acc : Fl × Bool, (es.foldl (fun (x : Fl × Bool) e => (x.1 ||| e.fl, x.2 || e.sat)) acc).1.getLsbD k =
      (acc.1.getLsbD k || es.any fun e => e.fl.getLsbD k) := by
    induction es with
    | nil => simp
    | cons e es ih => simp [ih, Bool.or_assoc]
  exact (key _).trans (by simp)

/-- The values of a lane form are stopped where the list says so (06 R127). -/
theorem fexRows_eq {s : State} {rows : State → List ElemOut} {v : LaneForm} (h : rows s = v.nv) :
    fexRows rows s = stopIf (v.invalid s) 0x28 := by
  simp only [fexRows, LaneForm.invalid, flNV_and, elemFl_flag, h]

theorem values_of_nil {s : State} {v : LaneForm} (h : v.nv = []) : (.go : Verdict) = stopIf (v.invalid s) 0x28 := by
  simp [LaneForm.invalid, h, stopIf]

theorem moveLanes_isOp {s : State} {i : Instr} {us vs : List Use} {d a : Nat} {src : Drove → Nat → Nat} {p : Nat → Nat}
    (he : exec i s = moveLanes us d a src s) (hu : SameFields us vs) (hs : src s.dr = p)
    (ho : ∀ r o, src (Drove.recorded r o) = src r) : ({ i := i, us := vs, f := moved d a p } : LaneForm).IsOp s := by
  refine ⟨_, _, _, { issue := he, checks := { fields := hu }, values := values_of_nil rfl, effect := ?_, unseen := fun r o => ?_ }⟩
  · subst hs
    rfl
  · simp only [ho]
    rfl

theorem toNat_setWidth_four (c : BitVec 4) : (c.setWidth 7).toNat = c.toNat := by
  revert c
  decide

theorem getLsbD_setWidth_four (c : BitVec 4) : (c.setWidth 7).getLsbD 3 = c.getLsbD 3 := by
  revert c
  decide

theorem foldl_setVm_recorded (ps : List (W32 × Nat)) (n : Nat) (act : W64) (r : Drove) (o : Seen) :
    ps.foldl (fun x (w, i) => setVm x (n + i) act fun _ => w) (Drove.recorded r o) =
      (ps.foldl (fun x (w, i) => setVm x (n + i) act fun _ => w) r).recorded o := by
  induction ps generalizing r with
  | nil => rfl
  | cons p ps ih => exact ih (setVm r (n + p.2) act fun _ => p.1)

section
variable (s : State) (d a b : BitVec 7) (sd : BitVec 6) (c : BitVec 4) (ea eb ed : Bool)

theorem laneForms_isOp : ∀ v ∈ laneForms s d a b sd c ea eb ed, v.IsOp s := by
  have hc : ¬ 16 ≤ c.toNat := by omega
  simp only [laneForms, List.forall_mem_cons]
  refine ⟨moveLanes_isOp rfl (fun _ => ⟨rfl, rfl, rfl⟩) rfl fun _ _ => rfl,
    moveLanes_isOp rfl (fun _ => ⟨rfl, rfl, rfl⟩) rfl fun _ _ => rfl,
    moveLanes_isOp rfl (fun _ => ⟨rfl, rfl, rfl⟩) rfl fun _ _ => rfl,
    ⟨_, _, _, { issue := rfl, values := values_of_nil rfl }⟩,
    ⟨_, _, _, { issue := rfl, values := values_of_nil rfl, unseen := fun r o => setS_recorded _ _ _ _ }⟩,
    ⟨_, _, _, { issue := rfl, values := values_of_nil rfl, unseen := fun r o => setS_recorded _ _ _ _ }⟩, ?_, ?_, List.forall_mem_nil _⟩
  · refine ⟨{ uses := useV2 d a ea ed, bad := decide (6 ≤ c.toNat % 8), typ := scanType (c.toNat % 8) (etOf s) },
      fexRows fun s => (scanRows (c.toNat % 8) (c.getLsbD 3) a.toNat s.dr).flatten,
      fun r => raiseFlags (setVm r d.toNat (activeMask r) fun l =>
        packElems (elemWidth (etOf s)) ((List.range (perLane (etOf s))).map fun j =>
          (slotOut (scanRows (c.toNat % 8) (c.getLsbD 3) a.toNat r) j ((lanesIn (activeMask r)).idxOf l)).x))
        (elemFl (scanRows (c.toNat % 8) (c.getLsbD 3) a.toNat r).flatten).1
        (elemFl (scanRows (c.toNat % 8) (c.getLsbD 3) a.toNat r).flatten).2, { issue := ?_, values := fexRows_eq rfl }⟩
    change execLscan d a (c.setWidth 7) ea ed s = _
    simp only [execLscan, toNat_setWidth_four, getLsbD_setWidth_four, hc, decide_false, Bool.false_or]
    rfl
  · refine ⟨{ uses := [srcV a.toNat ea, dstTuple d.toNat (if c.getLsbD 3 && modeXL s.dr.mode == 1 then 2 else 1) ed],
              bad := decide (6 ≤ c.toNat % 8) || (c.getLsbD 3 && c.toNat % 8 != 0),
              typ := if c.getLsbD 3 then isF (etOf s) && (modeXL s.dr.mode == 0 || (modeXL s.dr.mode == 1 && etOf s == 0))
                     else scanType (c.toNat % 8) (etOf s) },
      fexRows fun s => (redRows (c.getLsbD 3) (c.toNat % 8) a.toNat s.dr).2,
      fun r => raiseFlags ((redRows (c.getLsbD 3) (c.toNat % 8) a.toNat r).1.zipIdx.foldl
          (fun x (w, i) => setVm x (d.toNat + i) (activeMask r) fun _ => w) r)
        (elemFl (redRows (c.getLsbD 3) (c.toNat % 8) a.toNat r).2).1
        (elemFl (redRows (c.getLsbD 3) (c.toNat % 8) a.toNat r).2).2,
      { issue := ?_, values := fexRows_eq rfl, unseen := fun r o => ?_ }⟩
    · change execLred d a (c.setWidth 7) ea ed s = _
      simp only [execLred, toNat_setWidth_four, getLsbD_setWidth_four, hc, decide_false, Bool.false_or]
      rfl
    · exact congrArg (fun x => raiseFlags x _ _) (foldl_setVm_recorded _ _ _ _ _)

end

/-- Settles O26: every form is a `vecOp` with its lanes. -/
theorem vectorIntegerResult : Obligations.VectorIntegerResult := by
  intro s d a b n ea eb ed
  simp only [List.forall_mem_append]
  exact ⟨⟨fun v hv => (intForms_isOp s d a b ea eb ed v hv).runs, fun v hv => (rawForms_isOp s d a b n ea eb ed v hv).runs⟩,
    fun v hv => (shiftForms_isOp s d a b ea eb ed v hv).runs⟩

/-- Settles O27: every form is a `vecOp` with its lanes. -/
theorem floatResult : Obligations.FloatResult := by
  intro s d a b ea eb ed
  simp only [List.forall_mem_append]
  exact ⟨fun v hv => (fpForms_isOp s d a b ea eb ed v hv).runs, fun v hv => (convertForms_isOp s d a b ea eb ed v hv).runs⟩

/-- Settles O28: the positions within a quad are those of the spec's tables. -/
theorem quadResult : Obligations.QuadResult :=
  fun s d a n ea ed v hv => (quadForms_isOp s d a ea ed n v hv).runs

/-- Settles O29: every form is a `vecOp` with its lanes. -/
theorem expansionResult : Obligations.ExpansionResult := by
  intro s d a b code ea eb ed
  simp only [List.forall_mem_append, List.forall_mem_singleton]
  exact ⟨⟨fun v hv => (expansionForms_isOp s d a b ea eb ed v hv).runs, fun v hv => (eftForms_isOp s d a b ea eb ed v hv).runs⟩,
    (xcvtForm_isOp s d a ea ed code).runs⟩

/-- Settles O30: every compare is a `cmpOp` with its relation. -/
theorem compareResult : Obligations.CompareResult :=
  fun s x a d ea eb v hv => (allCompares_isOp s x a d ea eb v hv).runs

/-- Settles O31: NV in an active lane, or of a scan's or a reduction's elements, is what the check of values sees. -/
theorem invalidOperationStops : Obligations.InvalidOperationStops :=
  fun s d a b n k c ea eb ed => ⟨fun v hv => (allForms_isOp s d a b n ea eb ed k v hv).stops,
    fun v hv => (allCompares_isOp s a b n ea eb v hv).stops, fun v hv => (laneForms_isOp s d a b n c ea eb ed v hv).stops⟩

/-- Settles O32: every lane instruction is a `laneIssue` with its effect. -/
theorem laneResult : Obligations.LaneResult :=
  fun s d a b sd c ea eb ed v hv => (laneForms_isOp s d a b sd c ea eb ed v hv).runs

/-- Settles O14: `verdict` looks at fields, tuples and types in that order, before any register. -/
theorem checksInOrder : Obligations.ChecksInOrder :=
  fun s d a b n k c ea eb ed => ⟨fun v hv => (allForms_isOp s d a b n ea eb ed k v hv).inOrder,
    fun v hv => (allCompares_isOp s a b n ea eb v hv).inOrder, fun v hv => (laneForms_isOp s d a b n c ea eb ed v hv).inOrder,
    inOrder_of_issueIf (c := { uses := [dstV d.toNat ed], typ := randType (etOf s) }) rfl {}⟩

/-- What a vector operation leaves of its drove. -/
def vecStep (dsts : List Nat) (f : Drove → Nat → LaneOut) (d : Drove) : Drove :=
  if activeMask d = 0 then d
  else raiseFlags (writeAll d (laneOuts d (f d)) dsts.zipIdx) (activeFl d (laneOuts d (f d))).1 (activeFl d (laneOuts d (f d))).2

theorem vecRun_eq (dsts : List Nat) (f : Drove → Nat → LaneOut) (s : State) : vecRun dsts f s = retire (onDr s (vecStep dsts f)) := by
  unfold vecRun vecStep
  by_cases h : activeMask s.dr = 0
  · simp only [h, onDr, if_true]
  · simp only [h, onDr, if_false]
    rfl

theorem writeAll_recorded (d : Drove) (o : Seen) (outs : List (Option LaneOut)) (ps : List (Nat × Nat)) :
    writeAll (d.recorded o) outs ps = (writeAll d outs ps).recorded o := by
  induction ps generalizing d with
  | nil => rfl
  | cons p ps ih => exact ih (writeWord d outs p.1 p.2)

theorem vecStep_recorded {dsts : List Nat} {f : Drove → Nat → LaneOut} (hf : ∀ d o, f (Drove.recorded d o) = f d) (d : Drove)
    (o : Seen) : vecStep dsts f (d.recorded o) = (vecStep dsts f d).recorded o := by
  have ha : activeMask (d.recorded o) = activeMask d := rfl
  have hl : laneOuts (d.recorded o) (f d) = laneOuts d (f d) := rfl
  have hx (outs : List (Option LaneOut)) : activeFl (d.recorded o) outs = activeFl d outs := rfl
  simp only [vecStep, ha, hf, hl, hx, writeAll_recorded]
  split <;> rfl

theorem vecStep_inactive {dsts : List Nat} {f : Drove → Nat → LaneOut} {d : Drove} (h : activeMask d = 0) :
    vecStep dsts f d = d := by
  simp only [vecStep, h, if_true]

theorem vecStep_lanes {dsts : List Nat} {f : Drove → Nat → LaneOut} {d : Drove} (h : activeMask d ≠ 0) (hd : dsts.Nodup) :
    LanesInto d (vecStep dsts f d) dsts (f d) := by
  simp only [vecStep, h, if_false]
  exact lanesInto_raise d dsts (f d) hd

/-- RCTR is no field that retiring reads or writes. -/
theorem retire_nextRctr (s : State) : onDr (retire s) nextRctr = retire (onDr s nextRctr) := by
  cases hm : s.dr.micro <;> simp only [retire, hm, onDr, onFl, nextRctr]
  all_goals rfl

/-- A random word in each lane (06 R138). -/
def randLane (t : Nat) (r : Drove) (l : Nat) : LaneOut :=
  { words := [randWord t (mix r.rkey (BitVec.ofNat 64 (r.droveId.toNat * 64 + l)) r.rctr)] }

/-- Settles O33: `vrand` is a vector operation after which RCTR advances. -/
theorem randomResult : Obligations.RandomResult := by
  rintro s d ed f rfl hf hm ht
  let g (x : Drove) : Drove := nextRctr (vecStep [d.toNat] (randLane (etOf s)) x)
  have he : exec (.vrand d ed) s = .next (issueIf { uses := [dstV d.toNat ed], typ := randType (etOf s), masks := true }
      (fun _ => .go) s fun s => retire (onDr s g)) := by
    refine congrArg (fun run => (.next (issueIf _ _ s run) : Out)) (funext fun t => ?_)
    exact (congrArg (onDr · nextRctr) (vecRun_eq _ _ t)).trans (retire_nextRctr _)
  refine ⟨vecStep [d.toNat] (randLane (etOf s)) s.dr, vecStep_inactive, fun h => vecStep_lanes h (List.nodup_singleton _), ?_⟩
  have hg : Does (.vrand d ed) s g :=
    does_of_go he (verdict_go hf rfl rfl rfl rfl ht (.inl rfl) (.inr hm) (.inl rfl)) rfl fun x o => by
      change (nextRctr (vecStep _ _ _)).bare = _
      rw [vecStep_recorded fun _ _ => rfl]
      rfl
  exact hg.congr rfl

end Sys2Proof.Machine

namespace Sys2Proof.Machine

set_option Elab.async false

/-! PROOFS. Reset, totality, s0, and the instructions that only pause or stop. -/

/-- Settles O1. -/
theorem decodeWords : Obligations.DecodeWords := by
  unfold Obligations.DecodeWords
  decide

/-- Settles O8. -/
theorem resetState : Obligations.ResetState := by
  unfold Obligations.ResetState
  exact ⟨rfl, rfl, rfl, rfl, rfl, rfl, rfl, rfl, rfl, rfl, rfl, rfl, rfl, rfl, rfl⟩

/-- Settles O9. -/
theorem resetMemoryCanonical : Obligations.ResetMemoryCanonical := by
  unfold Obligations.ResetMemoryCanonical
  rfl

/-- Settles O7: every row answers by a next state; only the take of a launch-queue entry asks first whether there is one. -/
theorem everyRowAnswers : Obligations.EveryRowAnswers := by
  intro i s
  cases i
  case launchQueueEntryTake q =>
    change ∃ t, execLaunchQueueEntryTake q s = .next t
    unfold execLaunchQueueEntryTake
    split
    · exact ⟨_, rfl⟩
    · exact ⟨_, rfl⟩
  all_goals exact ⟨_, rfl⟩

/-- Settles O13: the write of s0 is no write, and any other changes one register. -/
theorem scalarRegisterWrite : Obligations.ScalarRegisterWrite := by
  intro d n m x hn
  rw [sreg_setS d n x m hn]
  by_cases hm : m = 0
  · subst hm
    simp only [if_true, sreg_zero]
    split
    · next h => exact absurd h.1.symm h.2
    · rfl
  · by_cases hmn : m = n
    · simp [hmn, hmn ▸ hm]
    · simp [hm, hmn]

/-- Settles O22: outside a microprogram the record has no step. -/
theorem breakAndTrapStop : Obligations.BreakAndTrapStop := by
  intro s c hm
  have hu : (account (fun _ => false) s 1).dr.micro = none ∧ (account (fun _ => false) s 1).dr.pc = s.dr.pc := by
    obtain ⟨o, li, fr, ds, ln, ts, du, hd, he⟩ := account_recorded (fun _ => false) s 1
    rw [he]
    exact ⟨hm, rfl⟩
  have key (cause : BitVec 8) : stopAfter s cause c.toNat = takeStop (account (fun _ => false) s 1)
      { cause := cause, info := c.toNat, pc := s.dr.pc, resume := s.dr.pc + 4 } := by
    simp only [stopAfter, hu.1, hu.2, Option.map_none]
  refine ⟨?_, ?_⟩
  · change execBrk c s = _
    rw [execBrk, key]
  · change execTrap c s = _
    rw [execTrap, key]

/-- The fault of a drove, as it waits for the fault table. -/
def parkOf (s : State) (kind : Nat) (cause : BitVec 8) (d : Drove) (pc : W64) (va : Nat) (req : Option Nat) (blocks : Bool) : Park :=
  { Park.start kind cause d.ctx va with drove := d.uid, droveId := d.droveId, pc := pc, req := req, blocks := blocks, id := s.uid,
                                        since := s.cycle, noPort := wantsPort s d.ctx cause va }

/-- A park appends one fault, and a drove that it blocks parts from its gang (09 R191). -/
theorem park_eq (s : State) (kind : Nat) (cause : BitVec 8) (d : Drove) (pc : W64) (va : Nat) (req : Option Nat) (blocks : Bool) :
    park s kind cause d pc va req blocks =
      let t := { s with uid := s.uid + 1, sch := { s.sch with parks := s.sch.parks ++ [parkOf s kind cause d pc va req blocks] } }
      if blocks then partGang t d.uid else t := rfl

/-- A drove at the port that is blocked parts from its gang before the instruction at which it stands. -/
theorem park_port (s : State) (kind : Nat) (cause : BitVec 8) (d : Drove) (pc : W64) (va : Nat) (req : Option Nat) :
    park (onDr s fun _ => d) kind cause d pc va req true =
      { s with uid := s.uid + 1, dr := unGang d
               sch := { s.sch with parks := s.sch.parks ++ [parkOf (onDr s fun _ => d) kind cause d pc va req true] }
               droves := (partGang s d.uid).droves } := by
  simp only [park_eq, partGang, onDr, if_true]

theorem unhelp_uid (d : Drove) : (unhelp d).uid = d.uid := by
  unfold unhelp
  repeat' split
  all_goals rfl

/-- Settles O5: a fetch fault parks its drove before the instruction, with one entry to come. -/
theorem fetchFaultParks : Obligations.FetchFaultParks := by
  intro s cause
  refine ⟨fun h => ?_, fun h => ?_⟩
  · change execInstructionFetchFault cause s = _
    rw [execInstructionFetchFault, if_pos h]
  · let u := if cause = 0x12 then countRecord s 0x1A12 0 64 else s
    have he : exec (.instructionFetchFault cause) s = .next (park (onDr u fun _ => unhelp s.dr) 0 cause (unhelp s.dr) (unhelp s.dr).pc
        u.dr.pc.toNat none true) := by
      change execInstructionFetchFault cause s = _
      rw [execInstructionFetchFault, if_neg h]
    have hu : u.dr = s.dr ∧ u.mem = s.mem ∧ u.reqs = s.reqs ∧ u.coh = s.coh ∧
        u.dev = (if cause = 0x12 then (countRecord s 0x1A12 0 64).dev else s.dev) ∧ u.sch = s.sch := by
      simp only [u]
      split
      · exact ⟨rfl, rfl, rfl, rfl, rfl, rfl⟩
      · exact ⟨rfl, rfl, rfl, rfl, rfl, rfl⟩
    obtain ⟨hdr, hmem, hreqs, hcoh, hdev, hsch⟩ := hu
    rw [park_port, hsch, hdr] at he
    exact ⟨_, _, he, rfl, hmem, hreqs, hcoh, hdev, rfl, rfl, rfl, unhelp_uid s.dr, rfl, rfl, rfl, rfl, rfl, rfl⟩

/-- A verdict without fields is to go on. -/
theorem verdict_empty_go (s : State) : verdict {} s = .go := verdict_uses_go (us := []) rfl

theorem does_id_of_issueIf {i : Instr} {s : State} {dyn : State → Verdict} (he : exec i s = .next (issueIf {} dyn s retire))
    (hd : dyn s = .go) : Does i s id :=
  does_of_recorded (he.trans (congrArg _ (issueIf_go retire (verdict_empty_go s) hd))) (issued_recorded _ _ _ _)

theorem waits_of_issueIf {i : Instr} {s : State} {dyn : State → Verdict} {run : State → State} {w : Wait}
    (he : exec i s = .next (issueIf {} dyn s run)) (hd : dyn s = .wait w) : Waits i s w :=
  he.trans (congrArg _ (issueIf_wait' run (verdict_empty_go s) hd))

theorem yieldOver_of_not_waiting {s : State} (h : ∀ t, s.dr.cond ≠ .waiting (.yield t)) : yieldOver s = false := by
  unfold yieldOver
  split
  · next t ht => exact absurd ht (h t)
  · rfl


/-- What a `yield` waits for at its issue (05 R120). -/
def yieldVerdict (s : State) : Verdict :=
  match s.dr.cond with
  | .waiting (.yield t) => .wait (.yield t)
  | _ => waitIf (!s.dr.waited && !yielded s s.cycle) (.yield s.cycle)

theorem yieldVerdict_of_not_waiting {s : State} (h : ∀ t, s.dr.cond ≠ .waiting (.yield t)) :
    yieldVerdict s = waitIf (!s.dr.waited && !yielded s s.cycle) (.yield s.cycle) := by
  unfold yieldVerdict
  split
  · next t ht => exact absurd ht (h t)
  · rfl

theorem exec_yield_of_not_over {s : State} (h : yieldOver s = false) : exec .yield s = .next (issueIf {} yieldVerdict s retire) := by
  change execYield s = _
  rw [execYield, h, if_neg Bool.false_ne_true]
  rfl

theorem select_port (s : State) : select s s.dr.uid = s := if_pos rfl

theorem exec_regangTimeout (s : State) (h : regangOver s = true) :
    exec (.regangTimeout s.dr.uid) s = .next (onDr (regangRelease s) (goOn s.cycle)) := by
  change execRegangTimeout s.dr.uid s = _
  rw [execRegangTimeout, select_port]
  simp only [h, and_self, if_true]

/-- What a drove's gang becomes at a `regang`. -/
theorem gangUp_recorded (s : State) (ds : List Drove) : Recorded s (gangUp s ds) := by
  unfold gangUp
  extract_lets peers put
  have hput (x : Drove) : ∃ o, put x = x.recorded o := by
    simp only [put]
    split
    · exact ⟨{ x.seen with gangWith := _, parted := _ }, rfl⟩
    · exact ⟨x.seen, rfl⟩
  obtain ⟨o, ho⟩ := hput s.dr
  refine ⟨o, s.fl.lastIssue, s.fresh, s.droves.map put, s.dev.lanes, s.dev.traces, s.due, ?_, ?_⟩
  · rw [List.map_map]
    refine List.map_congr_left fun x _ => ?_
    obtain ⟨o, ho⟩ := hput x
    simp only [Function.comp, ho]
    rfl
  · rw [ho]

/-- The droves that stand at a `regang` go on: the one at the port, and those of `here`. -/
def released (here : List Drove) (s : State) : State :=
  { s with dr := { s.dr with waited := true }
           droves := mapIf (fun d => here.any fun x => x.uid == d.uid) (goOn s.cycle) s.droves }

theorem Recorded.released {s t : State} (h : Recorded s t) (here : List Drove) : Recorded (released here s) (released here t) := by
  obtain ⟨o, li, fr, ds, ln, ts, du, hd, rfl⟩ := h
  refine ⟨o, li, fr, mapIf (fun d => here.any fun x => x.uid == d.uid) (goOn s.cycle) ds, ln, ts, du, ?_, rfl⟩
  have hb (xs : List Drove) : (mapIf (fun d => here.any fun x => x.uid == d.uid) (goOn s.cycle) xs).map Drove.bare =
      mapIf (fun d => here.any fun x => x.uid == d.uid) (goOn s.cycle) (xs.map Drove.bare) := by
    simp only [mapIf, List.map_map]
    refine List.map_congr_left fun d _ => ?_
    simp only [Function.comp, apply_ite Drove.bare]
    rfl
  exact (hb ds).trans ((congrArg (mapIf _ _) hd).trans (hb s.droves).symm)

theorem regangRelease_waited {s : State} (h : s.dr.waited = true) : regangRelease s = s := by
  simp [regangRelease, h]

theorem exec_regang (s : State) : exec .regang s = .next (issueIf {} regangVerdict (regangRelease s) retire) := rfl

theorem regangRelease_waiting {s : State} (ho : regangOver s = false)
    (hl : ((subcoreSiblings s).filter (atRegang s)).length ≠ (subcoreSiblings s).length) : regangRelease s = s := by
  have hc : (regangOver s || ((subcoreSiblings s).filter (atRegang s)).length == (subcoreSiblings s).length) = false := by
    simp [ho, hl]
  simp only [regangRelease, hc, Bool.not_false, Bool.or_true, if_true]

theorem regangRelease_released {s : State} (hw : s.dr.waited = false)
    (h : ((subcoreSiblings s).filter (atRegang s)).length = (subcoreSiblings s).length ∨ regangOver s = true) :
    regangRelease s = released ((subcoreSiblings s).filter (atRegang s)) (gangUp s (s.dr :: (subcoreSiblings s).filter (atRegang s))) := by
  have hc : (s.dr.waited || !(regangOver s || ((subcoreSiblings s).filter (atRegang s)).length == (subcoreSiblings s).length)) = false := by
    rcases h with h | h <;> simp [hw, h]
  simp only [regangRelease, hc, Bool.false_eq_true, if_false]
  rfl

theorem regangRelease_recorded {s : State} (hw : s.dr.waited = false)
    (h : ((subcoreSiblings s).filter (atRegang s)).length = (subcoreSiblings s).length ∨ regangOver s = true) :
    Recorded (released ((subcoreSiblings s).filter (atRegang s)) s) (regangRelease s) :=
  regangRelease_released hw h ▸ (gangUp_recorded s _).released _

theorem regangVerdict_waited {s : State} (h : s.dr.waited = true) : regangVerdict s = .go := by
  unfold regangVerdict
  split <;> simp [h, waitIf]

/-- Settles O20: `yield` and `regang` go on where their wait is over; what `regang` does to gangs is a record of observation. -/
theorem pauseResult : Obligations.PauseResult := by
  intro s ready
  refine ⟨does_id_of_issueIf rfl rfl, fun h => ?_, fun t ht h => ?_, fun d t hd ht h => ?_, fun h => ?_, fun hw => ?_⟩
  · have he := exec_yield_of_not_over (yieldOver_of_not_waiting h)
    have hdyn := yieldVerdict_of_not_waiting h
    refine ⟨fun hgo => does_id_of_issueIf he ?_, fun hw hy => waits_of_issueIf he ?_⟩
    · rcases hgo with hgo | hgo <;> simp [hdyn, hgo, waitIf]
    · simp [hdyn, hw, hy, waitIf]
  · change execYield s = _
    have : yieldOver s = true := by simpa [yieldOver, ht] using h
    rw [execYield, this, if_pos rfl]
    rfl
  · subst hd
    change execYieldTimeout s.dr.uid s = _
    simp only [execYieldTimeout, select_port, ht, h, and_self, if_true]
    rfl
  · exact does_id_of_issueIf (by rw [exec_regang, regangRelease_waited h]) (regangVerdict_waited h)
  · intro here free
    refine ⟨fun h => ?_, fun t ht h => ?_, fun hl ht => ?_⟩
    · have hv : regangVerdict (regangRelease s) = .go := regangVerdict_waited (by rw [regangRelease_released hw h]; rfl)
      refine ⟨_, (exec_regang s).trans (congrArg _ (issueIf_go retire (verdict_empty_go _) hv)), ?_⟩
      exact ((regangRelease_recorded hw h).trans (issued_recorded _ _ _ _)).retire_bare id fun _ _ => rfl
    · have ho : regangOver s = true := by simpa [regangOver, ht] using h
      exact ⟨_, exec_regangTimeout s ho, ((regangRelease_recorded hw (.inr ho)).onDr fun _ _ => rfl).bare⟩
    · have ho : regangOver s = false := by
        unfold regangOver
        split
        · next t h => exact absurd h (ht t)
        · rfl
      have hr : regangRelease s = s := regangRelease_waiting ho hl
      refine waits_of_issueIf (by rw [exec_regang, hr]) ?_
      unfold regangVerdict
      split
      · next t h => exact absurd h (ht t)
      · simp [hw, waitIf]

end Sys2Proof.Machine

namespace Sys2Proof.Machine

set_option Elab.async false

/-! PROOFS. A step that is not taken leaves the state from before its instruction was fetched. -/

/-- A drove whose `qhelp` has fetched a word that is no instruction, while the granule of its fault record is in state T. -/
def blockedRecord : State :=
  { onDr helping fun d => { d with helpWord := some 0 } with
    coh := { helping.coh with dir := [{ DirEntry.idle 0x4000 with st := .t }] } }

theorem blockedRecord_ready : blockedRecord.port = true ∧ blockedRecord.dr.micro = none ∧ blockedRecord.dr.help = true ∧
    blockedRecord.dr.helpWord = some 0 := by decide +kernel

/-- The step backs off to the state that the drove was found in, where no work is under way. -/
theorem blockedRecord_step : (nxt (step blockedRecord)).who = none := by decide +kernel

/-- The statement backs off to the state in which the instruction is run, where the drove's work is under way. -/
theorem blockedRecord_settle :
    let u := onWork { blockedRecord with who := none, met := none, port := false } (.run blockedRecord.dr.uid)
    (nxt (settle u u.who u.cycle (exec ((decode 0).getD (.illegalWord 0)) u))).who = some (.run 3) := by decide +kernel

/-- Refutes O6: where an instruction's own write meets a busy granule, the step falls back to the state before the fetch and not to the
state that runs the instruction: `blockedRecord` tells them apart by the work under way. -/
theorem not_stepRunsDecoded : ¬ Obligations.StepRunsDecoded := by
  intro h
  obtain ⟨hp, hm, hh, hw⟩ := blockedRecord_ready
  have hs := congrArg (fun o => (nxt o).who) (h.2.1 blockedRecord 0 hp hm hh hw)
  exact absurd (blockedRecord_step.symm.trans (hs.trans blockedRecord_settle)) nofun

end Sys2Proof.Machine

namespace Sys2Proof.Machine

set_option Elab.async false

/-! PROOFS. Vector loads and stores. What an instruction does after its issue has been recorded is what it does before, but for the
records of observation. -/

theorem homeBytes_congr {s t : State} (hm : t.mem = s.mem) (hc : t.coh = s.coh) (a n : Nat) : homeBytes t a n = homeBytes s a n := by
  induction n generalizing a with
  | zero => rfl
  | succ n ih => simp only [homeBytes, homeByte_congr hm hc, ih]

theorem homeRead_congr {s t : State} (hm : t.mem = s.mem) (hc : t.coh = s.coh) (a n : Nat) : homeRead t a n = homeRead s a n := by
  rw [homeRead, homeRead, homeBytes_congr hm hc]

namespace Recorded

section
variable {s t : State}

theorem dr (h : Recorded s t) : ∃ o, t.dr = s.dr.recorded o := by
  obtain ⟨o, li, fr, ds, ln, ts, du, hd, rfl⟩ := h
  exact ⟨o, rfl⟩

/-- What records of observation leave out. -/
theorem rest (h : Recorded s t) : t.mem = s.mem ∧ t.coh = s.coh ∧ t.sch = s.sch ∧ t.reqs = s.reqs ∧ t.uid = s.uid ∧ t.slot = s.slot ∧
    t.cycle = s.cycle ∧ t.priv = s.priv ∧ t.eng = s.eng ∧ t.vc = s.vc := by
  obtain ⟨o, li, fr, ds, ln, ts, du, hd, rfl⟩ := h
  exact ⟨rfl, rfl, rfl, rfl, rfl, rfl, rfl, rfl, rfl, rfl⟩

theorem domainOf (h : Recorded s t) (va : Nat) : domainOf t va = domainOf s va := by
  obtain ⟨hm, hc, hs, -⟩ := h.rest
  obtain ⟨o, hdr⟩ := h.dr
  have hread (a : Nat) : readRegions t a = readRegions s a := by
    simp only [readRegions, homeRead_congr hm hc]
  have htable (c : BitVec 16) : tableOf t c = tableOf s c := by
    simp only [tableOf, ctxOf, hs, hread]
  simp only [Machine.domainOf, regionsOf, coreOf, hc, htable, hdr]
  rfl

theorem accFresh (h : Recorded s t) (lane va size x : Nat) (helper : Bool) :
    Acc.fresh t lane va size x helper = Acc.fresh s lane va size x helper := by
  simp only [Acc.fresh, h.domainOf]

theorem reqFresh (h : Recorded s t) (kind : ReqKind) (size : Nat) (accs : List Acc) :
    Req.fresh t kind size accs = Req.fresh s kind size accs := by
  obtain ⟨-, -, -, -, hu, hs, -⟩ := h.rest
  obtain ⟨o, hdr⟩ := h.dr
  simp only [Req.fresh, issueWord, hu, hs, hdr]
  rfl

theorem post (h : Recorded s t) (q : Req) : Recorded (post s q) (post t q) := by
  obtain ⟨o, li, fr, ds, ln, ts, du, hd, rfl⟩ := h
  exact ⟨o, li, fr, ds, ln, ts, du, hd, rfl⟩

theorem retire (h : Recorded s t) : Recorded (retire s) (retire t) := by
  obtain ⟨o, li, fr, ds, ln, ts, du, hd, rfl⟩ := h
  refine ⟨{ o with gangDue := false }, s.cycle, fr, ds, ln, ts, du, ?_, ?_⟩
  · cases hm : s.dr.micro <;> simp only [Machine.retire, hm] <;> exact hd
  · have hm : (s.dr.recorded o).micro = s.dr.micro := rfl
    cases hm' : s.dr.micro <;> simp only [Machine.retire, hm, hm'] <;> rfl

theorem takeTurn (h : Recorded s t) (q : Req) : (takeTurn t q).2 = (takeTurn s q).2 ∧ Recorded (takeTurn s q).1 (takeTurn t q).1 := by
  obtain ⟨o, li, fr, ds, ln, ts, du, hd, rfl⟩ := h
  have hdet : (s.dr.recorded o).det = s.dr.det := rfl
  cases hx : s.dr.det
  · simp only [Machine.takeTurn, hdet, hx, Bool.false_eq_true, if_false]
    exact ⟨trivial, o, li, fr, ds, ln, ts, du, hd, rfl⟩
  · simp only [Machine.takeTurn, hdet, hx, if_true]
    exact ⟨rfl, o, li, fr, ds, ln, ts, du, hd, rfl⟩

theorem postStore (h : Recorded s t) (q : Req) (b : Bool) : Recorded (postStore s q b) (postStore t q b) := by
  obtain ⟨hq, hs⟩ := h.takeTurn q
  cases b
  · exact (h.post q).retire
  · simp only [Machine.postStore, if_true, hq]
    exact (hs.post _).retire

end

end Recorded

/-- An instruction that goes leaves `u`, but for the records of its issue. -/
theorem leaves_of_go {i : Instr} {s u : State} {c : Chk} {dyn : State → Verdict} {run : State → State}
    (he : exec i s = .next (issueIf c dyn s run)) (hv : verdict c s = .go) (hd : dyn s = .go)
    (hr : ∀ t, Recorded s t → Recorded u (run t)) : Leaves i s u :=
  ⟨_, he.trans (congrArg _ (issueIf_go run hv hd)), (hr _ (issued_recorded _ _ _ _)).bare⟩

/-- An instruction that goes and only retires, as it finds its drove. -/
theorem does_id_of_go {i : Instr} {s : State} {c : Chk} {dyn : State → Verdict} {run : State → State}
    (he : exec i s = .next (issueIf c dyn s run)) (hv : verdict c s = .go) (hd : dyn s = .go)
    (hr : ∀ t, Recorded s t → run t = retire t) : Does i s id := by
  have h := issued_recorded (canGo c dyn s) s c.uses c.slots
  exact does_of_recorded (he.trans (congrArg _ ((issueIf_go run hv hd).trans (hr _ h)))) h

theorem coreVerdict_go {ls : List Nat} {f : Nat → CoreFault} (h : ∀ l ∈ ls, f l = none) : coreVerdict ls f = .go := by
  have key (c : BitVec 8) : (ls.findSome? fun l => (f l).bind fun x => if x.1 = c then some x.2 else none) = none := by
    rw [List.findSome?_eq_none_iff]
    intro l hl
    simp [h l hl]
  simp [coreVerdict, key, firstOf]

theorem memWait_go {s : State} (h : acqPending s = false) : memWait s = .go := by simp [memWait, h, waitIf]

theorem entryWait_go {s : State} (h : sbcnt s s.dr.uid < 16) : entryWait s = .go := by
  simp only [entryWait, waitIf, decide_eq_true_eq, Nat.not_le.2 h, if_false]

section
variable {i : Instr} {s : State} {kind : ReqKind} {vt sb va sz : Nat}
  {fault : Drove → Nat → CoreFault} {accs : Drove → Nat → List (Nat × Nat × Nat)} {priv : Bool}

/-- The accesses of a load that its drove makes: a helper lane that faults at the core has its value at once (09 R183). -/
def loadAccsOf (s : State) (fault : Drove → Nat → CoreFault) (accs : Drove → Nat → List (Nat × Nat × Nat)) (d : Drove) : List Acc :=
  (loadLanes d).flatMap fun l =>
    if (fault d l).isSome then [{ Acc.fresh s l 0 0 0 true with st := .done }]
    else (accs d l).map fun x => { Acc.fresh s l x.1 x.2.1 0 (!d.pres.getLsbD l) with y := x.2.2 }

theorem vecLoad_issues {addr : Drove → Nat → Nat} {two : Bool} (he : exec i s = vecLoad kind vt sb va sz addr fault accs s priv)
    (htwo : two = (decide (sz = 3) || fillsPair s sz addr))
    (hfault : ∀ d o, fault (Drove.recorded d o) = fault d) (haccs : ∀ d o, accs (Drove.recorded d o) = accs d)
    (hf : fits s [srcS sb, srcV va, dstV vt false (if two then 2 else 1) (if two then 2 else 1)] = true) (hm : masksFull s = true)
    (ht : isBX (modeET s.dr.mode) = false) (ha : acqPending s = false) (hc : ∀ l ∈ activeLanes s.dr, fault s.dr l = none) :
    (activeMask s.dr = 0 → Does i s id) ∧
    (activeMask s.dr ≠ 0 → Leaves i s (retire (post (onDr s fun d => emptyV d vt two)
      { Req.fresh s kind (2 ^ sz) (loadAccsOf s fault accs s.dr) with dst := vt, dst2 := two, priv := priv }))) := by
  subst htwo
  have hv := verdict_go (c := { uses := _, masks := true, typ := !isBX (modeET s.dr.mode) }) hf rfl rfl rfl rfl (by simp [ht]) (.inl rfl) (.inr hm) (.inl rfl)
  have hd : firstOf [memWait s, coreVerdict (activeLanes s.dr) (fault s.dr)] = .go := by
    simp [memWait_go ha, coreVerdict_go hc, firstOf]
  refine ⟨fun h0 => does_id_of_go he hv hd fun t ht => ?_, fun h0 => ?_⟩
  · obtain ⟨o, hdr⟩ := ht.dr
    exact if_pos (by rw [hdr]; exact h0)
  · refine leaves_of_go he hv hd fun t ht => ?_
    obtain ⟨o, hdr⟩ := ht.dr
    have hrun : loadAccsOf t fault accs t.dr = loadAccsOf s fault accs s.dr := by
      simp only [loadAccsOf, ht.accFresh, hdr, hfault, haccs]
      rfl
    have hact : activeMask t.dr ≠ 0 := by rw [hdr]; exact h0
    refine Eq.subst (motive := Recorded _) ?_ ((ht.onDr (f := fun d => emptyV d vt (decide (sz = 3) || fillsPair s sz addr)) ?_).post
      { Req.fresh s kind (2 ^ sz) (loadAccsOf s fault accs s.dr) with
        dst := vt, dst2 := decide (sz = 3) || fillsPair s sz addr, priv := priv }).retire
    · rw [← hrun, ← ht.reqFresh]
      exact (if_neg hact).symm
    · intro d o
      simp only [emptyV]
      split <;> rfl

/-- The accesses of a store: one for each active lane and address, with the data (09 R185). -/
def storeAccsOf (s : State) (accs : Drove → Nat → List (Nat × Nat × Nat)) (pos : Drove → Nat → Nat) (d : Drove) : List Acc :=
  (activeLanes d).flatMap fun l => (accs d l).map fun x => Acc.fresh s (pos d l) x.1 x.2.1 x.2.2 false

/-- Some access of a store with policy gate `gate` is a synchronising operation (19 R406). -/
def syncsAt (gate : Option Policy) (accs : Drove → Nat → List (Nat × Nat × Nat)) (s : State) : Bool :=
  match gate with
  | some p => (activeLanes s.dr).any fun l => (accs s.dr l).any fun a => syncStore s p a.1
  | none => false

theorem syncStore_recorded {s t : State} (h : Recorded s t) (p : Policy) (a : Nat) : syncStore t p a = syncStore s p a := by
  obtain ⟨o, hdr⟩ := h.dr
  simp only [syncStore, h.domainOf, hdr]
  rfl

theorem syncsAt_recorded {s t : State} {gate : Option Policy} (h : Recorded s t) (haccs : ∀ d o, accs (Drove.recorded d o) = accs d) :
    syncsAt gate accs t = syncsAt gate accs s := by
  obtain ⟨o, hdr⟩ := h.dr
  cases gate
  · rfl
  · simp only [syncsAt, syncStore_recorded h, hdr, haccs]
    rfl

theorem vecStore_issues {gate : Option Policy} {pos : Drove → Nat → Nat}
    (he : exec i s = vecStore kind gate vt sb va sz fault accs s pos priv)
    (haccs : ∀ d o, accs (Drove.recorded d o) = accs d) (hpos : ∀ d o, pos (Drove.recorded d o) = pos d)
    (hf : fits s [srcS sb, srcV va, srcV vt false (if sz = 3 then 2 else 1) (if sz = 3 then 2 else 1)] = true) (hm : masksFull s = true)
    (ha : acqPending s = false) (hc : ∀ l ∈ activeLanes s.dr, fault s.dr l = none) (hb : sbcnt s s.dr.uid < 16)
    (hs : syncsAt gate accs s = false ∨ s.dr.turn = true) :
    (activeMask s.dr = 0 → Does i s id) ∧
    (activeMask s.dr ≠ 0 → Leaves i s (postStore s { Req.fresh s kind (2 ^ sz) (storeAccsOf s accs pos s.dr) with priv := priv }
      (syncsAt gate accs s))) := by
  have hv := verdict_go (c := { uses := [srcS sb, srcV va, srcV vt false (if decide (sz = 3) then 2 else 1) (if decide (sz = 3) then 2 else 1)],
                                 masks := true }) (s := s) (by simpa using hf) rfl rfl rfl rfl rfl (.inl rfl) (.inr hm) (.inl rfl)
  have hd : firstOf [memWait s, coreVerdict (activeLanes s.dr) (fault s.dr),
      if activeMask s.dr = 0 then .go else firstOf [entryWait s, turnWait s (syncsAt gate accs s)]] = .go := by
    have ht : turnWait s (syncsAt gate accs s) = .go := by
      rcases hs with h | h <;> simp [turnWait, waitIf, h]
    simp [memWait_go ha, coreVerdict_go hc, entryWait_go hb, ht, firstOf]
  refine ⟨fun h0 => does_id_of_go he hv hd fun t ht => ?_, fun h0 => leaves_of_go he hv hd fun t ht => ?_⟩
  · obtain ⟨o, hdr⟩ := ht.dr
    exact if_pos (by rw [hdr]; exact h0)
  · obtain ⟨o, hdr⟩ := ht.dr
    have hrun : storeAccsOf t accs pos t.dr = storeAccsOf s accs pos s.dr := by
      simp only [storeAccsOf, ht.accFresh, hdr, haccs, hpos]
      rfl
    have hact : activeMask t.dr ≠ 0 := by rw [hdr]; exact h0
    refine Eq.subst (motive := Recorded _) ?_ (ht.postStore { Req.fresh s kind (2 ^ sz) (storeAccsOf s accs pos s.dr) with priv := priv }
      (syncsAt gate accs s))
    rw [← hrun, ← ht.reqFresh, ← syncsAt_recorded ht haccs]
    exact (if_neg hact).symm

end

theorem mem_activeLanes_none {d : Drove} {f : Nat → CoreFault} (h : ((activeLanes d).all fun l => (f l).isNone) = true) :
    ∀ l ∈ activeLanes d, f l = none := by
  simpa [List.all_eq_true] using h

/-- The load is `vecLoad` with these addresses, faults and accesses of each lane. -/
structure MemForm.IsLoad (s : State) (v : MemForm) (sb va : Nat) (addr : Drove → Nat → Nat) (fault : Drove → Nat → CoreFault)
    (accs : Drove → Nat → List (Nat × Nat × Nat)) : Prop where
  run     : exec v.i s = vecLoad v.kind v.vt.toNat sb va v.sz.toNat addr fault accs s v.priv
  addr    : addr s.dr = v.addr := by rfl
  faults  : fault s.dr = v.fault := by rfl
  access  : accs s.dr = v.accs := by rfl
  unseen  : ∀ d o, fault (Drove.recorded d o) = fault d := by exact fun _ _ => rfl
  unseen' : ∀ d o, accs (Drove.recorded d o) = accs d := by exact fun _ _ => rfl

/-- What O34 says of one load. -/
def MemForm.Issues (s : State) (sb : BitVec 6) (va : BitVec 7) (v : MemForm) : Prop :=
  v.loads s sb va = true →
    (activeMask s.dr = 0 → Does v.i s id) ∧
    (activeMask s.dr ≠ 0 → Leaves v.i s (retire (post (onDr s fun d => emptyV d v.vt.toNat (v.two s))
      { Req.fresh s v.kind (2 ^ v.sz.toNat) (v.loadAccs s) with dst := v.vt.toNat, dst2 := v.two s, priv := v.priv })))

theorem MemForm.IsLoad.issues {s : State} {v : MemForm} {sb : BitVec 6} {va : BitVec 7} {addr : Drove → Nat → Nat}
    {fault : Drove → Nat → CoreFault} {accs : Drove → Nat → List (Nat × Nat × Nat)}
    (h : v.IsLoad s sb.toNat va.toNat addr fault accs) : v.Issues s sb va := by
  intro hl
  simp only [MemForm.loads, Bool.and_eq_true, Bool.not_eq_true'] at hl
  obtain ⟨⟨⟨⟨hf, hm⟩, ht⟩, ha⟩, hc⟩ := hl
  have htwo : v.two s = (decide (v.sz.toNat = 3) || fillsPair s v.sz.toNat addr) := by
    simp only [MemForm.two, fillsPair, h.addr]
  have haccs : v.loadAccs s = loadAccsOf s fault accs s.dr := by
    simp only [MemForm.loadAccs, loadAccsOf, h.faults, h.access]
  rw [haccs]
  refine vecLoad_issues h.run htwo h.unseen h.unseen' hf hm ht ha ?_
  rw [h.faults]
  exact mem_activeLanes_none hc

/-- The address of a lane in M format, as a function of the drove (03 R77). -/
def mLane (sb : BitVec 6) (va : BitVec 7) (sz : BitVec 2) (sc : Bool) (d : Drove) (l : Nat) : Nat :=
  laneAddr d sb.toNat va.toNat l (scaleOf (2 ^ sz.toNat) sc)

section
variable {s : State} {vt : BitVec 7} {sb : BitVec 6} {va : BitVec 7} {sz : BitVec 2} {ex sc : Bool} {i : Instr}

theorem loadOp_issues (p : Policy) (he : exec i s = loadOp p vt sb va sz ex sc s) :
    MemForm.Issues s sb va
      { i := i, kind := .load p ex, vt := vt, sz := sz, addr := mAddr s sb va sz sc,
        fault := fun l => plainFault (mAddr s sb va sz sc l) (2 ^ sz.toNat),
        accs := fun l => [(mAddr s sb va sz sc l, 2 ^ sz.toNat, 0)] } :=
  MemForm.IsLoad.issues (addr := mLane sb va sz sc) (fault := fun d l => plainFault (mLane sb va sz sc d l) (2 ^ sz.toNat))
    (accs := fun d l => [(mLane sb va sz sc d l, 2 ^ sz.toNat, 0)]) { run := he }

theorem loadForms_issue : ∀ v ∈ loadForms s vt sb va sz ex sc, v.vt = vt ∧ v.sz = sz ∧ v.Issues s sb va := by
  simp only [loadForms, List.forall_mem_cons, true_and]
  exact ⟨loadOp_issues .o rfl, loadOp_issues .w rfl, loadOp_issues .s rfl, loadOp_issues .i rfl,
    MemForm.IsLoad.issues (addr := fun d l => privAddr d l (mLane sb va sz sc d l))
      (fault := fun d l => privCore d l (mLane sb va sz sc d l) (2 ^ sz.toNat))
      (accs := fun d l => privAccs d l (mLane sb va sz sc d l) (2 ^ sz.toNat)) { run := rfl },
    MemForm.IsLoad.issues (addr := fun _ _ => apertureBase)
      (fault := fun d l => spadFault d (mLane sb va sz sc d l) (2 ^ sz.toNat))
      (accs := fun d l => [(mLane sb va sz sc d l, 2 ^ sz.toNat, 0)]) { run := rfl }, List.forall_mem_nil _⟩

end

/-- Settles O34: every load is `vecLoad` with its addresses. -/
theorem loadIssue : Obligations.LoadIssue := by
  intro s vt sb va sz ex sc v hv
  obtain ⟨rfl, rfl, h⟩ := loadForms_issue v hv
  exact h

/-- The store is `vecStore` with these faults, accesses and places of each lane. -/
structure MemForm.IsStore (s : State) (v : MemForm) (gate : Option Policy) (sb va : Nat) (fault : Drove → Nat → CoreFault)
    (accs : Drove → Nat → List (Nat × Nat × Nat)) (pos : Drove → Nat → Nat) : Prop where
  run     : exec v.i s = vecStore v.kind gate v.vt.toNat sb va v.sz.toNat fault accs s pos v.priv
  faults  : fault s.dr = v.fault := by rfl
  access  : accs s.dr = v.accs := by rfl
  place   : pos s.dr = v.pos := by rfl
  unseen  : ∀ d o, accs (Drove.recorded d o) = accs d := by exact fun _ _ => rfl
  unseen' : ∀ d o, pos (Drove.recorded d o) = pos d := by exact fun _ _ => rfl

/-- What O35 says of one store. -/
def MemForm.Stores (s : State) (gate : Option Policy) (sb : BitVec 6) (va : BitVec 7) (v : MemForm) : Prop :=
  v.stores s gate sb va = true →
    (activeMask s.dr = 0 → Does v.i s id) ∧
    (activeMask s.dr ≠ 0 →
      Leaves v.i s (postStore s { Req.fresh s v.kind (2 ^ v.sz.toNat) (v.storeAccs s) with priv := v.priv } (v.sync s gate)))

theorem MemForm.IsStore.stores {s : State} {v : MemForm} {gate : Option Policy} {sb : BitVec 6} {va : BitVec 7}
    {fault : Drove → Nat → CoreFault} {accs : Drove → Nat → List (Nat × Nat × Nat)} {pos : Drove → Nat → Nat}
    (h : v.IsStore s gate sb.toNat va.toNat fault accs pos) : v.Stores s gate sb va := by
  intro hl
  simp only [MemForm.stores, Bool.and_eq_true, Bool.not_eq_true', Bool.or_eq_true, decide_eq_true_eq] at hl
  obtain ⟨⟨⟨⟨⟨hf, hm⟩, ha⟩, hc⟩, hb⟩, hs⟩ := hl
  have haccs : v.storeAccs s = storeAccsOf s accs pos s.dr := by
    simp only [MemForm.storeAccs, storeAccsOf, h.access, h.place]
  have hsync : v.sync s gate = syncsAt gate accs s := by
    cases gate
    · rfl
    · simp only [MemForm.sync, syncsAt, Option.any_some, h.access]
  rw [haccs, hsync]
  rw [hsync] at hs
  refine vecStore_issues h.run h.unseen h.unseen' hf hm ha ?_ hb hs
  rw [h.faults]
  exact mem_activeLanes_none hc

section
variable {s : State} {vt : BitVec 7} {sb : BitVec 6} {va : BitVec 7} {sz : BitVec 2} {sc : Bool} {i : Instr}

theorem storeOp_stores (kind : ReqKind) (p : Policy) (he : exec i s = storeOp kind p vt sb va sz sc s) :
    MemForm.Stores s (some p) sb va
      { i := i, kind := kind, vt := vt, sz := sz, addr := mAddr s sb va sz sc,
        fault := fun l => plainFault (mAddr s sb va sz sc l) (2 ^ sz.toNat),
        accs := fun l => [(mAddr s sb va sz sc l, 2 ^ sz.toNat, laneData s.dr vt.toNat l (2 ^ sz.toNat))] } :=
  MemForm.IsStore.stores (fault := fun d l => plainFault (mLane sb va sz sc d l) (2 ^ sz.toNat))
    (accs := fun d l => [(mLane sb va sz sc d l, 2 ^ sz.toNat, laneData d vt.toNat l (2 ^ sz.toNat))]) (pos := fun _ l => l) { run := he }

/-- The address of the lane that a compress-store puts in its place among the active ones (09 R195). -/
def cstLane (sb : BitVec 6) (va : BitVec 7) (sz : BitVec 2) (sc : Bool) (d : Drove) (l : Nat) : Nat :=
  (mLane sb va sz sc d ((activeLanes d).headD 0) + (activeLanes d).idxOf l * 2 ^ sz.toNat) % 2 ^ 64

/-- What a lane of a store to the drove's own memory meets at the core, and its accesses, one for each word (09 R193). -/
def stpFault (sb : BitVec 6) (va : BitVec 7) (sz : BitVec 2) (sc : Bool) (d : Drove) (l : Nat) : CoreFault :=
  privCore d l (mLane sb va sz sc d l) (2 ^ sz.toNat)

def stpAccs (vt : BitVec 7) (sb : BitVec 6) (va : BitVec 7) (sz : BitVec 2) (sc : Bool) (d : Drove) (l : Nat) :
    List (Nat × Nat × Nat) :=
  (privAccs d l (mLane sb va sz sc d l) (2 ^ sz.toNat)).map fun x =>
    (x.1, x.2.1, if 2 ^ sz.toNat = 8 then (vlane d (vt.toNat + x.2.2) l).toNat else laneData d vt.toNat l (2 ^ sz.toNat))

theorem exec_stp : exec (.stp vt sb va sz sc) s = vecStore (.store .o) none vt.toNat sb.toNat va.toNat sz.toNat (stpFault sb va sz sc)
    (stpAccs vt sb va sz sc) s (fun _ l => l) true := rfl

theorem storeForms_store : ∀ p ∈ storeForms s vt sb va sz sc, p.1.sz = sz ∧ p.1.Stores s p.2 sb va := by
  simp only [storeForms, List.forall_mem_cons, true_and]
  exact ⟨storeOp_stores (.store .o) .o rfl, storeOp_stores (.store .w) .w rfl, storeOp_stores (.store .s) .s rfl,
    storeOp_stores (.store .i) .i rfl, storeOp_stores .stm .w rfl,
    MemForm.IsStore.stores (fault := fun d l => plainFault (cstLane sb va sz sc d l) (2 ^ sz.toNat))
      (accs := fun d l => [(cstLane sb va sz sc d l, 2 ^ sz.toNat, laneData d vt.toNat l (2 ^ sz.toNat))])
      (pos := fun d l => (activeLanes d).idxOf l) { run := rfl },
    MemForm.IsStore.stores { run := exec_stp },
    MemForm.IsStore.stores (fault := fun d l => spadFault d (mLane sb va sz sc d l) (2 ^ sz.toNat))
      (accs := fun d l => [(mLane sb va sz sc d l, 2 ^ sz.toNat, laneData d vt.toNat l (2 ^ sz.toNat))])
      (pos := fun _ l => l) { run := rfl }, List.forall_mem_nil _⟩

end

/-- Settles O35: every store is `vecStore` with its addresses and data. -/
theorem storeIssue : Obligations.StoreIssue := by
  intro s vt sb va sz sc p hp
  obtain ⟨rfl, h⟩ := storeForms_store p hp
  exact h

end Sys2Proof.Machine

namespace Sys2Proof.Machine

set_option Elab.async false

/-! PROOFS. Scalar loads and stores, prefetches, fences, cache maintenance and atomics at their issue. -/

theorem scalarAddr_recorded {s t : State} (h : Recorded s t) (sb : BitVec 6) (imm : BitVec 10) :
    scalarAddr t.dr sb imm = scalarAddr s.dr sb imm := by
  obtain ⟨o, hdr⟩ := h.dr
  rw [hdr]
  rfl

theorem markS_recorded (d : Drove) (o : Seen) (n : Nat) (b : Bool) : markS (d.recorded o) n b = (markS d n b).recorded o := by
  simp only [markS]
  split <;> rfl

section
variable {s : State} {t sb : BitVec 6} {imm : BitVec 10} {sz : BitVec 2} {i : Instr} {p : Policy}

theorem scalarLoad_leaves (he : exec i s = scalarLoad p t sb imm sz s) (hp : plainFault (scalarAddr s.dr sb imm) (2 ^ sz.toNat) = none)
    (ha : acqPending s = false) (hf : fits s [srcS sb.toNat, dstS t.toNat] = true) :
    Leaves i s (retire (post (onDr s fun d => markS d t.toNat false)
      { Req.fresh s (.lds p) (2 ^ sz.toNat) [Acc.fresh s 0 (scalarAddr s.dr sb imm) (2 ^ sz.toNat) 0 false] with dst := t.toNat })) := by
  refine leaves_of_go he (verdict_go hf rfl rfl rfl rfl rfl (.inl rfl) (.inl rfl) (.inl rfl)) ?_ fun u hu => ?_
  · simp [memWait_go ha, hp, oneVerdict, firstOf]
  · simp only [scalarAddr_recorded hu, hu.accFresh, hu.reqFresh]
    exact ((hu.onDr fun d o => markS_recorded d o _ _).post _).retire

theorem scalarStore_leaves (he : exec i s = scalarStore p t sb imm sz s) (hp : plainFault (scalarAddr s.dr sb imm) (2 ^ sz.toNat) = none)
    (ha : acqPending s = false) (hf : fits s [srcS sb.toNat, srcS t.toNat] = true) (hb : sbcnt s s.dr.uid < 16)
    (hs : syncStore s p (scalarAddr s.dr sb imm) = false ∨ s.dr.turn = true) :
    Leaves i s (postStore s (Req.fresh s (.store p) (2 ^ sz.toNat)
      [{ Acc.fresh s 0 (scalarAddr s.dr sb imm) (2 ^ sz.toNat) ((sreg s.dr t.toNat).toNat % 2 ^ (8 * 2 ^ sz.toNat)) false with y := 1 }])
      (syncStore s p (scalarAddr s.dr sb imm))) := by
  refine leaves_of_go he (verdict_go hf rfl rfl rfl rfl rfl (.inl rfl) (.inl rfl) (.inl rfl)) ?_ fun u hu => ?_
  · have ht : turnWait s (syncStore s p (scalarAddr s.dr sb imm)) = .go := by
      rcases hs with h | h <;> simp [turnWait, waitIf, h]
    simp [memWait_go ha, hp, oneVerdict, entryWait_go hb, ht, firstOf]
  · simp only [scalarAddr_recorded hu, hu.accFresh, hu.reqFresh, syncStore_recorded hu, hu.sreg]
    exact hu.postStore _ _

end

/-- Settles O36: every scalar load is `scalarLoad` of its policy, every scalar store `scalarStore`. -/
theorem scalarMemoryIssue : Obligations.ScalarMemoryIssue := by
  intro s t sb imm sz n a hp ha
  refine ⟨fun hf => ?_, fun hf hb => ?_⟩
  · simp only [scalarLoads, List.forall_mem_cons]
    exact ⟨scalarLoad_leaves (p := .o) rfl hp ha hf, scalarLoad_leaves (p := .w) rfl hp ha hf, scalarLoad_leaves (p := .s) rfl hp ha hf,
      scalarLoad_leaves (p := .i) rfl hp ha hf, List.forall_mem_nil _⟩
  · simp only [scalarStores, List.forall_mem_cons]
    exact ⟨scalarStore_leaves (p := .o) rfl hp ha hf hb, scalarStore_leaves (p := .w) rfl hp ha hf hb,
      scalarStore_leaves (p := .s) rfl hp ha hf hb, scalarStore_leaves (p := .i) rfl hp ha hf hb, List.forall_mem_nil _⟩

/-- An instruction that goes takes effect by what it runs. -/
theorem takes_of_go {i : Instr} {s : State} {c : Chk} {dyn : State → Verdict} {run : State → State}
    (he : exec i s = .next (issueIf c dyn s run)) (hc : c.slots = 1) (hv : verdict c s = .go) (hd : dyn s = .go) :
    Takes i s c.uses run :=
  ⟨canGo c dyn s, he.trans (by rw [issueIf_go run hv hd, hc])⟩

section
variable {s : State} {kind : ReqKind} {vd sb va : Nat} {two typ rel entry : Bool} {pre : State → Verdict}
  {fault : Drove → Nat → CoreFault} {i : Instr}

theorem releaseWait_go (hb : sbcnt s s.dr.uid = 0) (hl : loadsOut s = false) : releaseWait s = .go := by
  simp [releaseWait, waitIf, hb, hl, firstOf]

theorem vecAtomic_takes (he : exec i s = vecAtomic kind vd sb va two typ rel entry pre fault s)
    (hf : fits s [srcS sb, srcV va, srcV vd false (if two then 2 else 1) (if two then 2 else 1)] = true) (hm : masksFull s = true)
    (ht : typ = true) (hg : mayGo s = true) (ha : acqPending s = false)
    (hc : ∀ l ∈ activeLanes s.dr, fault s.dr (laneAddr s.dr sb va l 1) = none) (hp : pre s = .go)
    (hb : entry = false ∨ sbcnt s s.dr.uid < 16) (hr : rel = false ∨ (sbcnt s s.dr.uid = 0 ∧ loadsOut s = false)) :
    (activeMask s.dr = 0 → Does i s id) ∧
    (activeMask s.dr ≠ 0 → Takes i s [srcS sb, srcV va, srcV vd false (if two then 2 else 1) (if two then 2 else 1)] fun s =>
      startAtomic s { Req.fresh s kind 4 (atomAccs s vd sb va two) with dst := vd }) := by
  have hv := verdict_go (s := s) (c := { uses := [srcS sb, srcV va, srcV vd false (if two then 2 else 1) (if two then 2 else 1)],
                                         masks := true, typ := typ, sync := true }) hf rfl rfl rfl rfl ht (.inl rfl) (.inr hm) (.inr hg)
  have hw : firstOf [if entry then entryWait s else .go, if rel then releaseWait s else .go] = .go := by
    have he : (if entry then entryWait s else .go) = .go := by
      rcases hb with h | h
      · simp [h]
      · simp [entryWait_go h]
    have hr' : (if rel then releaseWait s else .go) = .go := by
      rcases hr with h | ⟨h, h'⟩
      · simp [h]
      · simp [releaseWait_go h h']
    simp [he, hr', firstOf]
  have hd : firstOf [pre s, memWait s, coreVerdict (activeLanes s.dr) (fun l => fault s.dr (laneAddr s.dr sb va l 1)),
      if activeMask s.dr = 0 then .go
      else firstOf [if entry then entryWait s else .go, if rel then releaseWait s else .go]] = .go := by
    simp [hp, memWait_go ha, coreVerdict_go hc, hw, firstOf]
  have hact (o : Seen) : activeMask (s.dr.recorded o) = activeMask s.dr := rfl
  refine ⟨fun h0 => does_id_of_go he hv hd fun t ht => ?_, fun h0 => ?_⟩
  · obtain ⟨o, hdr⟩ := ht.dr
    exact if_pos (by rw [hdr, hact]; exact h0)
  · obtain ⟨fit, h⟩ := takes_of_go he rfl hv hd
    refine ⟨fit, h.trans (congrArg _ (if_neg ?_))⟩
    obtain ⟨o, hdr⟩ := (issued_recorded fit s _ 1).dr
    rw [hdr, hact]
    exact h0

end

/-- What O38 says of one atomic. -/
def AtomForm.Issues (s : State) (d : BitVec 7) (sb : BitVec 6) (va : BitVec 7) (v : AtomForm) : Prop :=
  v.ready s d sb va = true →
    (activeMask s.dr = 0 → Does v.i s id) ∧
    (activeMask s.dr ≠ 0 → Takes v.i s [srcS sb.toNat, srcV va.toNat, srcV d.toNat false (if v.two then 2 else 1) (if v.two then 2 else 1)]
      fun s => startAtomic s { Req.fresh s v.kind 4 (atomAccs s d.toNat sb.toNat va.toNat v.two) with dst := d.toNat })

section
variable {s : State} {d : BitVec 7} {sb : BitVec 6} {va : BitVec 7} {v : AtomForm} {pre : State → Verdict} {fault : Drove → Nat → CoreFault}

theorem AtomForm.issues (he : exec v.i s = vecAtomic v.kind d.toNat sb.toNat va.toNat v.two v.typ v.rel v.entry pre fault s)
    (hfault : v.fault s = fault s.dr) (hpre : (v.kind != .catom || s.dr.losplit != 0) = true → pre s = .go) : v.Issues s d sb va := by
  intro hr
  simp only [AtomForm.ready, Bool.and_eq_true, Bool.not_eq_true', hfault] at hr
  obtain ⟨⟨⟨⟨⟨⟨⟨⟨hf, hm⟩, ht⟩, hg⟩, ha⟩, hc⟩, hp⟩, hb⟩, hrel⟩ := hr
  refine vecAtomic_takes he hf hm ht hg ha ?_ (hpre hp) (by simpa using hb) (by simpa using hrel)
  simpa [List.all_eq_true] using hc

theorem atomForms_issue (p : BitVec 4) : ∀ v ∈ atomForms s d sb va p, v.Issues s d sb va := by
  simp only [atomForms, List.forall_mem_cons]
  refine ⟨AtomForm.issues rfl rfl fun _ => rfl, AtomForm.issues rfl rfl fun _ => rfl, AtomForm.issues rfl rfl fun _ => rfl,
    AtomForm.issues rfl rfl fun _ => rfl, AtomForm.issues rfl rfl fun _ => rfl, AtomForm.issues rfl rfl fun _ => rfl,
    AtomForm.issues rfl rfl fun h => ?_, List.forall_mem_nil _⟩
  have hl : s.dr.losplit ≠ 0 := by simpa using h
  exact if_neg (by simpa using hl)

end

/-- Settles O38: every per-lane atomic is `vecAtomic` with its checks. -/
theorem atomicIssue : Obligations.AtomicIssue := by
  refine ⟨fun s d sb va p v hv => atomForms_issue p v hv, ?_⟩
  intro s d sb so p k us hf ht hg ha hp
  refine takes_of_go (c := { uses := us, typ := aopTypes p.toNat (modeET s.dr.mode), sync := true }) rfl rfl
    (verdict_go hf rfl rfl rfl rfl ht (.inl rfl) (.inl rfl) (.inr hg)) ?_
  change firstOf [memWait s, oneVerdict (atomFault s.dr (sreg s.dr sb.toNat + sreg s.dr so.toNat).toNat)] = .go
  rw [memWait_go ha, hp]
  rfl

end Sys2Proof.Machine

namespace Sys2Proof.Machine

set_option Elab.async false

/-! PROOFS. What a request that passes the pasture keeps: a predicate that no change of the virtual caches, and no replica that a
home forgets or records, can break. -/

/-- The home forgets that slice `die` holds granule `g` (14 R308). -/
def forgetReplica (die : Nat) (s : State) (g : Nat) : State :=
  let e := dirOf s g
  let r := e.rdies &&& ~~~(1#4 <<< die)
  if e.rdies = r then s
  else
    let now (x : DirSt) : DirSt := if x = .s && r = 0 && e.sharers = 0 && !e.host then .i else x
    setDir s { e with rdies := r, st := now e.st, base := now e.base }

theorem reportLeave_eq (s : State) (l : VLine) : reportLeave s l =
    if ((cdrOf s l.vc).map (·.place)) = some true then (lineGranules l).foldl (forgetReplica l.die) s else s := rfl

/-- A fold keeps what each of its steps keeps. -/
theorem foldl_keeps {α β : Type} {P : α → Prop} {f : α → β → α} (hf : ∀ a b, P a → P (f a b)) (l : List β) {a : α} (h : P a) :
    P (l.foldl f a) := by
  induction l generalizing a with
  | nil => exact h
  | cons b l ih => exact ih (hf a b h)

/-- `P` survives every change of the virtual caches and every replica that a home forgets. -/
structure PastureKeeps (P : State → Prop) : Prop where
  vc     : ∀ s v, P s → P { s with vc := v }
  forget : ∀ s die g, P s → P (forgetReplica die s g)

namespace PastureKeeps

section
variable {P : State → Prop} (k : PastureKeeps P) {s : State}
include k

theorem reportLeave (l : VLine) (h : P s) : P (reportLeave s l) := by
  rw [reportLeave_eq]
  split
  · exact foldl_keeps (fun s g => k.forget s l.die g) _ h
  · exact h

theorem setVLine (l : VLine) (h : P s) : P (setVLine s l) := k.vc _ _ h
theorem dropVLine (l : VLine) (h : P s) : P (dropVLine s l) := k.vc _ _ h
theorem addVLine (l : VLine) (h : P s) : P (addVLine s l) := k.vc _ _ h
theorem countHit (n : Nat) (h : P s) : P (countHit s n) := k.vc _ _ h
theorem countMiss (n : Nat) (h : P s) : P (countMiss s n) := k.vc _ _ h
theorem leaveVLine (l : VLine) (h : P s) : P (leaveVLine s l) := k.dropVLine l (k.reportLeave l h)

theorem leaveVLines (ls : List VLine) (h : P s) : P (ls.foldl Machine.leaveVLine s) := foldl_keeps (fun _ l => k.leaveVLine l) ls h

theorem makeWay (c : Cdr) (old : Bool) (die set : Nat) (h : P s) : P (makeWay s c old die set).2 := by
  simp only [Machine.makeWay]
  split
  · exact h
  · split
    · exact k.leaveVLine _ h
    · split
      · exact k.vc _ _ (k.leaveVLine _ h)
      · exact h

theorem fillWay (c : Cdr) (die set : Nat) (h : P s) : P (fillWay s c die set).2 := by
  simp only [Machine.fillWay]
  split
  · exact h
  · exact k.makeWay _ _ _ _ h

omit k in
theorem spareWay (c : Cdr) (die set : Nat) (h : P s) : P (spareWay c die s set).2 := by
  simp only [Machine.spareWay]
  split <;> exact h

theorem movePart {room : State → Nat → Option Nat × State} (hr : ∀ s n, P s → P (room s n).2) (c : Cdr) (l : VLine) (b : Nat)
    (h : P s) : P (movePart room c l s b) := by
  simp only [Machine.movePart]
  split
  · exact k.setVLine _ h
  · split
    · exact h
    · have := hr s ((geoOf s c false l.die).set b) h
      split
      · next heq => exact k.addVLine _ (by rw [heq] at this; exact this)
      · next heq => exact k.reportLeave _ (by rw [heq] at this; exact this)

theorem moveVLine {room : Nat → State → Nat → Option Nat × State} (hr : ∀ b s n, P s → P (room b s n).2) (c : Cdr) (l : VLine)
    (h : P s) : P (moveVLine room s c l) :=
  foldl_keeps (fun _ b => k.movePart (hr b) c l b) _ (k.dropVLine l h)

theorem purgeLine (c : Cdr) (dpa : Nat) (h : P s) : P (purgeLine s c dpa) := by
  refine foldl_keeps (fun s l hs => ?_) _ h
  split
  · exact k.setVLine _ (k.reportLeave l hs)
  · exact k.leaveVLine l hs

end

section
variable {P : State → Prop} (k : PastureKeeps P) {c : Cdr} {dpa : Nat} (hreg : ∀ s die, P s → P (registerReplica s c die (granOf dpa))) {s : State}
include k hreg

theorem useVLine (l : VLine) (g : Geo) (dirty : Bool) (h : P s) : P (useVLine s c l g dpa dirty) := by
  simp only [Machine.useVLine]
  split
  · exact k.countMiss _ h
  · refine hreg _ _ (k.setVLine _ ?_)
    split
    · exact k.countMiss _ h
    · exact k.countHit _ h

theorem fillVLine (ctx : BitVec 16) (va die : Nat) (write : Bool) (h : P s) : P (fillVLine s c ctx va dpa die write) := by
  have hm : P (Machine.countMiss s c.id) := k.countMiss _ h
  have hw := k.fillWay c die ((geoOf s c false die).set dpa) hm
  simp only [Machine.fillVLine]
  split
  · exact hm
  · split
    · next heq => rw [heq] at hw; exact hw
    · next heq => rw [heq] at hw; exact hreg _ _ (k.addVLine _ hw)

theorem pastureLookup (ctx : BitVec 16) (va die : Nat) (write : Bool) (h : P s) : P (pastureLookup s c ctx va dpa die write) := by
  simp only [Machine.pastureLookup]
  split
  · exact h
  · split
    · have hs : P (if (findVLine s c.id false die ctx (lineBase (geoOf s c false die) va)).isSome then (some 0, s)
          else Machine.fillWay s c die ((geoOf s c false die).set dpa)).2 := by
        split
        · exact h
        · exact k.fillWay _ _ _ h
      have hroom (w : Nat) (b : Nat) (t : State) (n : Nat) (ht : P t) :
          P (if b = lineBase (geoOf s c false die) dpa then (some w, t) else Machine.spareWay c die t n).2 := by
        split
        · exact ht
        · exact spareWay _ _ _ ht
      split
      · split
        · exact k.countMiss _ hs
        · exact k.countHit _ (k.setVLine _ hs)
      · split
        · exact k.useVLine hreg _ _ _ (k.moveVLine (hroom _) _ _ hs)
        · exact k.fillVLine hreg _ _ _ _ (k.moveVLine (hroom _) _ _ hs)
    · exact k.useVLine hreg _ _ _ h
    · exact k.fillVLine hreg _ _ _ _ h

end

section
variable {P : State → Prop} (k : PastureKeeps P) {s : State} (attr : W64) (ctx : BitVec 16) (va dpa r : Nat) (write : Bool)
include k

theorem pastureAccess (hreg : ∀ s c die, P s → P (registerReplica s c die (granOf dpa))) (h : P s) :
    P (pastureAccess s attr ctx va dpa r write) := by
  simp only [Machine.pastureAccess]
  split
  · exact h
  · split
    · exact h
    · split
      · exact k.purgeLine _ _ h
      · split
        · exact h
        · exact k.pastureLookup (hreg · _) _ _ _ _ h

/-- A granule with an owner, or in T, gets no replica. -/
theorem pastureAccess_owned (ho : (dirOf s (granOf dpa)).st ≠ .i) (hs : (dirOf s (granOf dpa)).st ≠ .s) (h : P s) :
    P (Machine.pastureAccess s attr ctx va dpa r write) := by
  have hst : ((dirOf s (granOf dpa)).st == .o || (dirOf s (granOf dpa)).st == .w || (dirOf s (granOf dpa)).st == .t) = true := by
    cases h : (dirOf s (granOf dpa)).st <;> simp_all
  simp only [Machine.pastureAccess, hst, Bool.and_true]
  split
  · exact h
  · split
    · exact h
    · next c _ =>
      split
      · exact k.purgeLine _ _ h
      · split
        · exact h
        · next hc =>
          refine k.pastureLookup (fun t die ht => ?_) _ _ _ _ h
          have hp : (c.place && !leafNc attr) = false := by grind
          simp only [registerReplica, hp, Bool.false_eq_true, if_false]
          exact ht

end

end PastureKeeps

/-! What the operations of a home and of an L1 keep. -/

/-- `P` survives every change of memory, of the virtual caches, of the entries and of the counters, and every loss of copies. -/
structure HomeKeeps (P : State → Prop) : Prop where
  mem  : ∀ s m, P s → P { s with mem := m }
  vc   : ∀ s v, P s → P { s with vc := v }
  priv : ∀ s x, P s → P { s with priv := x }
  met  : ∀ s x, P s → P { s with met := x }
  dir  : ∀ s x, P s → P { s with coh := { s.coh with dir := x } }
  drop : ∀ s p, P s → P (dropL1 s p)

namespace HomeKeeps

section
variable {P : State → Prop} (k : HomeKeeps P) {s : State}
include k

theorem setDir (e : DirEntry) (h : P s) : P (setDir s e) := k.dir _ _ h
theorem onHbm (f : Memory → Memory) (h : P s) : P (onHbm s f) := k.mem _ _ h

theorem pastureKeeps : PastureKeeps P := by
  refine ⟨k.vc, fun s die g h => ?_⟩
  simp only [forgetReplica]
  split
  · exact h
  · exact k.setDir _ h

theorem recallAll (g : Nat) (h : P s) : P (recallAll s g) := by
  simp only [Machine.recallAll]
  split
  · exact h
  · exact k.setDir _ (k.vc _ _ (k.drop _ _ (k.onHbm _ h)))

theorem takeWrite_nc (g : Nat) (m : BitVec 32) (die : Option Nat) (h : P s) : P (takeWrite s g m true die) := by
  simp only [takeWrite, if_true]
  split
  · exact h
  · split
    · exact k.met _ _ h
    · split
      · exact k.recallAll g h
      · split
        · exact k.setDir _ h
        · exact h

theorem seatEntry (g : Nat) (h : P s) : P (seatEntry s g) := by
  simp only [Machine.seatEntry]
  split
  · exact h
  · split
    · exact k.setDir _ h
    · split
      · exact k.met _ _ h
      · split
        · exact k.setDir _ (k.priv _ _ (k.recallAll _ (k.dir _ _ h)))
        · exact k.setDir _ (k.priv _ _ (k.recallAll _ h))

theorem registerReplica (c : Cdr) (die g : Nat) (h : P s) : P (registerReplica s c die g) := by
  simp only [Machine.registerReplica]
  split
  · split
    · exact k.seatEntry g (k.setDir _ h)
    · exact h
  · exact h

theorem pastureAccess (attr : W64) (ctx : BitVec 16) (va dpa r : Nat) (write : Bool) (h : P s) :
    P (pastureAccess s attr ctx va dpa r write) :=
  k.pastureKeeps.pastureAccess attr ctx va dpa r write (fun _ c die h => k.registerReplica c die _ h) h

theorem mergeBack (l : L1Line) (h : P s) : P (mergeBack s l) := by
  have hw : P (if l.owned then s else takeWrite s l.dpa (BitVec.allOnes 32) true (some (dieOfCore l.core))) := by
    split
    · exact h
    · exact k.takeWrite_nc _ _ _ h
  simp only [Machine.mergeBack, pastureWriteBack]
  split
  · exact k.onHbm _ hw
  · split
    · exact k.pastureAccess _ _ _ _ _ _ (k.onHbm _ hw)
    · exact k.onHbm _ hw

theorem leaveL1 (l : L1Line) (h : P s) : P (leaveL1 s l) := by
  refine k.drop _ _ ?_
  split
  · exact k.setDir _ (k.mergeBack l h)
  · split
    · exact k.mergeBack l h
    · exact h

theorem leaveL1s (ls : List L1Line) (h : P s) : P (ls.foldl Machine.leaveL1 s) := foldl_keeps (fun _ l => k.leaveL1 l) ls h

end

end HomeKeeps

theorem HomeKeeps.and {P Q : State → Prop} (hp : HomeKeeps P) (hq : HomeKeeps Q) : HomeKeeps fun s => P s ∧ Q s where
  mem s m h := ⟨hp.mem s m h.1, hq.mem s m h.2⟩
  vc s m h := ⟨hp.vc s m h.1, hq.vc s m h.2⟩
  priv s m h := ⟨hp.priv s m h.1, hq.priv s m h.2⟩
  met s m h := ⟨hp.met s m h.1, hq.met s m h.2⟩
  dir s m h := ⟨hp.dir s m h.1, hq.dir s m h.2⟩
  drop s m h := ⟨hp.drop s m h.1, hq.drop s m h.2⟩

/-- Droves, flocks, requests, contexts, parks and saved flocks stay as they are. -/
theorem sameSide_keeps (z : State) : HomeKeeps z.sameSide :=
  ⟨fun _ _ h => h, fun _ _ h => h, fun _ _ h => h, fun _ _ h => h, fun _ _ h => h, fun _ _ h => h⟩

/-- The cores' own states stay as they are. -/
theorem cores_keeps (cs : List CoreSt) : HomeKeeps fun s => s.coh.cores = cs :=
  ⟨fun _ _ h => h, fun _ _ h => h, fun _ _ h => h, fun _ _ h => h, fun _ _ h => h, fun _ _ h => h⟩

/-- Every copy of `t` is one of `s`. -/
def Sheds (s t : State) : Prop := ∀ l ∈ t.coh.l1, l ∈ s.coh.l1

theorem Sheds.refl (s : State) : Sheds s s := fun _ h => h

theorem Sheds.keeps (s : State) : HomeKeeps (Sheds s) :=
  ⟨fun _ _ h => h, fun _ _ h => h, fun _ _ h => h, fun _ _ h => h, fun _ _ h => h, fun _ _ h _ hl => h _ (List.mem_of_mem_filter hl)⟩

/-- The copy that leaves its L1 is no longer there. -/
theorem leaveL1_gone (s : State) (l : L1Line) : ∀ x ∈ (leaveL1 s l).coh.l1, sameL1 l x = false :=
  fun _ hx => by simpa using (List.mem_filter.1 hx).2

/-- Copies leave one after the other, and none of those that were to leave is left. -/
theorem leaveL1s_gone (ls : List L1Line) (s : State) : ∀ l ∈ ls, ∀ x ∈ (ls.foldl leaveL1 s).coh.l1, sameL1 l x = false := by
  induction ls generalizing s with
  | nil => simp
  | cons l ls ih =>
    refine List.forall_mem_cons.2 ⟨fun x hx => ?_, ih _⟩
    exact leaveL1_gone s l x ((Sheds.keeps (leaveL1 s l)).leaveL1s ls (Sheds.refl _) x hx)

end Sys2Proof.Machine

namespace Sys2Proof.Machine

set_option Elab.async false

/-! PROOFS. Prefetches, cache maintenance and fences (09 R197-R199). -/

/-- The accesses of a prefetch: those of the active lanes that could be loaded (09 R197). -/
def prefAccs (sb : BitVec 6) (va : BitVec 7) (sz : BitVec 2) (sc : Bool) (s : State) (d : Drove) : List Acc :=
  (activeLanes d).filterMap fun l =>
    let a := mLane sb va sz sc d l
    if (plainFault a (2 ^ sz.toNat)).isSome || routeOf a != 0 then none else some (Acc.fresh s l a (2 ^ sz.toNat) 0 false)

theorem exec_pref (tgt : BitVec 2) (sb : BitVec 6) (va : BitVec 7) (sz : BitVec 2) (sc : Bool) (s : State) :
    exec (.pref tgt sb va sz sc) s = .next (issueIf { uses := [srcS sb.toNat, srcV va.toNat], masks := true } memWait s fun s =>
      if (prefAccs sb va sz sc s s.dr).isEmpty then retire s
      else retire (post s (Req.fresh s (.pref tgt.toNat) (2 ^ sz.toNat) (prefAccs sb va sz sc s s.dr)))) := rfl

theorem prefAccs_recorded {s t : State} (h : Recorded s t) (sb : BitVec 6) (va : BitVec 7) (sz : BitVec 2) (sc : Bool) :
    prefAccs sb va sz sc t t.dr = prefAccs sb va sz sc s s.dr := by
  obtain ⟨o, hdr⟩ := h.dr
  simp only [prefAccs, h.accFresh, hdr]
  rfl

theorem pref_issues {s : State} (tgt : BitVec 2) {sb : BitVec 6} {va : BitVec 7} (sz : BitVec 2) (sc : Bool) (ha : acqPending s = false)
    (hf : fits s [srcS sb.toNat, srcV va.toNat] = true) (hm : masksFull s = true) :
    (prefAccs sb va sz sc s s.dr = [] → Does (.pref tgt sb va sz sc) s id) ∧
    (prefAccs sb va sz sc s s.dr ≠ [] → Leaves (.pref tgt sb va sz sc) s
      (retire (post s (Req.fresh s (.pref tgt.toNat) (2 ^ sz.toNat) (prefAccs sb va sz sc s s.dr))))) := by
  have hv := verdict_go (c := { uses := [srcS sb.toNat, srcV va.toNat], masks := true }) hf rfl rfl rfl rfl rfl (.inl rfl) (.inr hm) (.inl rfl)
  refine ⟨fun h0 => does_id_of_go (exec_pref ..) hv (memWait_go ha) fun t ht => ?_,
    fun h0 => leaves_of_go (exec_pref ..) hv (memWait_go ha) fun t ht => ?_⟩
  · rw [prefAccs_recorded ht, h0]
    rfl
  · rw [prefAccs_recorded ht, ht.reqFresh, if_neg (by simpa using h0)]
    exact (ht.post _).retire

/-- The L1 copies that a `vinv` drops (09 R198). -/
def vinvHits (whole : Bool) (lo n : Nat) (s : State) (x : L1Line) : Bool :=
  x.core == s.dr.core && !x.reg && !x.owned && inRange whole s.dr.ctx x.ctx lo n x.va 128

theorem retire_pc_congr {s t : State} (h : t.dr = s.dr) : (retire t).dr.pc = (retire s).dr.pc := by
  simp only [retire, h]
  split <;> simp [onDr, onFl, retireDr, h]

section
variable {s : State} {a l : BitVec 6}

theorem vinv_bad (hb : a = 0 → l = 0) : (a.toNat == 0 && l.toNat != 0) = false := by
  by_cases h : a = 0
  · simp [h, hb h]
  · have : a.toNat ≠ 0 := fun h' => h (BitVec.eq_of_toNat_eq h')
    simp [this]

/-- What a `vinv` leaves: copies and replicas of the range have gone (09 R198). -/
def vinvLeft (whole : Bool) (lo n : Nat) (s : State) : State :=
  let reps (t : State) : List VLine := t.vc.lines.filter fun x => x.die == dieOfCore t.dr.core && ((cdrOf t x.vc).map (·.place)) == some true &&
    inRange whole t.dr.ctx x.ctx lo n x.va (lineBytes ((cdrOf t x.vc).elim 0 fun c => if x.old then c.olsz else c.lsz))
  let t := (s.coh.l1.filter (vinvHits whole lo n s)).foldl leaveL1 s
  (reps t).foldl leaveVLine t

theorem exec_vinv : exec (.vinv a l) s = .next (issueIf { uses := [srcS a.toNat, srcS l.toNat], bad := a.toNat == 0 && l.toNat != 0 } memWait s
    fun s => retire (vinvLeft (a.toNat == 0) (sreg s.dr a.toNat).toNat (sreg s.dr l.toNat).toNat s)) := rfl

theorem vinvLeft_dr (whole : Bool) (lo n : Nat) : (vinvLeft whole lo n s).dr = s.dr :=
  ((sameSide_keeps s).pastureKeeps.leaveVLines _ ((sameSide_keeps s).leaveL1s _ (sameSide_refl s))).1

theorem vinvLeft_l1 (whole : Bool) (lo n : Nat) {x : L1Line} (hx : x ∈ (vinvLeft whole lo n s).coh.l1) :
    x ∈ s.coh.l1 ∧ vinvHits whole lo n s x = false := by
  have hx1 := (Sheds.keeps _).pastureKeeps.leaveVLines _ (Sheds.refl _) x hx
  have hin : x ∈ s.coh.l1 := (Sheds.keeps s).leaveL1s _ (Sheds.refl s) x hx1
  refine ⟨hin, Bool.eq_false_iff.2 fun hh => ?_⟩
  have := leaveL1s_gone _ s x (List.mem_filter.2 ⟨hin, hh⟩) x hx1
  simp [sameL1] at this

theorem vinvHits_recorded {t : State} (h : Recorded s t) (whole : Bool) (lo n : Nat) : vinvHits whole lo n t = vinvHits whole lo n s := by
  obtain ⟨o, hdr⟩ := h.dr
  funext x
  simp only [vinvHits, hdr]
  rfl

theorem vinv_answers (ha : acqPending s = false) (hf : fits s [srcS a.toNat, srcS l.toNat] = true) (hb : a = 0 → l = 0) :
    ∃ t, exec (.vinv a l) s = .next t ∧ t.dr.pc = (retire s).dr.pc ∧
      ∀ x ∈ t.coh.l1, x ∈ s.coh.l1 ∧ (x.core = s.dr.core → x.reg = false → x.owned = false →
        inRange (a.toNat == 0) s.dr.ctx x.ctx (sreg s.dr a.toNat).toNat (sreg s.dr l.toNat).toNat x.va 128 = false) := by
  obtain ⟨fit, he⟩ := takes_of_go (exec_vinv (s := s) (a := a) (l := l)) rfl
    (verdict_go hf rfl rfl (vinv_bad hb) rfl rfl (.inl rfl) (.inl rfl) (.inl rfl)) (memWait_go ha)
  have hu := issued_recorded fit s [srcS a.toNat, srcS l.toNat] 1
  refine ⟨_, he, (retire_pc_congr (vinvLeft_dr ..)).trans hu.retire.pc, fun x hx => ?_⟩
  obtain ⟨hin, hhit⟩ := vinvLeft_l1 _ _ _ ((retire_coh _) ▸ hx)
  obtain ⟨-, hcoh, -⟩ := hu.rest
  rw [hcoh] at hin
  rw [vinvHits_recorded hu, hu.sreg, hu.sreg] at hhit
  refine ⟨hin, fun hc hr ho => ?_⟩
  simpa [vinvHits, hc, hr, ho] using hhit

end

/-- Settles O37. -/
theorem maintenanceIssue : Obligations.MaintenanceIssue := by
  intro s tgt sb va sz sc a l ha
  refine ⟨fun hf hm => pref_issues tgt sz sc ha hf hm, fun hf hb => ⟨vinv_answers ha hf hb, fun he => ?_⟩, fun hl => ⟨?_, fun hd => ⟨?_, ?_⟩⟩⟩
  · refine leaves_of_go (i := .vwb a l) rfl (verdict_go hf rfl rfl (vinv_bad hb) rfl rfl (.inl rfl) (.inl rfl) (.inl rfl)) ?_ fun t ht => ?_
    · simp [memWait_go ha, entryWait_go he, firstOf]
    · simp only [ht.accFresh, ht.reqFresh, ht.sreg]
      exact (ht.post _).retire
  · exact takes_of_go (c := {}) rfl rfl (verdict_go rfl rfl rfl rfl rfl rfl (.inl rfl) (.inl rfl) (.inl rfl)) (by simp [hl, waitIf])
  · exact does_id_of_go (i := .fenceRel) (c := {}) rfl (verdict_go rfl rfl rfl rfl rfl rfl (.inl rfl) (.inl rfl) (.inl rfl))
      (releaseWait_go hd hl) fun t _ => rfl
  · exact takes_of_go (c := {}) rfl rfl (verdict_go rfl rfl rfl rfl rfl rfl (.inl rfl) (.inl rfl) (.inl rfl)) (releaseWait_go hd hl)

end Sys2Proof.Machine

namespace Sys2Proof.Machine

set_option Elab.async false

/-! PROOFS. The home serves a request at once (15 R328-R331): the laws of the directory's entries and of requests in flight, and a
request that meets a free home. -/

/-! Entries. -/

theorem dirOf_g (s : State) (g : Nat) : (dirOf s g).g = g := by
  simp only [dirOf]
  cases h : s.coh.dir.find? fun e => e.g == g with
  | none => rfl
  | some e => simpa using List.find?_some h

theorem find?_filter_other {es : List DirEntry} {x g : Nat} (h : g ≠ x) :
    (es.filter fun e => e.g != x).find? (fun e => e.g == g) = es.find? fun e => e.g == g := by
  rw [List.find?_filter]
  refine congrArg (fun p => es.find? p) (funext fun e => ?_)
  by_cases he : e.g = g
  · simp [he, h]
  · simp [he]

theorem find?_filter_self (es : List DirEntry) (g : Nat) : (es.filter fun e => e.g != g).find? (fun e => e.g == g) = none := by
  simp [List.find?_eq_none]

theorem dirOf_putDir (s : State) (e : DirEntry) (g : Nat) : dirOf (putDir s e) g = if g = e.g then e else dirOf s g := by
  by_cases h : g = e.g
  · subst h
    simp only [dirOf, putDir, if_true, List.find?_append, find?_filter_self, Option.none_or]
    simp
  · have h' : ¬ e.g = g := fun x => h x.symm
    simp [dirOf, putDir, List.find?_append, find?_filter_other h, h, h']

theorem dirOf_setDir (s : State) (e : DirEntry) (g : Nat) : dirOf (setDir s e) g =
    if g = e.g then (if e.st = .i && e.queue.isEmpty then .idle g else e) else dirOf s g := by
  by_cases h : g = e.g
  · subst h
    by_cases hi : (decide (e.st = .i) && e.queue.isEmpty) = true
    · simp only [dirOf, setDir, hi, if_true, find?_filter_self, Option.getD_none]
    · simp only [dirOf, setDir, if_neg hi, if_true, List.find?_append, find?_filter_self, Option.none_or]
      simp
  · have h' : ¬ e.g = g := fun x => h x.symm
    by_cases hi : (decide (e.st = .i) && e.queue.isEmpty) = true
    · simp only [dirOf, setDir, hi, if_true, if_neg h, find?_filter_other h]
    · simp only [dirOf, setDir, if_neg hi, if_neg h, List.find?_append, find?_filter_other h]
      simp [h']

/-- The entry of an open home is as it was, when nobody waits. -/
theorem dirOf_homeOpen {s : State} {g : Nat} (h : (dirOf s g).queue = []) (x : Nat) : dirOf (homeOpen s g) x = dirOf s x := by
  rw [homeOpen, dirOf_putDir, dirOf_g]
  by_cases hx : x = g
  · subst hx
    rw [if_pos rfl, ← h]
  · rw [if_neg hx]

/-- What the home serves depends on memory, the copies and the entries. -/
theorem homeByte_of_dirs {s t : State} (hm : t.mem.hbm = s.mem.hbm) (hl : t.coh.l1 = s.coh.l1) (hd : ∀ g, dirOf t g = dirOf s g) (a : Nat) :
    homeByte t a = homeByte s a := by
  simp only [homeByte, merged, ownedLine, hd, hm, hl]

theorem homeBytes_of_dirs {s t : State} (hm : t.mem.hbm = s.mem.hbm) (hl : t.coh.l1 = s.coh.l1) (hd : ∀ g, dirOf t g = dirOf s g) (a n : Nat) :
    homeBytes t a n = homeBytes s a n := by
  induction n generalizing a with
  | zero => rfl
  | succ n ih => simp only [homeBytes, homeByte_of_dirs hm hl hd, ih]

theorem homeBytes_homeOpen {s : State} {g : Nat} (h : (dirOf s g).queue = []) (a n : Nat) : homeBytes (homeOpen s g) a n = homeBytes s a n :=
  homeBytes_of_dirs (s := s) (t := homeOpen s g) rfl rfl (dirOf_homeOpen h) a n

/-! Requests. -/

theorem accOf_congr {s t : State} (h : t.reqs = s.reqs) (r j : Nat) : accOf t r j = accOf s r j := by simp only [accOf, reqOf, h]

theorem reqOf_id {s : State} {r : Nat} {q : Req} (h : reqOf s r = some q) : q.id = r := by simpa using List.find?_some h

theorem accOf_some {s : State} {r j : Nat} {q : Req} {a : Acc} : accOf s r j = some (q, a) ↔ reqOf s r = some q ∧ q.accs[j]? = some a := by
  simp only [accOf, Option.bind_eq_some_iff, Option.map_eq_some_iff, Prod.mk.injEq]
  constructor
  · rintro ⟨q', hq, a', ha, rfl, rfl⟩
    exact ⟨hq, ha⟩
  · rintro ⟨hq, ha⟩
    exact ⟨q, hq, a, ha, rfl, rfl⟩

theorem accOf_id {s : State} {r j : Nat} {q : Req} {a : Acc} (h : accOf s r j = some (q, a)) : q.id = r := reqOf_id (accOf_some.1 h).1

theorem reqOf_onReq {f : Req → Req} (hf : ∀ q, (f q).id = q.id) (s : State) (r : Nat) : reqOf (onReq s r f) r = (reqOf s r).map f := by
  simp only [reqOf, onReq, mapIf, List.find?_map]
  have hp : ((fun q : Req => q.id == r) ∘ fun q => if (q.id == r) = true then f q else q) = fun q => q.id == r := by
    funext q
    simp only [Function.comp]
    split
    · rw [hf]
    · rfl
  rw [hp]
  cases h : s.reqs.find? fun q => q.id == r with
  | none => rfl
  | some q => simp [show q.id = r from reqOf_id h]

theorem modNth_get {α : Type} (f : α → α) (xs : List α) (j : Nat) : (modNth f xs j)[j]? = xs[j]?.map f := by
  induction xs generalizing j with
  | nil => rfl
  | cons x xs ih =>
    cases j with
    | zero => rfl
    | succ j => exact ih j

/-- An access after a change of it. -/
theorem accOf_onAcc {s : State} {r j : Nat} {q : Req} {a : Acc} (h : accOf s r j = some (q, a)) (f : Acc → Acc) :
    accOf (onAcc s r j f) r j = some ({ q with accs := modNth f q.accs j }, f a) := by
  obtain ⟨hq, ha⟩ := accOf_some.1 h
  refine accOf_some.2 ⟨?_, ?_⟩
  · exact (reqOf_onReq (f := fun q => { q with accs := modNth f q.accs j }) (fun _ => rfl) s r).trans (by rw [hq]; rfl)
  · rw [modNth_get, ha]
    rfl

/-! A free home. -/

/-- A home that may take a request at once applies it. -/
theorem arrive_free {s : State} {g : Nat} {p : Party} {w : Want} (h : homeFree s g p w = true) (a : Asker) (apply : State → State) :
    arrive s g a p w apply = placeEntry (apply (homeOpen s g)) g := by
  simp only [homeFree, Bool.and_eq_true, bne_iff_ne, ne_eq, List.isEmpty_iff, Bool.not_eq_true'] at h
  obtain ⟨⟨⟨hst, hq⟩, hn⟩, ho⟩ := h
  simp [arrive, takeNow, hst, hq, hn, ho, homeOpen]

theorem homeFree_queue {s : State} {g : Nat} {p : Party} {w : Want} (h : homeFree s g p w = true) : (dirOf s g).queue = [] := by
  simp only [homeFree, Bool.and_eq_true, List.isEmpty_iff] at h
  exact h.1.1.2

section
variable {s : State} {r j : Nat} {q : Req} {a : Acc}

/-- What `homeNow` says, in its parts. -/
theorem homeNow_iff : homeNow s q j a = true ↔ homeReady s q j a = true ∧ aetMeets s a.dpa a.size = false ∧ leafEf a.attr = 0 ∧
    (readKind q.kind = true → leafNc a.attr = true → hitLine s q a = none) ∧
    homeFree s (granOf a.dpa) (partyOf s q a) (wantOf q a) = true := by
  simp only [homeNow, Bool.and_eq_true, Bool.not_eq_true', beq_iff_eq, Bool.and_eq_false_iff, Option.isSome_eq_false_iff, Option.isNone_iff_eq_none]
  constructor
  · rintro ⟨⟨⟨⟨hr, hm⟩, he⟩, hh⟩, hf⟩
    refine ⟨hr, hm, he, fun hk hn => ?_, hf⟩
    rcases hh with (h | h) | h
    · simp [hk] at h
    · simp [hn] at h
    · exact h
  · rintro ⟨hr, hm, he, hh, hf⟩
    refine ⟨⟨⟨⟨hr, hm⟩, he⟩, ?_⟩, hf⟩
    by_cases hk : readKind q.kind = true
    · by_cases hn : leafNc a.attr = true
      · exact .inr (hh hk hn)
      · exact .inl (.inr (by simpa using hn))
    · exact .inl (.inl (by simpa using hk))

theorem serveAcc_homeTook (ha : accOf s r j = some (q, a)) (hn : homeNow s q j a = true) : serveAcc s r j = homeTook s r j q a := by
  obtain ⟨hr, hm, he, hh, hf⟩ := homeNow_iff.1 hn
  have hhit : (if (readKind q.kind && leafNc a.attr) = true then hitLine s q a else none) = none := by
    split
    · next h =>
      rw [Bool.and_eq_true] at h
      exact hh h.1 h.2
    · rfl
  simp only [serveAcc, ha, hr, hm, he, hhit, Bool.not_true, Bool.false_eq_true, if_false, and_false, ne_eq, not_true_eq_false, false_and]
  exact arrive_free hf _ _

theorem homeTakes_homeTook (ha : accOf s r j = some (q, a)) (hn : homeNow s q j a = true) {p : Req → Acc → Want → Bool}
    (hp : p q a (wantOf q a) = true) : homeTakes s r j p = homeTook s r j q a := by
  simp only [homeTakes, ha, hp, if_true, serveAcc_homeTook ha hn]

end

/-- Settles O39: every row is `homeTakes` for requests of its kind. -/
theorem homeServes : Obligations.HomeServes := by
  intro s r j q a ha hn
  refine ⟨?_, fun hr hg hq => ?_, fun f x hx hreq hj => ?_⟩
  · have row (p : Req → Acc → Want → Bool) (hp : p q a (wantOf q a) = true) : (.next (homeTakes s r j p) : Out) = .next (homeTook s r j q a) := by
      rw [homeTakes_homeTook ha hn hp]
    simp only [List.forall_mem_cons]
    exact ⟨row _, row _, row _, row _, row _,
      row fun q a w => (match w with | .write _ _ => true | _ => false) && !ownsMasked s q a, row fun q _ _ => atomicKind q.kind,
      row fun q a _ => !atomicKind q.kind && ownsMasked s q a, List.forall_mem_nil _⟩
  · change (.next _ : Out) = _
    simp only [if_neg hr, ha, hg, hq, Bool.not_false, and_self, if_true, serveAcc_homeTook ha hn]
  · change (.next _ : Out) = _
    subst hj
    simp only [hx, Option.bind_some, hreq, serveAcc_homeTook ha hn]

end Sys2Proof.Machine

namespace Sys2Proof.Machine

set_option Elab.async false

/-! PROOFS. What a home returns and stores (15 R329, R330, 12 R262). -/

/-! What an access at its home leaves: the droves, the requests and the parks. -/

section
variable (z : State)

theorem evictL1_side (s : State) (l : L1Line) (h : z.sameSide s) : z.sameSide (evictL1 s l) := by
  simp only [evictL1]
  split
  · exact (sameSide_keeps z).leaveL1 l h
  · split
    · exact (sameSide_keeps z).leaveL1 l h
    · split
      · exact mapL1_side z _ _ _ h
      · exact mapL1_side z _ _ _ ((sameSide_keeps z).leaveL1 _ h)

theorem makeL1Way_side (s : State) (core va : Nat) (h : z.sameSide s) : z.sameSide (makeL1Way s core va).2 := by
  simp only [makeL1Way]
  split
  · exact h
  · split
    · exact evictL1_side z _ _ h
    · split
      · exact mapL1_side z _ _ _ (evictL1_side z _ _ h)
      · exact h

theorem fillL1_side (s : State) (l : L1Line) (h : z.sameSide s) : z.sameSide (fillL1 s l) := by
  simp only [fillL1]
  split
  · exact h
  · split
    · exact mapL1_side z _ _ _ h
    · exact coh_side _ (makeL1Way_side z _ _ _ (dropL1_side z _ _ h))

theorem accPasture_side (s : State) (q : Req) (a : Acc) (write : Bool) (h : z.sameSide s) : z.sameSide (accPasture s q a write) := by
  simp only [accPasture]
  split
  · exact pastureAccess_side z _ _ _ _ _ _ _ h
  · exact h

theorem placeEntry_side (s : State) (g : Nat) (h : z.sameSide s) : z.sameSide (placeEntry s g) := by
  simp only [placeEntry]
  split
  · exact setDir_side z _ _ h
  · exact seatEntry_side z _ _ (setDir_side z _ _ h)

end

theorem sameSide_reqs {s t : State} (h : s.sameSide t) : t.reqs = s.reqs := h.2.2.2.2.1

/-! A load. -/

/-- The copy that a load leaves in its core, its line in the pasture once used (15 R330). -/
def loadCopy (q : Req) (a : Acc) (p : Party) (w : Want) (bs : List Byte) (s : State) : State :=
  let g := granOf a.dpa
  let e := dirOf s g
  if p.q = 128 ∨ isOwner e p.q ∨ (ownedLine s q.core g).isSome then s
  else
    match w with
    | .oLoad =>
      if e.st = .i then setDir (fillL1 s (newLine s q a true false)) { e with st := .o, owner := q.core, hown := false, wmask := 0 }
      else setDir (fillL1 s (newLine s q a false true)) { e with st := .s, sharers := e.sharers ||| (1#64 <<< q.core) }
    | .iLoad => setDir (fillL1 s (newLine s q a false true)) { e with st := .s, sharers := e.sharers ||| (1#64 <<< q.core) }
    | .sLoad => fillL1 s (newLine s q a false false)
    | _ => refreshCopy s q.core g (a.dpa % 128) bs

/-- What a load leaves at its home and in its core, but for its value. -/
def homeCopy (s : State) (q : Req) (a : Acc) (w : Want) : State :=
  loadCopy q a (partyOf s q a) w (homeBytes s a.dpa a.size)
    (if w = .oLoad ∧ (dirOf s (granOf a.dpa)).st = .i ∧ isPlaced s a.attr = true then s else accPasture s q a false)

theorem homeLoad_eq (s : State) (q : Req) (j : Nat) (a : Acc) (w : Want) :
    homeLoad s q j a w = finishAcc (homeCopy s q a w) q j a (homeBytes s a.dpa a.size) := rfl

theorem loadCopy_side (z s : State) (q : Req) (a : Acc) (p : Party) (w : Want) (bs : List Byte) (h : z.sameSide s) :
    z.sameSide (loadCopy q a p w bs s) := by
  simp only [loadCopy]
  split
  · exact h
  · split
    · split <;> exact setDir_side z _ _ (fillL1_side z _ _ h)
    · exact setDir_side z _ _ (fillL1_side z _ _ h)
    · exact fillL1_side z _ _ h
    · exact mapL1_side z _ _ _ h

theorem homeCopy_side (z s : State) (q : Req) (a : Acc) (w : Want) (h : z.sameSide s) : z.sameSide (homeCopy s q a w) := by
  refine loadCopy_side z _ _ _ _ _ _ ?_
  split
  · exact h
  · exact accPasture_side z _ _ _ _ h

theorem forwarded_congr {s t : State} (h : t.reqs = s.reqs) (q : Req) (a : Acc) (bs : List Byte) : forwarded t q a bs = forwarded s q a bs := by
  simp only [forwarded, older, h]

theorem hitLine_congr {s t : State} (hl : t.coh.l1 = s.coh.l1) (hd : t.dr = s.dr) (hds : t.droves = s.droves) (q : Req) (a : Acc) :
    hitLine t q a = hitLine s q a := by
  unfold hitLine findL1 inStackSpace allDroves
  rw [hl, hd, hds]

section
variable {s : State} {r j : Nat} {q : Req} {a : Acc}

/-- What the home applies to a load is the home's bytes. -/
theorem applyAcc_load (ha : accOf s r j = some (q, a)) (hn : homeNow s q j a = true) (hk : readKind q.kind = true) (w : Want) :
    applyAcc r j w (homeOpen s (granOf a.dpa)) =
      finishAcc (homeCopy (homeOpen s (granOf a.dpa)) q a w) q j a (homeBytes s a.dpa a.size) := by
  obtain ⟨hr, hm, he, hh, hf⟩ := homeNow_iff.1 hn
  have hacc : accOf (homeOpen s (granOf a.dpa)) r j = some (q, a) := ha
  have hmeet : aetMeets (homeOpen s (granOf a.dpa)) a.dpa a.size = false := hm
  have hhit : (if leafNc a.attr then hitLine (homeOpen s (granOf a.dpa)) q a else none) = none := by
    split
    · next h => exact (hitLine_congr rfl rfl rfl q a).trans (hh hk h)
    · rfl
  have hload : applyLoad (homeOpen s (granOf a.dpa)) q j a w =
      finishAcc (homeCopy (homeOpen s (granOf a.dpa)) q a w) q j a (homeBytes s a.dpa a.size) := by
    simp only [applyLoad, hhit, homeLoad_eq, homeBytes_homeOpen (homeFree_queue hf)]
  rw [← hload]
  simp only [applyAcc, hacc, hmeet, Bool.false_eq_true, if_false]
  cases hkind : q.kind <;> simp_all [readKind, atomicKind]

/-- O40, for a load. -/
theorem homeTook_load (ha : accOf s r j = some (q, a)) (hn : homeNow s q j a = true) (hk : readKind q.kind = true) :
    accOf (homeTook s r j q a) r j =
      some ({ q with accs := modNth (fun x => { x with r := leNat (forwarded s q a (homeBytes s a.dpa a.size)), st := .done }) q.accs j },
        { a with r := leNat (forwarded s q a (homeBytes s a.dpa a.size)), st := .done }) := by
  obtain rfl := accOf_id ha
  have hside := homeCopy_side (homeOpen s (granOf a.dpa)) _ q a (wantOf q a) (sameSide_refl _)
  have hreqs : (homeCopy (homeOpen s (granOf a.dpa)) q a (wantOf q a)).reqs = s.reqs := sameSide_reqs hside
  rw [homeTook, applyAcc_load ha hn hk, accOf_congr (sameSide_reqs (placeEntry_side _ _ _ (sameSide_refl _))), finishAcc,
    forwarded_congr hreqs]
  exact accOf_onAcc ((accOf_congr hreqs q.id j).trans ha) _

end

/-! A write: while the granule's snoop-filter set has room, nothing that the write meets changes memory but the write itself. -/

theorem sfWay_isSome {es : List DirEntry} : (sfWay es).isSome = true ↔ ∃ w < 16, ∀ e ∈ es, e.way ≠ w := by
  simp only [sfWay, List.find?_isSome, List.mem_range, Bool.not_eq_true', List.any_eq_false, beq_iff_eq]

theorem sfWay_mono {es fs : List DirEntry} (h : ∀ f ∈ fs, ∃ e ∈ es, e.way = f.way) (hw : (sfWay es).isSome = true) : (sfWay fs).isSome = true := by
  obtain ⟨w, hlt, hw⟩ := sfWay_isSome.1 hw
  refine sfWay_isSome.2 ⟨w, hlt, fun f hf => ?_⟩
  obtain ⟨e, he, hway⟩ := h f hf
  exact hway ▸ hw e he

/-- Memory is `m`, and the snoop-filter set of granule `g` has room for its entry. -/
structure RoomFor (m : Mems) (g : Nat) (s : State) : Prop where
  mem  : s.mem = m
  room : (sfWay (sfPeers s g)).isSome = true

namespace RoomFor

section
variable {m : Mems} {g : Nat} {s : State}

theorem mem_setDir {s : State} {e x : DirEntry} (h : x ∈ (setDir s e).coh.dir) : x ∈ s.coh.dir ∨ x = e := by
  simp only [Machine.setDir] at h
  split at h
  · exact .inl (List.mem_of_mem_filter h)
  · rw [List.mem_append, List.mem_singleton] at h
    exact h.imp_left List.mem_of_mem_filter

theorem peers_setDir {e : DirEntry} (he : e.g = g ∨ ∃ x ∈ s.coh.dir, x.g = e.g ∧ x.sf = e.sf ∧ x.way = e.way) :
    ∀ f ∈ sfPeers (setDir s e) g, ∃ x ∈ sfPeers s g, x.way = f.way := by
  intro f hf
  simp only [sfPeers, List.mem_filter] at hf
  obtain ⟨hmem, hp⟩ := hf
  rcases mem_setDir hmem with h | rfl
  · exact ⟨f, List.mem_filter.2 ⟨h, hp⟩, rfl⟩
  · rcases he with he | ⟨x, hx, hg, hsf, hway⟩
    · simp [he] at hp
    · refine ⟨x, List.mem_filter.2 ⟨hx, ?_⟩, hway⟩
      rw [hg, hsf]
      exact hp

theorem setDir {e : DirEntry} (he : e.g = g ∨ ∃ x ∈ s.coh.dir, x.g = e.g ∧ x.sf = e.sf ∧ x.way = e.way) (h : RoomFor m g s) :
    RoomFor m g (setDir s e) :=
  ⟨h.mem, sfWay_mono (peers_setDir he) h.room⟩

/-- An entry that records a replica stands in the directory. -/
theorem dirOf_mem {s : State} {x : Nat} (h : (dirOf s x).rdies ≠ 0) : dirOf s x ∈ s.coh.dir := by
  simp only [dirOf] at h ⊢
  cases hf : s.coh.dir.find? fun e => e.g == x with
  | none => simp [hf, DirEntry.idle] at h
  | some e => exact List.mem_of_find?_eq_some hf

theorem keeps : PastureKeeps (RoomFor m g) := by
  refine ⟨fun _ _ h => ⟨h.mem, h.room⟩, fun s die x h => ?_⟩
  simp only [forgetReplica]
  split
  · exact h
  · next hr =>
    refine h.setDir (.inr ⟨dirOf s x, dirOf_mem fun h0 => hr ?_, rfl, rfl, rfl⟩)
    rw [h0]
    simp

theorem seatEntry (h : RoomFor m g s) : RoomFor m g (seatEntry s g) := by
  simp only [Machine.seatEntry]
  split
  · exact h
  · split
    · exact h.setDir (.inl (dirOf_g s g))
    · next hn =>
      have := h.room
      simp [hn] at this

theorem registerReplica (c : Cdr) (die : Nat) (h : RoomFor m g s) : RoomFor m g (registerReplica s c die g) := by
  simp only [Machine.registerReplica]
  split
  · split
    · refine seatEntry (h.setDir (.inl ?_))
      exact dirOf_g s g
    · exact h
  · exact h

theorem placeEntry (h : RoomFor m g s) : RoomFor m g (placeEntry s g) := by
  simp only [Machine.placeEntry]
  split
  · exact h.setDir (.inl (dirOf_g s g))
  · refine seatEntry (h.setDir (.inl ?_))
    exact dirOf_g s g

theorem accPasture {q : Req} {a : Acc} (write : Bool) (hg : granOf a.dpa = g) (h : RoomFor m g s) : RoomFor m g (accPasture s q a write) := by
  simp only [Machine.accPasture]
  split
  · exact keeps.pastureAccess _ _ _ _ _ _ (fun _ c die h => hg ▸ (hg ▸ h).registerReplica c die) h
  · exact h

theorem homeOpen (h : RoomFor m g s) : RoomFor m g (homeOpen s g) := by
  refine ⟨h.mem, sfWay_mono (fun f hf => ?_) h.room⟩
  simp only [sfPeers, Machine.homeOpen, putDir, List.mem_filter, List.mem_append, List.mem_singleton] at hf
  obtain ⟨⟨hmem, -⟩ | rfl, hp⟩ := hf
  · exact ⟨f, List.mem_filter.2 ⟨hmem, hp⟩, rfl⟩
  · simp [dirOf_g] at hp

/-- Bytes written at the home leave as much room. -/
theorem homePutOwn (core dpa : Nat) (bs : List Byte) (h : RoomFor m g s) : RoomFor { m with hbm := memPut m.hbm dpa bs } g (homePutOwn s core dpa bs) :=
  ⟨by rw [← h.mem]; rfl, h.room⟩

theorem atomPut (q : Req) (a : Acc) (bs : List Byte) (hg : granOf a.dpa = g) (h : RoomFor m g s) :
    RoomFor { m with hbm := memPut m.hbm a.dpa bs } g (atomPut s q a bs) := by
  have hput := (h.accPasture (q := q) true hg).homePutOwn q.core a.dpa bs
  exact ⟨hput.mem, hput.room⟩

theorem onAcc (r j : Nat) (f : Acc → Acc) (h : RoomFor m g s) : RoomFor m g (onAcc s r j f) := ⟨h.mem, h.room⟩

end

end RoomFor

theorem homePutOwn_side (z s : State) (core dpa : Nat) (bs : List Byte) (h : z.sameSide s) : z.sameSide (homePutOwn s core dpa bs) := h

theorem atomPut_side (z s : State) (q : Req) (a : Acc) (bs : List Byte) (h : z.sameSide s) : z.sameSide (atomPut s q a bs) :=
  homePutOwn_side z _ q.core a.dpa bs (accPasture_side z s q a true h)

section
variable {s : State} {r j : Nat} {q : Req} {a : Acc}

/-- What the home applies to a store of a granule that nobody owns: its bytes, written there. -/
theorem applyAcc_write {m : BitVec 32} {stm : Bool} (ha : accOf s r j = some (q, a)) (hn : homeNow s q j a = true)
    (hk : writes q.kind = true) (hk' : atomicKind q.kind = false) (ho : hasOwner (dirOf s (granOf a.dpa)) = false) :
    applyAcc r j (.write m stm) (homeOpen s (granOf a.dpa)) =
      onAcc (homePutOwn (accPasture (homeOpen s (granOf a.dpa)) q a true) q.core a.dpa (storeBytes a)) q.id j fun x => { x with st := .done } := by
  obtain ⟨-, hm, -, -, hf⟩ := homeNow_iff.1 hn
  have hacc : accOf (homeOpen s (granOf a.dpa)) r j = some (q, a) := ha
  have hmeet : aetMeets (homeOpen s (granOf a.dpa)) a.dpa a.size = false := hm
  have hown (c : Nat) : isOwner (dirOf (homeOpen s (granOf a.dpa)) (granOf a.dpa)) c = false := by
    rw [dirOf_homeOpen (homeFree_queue hf), isOwner, ho, Bool.false_and]
  have hread : readKind q.kind = false := by
    cases hq : q.kind <;> simp_all [readKind, writes]
  have hstore : applyStore (homeOpen s (granOf a.dpa)) q j a (.write m stm) =
      onAcc (homePutOwn (accPasture (homeOpen s (granOf a.dpa)) q a true) q.core a.dpa (storeBytes a)) q.id j fun x => { x with st := .done } := by
    simp only [applyStore, hown, Bool.false_eq_true, and_false, if_false]
  rw [← hstore]
  simp only [applyAcc, hacc, hmeet, Bool.false_eq_true, if_false]
  cases hq : q.kind <;> simp_all [readKind, atomicKind, writes]

/-- The one-word atomics, which return the old word (09 R201, R202, R206). -/
def oneWord (k : ReqKind) (p : Nat) : Prop := k = .atom p true ∨ k = .atom p false ∨ k = .red p ∨ k = .satom p

/-- What the home applies to a one-word atomic. -/
theorem applyAcc_atom {p : Nat} (w : Want) (ha : accOf s r j = some (q, a)) (hn : homeNow s q j a = true) (hp : oneWord q.kind p) :
    applyAcc r j w (homeOpen s (granOf a.dpa)) =
      doneAcc (atomPut (homeOpen s (granOf a.dpa)) q a
        (leBytes 4 (atomNew p (modeET q.mode) (leNat (homeBytes s a.dpa a.size)) a.x a.y))) q j (leNat (homeBytes s a.dpa a.size)) := by
  obtain ⟨-, hm, -, -, hf⟩ := homeNow_iff.1 hn
  have hacc : accOf (homeOpen s (granOf a.dpa)) r j = some (q, a) := ha
  have hmeet : aetMeets (homeOpen s (granOf a.dpa)) a.dpa a.size = false := hm
  rcases hp with hp | hp | hp | hp <;>
    simp only [applyAcc, hacc, hp, hmeet, atomicKind, applyAtom, atomWord, homeBytes_homeOpen (homeFree_queue hf), Bool.false_eq_true, if_false, if_true]

end

/-- Settles O40. -/
theorem homeValues : Obligations.HomeValues := by
  intro s r j q a ha hn
  refine ⟨homeTook_load ha hn, fun hroom => ?_⟩
  have hr : RoomFor s.mem (granOf a.dpa) (homeOpen s (granOf a.dpa)) := RoomFor.homeOpen ⟨rfl, hroom⟩
  refine ⟨fun m stm hk hk' hw ho => ?_, ?_⟩
  · rw [homeTook, hw, applyAcc_write ha hn hk hk' ho]
    exact congrArg Mems.hbm (((hr.accPasture true rfl).homePutOwn _ _ _).onAcc _ _ _).placeEntry.mem
  intro p hp m
  refine ⟨?_, ?_⟩
  · rw [homeTook, applyAcc_atom _ ha hn hp]
    exact congrArg Mems.hbm ((hr.atomPut q a _ rfl).onAcc _ _ _).placeEntry.mem
  · obtain rfl := accOf_id ha
    have hput (bs : List Byte) : accOf (atomPut (homeOpen s (granOf a.dpa)) q a bs) q.id j = some (q, a) :=
      (accOf_congr (sameSide_reqs (atomPut_side (homeOpen s (granOf a.dpa)) _ q a bs (sameSide_refl _))) _ _).trans ha
    rw [homeTook, applyAcc_atom _ ha hn hp, accOf_congr (sameSide_reqs (placeEntry_side _ _ _ (sameSide_refl _))), doneAcc,
      accOf_onAcc (hput _), Option.map_some]

end Sys2Proof.Machine

namespace Sys2Proof.Machine

set_option Elab.async false

/-! PROOFS. What an access meets on its way (13 R283, 09 R188-R192): the owning die, a scratchpad bank, a peer, the host adapter, a
park, the probe, a low update, an expansion. -/

section
variable {s : State} {r j : Nat} {q : Req} {a : Acc}

/-- What the owning die gives an access that its core's L1 does not serve. -/
theorem owningDie_dieTakes (ha : accOf s r j = some (q, a)) (hd : dieReady s q j a = true)
    (hh : readKind q.kind = false ∨ hitLine s q a = none) : exec (.owningDieAccess r j) s = .next (dieTakes s q j a) := by
  change (.next _ : Out) = _
  cases hk : readKind q.kind
  · simp only [ha, hd, hk, Bool.not_true, Bool.false_eq_true, if_false, Bool.not_false, if_true]
  · have hh := hh.resolve_left (by simp [hk])
    simp only [ha, hd, hk, hh, Bool.not_true, Bool.false_eq_true, if_false]

theorem owningDie_hit {l : L1Line} (ha : accOf s r j = some (q, a)) (hd : dieReady s q j a = true) (hk : readKind q.kind = true)
    (hl : hitLine s q a = some l) : exec (.owningDieAccess r j) s =
      .next (if aetMeets s (l.dpa + a.va % 128) a.size then accFault s q j a 0x17 else hitAcc s q j a l) := by
  change (.next _ : Out) = _
  simp only [ha, hd, hk, hl, Bool.not_true, Bool.false_eq_true, if_false]

/-- What the owning die does with an access whose page it finds, and with one that it refuses (13 R283). -/
theorem dieTakes_leaf {l : Leaf} {t : State}
    (h : dieAccess s q.ctx (localOf s a.va) (if writes q.kind then .write else .read) true = (.inl l, t)) :
    dieTakes s q j a =
      if bxBreaks t q a then (if writes q.kind then refuseStore t q else accFault t q j a 0x13) else sendAcc t q j l := by
  simp only [dieTakes, h]
  cases bxBreaks t q a <;> rfl

theorem dieTakes_cause {c : BitVec 8} {t : State}
    (h : dieAccess s q.ctx (localOf s a.va) (if writes q.kind then .write else .read) true = (.inr c, t)) :
    dieTakes s q j a =
      if (c = 0x16 ∨ c = 0x17) ∧ bxBreaks t q a then (if writes q.kind then refuseStore t q else accFault t q j a 0x13)
      else accFault (if c = 0x12 then meetCompressed t q a else t) q j a c := by
  simp only [dieTakes, h]

theorem scratchpad_answers (ha : accOf s r j = some (q, a)) (hp : q.probing = false) (hs : spadAcc q.kind a = true)
    (hst : a.st = .new ∨ a.st = .sent) (hh : heldBack s q j a = false) :
    let p := spadBase (padOf q.core) + spadAddr a
    let m := memRead s.mem.spad p a.size
    exec (.scratchpadBankAccess r j) s = .next (
      if readKind q.kind then finishAcc s q j a (memBytes s.mem.spad p a.size)
      else if atomicKind q.kind then doneAcc (onSpad s fun x => memWrite x p 4 (atomWord q.kind (modeET q.mode) m a.x a.y)) q j m
      else doneAcc (onSpad s fun x => memWrite x p a.size a.x) q j 0) := by
  change (.next _ : Out) = _
  have hst' : ¬(a.st ≠ .new ∧ a.st ≠ .sent) := fun h => hst.elim h.1 h.2
  simp only [ha, hp, hs, hst', hh, Bool.not_true, Bool.false_eq_true, or_self, if_false]

theorem peer_answers (ha : accOf s r j = some (q, a)) (hp : q.probing = false) (hi : isPeer s a.va = true)
    (hst : a.st = .new ∨ a.st = .sent) (hh : heldBack s q j a = false) (cause : BitVec 8) (ws : List (Nat × Byte)) :
    let t := peerWrites s ws
    exec (.peerAccessRequest (.outgoing r j cause ws)) s = .next (
      match peerLocal s q.ctx (bits a.va 61 52) with
      | some c => accFault t q j a c
      | none => if cause = 0 then farApply t q j a (a.va % 2 ^ 62) (·.mem.peer) fun s m => { s with mem := { s.mem with peer := m } }
                else accFault t q j a cause) := by
  change (.next (peerServes s r j cause ws) : Out) = _
  have hst' : ¬(a.st ≠ .new ∧ a.st ≠ .sent) := fun h => hst.elim h.1 h.2
  have hi' : isPeer (peerWrites s ws) a.va = true := hi
  have hh' : heldBack (peerWrites s ws) q j a = false := hh
  simp only [peerServes, ha, hp, hi, hi', hst', hh', Bool.not_true, Bool.false_eq_true, or_self, if_false, if_true]
  cases peerLocal s q.ctx (bits a.va 61 52) with
  | some c => rfl
  | none => by_cases hc : cause = 0 <;> simp [hc]

theorem route10_answers (ha : accOf s r j = some (q, a)) (hp : q.probing = false) (hr : routeOf a.va = 2) (hst : a.st = .new)
    (hs : spadAcc q.kind a = false) (hh : heldBack s q j a = false) :
    exec (.route10Ack r j []) s = .next (
      if readKind q.kind = false ∧ 0x3FFFFFFFFFFFFF00 ≤ a.va % 2 ^ 62 then
        doneAcc { s with dev := { s.dev with hostInts := s.dev.hostInts + 1,
                                             notify := s.dev.notify ||| (1#64 <<< ((a.va % 2 ^ 62 - 0x3FFFFFFFFFFFFF00) / 8)) } } q j 0
      else farApply s q j a (a.va % 2 ^ 62) (·.mem.host) fun s m => { s with mem := { s.mem with host := m } }) := by
  change (.next _ : Out) = _
  simp only [ha, hp, hr, hst, hs, hh, ne_eq, not_true_eq_false, Bool.false_eq_true, or_self, if_false, Bool.not_eq_true', List.foldl_nil]

/-- No park of the request has to end first. -/
theorem endParks_none {p : Park → Bool} (h : ∀ x ∈ s.sch.parks, p x = false) : endParks s p = s := by
  have hmap : mapIf p (fun x => { x with svc := 4 }) s.sch.parks = s.sch.parks := by
    rw [mapIf, List.map_congr_left (g := id) fun x hx => by rw [h x hx]; rfl, List.map_id]
  have hfil : (s.sch.parks.filter fun x => !(p x && x.slot.isNone)) = s.sch.parks :=
    List.filter_eq_self.2 fun x hx => by rw [h x hx]; rfl
  simp only [endParks, hmap, hfil]

theorem parkReq_parks {c : BitVec 8} {x : Acc} {d : Drove} (hf : faultedAcc q = some (c, x)) (hd : droveOf s q.drove = some d)
    (hp : hasPark s q.id = false) (hn : ∀ p ∈ s.sch.parks, p.req ≠ some q.id) (kind : Nat) (blocks : Bool) :
    parkReq s q kind blocks = park s kind c d q.pc x.va (some q.id) blocks := by
  have he : endParks s (fun p => p.req == some q.id && p.svc == 2) = s := endParks_none fun p hp => by simp [hn p hp]
  simp only [parkReq, hf, hd, hp, he, Bool.false_eq_true, if_false]

theorem faults_park {c : BitVec 8} {x : Acc} {d : Drove} (hq : reqOf s r = some q) (hf : faultedAcc q = some (c, x))
    (hd : droveOf s q.drove = some d) (hp : hasPark s r = false) (hn : ∀ p ∈ s.sch.parks, p.req ≠ some r) :
    (isLoad q = true ∨ (atomicKind q.kind = true ∧ q.probing = false) →
      exec (.loadLaneFault r) s = .next (park s 1 c d q.pc x.va (some r) true)) ∧
    (∀ p, q.kind = .store p ∨ q.kind = .stm → exec (.storeLaneFault r) s = .next (park s 2 c d q.pc x.va (some r) false)) ∧
    (∀ v p, q.kind = .tst v p → exec (.storeLaneFault r) s = .next (park s 5 c d q.pc x.va (some r) false)) ∧
    (∀ v p, q.kind = .tld v p → (d.cond ≠ .exited → exec (.tldRowFault r) s = .next (park s 4 c d q.pc x.va (some r) true)) ∧
      (d.cond = .exited → exec (.tldRowFault r) s = .next (cancelTld s q))) := by
  obtain rfl := reqOf_id hq
  have hpark := parkReq_parks hf hd hp hn
  refine ⟨fun hk => ?_, fun p hk => ?_, fun v p hk => ?_, fun v p hk => ⟨fun hx => ?_, fun hx => ?_⟩⟩ <;> change (.next _ : Out) = _
  · have hk' : (isLoad q || (atomicKind q.kind && !q.probing)) = true := by simpa using hk
    simp only [hq, hk', if_true, hpark]
  · rcases hk with hk | hk <;> simp only [hq, hk, hpark]
  · simp only [hq, hk, hpark]
  · simp only [hq, hk, hd, Option.any_some, beq_iff_eq, if_neg hx, hpark]
  · simp only [hq, hk, hd, Option.any_some, beq_iff_eq, if_pos hx]

theorem probe_answers {as : List Acc} {t : State} (hq : reqOf s r = some q) (hp : q.probing = true) (hw : probeWaits s q = false)
    (hd : (droveOf s q.drove).isSome = true) (h : probeAll s q q.accs = (.inl as, t)) :
    let u := takeTurn (select t q.drove) q
    let p := { u.2 with accs := as, probing := false }
    exec (.atomicProbeResult r) s = .next (departs (onReq u.1 r fun _ => p) p) := by
  change (.next _ : Out) = _
  have hd' : (droveOf s q.drove).isNone = false := by simpa using hd
  simp only [hq, hp, hw, hd', h, Bool.not_true, Bool.false_eq_true, or_self, if_false]

theorem low_answers {u : LowUp} (hq : reqOf s r = some q) (hu : lowOf q j = some u) (hb : lowBehind s u = false) :
    (2 ^ 62 ≤ u.dpa → exec (.catomLowUpdate r j) s = .next (applyLow r j s)) ∧
    (u.dpa < 2 ^ 62 → inAet s u.dpa = false → homeFree s (granOf u.dpa) (lowParty s q j) .rmw = true →
      exec (.catomLowUpdate r j) s = .next (placeEntry (applyLow r j (homeOpen s (granOf u.dpa))) (granOf u.dpa))) := by
  have he : exec (.catomLowUpdate r j) s = .next (serveLow s r j) := rfl
  refine ⟨fun h => ?_, fun h hi hf => ?_⟩ <;> rw [he]
  · simp only [serveLow, hq, hu, Option.bind_some, Option.map_some, hb, Bool.false_eq_true, if_false, if_pos h]
  · simp only [serveLow, hq, hu, Option.bind_some, Option.map_some, hb, hi, Bool.false_eq_true, if_false, if_neg (Nat.not_le.2 h),
      arrive_free hf]

theorem expansion_answers {c va : Nat} {l : Leaf} {t : State} (h : translate s (BitVec.ofNat 16 c) va = (.leaf l, t))
    (hc : leafC l.attr = true) {fail : Option (BitVec 8)} {u : State} (hu : expandAt t (bits va 61 60) l.entry = (fail, u)) :
    exec (.pageExpansionComplete c va) s = .next
      ((u.sch.parks.filter fun p => p.kind == 10 && parkExpands u (BitVec.ofNat 16 c) va p).foldl (fun s p => tableExpanded s fail p)
        (expansionDone u (BitVec.ofNat 16 c) va fail)) := by
  change (.next _ : Out) = _
  simp only [h, hc, if_true, hu]

end

/-- Settles O41. -/
theorem accessServes : Obligations.AccessServes := by
  intro s r j q a ha
  have hq := (accOf_some.1 ha).1
  refine ⟨?_, fun hp hs hst hh => ?_, fun hp hi hst hh cause ws => peer_answers ha hp hi hst hh cause ws,
    fun hp hr hst hs hh => ⟨fun hk => ?_, fun hk hle => ?_⟩, fun c x d hf hd hp hn => faults_park hq hf hd hp hn,
    fun hp hw hd as t h => probe_answers hq hp hw hd h, fun u hu hb => low_answers hq hu hb,
    fun c va l t h hc fail u hu => expansion_answers h hc hu⟩
  · intro hd serves
    have hit {l : L1Line} (hk : readKind q.kind = true) (hl : hitLine s q a = some l) := owningDie_hit ha hd hk hl
    refine ⟨fun l hk hl => ⟨fun hm => (hit hk hl).trans (by rw [hm]; rfl), fun hm => (hit hk hl).trans (by rw [hm]; rfl)⟩, fun hh => ?_⟩
    have die := owningDie_dieTakes ha hd hh
    refine ⟨fun l t ht => ⟨fun hb => die.trans (by rw [dieTakes_leaf ht, hb]; rfl), fun hb => die.trans (by rw [dieTakes_leaf ht, if_pos hb])⟩,
      fun c t ht => ⟨fun hc => die.trans (by rw [dieTakes_cause ht, if_neg (by simp [hc]), if_pos hc]), fun hc hb => ?_,
        fun hc hb => die.trans (by rw [dieTakes_cause ht, if_pos ⟨hc, hb⟩])⟩⟩
    have hn : ¬((c = 0x16 ∨ c = 0x17) ∧ bxBreaks t q a = true) := by
      rintro ⟨h, h'⟩
      rcases hb with ⟨h1, h2⟩ | hb
      · exact h.elim h1 h2
      · simp [hb] at h'
    exact die.trans (by rw [dieTakes_cause ht, if_neg hn, if_neg hc])
  · have h := scratchpad_answers ha hp hs hst hh
    exact ⟨fun hk => h.trans (by rw [hk]; rfl), fun hk hk' => ⟨_, h.trans (by rw [hk, hk']; rfl), rfl, rfl⟩,
      fun hk hk' => ⟨_, h.trans (by rw [hk, hk']; rfl), rfl, rfl⟩⟩
  · have hn : ¬(readKind q.kind = false ∧ 0x3FFFFFFFFFFFFF00 ≤ a.va % 2 ^ 62) := by
      rintro ⟨h1, h2⟩
      rcases hk with hk | hk
      · simp [hk] at h1
      · omega
    exact (route10_answers ha hp hr hst hs hh).trans (by rw [if_neg hn])
  · exact (route10_answers ha hp hr hst hs hh).trans (by rw [if_pos ⟨hk, hle⟩])

end Sys2Proof.Machine

namespace Sys2Proof.Machine

set_option Elab.async false

/-! PROOFS. Data that returns fills registers, and store-buffer entries are freed (01 R27-R30, 09 R183, R185, R201, R206). -/

section
variable {s : State} {r : Nat} {q : Req} {d : Drove}

theorem loadReturn_answers (hq : reqOf s r = some q) (hk : isLoad q = true) (hd : droveOf s q.drove = some d) :
    (d.gen = q.gen → allDone q = true → d.csumReq ≠ some r →
      exec (.loadReturn r) s = .next (onDrove (finishReq s r) q.drove (loadInto q))) ∧
    (d.gen = q.gen → d.csumReq = some r → exec (.loadReturn r) s = .next s) ∧
    (d.gen ≠ q.gen → exec (.loadReturn r) s = .next (if dropsAtReturn q then countCsb (dropReq s r) q.ctx 0x48 else dropReq s r)) := by
  refine ⟨fun hg ha hc => ?_, fun hg hc => ?_, fun hg => ?_⟩ <;> change (.next _ : Out) = _
  · simp [hq, hk, hd, Option.filter, hg, ha, hc]
  · simp [hq, hk, hd, Option.filter, hg, hc]
  · simp [hq, hk, hd, Option.filter, hg]

theorem loadInto_lds {p : Policy} {a : Acc} (hk : q.kind = .lds p) (ha : q.accs = [a]) (x : Drove) :
    loadInto q x = markS (setS x q.dst (BitVec.ofNat 64 a.r)) q.dst true := by
  simp [loadInto, hk, ha]

theorem raiseFlags_none (d : Drove) : raiseFlags d 0 false = d := by simp [raiseFlags]

/-- No access has a block format, so no flags are collected. -/
theorem flags_plain (as : List Acc) (h : ∀ a ∈ as, leafEf a.attr = 0) (fl : Fl) :
    as.foldl (fun fl a => if leafEf a.attr ≠ 0 && !a.helper then fl ||| BitVec.ofNat 5 a.y else fl) fl = fl := by
  induction as generalizing fl with
  | nil => rfl
  | cons a as ih =>
    obtain ⟨ha, has⟩ := List.forall_mem_cons.1 h
    simp only [List.foldl_cons, ha, ne_eq, not_true_eq_false, decide_false, Bool.false_and, Bool.false_eq_true, if_false]
    exact ih has fl

/-- A word load of one register leaves that register's lanes, full, and its flags as they were. -/
theorem loadInto_word {p : Policy} (hk : q.kind = .load p false) (h2 : q.dst2 = false) (hef : ∀ a ∈ q.accs, leafEf a.attr = 0) (x : Drove) :
    loadInto q x = markV (setV x q.dst (mkLanes fun l => loadLane q false 0 l (vlane x q.dst l))) q.dst true := by
  have hany : (q.accs.any fun a => leafEf a.attr != 0) = false := by
    simpa [List.any_eq_false] using hef
  simp only [loadInto, hk, h2, hany, Bool.and_false, Bool.or_self, Bool.false_eq_true, if_false, flags_plain _ hef, raiseFlags_none]

theorem loadLane_word {p : Policy} {x : Bool} (hk : q.kind = .load p x) (hs : q.size = 4) {a : Acc} {l : Nat}
    (hf : (q.accs.find? fun y => y.lane == l) = some a) (hef : leafEf a.attr = 0) (ha : a.size = 4) (old : W32) :
    loadLane q x 0 l old = BitVec.ofNat 32 a.r := by
  simp [loadLane, hk, hs, hf, hef, ha]

/-- A fold of steps that change nothing. -/
theorem foldl_fixed {α β : Type} {f : α → β → α} {a : α} (h : ∀ b, f a b = a) (bs : List β) : bs.foldl f a = a := by
  induction bs with
  | nil => rfl
  | cons b bs ih => rw [List.foldl_cons, h, ih]

/-- An access of a store whose bytes have all been acknowledged leaves nothing for the L1 to take. -/
theorem l1Store_done (h : allDone q = true) (hq : reqOf s r = some q) {j : Nat} {q' : Req} {a : Acc} (ha : accOf s r j = some (q', a)) :
    l1Store s q' j a = none := by
  obtain ⟨hq', hmem⟩ := accOf_some.1 ha
  obtain rfl : q = q' := by simpa [hq] using hq'
  have hst : a.st = .done := by
    simp only [allDone, List.all_eq_true, beq_iff_eq] at h
    exact h a (List.mem_of_getElem? hmem)
  simp [l1Store, hst]

theorem storeAck_answers (hq : reqOf s r = some q) (hk : storeKind q.kind = true) (hp : q.probing = false) (hd : entryDone s q = true) :
    exec (.storeAck r) s = .next (finishReq s r) := by
  have hall : allDone q = true := by
    simp only [entryDone, Bool.and_eq_true] at hd
    exact hd.1.1
  change (.next _ : Out) = _
  simp only [hq, hk, hp, Bool.not_true, Bool.false_eq_true, or_self, if_false]
  rw [foldl_fixed fun j => ?_, ite_self]
  · simp only [hq, hd, if_true]
  · cases ha : accOf s r j with
    | none => rfl
    | some x => simp [l1Store_done hall hq ha]

theorem atomicReturn_answers (hq : reqOf s r = some q) (hp : q.probing = false) (ha : allDone q = true) :
    (∀ p acq, q.kind = .atom p acq →
      let t := onDrove (finishReq s r) q.drove fun d =>
        markV (setV d q.dst (mkLanes fun l => match q.accs.find? fun a => a.lane == l && !a.helper with
          | some a => BitVec.ofNat 32 a.r
          | none => vlane d q.dst l)) q.dst true
      exec (.atomicReturn r) s = .next (if acq then epochSweep t q.core else t)) ∧
    (∀ a p, (q.accs.find? fun a => !a.helper) = some a →
      (q.kind = .satom p → exec (.atomicReturn r) s =
        .next (onDrove (finishReq s r) q.drove fun d => markS (setS d q.dst (BitVec.ofNat 64 a.r)) q.dst true)) ∧
      (q.kind = .rtake → exec (.atomicReturn r) s = .next (onDrove (finishReq s r) q.drove fun d =>
        setS (setS (markS (markS d q.dst true) (q.dst + 1) true) q.dst (BitVec.ofNat 64 a.r)) (q.dst + 1) (BitVec.ofNat 64 (a.r / 2 ^ 64))))) := by
  refine ⟨fun p acq hk => ?_, fun a p hf => ⟨fun hk => ?_, fun hk => ?_⟩⟩ <;> change (.next _ : Out) = _
  · simp only [hq, hp, ha, hk, Bool.not_true, Bool.false_eq_true, or_self, if_false] <;> rfl
  · simp only [hq, hp, ha, hk, hf, Bool.not_true, Bool.false_eq_true, or_self, if_false]
  · simp only [hq, hp, ha, hk, hf, Bool.not_true, Bool.false_eq_true, or_self, if_false]

theorem slowSysrd_answers {n : Nat} (hq : reqOf s r = some q) (hk : q.kind = .sysrd n) (hd : droveOf s q.drove = some d) :
    (d.gen = q.gen → exec (.slowSysrdReturn r) s = .next (onDrove (dropReq s r) q.drove fun x => markS (setS x q.dst
      (if n = 0x12 then (if d.det then q.split else BitVec.ofNat 64 s.cycle) else privRead s d n)) q.dst true)) ∧
    (d.gen ≠ q.gen → exec (.slowSysrdReturn r) s = .next (countCsb (dropReq s r) q.ctx 0x48)) := by
  refine ⟨fun hg => ?_, fun hg => ?_⟩ <;> change (.next _ : Out) = _
  · simp [hq, hk, hd, Option.filter, hg]
  · simp [hq, hk, hd, Option.filter, hg]

end

/-- Settles O42. -/
theorem returnsFillRegisters : Obligations.ReturnsFillRegisters := by
  intro s r q hq
  refine ⟨fun hk d hd => loadReturn_answers hq hk hd, fun p a x hk ha _ => loadInto_lds hk ha x, ?_,
    fun hk hp hd => storeAck_answers hq hk hp hd, fun hp ha => atomicReturn_answers hq hp ha, fun n d hk hd => slowSysrd_answers hq hk hd⟩
  intro p x hk hs h2 hdst hef hacc
  rw [loadInto_word hk h2 hef]
  refine ⟨fun a ha => ?_, ?_, fun n hn => ?_, rfl, rfl⟩
  · obtain ⟨hf, hsz, hl⟩ := hacc a ha
    change vlane (setV x q.dst _) q.dst a.lane = _
    rw [vlane, vreg_setV _ _ _ _ hdst, if_pos rfl, lane_mkLanes _ _ hl, loadLane_word hk hs hf (hef a ha) hsz]
  · simp [markV, hdst]
  · exact (vreg_setV _ _ _ _ hdst).trans (if_neg hn)

end Sys2Proof.Machine

namespace Sys2Proof.Machine

set_option Elab.async false

/-! PROOFS. Messages of a granule in state T, and copies that leave their holders (15 R325-R341). -/

theorem granOf_self {g : Nat} (h : g % 128 = 0) : granOf g = g := by
  unfold granOf
  omega

theorem ownedLine_some {s : State} {c g : Nat} {l : L1Line} (h : ownedLine s c g = some l) :
    l ∈ s.coh.l1 ∧ l.core = c ∧ l.dpa = g ∧ l.owned = true := by
  have hp := List.find?_some h
  simp only [Bool.and_eq_true, beq_iff_eq] at hp
  exact ⟨List.mem_of_find?_eq_some h, hp.1.1, hp.1.2, hp.2⟩

/-- No change of the virtual caches changes memory. -/
theorem mem_pastureKeeps (m : Mems) : PastureKeeps fun s => s.mem = m := by
  refine ⟨fun _ _ h => h, fun s die g h => ?_⟩
  simp only [forgetReplica]
  split <;> exact h

/-- An owner's copy written back changes the bytes that are dirty and not in WMASK (15 R331, R333). -/
theorem mergeBack_mem {s : State} {l : L1Line} (ho : l.owned = true) (hg : l.dpa % 128 = 0) (hi : (dirOf s l.dpa).st ≠ .i)
    (hs : (dirOf s l.dpa).st ≠ .s) : (mergeBack s l).mem = { s.mem with hbm := mergeLine s.mem.hbm l (dirOf s l.dpa).wmask } := by
  simp only [mergeBack, ho, if_true, pastureWriteBack]
  split
  · rfl
  · split
    · refine (mem_pastureKeeps _).pastureAccess_owned _ _ _ _ _ _ ?_ ?_ rfl
      · rw [granOf_self hg]
        exact hi
      · rw [granOf_self hg]
        exact hs
    · rfl

theorem mergeBack_reqs (s : State) (l : L1Line) : (mergeBack s l).reqs = s.reqs :=
  sameSide_reqs ((sameSide_keeps s).mergeBack l (sameSide_refl s))

theorem ownAtomic_congr {s t : State} (h : t.reqs = s.reqs) (e : DirEntry) : ownAtomic t e = ownAtomic s e := by
  unfold ownAtomic reqOf
  rw [h]

/-! One message. -/

/-- The state in which message `m` of entry `e` has reached its holder. -/
def ackOf (s : State) (e : DirEntry) : Msg → State
  | .recallShared => ackRecallShared s e
  | .recall => ackRecall s e
  | .claim w => ackClaim s e w
  | .invalidate h => ackInvalidate s e h
  | .update d => ackDir s e (.update d) id

theorem ackMsg_eq {s : State} {g : Nat} {m : Msg} (hst : (dirOf s g).st = .t) (hm : (dirOf s g).msgs.contains m = true) :
    ackMsg s g m = ackOf s (dirOf s g) m := by
  simp only [ackMsg, hst, hm, ne_eq, not_true_eq_false, Bool.not_true, Bool.false_eq_true, or_self, if_false]
  cases m <;> rfl

theorem exec_ack {s : State} {g : Nat} {m : Msg} {i : Instr} (he : exec i s = .next (ackMsg s g m)) (hst : (dirOf s g).st = .t)
    (hm : (dirOf s g).msgs.contains m = true) : exec i s = .next (ackOf s (dirOf s g) m) := by rw [he, ackMsg_eq hst hm]

/-- `t` is `s` but for copies and memory, with message `m` of entry `e` acknowledged. -/
def Acked (s : State) (e : DirEntry) (m : Msg) (t : State) : Prop :=
  ∃ (u : State) (f : DirEntry → DirEntry), t = ackDir u e m f ∧ u.reqs = s.reqs ∧ ∀ e, (f e).g = e.g ∧ (f e).st = e.st ∧ (f e).msgs = e.msgs

section
variable {s : State} {e : DirEntry}

theorem acked_recallShared : Acked s e .recallShared (ackRecallShared s e) := by
  simp only [ackRecallShared]
  split
  · exact ⟨_, _, rfl, rfl, fun _ => ⟨rfl, rfl, rfl⟩⟩
  · split
    · exact ⟨_, _, rfl, mergeBack_reqs _ _, fun _ => ⟨rfl, rfl, rfl⟩⟩
    · exact ⟨_, _, rfl, rfl, fun _ => ⟨rfl, rfl, rfl⟩⟩

theorem acked_recall : Acked s e .recall (ackRecall s e) := by
  simp only [ackRecall]
  split
  · exact ⟨_, _, rfl, rfl, fun _ => ⟨rfl, rfl, rfl⟩⟩
  · split
    · split
      · exact ⟨_, _, rfl, mergeBack_reqs _ _, fun _ => ⟨rfl, rfl, rfl⟩⟩
      · exact ⟨_, _, rfl, mergeBack_reqs _ _, fun _ => ⟨rfl, rfl, rfl⟩⟩
    · exact ⟨_, _, rfl, rfl, fun _ => ⟨rfl, rfl, rfl⟩⟩

theorem acked_claim (w : BitVec 32) : Acked s e (.claim w) (ackClaim s e w) := by
  simp only [ackClaim]
  split
  · exact ⟨_, _, rfl, rfl, fun _ => ⟨rfl, rfl, rfl⟩⟩
  · split
    · exact ⟨_, _, rfl, rfl, fun _ => ⟨rfl, rfl, rfl⟩⟩
    · exact ⟨_, _, rfl, rfl, fun _ => ⟨rfl, rfl, rfl⟩⟩

theorem acked_invalidate (h : Nat) : Acked s e (.invalidate h) (ackInvalidate s e h) := by
  simp only [ackInvalidate]
  split
  · exact ⟨_, _, rfl, rfl, fun _ => ⟨rfl, rfl, rfl⟩⟩
  · split
    · exact ⟨_, _, rfl, rfl, fun _ => ⟨rfl, rfl, rfl⟩⟩
    · exact ⟨_, _, rfl, rfl, fun _ => ⟨rfl, rfl, rfl⟩⟩

theorem acked : ∀ m : Msg, Acked s e m (ackOf s e m)
  | .recallShared => acked_recallShared
  | .recall => acked_recall
  | .claim w => acked_claim w
  | .invalidate h => acked_invalidate h
  | .update _ => ⟨_, _, rfl, rfl, fun _ => ⟨rfl, rfl, rfl⟩⟩

/-- The entry after the acknowledgement of a message. -/
theorem dirOf_ackDir {g : Nat} {m : Msg} {f : DirEntry → DirEntry} (hg : (f { e with msgs := e.msgs.erase m }).g = g)
    (hst : (f { e with msgs := e.msgs.erase m }).st = .t) : dirOf (ackDir s e m f) g = f { e with msgs := e.msgs.erase m } := by
  simp [ackDir, dirOf_setDir, hg, hst]

end

section
variable {s : State} {g : Nat}

theorem ackMsg_stays {m : Msg} (hst : (dirOf s g).st = .t) (hm : (dirOf s g).msgs.contains m = true) :
    (dirOf (ackMsg s g m) g).st = .t ∧ (dirOf (ackMsg s g m) g).msgs = (dirOf s g).msgs.erase m ∧ (ackMsg s g m).reqs = s.reqs := by
  obtain ⟨u, f, ht, hr, hf⟩ := acked (s := s) (e := dirOf s g) m
  obtain ⟨h1, h2, h3⟩ := hf { dirOf s g with msgs := (dirOf s g).msgs.erase m }
  rw [ackMsg_eq hst hm, ht, dirOf_ackDir (h1.trans (dirOf_g s g)) (h2.trans hst)]
  exact ⟨h2.trans hst, h3, hr⟩

theorem exec_claim {m : Msg} (h : (dirOf s g).msgs.find? (fun m => match m with | .claim _ => true | _ => false) = some m) :
    exec (.claim g) s = .next (ackMsg s g m) := by
  have he : exec (.claim g) s = .next (match (dirOf s g).msgs.find? (fun m => match m with | .claim _ => true | _ => false) with
    | some m => ackMsg s g m
    | none => s) := rfl
  rw [he, h]

/-- RECALL TO SHARED, RECALL and CLAIM at a core that owns the granule (15 R329). -/
theorem owner_acks {l : L1Line} (hst : (dirOf s g).st = .t) (hg : g % 128 = 0) (hh : (dirOf s g).hown = false)
    (hl : ownedLine s (dirOf s g).owner g = some l) :
    ((dirOf s g).msgs.contains .recallShared = true → ∃ t, exec (.recallToShared g) s = .next t ∧ (dirOf t g).base = .s ∧
      (dirOf t g).sharers = 1#64 <<< (dirOf s g).owner ∧ t.mem.hbm = mergeLine s.mem.hbm l (dirOf s g).wmask) ∧
    ((dirOf s g).msgs.contains .recall = true → ownAtomic s (dirOf s g) = false → ∃ t, exec (.recall g) s = .next t ∧ (dirOf t g).base = .i ∧
      t.mem.hbm = mergeLine s.mem.hbm l (dirOf s g).wmask ∧ ∀ x ∈ t.coh.l1, sameL1 l x = false) ∧
    (∀ w, (dirOf s g).msgs = [.claim w] → ∃ t, exec (.claim g) s = .next t ∧ (dirOf t g).base = .w ∧
      (dirOf t g).wmask = (dirOf s g).wmask ||| w ∧
      t.mem.hbm = mergeLine s.mem.hbm { l with dirty := l.dirty &&& bytesOf w } (dirOf s g).wmask) := by
  obtain ⟨-, -, hdpa, ho⟩ := ownedLine_some hl
  have hown : ownedLine s (dirOf s g).owner (dirOf s g).g = some l := by rw [dirOf_g]; exact hl
  have hmem : (mergeBack s l).mem.hbm = mergeLine s.mem.hbm l (dirOf s g).wmask := by
    rw [mergeBack_mem ho (by rw [hdpa]; exact hg) (by rw [hdpa, hst]; decide) (by rw [hdpa, hst]; decide), hdpa]
  refine ⟨fun hm => ⟨_, exec_ack rfl hst hm, ?_⟩, fun hm ha => ⟨_, exec_ack rfl hst hm, ?_⟩, fun w hw => ?_⟩
  · simp only [ackOf, ackRecallShared, hh, hown, Bool.false_eq_true, if_false]
    rw [dirOf_ackDir (dirOf_g s g) hst]
    exact ⟨rfl, rfl, hmem⟩
  · simp only [ackOf, ackRecall, hh, hown, Bool.false_eq_true, if_false, ownAtomic_congr (mergeBack_reqs s l), ha]
    rw [dirOf_ackDir (dirOf_g s g) hst]
    exact ⟨rfl, hmem, fun x hx => by simpa using (List.mem_filter.1 hx).2⟩
  · have hm : (dirOf s g).msgs.contains (.claim w) = true := by simp [hw]
    refine ⟨_, exec_ack (exec_claim (m := .claim w) (by rw [hw]; rfl)) hst hm, ?_⟩
    simp only [ackOf, ackClaim, hh, hown, Bool.false_eq_true, if_false]
    rw [dirOf_ackDir (dirOf_g s g) hst]
    exact ⟨rfl, rfl, rfl⟩

theorem holder_acks (hst : (dirOf s g).st = .t) :
    (∀ h, h < 64 → (dirOf s g).msgs.contains (.invalidate h) = true → ∃ t, exec (.invalidate g h) s = .next t ∧ t.mem = s.mem ∧
      (dirOf t g).sharers = (dirOf s g).sharers &&& ~~~(1#64 <<< h) ∧ ∀ l ∈ t.coh.l1, l.core = h → l.dpa = g → l.reg = false) ∧
    ((dirOf s g).msgs.contains (.invalidate 64) = true → ∃ t, exec (.invalidate g 64) s = .next t ∧ t.mem = s.mem ∧ (dirOf t g).host = false) ∧
    (∀ d, (dirOf s g).msgs.contains (.update d) = true → ∃ t, exec (.update g d) s = .next t ∧ t.mem = s.mem ∧ t.coh.l1 = s.coh.l1) := by
  refine ⟨fun h hh hm => ⟨_, exec_ack rfl hst hm, ?_⟩, fun hm => ⟨_, exec_ack rfl hst hm, ?_⟩,
    fun d hm => ⟨_, exec_ack rfl hst hm, rfl, rfl⟩⟩
  · simp only [ackOf, ackInvalidate, hh, if_true]
    rw [dirOf_ackDir (dirOf_g s g) hst]
    refine ⟨rfl, rfl, fun l hl hc hd => ?_⟩
    have hp := (List.mem_filter.1 hl).2
    rw [dirOf_g] at hp
    simpa [hc, hd] using hp
  · simp only [ackOf, ackInvalidate, show ¬(64 < 64) by decide, if_false, if_true]
    rw [dirOf_ackDir (dirOf_g s g) hst]
    exact ⟨rfl, rfl⟩

/-- The last acknowledgement (15 R329). -/
theorem lastAck (hst : (dirOf s g).st = .t) (hm : (dirOf s g).msgs = []) :
    ∃ t, (dirOf t g).st = (dirOf s g).base ∧ (dirOf t g).cause = none ∧ (dirOf t g).queue = (dirOf s g).queue ∧ t.mem = s.mem ∧ t.reqs = s.reqs ∧
      (∀ c, (dirOf s g).cause = some c → exec (.directoryTComplete g) s = .next (serveCause t g c true)) ∧
      ((dirOf s g).cause = none → exec (.directoryTComplete g) s = .next (placeEntry t g)) := by
  have he : exec (.directoryTComplete g) s = .next (match leaveT s g with
      | (some c, s) => serveCause s g c true
      | (none, s) => placeEntry s g) := by
    change (.next _ : Out) = _
    simp only [hst, hm, if_true, ne_eq, not_true_eq_false, if_false] <;> rfl
  refine ⟨(leaveT s g).2, ?_⟩
  have hd : dirOf (leaveT s g).2 g = { dirOf s g with st := (dirOf s g).base, cause := none } := by
    simp [leaveT, dirOf_putDir, dirOf_g]
  rw [hd]
  refine ⟨rfl, rfl, rfl, rfl, rfl, fun c hc => ?_, fun hc => ?_⟩
  · rw [he]
    simp only [leaveT, hc]
  · rw [he]
    simp only [leaveT, hc]

end

/-- Settles O43. -/
theorem messagesAnswered : Obligations.MessagesAnswered := by
  intro s g e
  refine ⟨fun hst c cs hq => ?_, fun hst => ⟨fun m hm i hi => ?_, fun l hg hh hl => owner_acks hst hg hh hl, (holder_acks hst).1,
    (holder_acks hst).2.1, (holder_acks hst).2.2, fun hm => lastAck hst hm⟩⟩
  · change (.next _ : Out) = _
    have hst' : (dirOf s g).st ≠ .t := hst
    have hq' : (dirOf s g).queue = c :: cs := hq
    simp only [if_neg hst', hq']
  · refine ⟨ackMsg s g m, ?_, ackMsg_stays hst hm⟩
    rcases hi with hi | ⟨h, rfl, rfl⟩ | ⟨d, rfl, rfl⟩ | ⟨rfl, -, hf⟩
    · simp only [List.mem_cons, Prod.mk.injEq, List.not_mem_nil, or_false] at hi
      rcases hi with ⟨rfl, rfl⟩ | ⟨rfl, rfl⟩ <;> rfl
    · rfl
    · rfl
    · exact exec_claim hf

end Sys2Proof.Machine

namespace Sys2Proof.Machine

set_option Elab.async false

/-! PROOFS. Copies that leave their holders (15 R331, R332, R340, R341), and host requests (15 R335). -/

theorem hasOwner_st {e : DirEntry} (h : hasOwner e = true) : e.st ≠ .i ∧ e.st ≠ .s ∧ e.st ≠ .t := by
  cases he : e.st <;> simp_all [hasOwner]

theorem evictable_owned {s : State} {l : L1Line} (h : hasOwner (dirOf s l.dpa) = true) : evictable s l = true := by
  simp [evictable, (hasOwner_st h).2.2]

theorem dirOf_mapL1 (s : State) (p : L1Line → Bool) (f : L1Line → L1Line) (g : Nat) : dirOf (mapL1 s p f) g = dirOf s g := rfl

theorem host_setDir {s : State} {e : DirEntry} {g : Nat} (hg : e.g = g) (hh : e.host = false) : (dirOf (setDir s e) g).host = false := by
  rw [dirOf_setDir, if_pos hg.symm]
  split
  · rfl
  · exact hh

theorem dirOf_toIdle (s : State) (g : Nat) : (dirOf (toIdle s g) g).st = .i := by
  simp only [toIdle, dirOf_setDir, DirEntry.idle, if_true]
  split <;> rfl

section
variable {s : State} {core g : Nat}

theorem ownerWriteBack_answers {l : L1Line} (hl : ownedLine s core g = some l) (hg : g % 128 = 0) (ho : hasOwner (dirOf s g) = true) :
    ∃ t, exec (.ownerWriteBack core g) s = .next t ∧ t.mem.hbm = mergeLine s.mem.hbm l (dirOf s l.dpa).wmask ∧ (dirOf t l.dpa).st = .i ∧
      (∀ x ∈ t.coh.l1, sameL1 l x = false) ∧ t.reqs = s.reqs ∧ t.dr = s.dr := by
  obtain ⟨-, -, rfl, hown⟩ := ownedLine_some hl
  have he : exec (.ownerWriteBack core l.dpa) s = .next (leaveL1 s l) := by
    change (.next _ : Out) = _
    simp only [hl, evictable_owned ho, if_true]
  obtain ⟨hi, hs, -⟩ := hasOwner_st ho
  have hside := (sameSide_keeps s).leaveL1 l (sameSide_refl s)
  refine ⟨_, he, ?_, ?_, leaveL1_gone s l, sameSide_reqs hside, hside.1⟩
  · have := mergeBack_mem hown hg hi hs
    simp only [leaveL1, hown, if_true, toIdle]
    change (mergeBack s l).mem.hbm = _
    rw [this]
  · simp only [leaveL1, hown, if_true]
    exact dirOf_toIdle (mergeBack s l) l.dpa

theorem vwbWriteBack_answers {l : L1Line}
    (hl : s.coh.l1.find? (fun l => l.core == core && l.dpa == g && l.dirty != 0 && s.reqs.any (vwbCovers s l)) = some l) (hg : g % 128 = 0)
    (ho : hasOwner (dirOf s g) = true) (hown : l.owned = true) :
    ∃ t, exec (.ownerVwbWriteBack core g) s = .next t ∧ t.mem.hbm = mergeLine s.mem.hbm l (dirOf s l.dpa).wmask ∧ (dirOf t l.dpa).st = .s ∧
      (dirOf t l.dpa).sharers = 1#64 <<< l.core ∧ ∀ x ∈ t.coh.l1, sameL1 l x = true → x.owned = false ∧ x.reg = true ∧ x.dirty = 0 := by
  obtain rfl : l.dpa = g := by
    have hp := List.find?_some hl
    simp only [Bool.and_eq_true, beq_iff_eq] at hp
    exact hp.1.1.2
  have he : exec (.ownerVwbWriteBack core l.dpa) s = .next (vwbLine s l) := by
    change (.next _ : Out) = _
    simp only [hl, evictable_owned ho, if_true]
  obtain ⟨hi, hs, -⟩ := hasOwner_st ho
  have hmem := mergeBack_mem hown hg hi hs
  refine ⟨_, he, ?_⟩
  simp only [vwbLine, hown, if_true]
  refine ⟨congrArg Mems.hbm hmem, ?_, ?_, ?_⟩
  · simp [dirOf_mapL1, dirOf_setDir, dirOf_g]
  · simp [dirOf_mapL1, dirOf_setDir, dirOf_g]
  · intro x hx hsame
    simp only [mapL1, mapIf, List.mem_map] at hx
    obtain ⟨y, -, rfl⟩ := hx
    split at hsame
    · next h => simp [h]
    · next h => exact absurd hsame h

theorem recallAll_st : (dirOf (recallAll s g) g).st = .i := by
  simp only [recallAll]
  split
  · assumption
  · simp only [dirOf_setDir, DirEntry.idle, if_true]
    split <;> rfl

theorem replicaLeave_answers {die : Nat} {l : VLine}
    (hl : s.vc.lines.find? (fun l => l.die == die && !l.pin && (lineGranules l).contains g && ((cdrOf s l.vc).map (·.place)) == some true) = some l) :
    ∃ t, exec (.replicaLineLeave g die) s = .next t ∧ (∀ x ∈ t.vc.lines, sameVLine x l = false) ∧ t.mem = s.mem := by
  have he : exec (.replicaLineLeave g die) s = .next (leaveVLine s l) := by
    change (.next _ : Out) = _
    simp only [hl]
  exact ⟨_, he, fun x hx => by simpa using (List.mem_filter.1 hx).2, (mem_pastureKeeps s.mem).leaveVLine l rfl⟩

theorem hostCleanDrop_answers (hh : (dirOf s g).host = true) (ht : (dirOf s g).st ≠ .t) :
    ∃ t, exec (.hostCleanDrop g) s = .next t ∧ (dirOf t g).host = false ∧ t.mem = s.mem ∧ t.coh.l1 = s.coh.l1 := by
  refine ⟨setDir s { dirOf s g with host := false, st := if (dirOf s g).st = .s then copiesSt { dirOf s g with host := false } else (dirOf s g).st },
    ?_, ?_, rfl, rfl⟩
  · change (.next _ : Out) = _
    simp only [hh, ht, Bool.not_true, Bool.false_eq_true, or_self, if_false]
  · exact host_setDir (dirOf_g s g) rfl

/-! The cores' own states. -/

theorem coreOf_onCore {f : CoreSt → CoreSt} (h : core < s.coh.cores.length) : coreOf (onCore s core f) core = f (coreOf s core) := by
  simp only [coreOf, onCore, List.getD_eq_getElem?_getD, modNth_get, List.getElem?_eq_getElem h, Option.map_some, Option.getD_some]

theorem modNth_length {α : Type} (f : α → α) (xs : List α) (j : Nat) : (modNth f xs j).length = xs.length := by
  induction xs generalizing j with
  | nil => rfl
  | cons x xs ih =>
    cases j with
    | zero => rfl
    | succ j => exact congrArg (· + 1) (ih j)

theorem epochTick_answers (hd : max 4096 (bits (privReg s 0xA5).toNat 31 0) ≤ s.cycle - (coreOf s core).ticked) (hc : core < s.coh.cores.length) :
    ∃ t, exec (.epochTick core) s = .next t ∧ (coreOf t core).ticked = (coreOf s core).ticked + epochPeriod s ∧ t.mem = s.mem ∧
      ((coreOf s core).asleep = true → (coreOf t core).missed = true) ∧
      ((coreOf s core).asleep = false → (coreOf t core).epoch = ((coreOf s core).epoch + 1) % 65536 ∧
        ∀ l ∈ t.coh.l1, l.core = core → l.stamp = none) := by
  refine ⟨onCore (epochSweep s core) core fun c => { c with ticked := c.ticked + epochPeriod s }, ?_, ?_⟩
  · change (.next _ : Out) = _
    rw [if_pos (show epochDue s core = true by simpa [epochDue, epochPeriod] using hd)]
  · cases ha : (coreOf s core).asleep
    · have hsweep : epochSweep s core = onCore (dropL1 s fun l => l.core == core && l.stamp.isSome) core
          fun c => { c with epoch := (c.epoch + 1) % 65536 } := by
        simp only [epochSweep, ha, Bool.false_eq_true, if_false]
      have hcore : coreOf (epochSweep s core) core = { coreOf s core with epoch := ((coreOf s core).epoch + 1) % 65536 } := by
        rw [hsweep]
        exact coreOf_onCore (s := dropL1 s _) hc
      have hlen : core < (epochSweep s core).coh.cores.length := by
        rw [hsweep]
        exact (modNth_length ..).symm ▸ hc
      rw [coreOf_onCore hlen, hcore]
      refine ⟨rfl, by rw [hsweep]; rfl, fun h => by simp at h, fun _ => ⟨rfl, fun l hl hcore => ?_⟩⟩
      rw [hsweep] at hl
      have hp := (List.mem_filter.1 hl).2
      simpa [hcore] using hp
    · have hsweep : epochSweep s core = onCore s core fun c => { c with missed := true } := by
        simp only [epochSweep, ha, if_true]
      have hlen : core < (epochSweep s core).coh.cores.length := by
        rw [hsweep]
        exact (modNth_length ..).symm ▸ hc
      rw [coreOf_onCore hlen, hsweep, coreOf_onCore hc]
      exact ⟨rfl, rfl, fun _ => rfl, fun h => by simp at h⟩

theorem vwbLine_cores (l : L1Line) {cs : List CoreSt} (h : s.coh.cores = cs) : (vwbLine s l).coh.cores = cs := by
  have hm : (mergeBack s l).coh.cores = cs := (cores_keeps cs).mergeBack l h
  simp only [vwbLine]
  split
  · exact hm
  · exact hm

theorem sleep_answers (hb : coreBusy s core = false) (h64 : core < 64) (hc : core < s.coh.cores.length) (ha : (coreOf s core).asleep = false)
    (hv : ∀ l ∈ s.coh.l1, l.core = core → l.owned = true → evictable s l = true) :
    ∃ t, exec (.retentionSleepEnter core) s = .next t ∧ (coreOf t core).asleep = true := by
  have hany : ((s.coh.l1.filter fun l => l.core == core && l.owned).any fun l => !evictable s l) = false := by
    simp only [List.any_eq_false, List.mem_filter, Bool.and_eq_true, beq_iff_eq, Bool.not_eq_true', Bool.not_eq_false]
    exact fun l ⟨hl, hcore, hown⟩ => hv l hl hcore hown
  have h64' : decide (64 ≤ core) = false := by simpa using h64
  let u := (s.coh.l1.filter fun l => l.core == core && l.owned).foldl leaveL1 s
  let v := (u.coh.l1.filter fun l => l.core == core && l.dirty != 0).foldl vwbLine u
  have hcores : v.coh.cores = s.coh.cores :=
    foldl_keeps (P := fun t : State => t.coh.cores = s.coh.cores) (fun _ l => vwbLine_cores l) _ ((cores_keeps s.coh.cores).leaveL1s _ rfl)
  refine ⟨onCore v core fun c => { c with asleep := true }, ?_, ?_⟩
  · change (.next _ : Out) = _
    simp only [hb, hany, ha, h64', Bool.or_self, Bool.false_eq_true, if_false]
    rfl
  · rw [coreOf_onCore (by rw [hcores]; exact hc)]

theorem wake_answers (ha : (coreOf s core).asleep = true) (hc : core < s.coh.cores.length) :
    ∃ t, exec (.retentionWake core) s = .next t ∧ (coreOf t core).asleep = false ∧ (coreOf t core).missed = false ∧ t.mem = s.mem ∧
      ((coreOf s core).missed = true → ∀ l ∈ t.coh.l1, l.core = core → (l.reg = true ∨ l.owned = true) ∧ l.stamp = none) := by
  have he : exec (.retentionWake core) s = .next (wakeL1 s core) := rfl
  cases hm : (coreOf s core).missed
  · have hw : wakeL1 s core = onCore s core fun c => { c with asleep := false, missed := false } := by
      simp only [wakeL1, ha, hm, if_true, Bool.false_eq_true, if_false]
    refine ⟨_, he, ?_⟩
    rw [hw, coreOf_onCore hc]
    exact ⟨rfl, rfl, rfl, fun h => by simp at h⟩
  · have hw : wakeL1 s core = onCore (dropL1 s fun l => l.core == core && ((!l.reg && !l.owned) || l.stamp.isSome)) core
        fun c => { c with asleep := false, missed := false } := by
      simp only [wakeL1, ha, hm, if_true]
    refine ⟨_, he, ?_⟩
    rw [hw, coreOf_onCore (s := dropL1 s _) hc]
    refine ⟨rfl, rfl, rfl, fun _ l hl hcore => ?_⟩
    have hp := (List.mem_filter.1 hl).2
    simp only [hcore, beq_self_eq_true, Bool.true_and, Bool.not_eq_true', Bool.or_eq_false_iff, Option.isSome_eq_false_iff,
      Option.isNone_iff_eq_none, Bool.and_eq_false_iff, Bool.not_eq_false'] at hp
    exact hp

end

/-- Settles O44. -/
theorem copiesLeave : Obligations.CopiesLeave := by
  intro s core g
  exact ⟨fun l hl hg ho => ownerWriteBack_answers hl hg ho, fun l hl hg ho hown => vwbWriteBack_answers hl hg ho hown, rfl, recallAll_st,
    fun die l hl => replicaLeave_answers hl, hostCleanDrop_answers, epochTick_answers, sleep_answers, wake_answers⟩

end Sys2Proof.Machine

namespace Sys2Proof.Machine

set_option Elab.async false

/-! PROOFS. What a byte reads at its home, as memory and the writes that its owner and the host still hold (15 R329, R333); and host
requests (15 R335). -/

/-! The last of several writes to a byte. -/

/-- The last byte that the writes `bs` leave at `x`. -/
def lastAt (bs : List (Nat × Byte)) (x : Nat) : Option Byte := (bs.reverse.find? fun b => b.1 == x).map (·.2)

theorem lastAt_none {bs : List (Nat × Byte)} {x : Nat} (h : ∀ b ∈ bs, b.1 ≠ x) : lastAt bs x = none := by
  have : (bs.reverse.find? fun b => b.1 == x) = none := by simpa [List.find?_eq_none] using fun a b hb => h (a, b) hb
  simp [lastAt, this]

theorem mergeBytes_append (m : Memory) (bs cs : List (Nat × Byte)) : mergeBytes m (bs ++ cs) = mergeBytes (mergeBytes m bs) cs :=
  List.foldl_append

theorem memByte_mergeBytes {m : Memory} (w : m.wf = true) (bs : List (Nat × Byte)) (x : Nat) :
    memByte (mergeBytes m bs) x = (lastAt bs x).getD (memByte m x) := by
  induction bs using List.reverseRecOn with
  | nil => rfl
  | append_singleton bs b ih =>
    rw [mergeBytes_append]
    change memByte (memSet (mergeBytes m bs) b.1 b.2) x = _
    by_cases h : x = b.1
    · subst h
      rw [memByte_memSet_same _ _ (mergeBytes_wf bs w)]
      simp [lastAt]
    · rw [memByte_memSet_ne _ _ h, ih]
      have h' : (b.1 == x) = false := by simpa using fun e : b.1 = x => h e.symm
      simp [lastAt, h']

/-- The bytes that a copy writes back, but for the words of `keep`. -/
def lineWrites (l : L1Line) (keep : BitVec 32) : List (Nat × Byte) :=
  (List.range 128).filterMap fun i => if l.dirty.getLsbD i && !keep.getLsbD (i / 4) then some (l.dpa + i, gByte l.data i) else none

theorem mergeLine_eq (m : Memory) (l : L1Line) (keep : BitVec 32) : mergeLine m l keep = mergeBytes m (lineWrites l keep) := by
  simp only [mergeLine, mergeBytes, lineWrites, List.foldl_filterMap]
  congr 1
  funext m i
  split <;> rfl

theorem mem_lineWrites {l : L1Line} {keep : BitVec 32} {y : Nat × Byte} (h : y ∈ lineWrites l keep) :
    ∃ i < 128, y.1 = l.dpa + i ∧ keep.getLsbD (i / 4) = false := by
  simp only [lineWrites, List.mem_filterMap, List.mem_range] at h
  obtain ⟨i, hi, hy⟩ := h
  split at hy
  · next hc =>
    simp only [Bool.and_eq_true, Bool.not_eq_true'] at hc
    obtain rfl := Option.some.inj hy
    exact ⟨i, hi, rfl, hc.2⟩
  · exact absurd hy (by simp)

/-- The writes that the owner of granule `g` and the host still hold. -/
def ownerBytes (s : State) (g : Nat) : List (Nat × Byte) :=
  match ownedLine s (dirOf s g).owner g with
  | some l => if ((dirOf s g).st = .o || (dirOf s g).st = .w || (dirOf s g).st = .t) && !(dirOf s g).hown then lineWrites l (dirOf s g).wmask else []
  | none => []

def latest (s : State) (g : Nat) : List (Nat × Byte) :=
  if (dirOf s g).st = .i then [] else ownerBytes s g ++ (dirOf s g).hostDirty.filter fun b => granOf b.1 == g

theorem merged_eq (s : State) (g : Nat) :
    merged s g = mergeBytes s.mem.hbm (ownerBytes s g ++ (dirOf s g).hostDirty.filter fun b => granOf b.1 == g) := by
  rw [mergeBytes_append]
  cases hl : ownedLine s (dirOf s g).owner g with
  | none => simp only [merged, ownerBytes, hl]; rfl
  | some l =>
    simp only [merged, ownerBytes, hl]
    split
    · rw [mergeLine_eq]
    · rfl

/-- What the home serves is memory, but for what the owner and the host still hold. -/
theorem homeByte_eq {s : State} (w : s.mem.hbm.wf = true) (x : Nat) :
    homeByte s x = (lastAt (latest s (granOf x)) x).getD (memByte s.mem.hbm x) := by
  simp only [homeByte, latest]
  split
  · rfl
  · rw [merged_eq, memByte_mergeBytes w]

/-- What is held back from granule `g` are bytes of that granule. -/
theorem granOf_add {g i : Nat} (hg : g % 128 = 0) (hi : i < 128) : granOf (g + i) = g := by
  unfold granOf
  omega

theorem granOf_granOf (a : Nat) : granOf a % 128 = 0 := by
  unfold granOf
  omega

theorem ownerBytes_gran {s : State} {g : Nat} (hg : g % 128 = 0) {y : Nat × Byte} (h : y ∈ ownerBytes s g) : granOf y.1 = g := by
  simp only [ownerBytes] at h
  split at h
  · next l hl =>
    split at h
    · obtain ⟨i, hi, hy, -⟩ := mem_lineWrites h
      rw [hy, (ownedLine_some hl).2.2.1]
      exact granOf_add hg hi
    · simp at h
  · simp at h

/-! A write by the device (15 R330, R334). -/

theorem homePut_one (s : State) (a : Nat) (b : Byte) :
    homePut s a [b] = onHbm (takeWrite s (granOf a) (wordMask (a % 128) 1) false none) fun m => memSet m a b := by
  have hw : wordsIn (granOf a) [(a, false)] = wordMask (a % 128) 1 := by simp [wordsIn]
  simp [homePut, putAt, List.eraseDups, List.eraseDupsBy, List.eraseDupsBy.loop, hw, mergeBytes]

theorem wordMask_one : ∀ off < 128, wordMask off 1 = 1#32 <<< (off / 4) := by decide +kernel

/-- One word is in a mask, or not. -/
theorem word_and_not (w : BitVec 32) {n : Nat} (hn : n < 32) : 1#32 <<< n &&& ~~~w = 0 ↔ w.getLsbD n = true := by
  constructor
  · intro h
    have hb := congrArg (fun x : BitVec 32 => x.getLsbD n) h
    simpa [hn] using hb
  · intro h
    refine BitVec.eq_of_getLsbD_eq fun i hi => ?_
    by_cases he : i = n
    · simp [he, h]
    · have : ¬ (i - n = 0 ∧ n ≤ i) := by omega
      simp only [BitVec.getLsbD_and, BitVec.getLsbD_shiftLeft, BitVec.getLsbD_one]
      by_cases hle : i < n
      · simp [hle]
      · have : i - n ≠ 0 := by omega
        simp [this]

/-- Nobody holds a write to byte `a`, once the home has taken one. -/
def FreeAt (a : Nat) (s : State) : Prop := ∀ y ∈ latest s (granOf a), y.1 ≠ a

theorem freeAt_of {s : State} {a : Nat} (hl : hasOwner (dirOf s (granOf a)) = true ∨ (dirOf s (granOf a)).st = .t →
      (dirOf s (granOf a)).wmask.getLsbD (a % 128 / 4) = true)
    (hh : (dirOf s (granOf a)).st ≠ .i → ∀ y ∈ (dirOf s (granOf a)).hostDirty, y.1 ≠ a) : FreeAt a s := by
  intro y hy hya
  simp only [latest] at hy
  split at hy
  · simp at hy
  · next hi =>
    rcases List.mem_append.1 hy with hy | hy
    · simp only [ownerBytes] at hy
      split at hy
      · next l hline =>
        split at hy
        · next hst =>
          have hk := hl (by
            simp only [Bool.and_eq_true, Bool.or_eq_true, decide_eq_true_eq] at hst
            rcases hst.1 with (h | h) | h
            · exact .inl (by simp [hasOwner, h])
            · exact .inl (by simp [hasOwner, h])
            · exact .inr h)
          obtain ⟨i, hi, hyi, hkeep⟩ := mem_lineWrites hy
          have hdpa := (ownedLine_some hline).2.2.1
          have : i = a % 128 := by
            rw [hya, hdpa] at hyi
            unfold granOf at hyi
            omega
          simp [this, hk] at hkeep
        · simp at hy
      · simp at hy
    · exact hh hi y (List.mem_filter.1 hy).1 hya

section
variable {s : State} {a : Nat}

/-- An owner's words that the home claims are in WMASK from then on, and the host holds no write to them. -/
theorem claimNow_free (e : DirEntry) (he : e.g = granOf a) (m : BitVec 32) (hm : m.getLsbD (a % 128 / 4) = true) : FreeAt a (claimNow s e m) := by
  have hd : dirOf (claimNow s e m) (granOf a) =
      { e with st := .w, wmask := e.wmask ||| m, hostDirty := e.hostDirty.filter fun b => !m.getLsbD (b.1 % 128 / 4) } := by
    simp [claimNow, dirOf_setDir, he]
  refine freeAt_of ?_ ?_ <;> rw [hd]
  · intro _
    simp [hm]
  · intro _ y hy hya
    have := (List.mem_filter.1 hy).2
    simp [hya, hm] at this

theorem claimNow_wf (e : DirEntry) (m : BitVec 32) (w : s.mem.hbm.wf = true) : Memory.wf (claimNow s e m).mem.hbm = true := by
  have hd : ∀ t e, (setDir t e).mem = t.mem := fun _ _ => rfl
  have hl : ∀ t p f, (mapL1 t p f).mem = t.mem := fun _ _ _ => rfl
  have hm : ∀ t f, (onHbm t f).mem.hbm = f t.mem.hbm := fun _ _ => rfl
  simp only [claimNow, hd]
  split
  · rw [hm]
    exact mergeBytes_wf _ w
  · split
    · rw [hl, hm]
      exact mergeLine_wf _ _ w
    · exact w

theorem claimNow_met (e : DirEntry) (m : BitVec 32) : (claimNow s e m).met = s.met := by
  simp only [claimNow]
  split
  · rfl
  · split <;> rfl

/-- An entry with no owner holds no write but the host's. -/
theorem freeAt_setDir {e : DirEntry} (he : e.g = granOf a) (hst : e.st = .i ∨ e.st = .s) (hh : ∀ y ∈ e.hostDirty, y.1 ≠ a) :
    FreeAt a (setDir s e) := by
  have hd : dirOf (setDir s e) (granOf a) = .idle (granOf a) ∨ dirOf (setDir s e) (granOf a) = e := by
    rw [dirOf_setDir, if_pos he.symm]
    split
    · exact .inl rfl
    · exact .inr rfl
  rcases hd with hd | hd
  · refine freeAt_of ?_ ?_ <;> rw [hd]
    · simp [DirEntry.idle, hasOwner]
    · simp [DirEntry.idle]
  · refine freeAt_of ?_ ?_ <;> rw [hd]
    · rcases hst with h | h <;> simp [hasOwner, h]
    · exact fun _ => hh

/-- The home takes a write: nobody holds another write to that byte, memory is canonical, and no busy granule has been met. -/
theorem takeWrite_free (hb : busyGranule s (granOf a) = false)
    (hd : ∀ d ∈ (dirOf s (granOf a)).hostDirty, d.1 = a → hasOwner (dirOf s (granOf a)) = true ∧ (dirOf s (granOf a)).wmask.getLsbD (a % 128 / 4) = false)
    (w : s.mem.hbm.wf = true) :
    let t := takeWrite s (granOf a) (wordMask (a % 128) 1) false none
    FreeAt a t ∧ Memory.wf t.mem.hbm = true ∧ t.met = s.met := by
  have hn : a % 128 / 4 < 32 := by omega
  have hst : (dirOf s (granOf a)).st ≠ .t := by
    intro h
    simp [busyGranule, h] at hb
  simp only [takeWrite, wordMask_one _ (Nat.mod_lt a (by decide)), hb, Bool.false_eq_true, if_false]
  split
  · next h =>
    simp only [Bool.and_eq_true, decide_eq_true_eq] at h
    exact ⟨freeAt_of (fun h' => by simp [hasOwner, h.1] at h') fun h' => absurd h.1 h', w, rfl⟩
  · split
    · next ho =>
      split
      · next hz =>
        have hk := (word_and_not _ hn).1 hz
        exact ⟨freeAt_of (fun _ => hk) fun _ y hy hya => by simp [hk] at hd; exact hd y.1 y.2 hy hya, w, rfl⟩
      · next hz =>
        have hk : (1#32 <<< (a % 128 / 4) &&& ~~~(dirOf s (granOf a)).wmask).getLsbD (a % 128 / 4) = true := by
          have : (dirOf s (granOf a)).wmask.getLsbD (a % 128 / 4) = false := by
            exact Bool.eq_false_iff.2 fun h => hz ((word_and_not _ hn).2 h)
          rw [BitVec.getLsbD_and, BitVec.getLsbD_not, this]
          simp [hn]
        exact ⟨claimNow_free _ (dirOf_g s _) _ hk, claimNow_wf _ _ w, claimNow_met _ _⟩
    · next ho =>
      have hnone : ∀ y ∈ (dirOf s (granOf a)).hostDirty, y.1 ≠ a := fun y hy hya => ho (hd y hy hya).1
      refine ⟨freeAt_setDir (dirOf_g s _) ?_ hnone, w, rfl⟩
      split
      · exact .inl rfl
      · exact .inr rfl

theorem homePut_reads (b : Byte) (hb : busyGranule s (granOf a) = false)
    (hd : ∀ d ∈ (dirOf s (granOf a)).hostDirty, d.1 = a → hasOwner (dirOf s (granOf a)) = true ∧ (dirOf s (granOf a)).wmask.getLsbD (a % 128 / 4) = false)
    (w : s.mem.hbm.wf = true) : homeByte (homePut s a [b]) a = b ∧ (homePut s a [b]).met = s.met := by
  obtain ⟨hf, hw, hm⟩ := takeWrite_free hb hd w
  rw [homePut_one]
  refine ⟨?_, hm⟩
  rw [homeByte_eq (memSet_wf _ _ hw)]
  have : lastAt (latest (onHbm (takeWrite s (granOf a) (wordMask (a % 128) 1) false none) fun m => memSet m a b) (granOf a)) a = none :=
    lastAt_none hf
  rw [this]
  exact memByte_memSet_same _ _ hw

/-- Where no copy is registered, a write changes its own byte alone. -/
theorem homePut_frame (x : Nat) (b : Byte) (w : s.mem.hbm.wf = true) (hi : (dirOf s (granOf a)).st = .i) (hq : (dirOf s (granOf a)).queue = []) :
    homeByte (homePut s a [b]) x = if x = a then b else homeByte s x := by
  have ht : takeWrite s (granOf a) (wordMask (a % 128) 1) false none = s := by simp [takeWrite, hi, hq]
  rw [homePut_one, ht, homeByte_eq (memSet_wf _ _ w), homeByte_eq w]
  change (lastAt (latest s (granOf x)) x).getD (memByte (memSet s.mem.hbm a b) x) = _
  split
  · next h =>
    subst h
    rw [latest, if_pos hi, memByte_memSet_same _ _ w]
    rfl
  · next h => rw [memByte_memSet_ne _ _ h]

/-- A granule that is recalled reads as before (15 R329, R332). -/
theorem homeByte_recallAll (x : Nat) (w : s.mem.hbm.wf = true) : homeByte (recallAll s (granOf a)) x = homeByte s x := by
  by_cases hi : (dirOf s (granOf a)).st = .i
  · rw [recallAll, if_pos hi]
  · have hmem : (recallAll s (granOf a)).mem.hbm = merged s (granOf a) := by
      simp only [recallAll, if_neg hi]
      rfl
    have hw : Memory.wf (recallAll s (granOf a)).mem.hbm = true := hmem ▸ merged_wf s _ w
    by_cases hx : granOf x = granOf a
    · rw [homeByte, hx, if_pos recallAll_st, hmem, homeByte, hx, if_neg hi]
    · have hd : dirOf (recallAll s (granOf a)) (granOf x) = dirOf s (granOf x) := by
        simp only [recallAll, if_neg hi, dirOf_setDir, DirEntry.idle, if_neg hx]
        rfl
      have hl : ownedLine (recallAll s (granOf a)) (dirOf s (granOf x)).owner (granOf x) = ownedLine s (dirOf s (granOf x)).owner (granOf x) := by
        simp only [recallAll, if_neg hi]
        change (s.coh.l1.filter fun l => !(l.dpa == granOf a && (l.owned || l.reg))).find? _ = s.coh.l1.find? _
        rw [List.find?_filter]
        refine congrArg (fun p => s.coh.l1.find? p) (funext fun l => ?_)
        by_cases h : l.dpa = granOf x
        · simp [h, hx, beq_eq_decide]
        · simp [h]
      have hlate : latest (recallAll s (granOf a)) (granOf x) = latest s (granOf x) := by
        simp only [latest, ownerBytes, hd, hl]
      have hnone : lastAt (ownerBytes s (granOf a) ++ (dirOf s (granOf a)).hostDirty.filter fun b => granOf b.1 == granOf a) x = none := by
        refine lastAt_none fun y hy hyx => hx (hyx ▸ ?_)
        rcases List.mem_append.1 hy with h | h
        · exact ownerBytes_gran (granOf_granOf a) h
        · simpa using (List.mem_filter.1 h).2
      rw [homeByte_eq hw, homeByte_eq w, hlate, hmem, merged_eq, memByte_mergeBytes w, hnone]
      rfl

end

/-- Settles O11. -/
theorem homeWriteReads : Obligations.HomeWriteReads := by
  intro s a x b w
  exact ⟨fun hb hd => homePut_reads b hb hd w, fun hi hq => homePut_frame x b w hi hq, homeByte_recallAll x w, recallAll_st⟩

end Sys2Proof.Machine

namespace Sys2Proof.Machine

set_option Elab.async false

/-! PROOFS. Host requests (15 R335, 18 R395). -/

section
variable {s : State} {g : Nat}

theorem dirOf_absent (h : ∀ e ∈ s.coh.dir, e.g ≠ g) : dirOf s g = .idle g := by
  have : s.coh.dir.find? (fun e => e.g == g) = none := by simpa [List.find?_eq_none] using h
  simp [dirOf, this]

/-- An entry that takes its place keeps all but its way in the snoop filter and its age, where its set has room. -/
theorem dirOf_seatEntry (hr : (sfWay (sfPeers s g)).isSome = true) (hi : (dirOf s g).st ≠ .i) :
    ∃ sf way age, dirOf (seatEntry s g) g = { dirOf s g with sf := sf, way := way, age := age } := by
  obtain ⟨w, hw⟩ := Option.isSome_iff_exists.1 hr
  simp only [seatEntry, hw]
  split
  · exact ⟨_, _, _, rfl⟩
  · exact ⟨true, w, true, by simp [dirOf_setDir, dirOf_g, hi]⟩

theorem dirOf_placeEntry {m : Mems} (hr : RoomFor m g s) (hi : (dirOf s g).st ≠ .i) :
    ∃ sf way age, dirOf (placeEntry s g) g = { dirOf s g with sf := sf, way := way, age := age } := by
  have hd : dirOf (setDir s { dirOf s g with age := true }) g = { dirOf s g with age := true } := by simp [dirOf_setDir, dirOf_g, hi]
  have hroom : RoomFor m g (setDir s { dirOf s g with age := true }) := hr.setDir (.inl (dirOf_g s g))
  obtain ⟨sf, way, age, h⟩ := dirOf_seatEntry hroom.room (by rw [hd]; exact hi)
  refine ⟨sf, way, age, ?_⟩
  simp only [placeEntry, if_neg hi]
  rw [h, hd]

/-- An entry that a request has made takes its place. -/
theorem placeEntry_setDir {m : Mems} {e : DirEntry} (hr : RoomFor m g s) (he : e.g = g) (hi : e.st ≠ .i) :
    (placeEntry (setDir s e) g).mem = m ∧
      ∃ sf way age, dirOf (placeEntry (setDir s e) g) g = { e with sf := sf, way := way, age := age } := by
  have hroom : RoomFor m g (setDir s e) := hr.setDir (.inl he)
  have hd : dirOf (setDir s e) g = e := by simp [dirOf_setDir, he, hi]
  obtain ⟨sf, way, age, h⟩ := dirOf_placeEntry hroom (by rw [hd]; exact hi)
  exact ⟨hroom.placeEntry.mem, sf, way, age, by rw [h, hd]⟩

/-- The entries that the host's reads make: a registered copy, and an owner with its dirty bytes. -/
def hostShares (g : Nat) : DirEntry := { DirEntry.idle g with st := .s, host := true }
def hostOwns (g : Nat) (bs : List (Nat × Byte)) : DirEntry := { DirEntry.idle g with st := .o, hown := true, hostDirty := bs }

/-- A home without an entry may take a host request at once, where the snoop filter has room for the entry that it makes. -/
theorem hostFree (h : dirOf s g = .idle g) (op : Nat) (hr : op = 2 ∨ (sfWay (sfPeers s g)).isSome = true) :
    homeFree s g (hostParty op g) (hostWant op) = true := by
  have hn : needs (.idle g) (hostParty op g) (hostWant op) false = [] := by
    match op with
    | 0 => simp [needs, hostParty, hostWant, hasOwner, DirEntry.idle]
    | 1 => simp [needs, hostParty, hostWant, hasOwner, DirEntry.idle, invalidates, sharersBut, diesOf]
    | 2 => simp [needs, hostParty, hostWant, hasOwner, DirEntry.idle, invalidates, sharersBut, diesOf]
    | _ + 3 => simp [needs, hostParty, hostWant, hasOwner, DirEntry.idle, invalidates, sharersBut, diesOf]
  have ho : (goesOff (.idle g) (hostParty op g) (hostWant op) && !(DirEntry.idle g).sf && (sfWay (sfPeers s g)).isNone) = false := by
    rcases hr with rfl | hr
    · simp [goesOff, hostParty, hostWant]
    · simp [hr]
  simp only [homeFree, h, hn, ho]
  rfl

theorem hostRequest_answers {op dpa : Nat} {data : List Byte} {en : BitVec 64} (hlt : dpa < 2 ^ 39) (h : dirOf s (granOf dpa) = .idle (granOf dpa))
    (hr : op = 2 ∨ (sfWay (sfPeers s (granOf dpa))).isSome = true) :
    hostRequest s op dpa data en =
      .next (placeEntry (applyHost op dpa data en (homeOpen { s with uid := s.uid + 1 } (granOf dpa))) (granOf dpa)) := by
  simp only [hostRequest, if_neg (Nat.not_le.2 hlt), newId, serveHost]
  exact congrArg _ (arrive_free (hostFree (s := { s with uid := s.uid + 1 }) h op hr) _ _)

/-- What the host finds at a home that has no entry. -/
theorem homeOpen_idle {n : Nat} (h : dirOf s g = .idle g) : dirOf (homeOpen { s with uid := n } g) g = .idle g :=
  (dirOf_homeOpen (s := { s with uid := n }) (by rw [show dirOf { s with uid := n } g = .idle g from h]; rfl) g).trans h

end

section
variable {s : State} {dpa : Nat} (hlt : dpa < 2 ^ 39) (hd : dirOf s (granOf dpa) = .idle (granOf dpa))
include hlt hd

theorem hrd_answers (hr : (sfWay (sfPeers s (granOf dpa))).isSome = true) :
    ∃ t, exec (.hrd dpa) s = .next t ∧ (dirOf t (granOf dpa)).st = .s ∧ (dirOf t (granOf dpa)).host = true ∧ t.mem = s.mem := by
  refine ⟨_, hostRequest_answers hlt hd (.inr hr), ?_⟩
  have hroom : RoomFor s.mem (granOf dpa) (homeOpen { s with uid := s.uid + 1 } (granOf dpa)) := RoomFor.homeOpen ⟨rfl, hr⟩
  have happ : applyHost 0 dpa [] 0 (homeOpen { s with uid := s.uid + 1 } (granOf dpa)) =
      setDir (homeOpen { s with uid := s.uid + 1 } (granOf dpa)) (hostShares (granOf dpa)) := by
    simp only [applyHost, homeOpen_idle hd]
    rfl
  rw [happ]
  obtain ⟨hm, sf, way, age, h⟩ := placeEntry_setDir (e := hostShares (granOf dpa)) hroom rfl (fun h => by cases h)
  rw [h]
  exact ⟨rfl, rfl, hm⟩

theorem hrdx_answers (data : List Byte) (en : BitVec 64) (hr : (sfWay (sfPeers s (granOf dpa))).isSome = true) :
    ∃ t, exec (.hrdx dpa data en) s = .next t ∧ (dirOf t (granOf dpa)).st = .o ∧ (dirOf t (granOf dpa)).hown = true ∧
      (dirOf t (granOf dpa)).hostDirty = hostBytes dpa data en ∧ t.mem = s.mem := by
  refine ⟨_, hostRequest_answers hlt hd (.inr hr), ?_⟩
  have hroom : RoomFor s.mem (granOf dpa) (homeOpen { s with uid := s.uid + 1 } (granOf dpa)) := RoomFor.homeOpen ⟨rfl, hr⟩
  have happ : applyHost 1 dpa data en (homeOpen { s with uid := s.uid + 1 } (granOf dpa)) =
      setDir (homeOpen { s with uid := s.uid + 1 } (granOf dpa)) (hostOwns (granOf dpa) (hostBytes dpa data en)) := by
    simp only [applyHost, homeOpen_idle hd]
    simp [DirEntry.idle, hasOwner, mergeBytes, onHbm, hostOwns]
  rw [happ]
  obtain ⟨hm, sf, way, age, h⟩ := placeEntry_setDir (e := hostOwns (granOf dpa) (hostBytes dpa data en)) hroom rfl (fun h => by cases h)
  rw [h]
  exact ⟨rfl, rfl, rfl, hm⟩

theorem hwr_answers (data : List Byte) (en : BitVec 64) (ha : ∀ e ∈ s.coh.dir, e.g ≠ granOf dpa) :
    ∃ t, exec (.hwr dpa data en) s = .next t ∧ t.mem.hbm = mergeBytes s.mem.hbm (hostBytes dpa data en) ∧ t.coh = s.coh := by
  refine ⟨_, hostRequest_answers hlt hd (.inl rfl), ?_⟩
  have happ : applyHost 2 dpa data en (homeOpen { s with uid := s.uid + 1 } (granOf dpa)) =
      onHbm (homeOpen { s with uid := s.uid + 1 } (granOf dpa)) fun m => mergeBytes m (hostBytes dpa data en) := rfl
  have hd' : dirOf (onHbm (homeOpen { s with uid := s.uid + 1 } (granOf dpa)) fun m => mergeBytes m (hostBytes dpa data en)) (granOf dpa) =
      .idle (granOf dpa) := homeOpen_idle hd
  have hfil : s.coh.dir.filter (fun x => x.g != granOf dpa) = s.coh.dir := List.filter_eq_self.2 fun e he => by simpa using ha e he
  rw [happ, placeEntry, hd', if_pos (show (DirEntry.idle (granOf dpa)).st = .i from rfl)]
  refine ⟨rfl, ?_⟩
  simp only [setDir, onHbm, homeOpen, putDir, show dirOf { s with uid := s.uid + 1 } (granOf dpa) = .idle (granOf dpa) from hd]
  simp [DirEntry.idle, List.filter_append, hfil]

end

/-- Settles O45. -/
theorem hostRequests : Obligations.HostRequests := by
  intro s dpa data en g
  refine ⟨fun h => ⟨?_, ?_, ?_⟩, fun hlt ha => ⟨fun hr => ⟨?_, ?_⟩, ?_⟩, fun ho hh => ?_⟩
  · exact congrArg _ (if_pos h)
  · exact congrArg _ (if_pos h)
  · exact congrArg _ (if_pos h)
  · exact hrd_answers hlt (dirOf_absent ha) hr
  · exact hrdx_answers hlt (dirOf_absent ha) data en hr
  · exact hwr_answers hlt (dirOf_absent ha) data en ha
  · refine ⟨toIdle (onHbm s fun m => mergeBytes m (dirOf s g).hostDirty) g, ?_, rfl, dirOf_toIdle _ _⟩
    change (.next _ : Out) = _
    have hc : (hasOwner (dirOf s (granOf dpa)) && (dirOf s (granOf dpa)).hown) = true := by rw [Bool.and_eq_true]; exact ⟨ho, hh⟩
    rw [if_pos hc]

end Sys2Proof.Machine

namespace Sys2Proof.Machine

set_option Elab.async false

/-! PROOFS. Matrix passes at their issue (10 R211, R213). -/

theorem matrixReady_iff {s : State} {us : List Use} : matrixReady s us = true ↔
    s.dr.shepherd = false ∧ fits s us = true ∧ masksFull s = true ∧ activeMask s.dr = s.dr.pres := by
  simp only [matrixReady, Bool.and_eq_true, Bool.not_eq_true', beq_iff_eq, and_assoc]

theorem fits_mono {s : State} {us vs : List Use} (h : fits s us = true) (hs : ∀ u ∈ vs, u ∈ us) : fits s vs = true := by
  simp only [fits, List.all_eq_true] at h ⊢
  exact fun u hu => h u (hs u hu)

theorem fits_alloc {s : State} {us : List Use} (h : fits s us = true) : (us.any fun u => decide (allocOf s.dr u.cls < u.base + u.n)) = false := by
  simp only [fits, List.all_eq_true, Bool.and_eq_true, decide_eq_true_eq] at h
  simp only [List.any_eq_false, decide_eq_true_eq]
  intro u hu
  have := (h u hu).1.1
  omega

theorem fits_align {s : State} {us : List Use} (h : fits s us = true) : (us.any fun u => u.base % u.align != 0) = false := by
  simp only [fits, List.all_eq_true, Bool.and_eq_true, decide_eq_true_eq] at h
  simp only [List.any_eq_false, bne_iff_ne, ne_eq, not_not]
  exact fun u hu => by simpa using (h u hu).1.2

theorem retire_pc_recorded {s w : State} {o : Seen} (h : w.dr = s.dr.recorded o) : (retire w).dr.pc = (retire s).dr.pc := by
  have hm : (s.dr.recorded o).micro = s.dr.micro := rfl
  simp only [retire, h, hm]
  split <;> simp [onDr, onFl, retireDr, h, Drove.recorded]

theorem Recorded.fl {s t : State} (h : Recorded s t) : ∃ n, t.fl = { s.fl with lastIssue := n } := by
  obtain ⟨o, li, fr, ds, ln, ts, du, hd, rfl⟩ := h
  exact ⟨li, rfl⟩

theorem retire_dr (s : State) : ∃ pc m, (retire s).dr = retireDr s.dr pc m s.cycle := by
  obtain ⟨pc, m, h⟩ := retire_eq s
  exact ⟨pc, m, by rw [h]⟩

theorem retire_fl (s : State) : (retire s).fl = { s.fl with lastIssue := s.cycle } := by
  obtain ⟨pc, m, h⟩ := retire_eq s
  rw [h]

/-- What a retirement leaves, but for the records of observation, of a state whose port was recorded alone. -/
structure Retires (s w t : State) : Prop where
  pc   : t.dr.pc = (retire s).dr.pc
  regs : t.dr.s = s.dr.s ∧ t.dr.v = s.dr.v
  fl   : ∃ n, t.fl = { w.fl with lastIssue := n }
  rest : t.mem = w.mem ∧ t.reqs = w.reqs ∧ t.eng = w.eng

theorem Recorded.retires {s w t : State} {o : Seen} (h : Recorded (Machine.retire w) t) (hw : w.dr = s.dr.recorded o) : Retires s w t := by
  obtain ⟨pc, m, hr⟩ := retire_dr w
  obtain ⟨p, hd⟩ := h.dr
  obtain ⟨hmem, -, -, hreqs, -, -, -, -, heng, -⟩ := h.rest
  obtain ⟨n, hf⟩ := h.fl
  refine ⟨h.pc.trans (retire_pc_recorded hw), ⟨?_, ?_⟩, ⟨n, by rw [hf, retire_fl]⟩, hmem.trans (retire_mem _), hreqs.trans (retire_reqs _),
    heng.trans (retire_eng _)⟩
  · rw [hd, hr, hw]
    rfl
  · rw [hd, hr, hw]
    rfl

section
variable {s : State} {op : Nat} {types : Nat → Nat → Bool} {td : BitVec 4} {ka kb eta : Bool} {a b : BitVec 7}

/-- The registers that a pass names, and those whose waits come late (10 R211). -/
def passUses (op : Nat) (td : BitVec 4) (ka : Bool) (a : BitVec 7) (kb : Bool) (b : BitVec 7) : List Use :=
  [opdUse ka a.toNat, opdUse kb b.toNat, useT td.toNat true (if op = 0xD9 then 2 else 1) (if op = 0xD9 then 2 else 1)]

def passLate (op : Nat) (td : BitVec 4) (ka : Bool) (a : BitVec 7) (kb : Bool) (b : BitVec 7) : List Use :=
  (passUses op td ka a kb b).filter fun u => u.cls != .scl

/-- The type of operand a (10 R209). -/
def passTypeA (d : Drove) (eta : Bool) : Nat := if eta then modeST d.mode else modeET d.mode

def passChk (op : Nat) (types : Nat → Nat → Bool) (td : BitVec 4) (ka : Bool) (a : BitVec 7) (kb : Bool) (b : BitVec 7) (eta : Bool) (s : State) : Chk :=
  withLate { uses := (passUses op td ka a kb b).filter fun u => u.cls == .scl, noShep := true,
             typ := types (passTypeA s.dr eta) (modeET s.dr.mode), conv := true, bad := (!ka || !kb) && s.dr.width != 64 }
    s.dr (passLate op td ka a kb b)

def passWaits (op : Nat) (td : BitVec 4) (ka : Bool) (a : BitVec 7) (kb : Bool) (b : BitVec 7) (ta et pad : Nat) (s : State) : Verdict :=
  firstOf [passVerdict s (opdAt s.dr ta ka a.toNat) (opdAt s.dr et kb b.toNat),
    verdict { uses := passLate op td ka a kb b } s, waitIf (spadOut s) .returns, waitIf (tableFull s pad) .table]

/-- The reservation that a pass leaves (10 R211). -/
def passOf (op : Nat) (td : BitVec 4) (ka : Bool) (a : BitVec 7) (kb : Bool) (b : BitVec 7) (eta : Bool) (ta et pad : Nat) (s : State) : Pass :=
  { id := s.uid, flock := s.dr.flock, pad := pad, word := BitVec.ofNat 32 (op * 2 ^ 24 + td.toNat * 2 ^ 20 + b2n eta * 8), et := et,
    st := modeST s.dr.mode, regsA := (opdAt s.dr ta ka a.toNat).regs, regsB := (opdAt s.dr et kb b.toNat).regs,
    slabA := (opdAt s.dr ta ka a.toNat).slab, slabB := (opdAt s.dr et kb b.toNat).slab, scaleA := headRecord ta s.fl.fifoA,
    scaleB := headRecord et s.fl.fifoB, prio := s.fl.prio, since := s.cycle, aged := 0, posted := true, granted := false, quad := false, seen := [] }

/-- The flock of a pass at its issue: its records are taken, and its destinations become empty. -/
def passFlock (op : Nat) (td : BitVec 4) (ta et : Nat) (f : Flock) : Flock :=
  let g := markT { f with fifoA := if isBX ta then f.fifoA.tail else f.fifoA, fifoB := if isBX et then f.fifoB.tail else f.fifoB } td.toNat false
  if (if op = 0xD9 then 2 else 1) = 2 then markT g (td.toNat + 1) false else g

def passPosted (op : Nat) (td : BitVec 4) (ka : Bool) (a : BitVec 7) (kb : Bool) (b : BitVec 7) (eta : Bool) (ta et pad : Nat) (s : State) : State :=
  onFl { s with uid := s.uid + 1, eng := { s.eng with passes := s.eng.passes ++ [passOf op td ka a kb b eta ta et pad s] } } (passFlock op td ta et)

theorem passOp_eq : passOp op types td ka a kb b eta s =
    .next (issueIf (passChk op types td ka a kb b eta s) (passWaits op td ka a kb b (passTypeA s.dr eta) (modeET s.dr.mode) (padOf s.dr.core)) s fun t =>
      retire (unpop (passPosted op td ka a kb b eta (passTypeA s.dr eta) (modeET s.dr.mode) (padOf s.dr.core) t) (passLate op td ka a kb b))) := rfl

theorem markT_empty (f : Flock) (n : Nat) : (markT f n false).tfull.getLsbD n = false := by
  by_cases hn : n < 16
  · simp [markT, hn]
  · exact BitVec.getLsbD_of_ge _ _ (Nat.le_of_not_lt hn)

theorem markT_keeps_empty {f : Flock} {n : Nat} (m : Nat) (h : f.tfull.getLsbD n = false) : (markT f m false).tfull.getLsbD n = false := by
  simp [markT, h]

theorem opdAt_recorded (d : Drove) (o : Seen) (t : Nat) (k : Bool) (x : Nat) : opdAt (d.recorded o) t k x = opdAt d t k x := rfl

/-- The word of a reservation names its operand types, its destination and whether it writes a pair (03 R80). -/
theorem passWord (hop : op = 0xD8 ∨ op = 0xD9 ∨ op = 0xDA) :
    (BitVec.ofNat 32 (op * 2 ^ 24 + td.toNat * 2 ^ 20 + b2n eta * 8)).getLsbD 3 = eta ∧
    ((BitVec.ofNat 32 (op * 2 ^ 24 + td.toNat * 2 ^ 20 + b2n eta * 8)).extractLsb' 20 4).toNat = td.toNat ∧
    (((BitVec.ofNat 32 (op * 2 ^ 24 + td.toNat * 2 ^ 20 + b2n eta * 8)).extractLsb' 24 8 == 0xD9) = true ↔ op = 0xD9) := by
  rcases hop with rfl | rfl | rfl <;> revert eta td <;> decide +kernel

theorem passVerdict_go (hr : matrixReady s (passUses op td ka a kb b) = true) (ht : types (passTypeA s.dr eta) (modeET s.dr.mode) = true)
    (hk : ka = true ∧ kb = true ∨ s.dr.width = 64)
    (hv : passVerdict s (opdAt s.dr (passTypeA s.dr eta) ka a.toNat) (opdAt s.dr (modeET s.dr.mode) kb b.toNat) = .go)
    (hs : spadOut s = false) (hf : tableFull s (padOf s.dr.core) = false) :
    verdict (passChk op types td ka a kb b eta s) s = .go ∧
    passWaits op td ka a kb b (passTypeA s.dr eta) (modeET s.dr.mode) (padOf s.dr.core) s = .go := by
  obtain ⟨hshep, hfit, hm, ha⟩ := matrixReady_iff.1 hr
  have hlate : fits s (passLate op td ka a kb b) = true := fits_mono hfit fun u hu => (List.mem_filter.1 hu).1
  have hsrc : fits s ((passUses op td ka a kb b).filter fun u => u.cls == .scl) = true := fits_mono hfit fun u hu => (List.mem_filter.1 hu).1
  have hbad : ((!ka || !kb) && s.dr.width != 64) = false := by
    rcases hk with ⟨rfl, rfl⟩ | h
    · rfl
    · simp [h]
  refine ⟨verdict_go hsrc (by rw [hshep]; rfl) rfl ?_ ?_ ht (.inr ⟨hm, ha⟩) (.inl rfl) (.inl rfl), ?_⟩
  · exact Bool.or_eq_false_iff.2 ⟨hbad, fits_alloc hlate⟩
  · exact Bool.or_eq_false_iff.2 ⟨rfl, fits_align hlate⟩
  · simp only [passWaits, hv, hs, hf, waitIf, firstOf, Bool.false_eq_true, if_false,
      verdict_go (c := { uses := passLate op td ka a kb b }) hlate rfl rfl rfl rfl rfl (.inl rfl) (.inl rfl) (.inl rfl)]

theorem passFlock_empty {ta et : Nat} {f : Flock} : (passFlock op td ta et f).tfull.getLsbD td.toNat = false ∧
    (op = 0xD9 → (passFlock op td ta et f).tfull.getLsbD (td.toNat + 1) = false) := by
  by_cases hop : op = 0xD9
  · simp only [passFlock, hop, if_true]
    exact ⟨markT_keeps_empty _ (markT_empty ..), fun _ => markT_empty ..⟩
  · simp only [passFlock, hop, if_false]
    exact ⟨markT_empty .., fun h => absurd h not_false⟩

theorem passFlock_keeps {ta et : Nat} {f : Flock} : (passFlock op td ta et f).tiles = f.tiles ∧
    (passFlock op td ta et f).fifoA = (if isBX ta then f.fifoA.tail else f.fifoA) ∧
    (passFlock op td ta et f).fifoB = (if isBX et then f.fifoB.tail else f.fifoB) := by
  by_cases hop : op = 0xD9 <;> simp [passFlock, hop, markT]

theorem passOp_issues {i : Instr} {n : Nat} (he : exec i s = passOp op types td ka a kb b eta s)
    (hn : n = if op = 0xD9 then 2 else 1) (hr : matrixReady s [opdUse ka a.toNat, opdUse kb b.toNat, useT td.toNat true n n] = true)
    (ht : types (passTypeA s.dr eta) (modeET s.dr.mode) = true) (hk : ka = true ∧ kb = true ∨ s.dr.width = 64)
    (hv : passVerdict s (opdAt s.dr (passTypeA s.dr eta) ka a.toNat) (opdAt s.dr (modeET s.dr.mode) kb b.toNat) = .go)
    (hs : spadOut s = false) (hf : tableFull s (padOf s.dr.core) = false) :
    ∃ u t, Recorded s u ∧ exec i s = .next t ∧
      Retires s (passPosted op td ka a kb b eta (passTypeA s.dr eta) (modeET s.dr.mode) (padOf s.dr.core) u) t := by
  subst hn
  obtain ⟨hgo, hw⟩ := passVerdict_go (op := op) (td := td) hr ht hk hv hs hf
  have hu := issued_recorded (canGo (passChk op types td ka a kb b eta s)
    (passWaits op td ka a kb b (passTypeA s.dr eta) (modeET s.dr.mode) (padOf s.dr.core)) s) s
    (passChk op types td ka a kb b eta s).uses (passChk op types td ka a kb b eta s).slots
  obtain ⟨o, hd⟩ := hu.dr
  exact ⟨_, _, hu, he.trans (passOp_eq.trans (congrArg _ (issueIf_go _ hgo hw))), (unpop_recorded _ _).retire.retires hd⟩

end

/-- Settles O46: the three pass instructions are `passOp`, each with its opcode and types. -/
theorem passIssue : Obligations.PassIssue := by
  intro s td ka kb eta a b p hp
  have he : (p.2.1 = 0xD8 ∨ p.2.1 = 0xD9 ∨ p.2.1 = 0xDA) ∧ p.2.2.1 = (if p.2.1 = 0xD9 then 2 else 1) ∧
      exec (p.1 td ka a kb b eta) s = passOp p.2.1 p.2.2.2 td ka a kb b eta s := by
    simp only [List.mem_cons, List.not_mem_nil, or_false] at hp
    rcases hp with rfl | rfl | rfl
    · exact ⟨.inl rfl, rfl, rfl⟩
    · exact ⟨.inr (.inl rfl), rfl, rfl⟩
    · exact ⟨.inr (.inr rfl), rfl, rfl⟩
  obtain ⟨hop, hn, he⟩ := he
  intro et ta oa ob hr ht hk hv hs hf
  obtain ⟨u, t, hu, he, hpc, ⟨hregs, hvec⟩, ⟨n, hfl⟩, hmem, hreqs, heng⟩ := passOp_issues he hn hr ht hk hv hs hf
  obtain ⟨o, hd⟩ := hu.dr
  obtain ⟨m, hufl⟩ := hu.fl
  obtain ⟨hmem', -, -, hreqs', -, -, hcyc, -, heng', -⟩ := hu.rest
  obtain ⟨hbit, htd, hpair⟩ := passWord (td := td) (eta := eta) hop
  obtain ⟨hdst, hdst'⟩ := passFlock_empty (op := p.2.1) (td := td) (ta := ta) (et := et) (f := u.fl)
  obtain ⟨htile, hfa, hfb⟩ := passFlock_keeps (op := p.2.1) (td := td) (ta := ta) (et := et) (f := u.fl)
  refine ⟨t, passOf p.2.1 td ka a kb b eta ta et (padOf s.dr.core) u, he, ?_, ?_, rfl, htd, hpair, ?_, ?_, rfl, ?_, hcyc, ?_, rfl, ?_, ?_,
    ?_, ?_, hpc, hregs, hvec, hmem.trans hmem', hreqs.trans hreqs'⟩
  · rw [heng]
    exact congrArg (fun e : Engines => e.passes ++ [passOf p.2.1 td ka a kb b eta ta et (padOf s.dr.core) u]) heng'
  · simp [passOf, hd, Drove.recorded]
  · simp only [Pass.opdA, passOf, passTypes, hbit, hd, hufl, opdAt_recorded]
    rfl
  · simp only [Pass.opdB, passOf, passTypes, hd, hufl, opdAt_recorded]
    rfl
  · simp [passOf, hufl]
  · rw [hfl]; exact htile.trans (by rw [hufl])
  · rw [hfl]; exact hdst
  · rw [hfl]; exact hdst'
  · rw [hfl]; exact hfa.trans (by rw [hufl])
  · rw [hfl]; exact hfb.trans (by rw [hufl])

end Sys2Proof.Machine

namespace Sys2Proof.Machine

set_option Elab.async false

/-! PROOFS. Tile operations at their issue (10 R217, R220-R225). -/

theorem Recorded.onFl {s t : State} (h : Recorded s t) {f : Flock → Flock}
    (hf : ∀ g n, f { g with lastIssue := n } = { f g with lastIssue := n }) : Recorded (onFl s f) (onFl t f) := by
  obtain ⟨o, li, fr, ds, ln, ts, du, hd, rfl⟩ := h
  refine ⟨o, li, fr, ds, ln, ts, du, hd, ?_⟩
  simp only [Machine.onFl]
  rw [hf]

theorem tileAt_lastIssue (f : Flock) (n t i j : Nat) : tileAt { f with lastIssue := n } t i j = tileAt f t i j := rfl

/-- The destinations of a tile operation become empty. -/
theorem foldl_markT_lastIssue (ls : List Nat) (td n : Nat) (f : Flock) :
    ls.foldl (fun f i => markT f (td + i) false) { f with lastIssue := n } =
      { ls.foldl (fun f i => markT f (td + i) false) f with lastIssue := n } := by
  induction ls generalizing f with
  | nil => rfl
  | cons i ls ih => exact ih (markT f (td + i) false)

theorem Recorded.startTile {s t : State} (h : Recorded s t) (op td ta sub n : Nat) :
    Recorded (startTile s op td ta sub n) (startTile t op td ta sub n) := by
  obtain ⟨o, li, fr, ds, ln, ts, du, hd, rfl⟩ := h
  refine ⟨o, li, fr, ds, ln, ts, du, hd, ?_⟩
  simp only [Machine.startTile, Machine.onFl, newId]
  rw [foldl_markT_lastIssue]
  rfl

theorem Recorded.tileAt {s t : State} (h : Recorded s t) (n i j : Nat) : tileAt t.fl n i j = tileAt s.fl n i j := by
  obtain ⟨m, hf⟩ := h.fl
  rw [hf, tileAt_lastIssue]

theorem Recorded.tileAccs {s t : State} (h : Recorded s t) (n : Nat) (data : Nat → Nat → Nat → Nat) : tileAccs t n data = tileAccs s n data := by
  obtain ⟨o, hd⟩ := h.dr
  have hr : rowAccs t.dr n = rowAccs s.dr n := by simp only [rowAccs, h.sreg]
  simp only [Machine.tileAccs, h.sreg, hr, h.accFresh, h.domainOf]

theorem Recorded.corrList {s t : State} (h : Recorded s t) (base n : Nat) : corrList t base n = corrList s base n := by
  obtain ⟨o, hd⟩ := h.dr
  obtain ⟨hm, -⟩ := h.rest
  simp only [Machine.corrList, hm, hd]
  rfl

section
variable {s : State} {us : List Use} {td n : Nat} {i : Instr} {run : State → State}

theorem tileChk_go {typ : Bool} (hr : matrixReady s (us ++ destTiles s td n) = true) (hn : td + n ≤ s.dr.ntiles) (ho : td % n = 0) (ht : typ = true) :
    verdict (tileChk s us td n typ) s = .go := by
  obtain ⟨hshep, hfit, hm, ha⟩ := matrixReady_iff.1 hr
  exact verdict_go hfit (by rw [hshep]; rfl) rfl (decide_eq_false (by omega)) (by simp [tileChk, ho]) ht (.inr ⟨hm, ha⟩) (.inl rfl) (.inl rfl)

/-- A tile operation without further checks goes. -/
theorem tileOp_takes {typ : Bool} (he : exec i s = .next (issue (tileChk s us td n typ) s run))
    (hr : matrixReady s (us ++ destTiles s td n) = true) (hn : td + n ≤ s.dr.ntiles) (ho : td % n = 0) (ht : typ = true) :
    Takes i s (us ++ destTiles s td n) run :=
  takes_of_go (c := tileChk s us td n typ) (dyn := fun _ => .go) he rfl (tileChk_go hr hn ho ht) rfl

/-- The checks of the tile instructions that name no destination tile. -/
theorem matrix_go (hr : matrixReady s us = true) : verdict { uses := us, noShep := true, conv := true } s = .go := by
  obtain ⟨hshep, hfit, hm, ha⟩ := matrixReady_iff.1 hr
  exact verdict_go hfit (by rw [hshep]; rfl) rfl rfl rfl rfl (.inr ⟨hm, ha⟩) (.inl rfl) (.inl rfl)

end

section
variable {s : State} {t u : BitVec 4} {p v : BitVec 7} {n m r i : BitVec 6} {rc : Bool}

theorem tld_takes (hn : t.toNat < s.dr.ntiles)
    (hr : matrixReady s ([{ cls := .scl, base := n.toNat, n := 2, align := 2 }] ++ destTiles s t.toNat 1) = true)
    (ha : acqPending s = false) (hv : rowVerdict n.toNat s = .go) :
    Takes (.tld t n) s ([{ cls := .scl, base := n.toNat, n := 2, align := 2 }] ++ destTiles s t.toNat 1) fun x =>
      let q := { Req.fresh x (.tld t.toNat (rowPol (sreg s.dr (n.toNat + 1)))) 4 (tileAccs x n.toNat fun _ _ _ => 0) with dst := t.toNat }
      retire (onFl (post x q) fun f => { markT f t.toNat false with tileOwner := f.tileOwner ++ [(t.toNat, q.id)] }) := by
  have hgo : firstOf [memWait s, rowVerdict n.toNat s] = .go := by rw [memWait_go ha, hv]; rfl
  obtain ⟨fit, he⟩ := takes_of_go (i := .tld t n) rfl rfl (tileChk_go hr hn (Nat.mod_one _) rfl) hgo
  have hreg := (issued_recorded fit s ([{ cls := .scl, base := n.toNat, n := 2, align := 2 }] ++ destTiles s t.toNat 1) 1).sreg
  refine ⟨fit, he.trans (congrArg _ ?_)⟩
  simp only [← hreg]
  rfl

/-- The rows of a `tst` synchronise (19 R406). -/
def tstSync (n : Nat) (s : State) : Bool :=
  s.dr.det && (!rowSpace (sreg s.dr (n + 1)) && (rowAccs s.dr n).any fun x => syncStore s (rowPol (sreg s.dr (n + 1))) x.2.1)

theorem Recorded.tstSync {s t : State} (h : Recorded s t) (n : Nat) : tstSync n t = tstSync n s := by
  obtain ⟨o, hd⟩ := h.dr
  have hr : rowAccs t.dr n = rowAccs s.dr n := by simp only [rowAccs, h.sreg]
  have hdet : t.dr.det = s.dr.det := by rw [hd]; rfl
  simp only [Machine.tstSync, h.sreg, hr, syncStore_recorded h, hdet]

theorem tst_leaves (hr : matrixReady s [{ cls := .scl, base := n.toNat, n := 2, align := 2 }, useT t.toNat] = true)
    (ha : acqPending s = false) (hv : rowVerdict n.toNat s = .go) (hb : sbcnt s s.dr.uid < 16) (hs : tstSync n.toNat s = false ∨ s.dr.turn = true) :
    Leaves (.tst t n) s (postStore (startTile s 4 t.toNat 0 0 1)
      { Req.fresh s (.tst t.toNat (rowPol (sreg s.dr (n.toNat + 1)))) 4 (tileAccs s n.toNat fun i o m => rowBytes s.fl t.toNat i o m) with
        dst := t.toNat, id := s.uid + 1 } (tstSync n.toNat s)) := by
  have ht : turnWait s (tstSync n.toNat s) = .go := by
    rcases hs with h | h <;> simp [turnWait, waitIf, h]
  have hgo : firstOf [memWait s, rowVerdict n.toNat s, entryWait s, turnWait s (tstSync n.toNat s)] = .go := by
    rw [memWait_go ha, hv, entryWait_go hb, ht]
    rfl
  refine leaves_of_go (i := .tst t n) rfl (matrix_go hr) hgo fun x hx => ?_
  have hu : x.uid = s.uid := hx.rest.2.2.2.2.1
  have hrow : (fun i o m => rowBytes x.fl t.toNat i o m) = fun i o m => rowBytes s.fl t.toNat i o m := by
    funext i o m
    simp only [rowBytes, hx.tileAt]
  have hacc := hx.tileAccs n.toNat fun i o m => rowBytes s.fl t.toNat i o m
  refine Eq.subst (motive := Recorded _) ?_ ((hx.startTile 4 t.toNat 0 0 1).postStore
    { Req.fresh s (.tst t.toNat (rowPol (sreg s.dr (n.toNat + 1)))) 4 (tileAccs s n.toNat fun i o m => rowBytes s.fl t.toNat i o m) with
      dst := t.toNat, id := s.uid + 1 } (tstSync n.toNat s))
  rw [← hx.reqFresh, ← hx.tstSync n.toNat, ← hacc, ← hrow, ← hx.sreg, ← hu]
  rfl

theorem setVm_recorded (d : Drove) (o : Seen) (n : Nat) (act : W64) (f : Nat → W32) :
    setVm (d.recorded o) n act f = (setVm d n act f).recorded o := by
  simp only [setVm, setV, vlane, vreg, Drove.recorded]

/-- The word of a tile that a `trd` gives lane `j` (10 R223). -/
def trdWord (f : Flock) (t : Nat) (rc : Bool) (x j : Nat) : W32 := if rc then tileAt f t j x else tileAt f t x j

theorem trdWord_recorded {s y : State} (h : Recorded s y) (t : Nat) (rc : Bool) (r i : Nat) :
    (fun j => tileAt y.fl t (slicePlace y.dr rc r i j).1 (slicePlace y.dr rc r i j).2) =
      trdWord s.fl t rc (((sreg s.dr r).toNat + i) % 128) := by
  funext j
  rw [h.tileAt, slicePlace, h.sreg]
  cases rc <;> rfl

theorem trd_does (hr : matrixReady s [srcS r.toNat, useT t.toNat, dstV v.toNat] = true) : Leaves (.trd t rc r i v) s
    (retire (onDr s fun d => setVm d v.toNat d.pres (trdWord s.fl t.toNat rc (((sreg s.dr r.toNat).toNat + i.toNat) % 128)))) := by
  refine leaves_of_go (i := .trd t rc r i v) (dyn := fun _ => .go)
    (run := fun s => retire (onDr s fun d => setVm d v.toNat d.pres fun j =>
      tileAt s.fl t.toNat (slicePlace d rc r.toNat i.toNat j).1 (slicePlace d rc r.toNat i.toNat j).2))
    rfl (matrix_go hr) rfl fun y hy => ?_
  have hw := trdWord_recorded hy t.toNat rc r.toNat i.toNat
  simp only [onDr, hw]
  exact (hy.onDr (f := fun d => setVm d v.toNat d.pres (trdWord s.fl t.toNat rc (((sreg s.dr r.toNat).toNat + i.toNat) % 128)))
    fun d o => setVm_recorded ..).retire

/-- The slice that a `twr` writes, element by element. -/
def twrPut (t : Nat) (rc : Bool) (d : Drove) (x v : Nat) (f : Flock) (j : Nat) : Flock :=
  if d.pres.getLsbD j then if rc then tilePut f t j x (vlane d v j) else tilePut f t x j (vlane d v j) else f

theorem foldl_twrPut_lastIssue (t : Nat) (rc : Bool) (d : Drove) (x v n : Nat) (js : List Nat) (f : Flock) :
    js.foldl (twrPut t rc d x v) { f with lastIssue := n } = { js.foldl (twrPut t rc d x v) f with lastIssue := n } := by
  induction js generalizing f with
  | nil => rfl
  | cons j js ih =>
    have h : twrPut t rc d x v { f with lastIssue := n } j = { twrPut t rc d x v f j with lastIssue := n } := by
      simp only [twrPut]
      split
      · split <;> rfl
      · rfl
    rw [List.foldl_cons, h]
    exact ih _

theorem twr_leaves (hr : matrixReady s [srcS r.toNat, useT t.toNat true, srcV v.toNat] = true) :
    Leaves (.twr t rc r i v) s (retire (onFl s fun f =>
      (List.range 64).foldl (twrPut t.toNat rc s.dr (((sreg s.dr r.toNat).toNat + i.toNat) % 128) v.toNat) f)) := by
  refine leaves_of_go (i := .twr t rc r i v) (dyn := fun _ => .go) rfl (matrix_go hr) rfl fun x hx => ?_
  obtain ⟨o, hd⟩ := hx.dr
  refine Eq.subst (motive := Recorded _) ?_ (hx.onFl (f := fun f =>
    (List.range 64).foldl (twrPut t.toNat rc s.dr (((sreg s.dr r.toNat).toNat + i.toNat) % 128) v.toNat) f)
    fun g n => foldl_twrPut_lastIssue ..).retire
  have hput : twrPut t.toNat rc s.dr (((sreg s.dr r.toNat).toNat + i.toNat) % 128) v.toNat = fun f j =>
      if x.dr.pres.getLsbD j then
        tilePut f t.toNat (slicePlace x.dr rc r.toNat i.toNat j).1 (slicePlace x.dr rc r.toNat i.toNat j).2 (vlane x.dr v.toNat j)
      else f := by
    funext f j
    rw [twrPut, slicePlace, hx.sreg, hd]
    cases rc <;> rfl
  rw [hput]
  rfl

/-- A scale record joins its queue (10 R216, R217). -/
def addScale (rc : Bool) (x : ScaleRec) (f : Flock) : Flock :=
  if rc then { f with fifoB := f.fifoB ++ [x] } else { f with fifoA := f.fifoA ++ [x] }

theorem tscl_leaves {nb cnt : Nat} (hnb : (sreg s.dr (n.toNat + 1)).toNat = nb) (hcnt : (sreg s.dr (m.toNat + 1)).toNat = cnt)
    (hr : matrixReady s [{ cls := .scl, base := n.toNat, n := 2, align := 2 }, { cls := .scl, base := m.toNat, n := 2, align := 2 }] = true)
    (h1 : 1 ≤ nb) (h256 : nb ≤ 256) (h64 : cnt ≤ 64) (hb : (sreg s.dr n.toNat).toNat % 8 = 0) (hl : (sreg s.dr m.toNat).toNat % 8 = 0)
    (hg : inGrant s.dr (sreg s.dr n.toNat).toNat (1024 * nb) = true)
    (hgl : cnt = 0 ∨ inGrant s.dr (sreg s.dr m.toNat).toNat (8 * cnt) = true) (ho : cnt = 0 ∨ spadOut s = false)
    (hc : corrOk (corrList s (sreg s.dr m.toNat).toNat cnt) = true) (h4 : (if rc then s.fl.fifoB else s.fl.fifoA).length < 4) :
    Leaves (.tscl rc n m) s (retire (onFl s (addScale rc
      { base := sreg s.dr n.toNat, nblk := nb, corr := corrList s (sreg s.dr m.toNat).toNat cnt }))) := by
  subst hnb hcnt
  refine leaves_of_go (i := .tscl rc n m) rfl (matrix_go hr) ?_ fun x hx => ?_
  · have hz : bits (sreg s.dr (n.toNat + 1)).toNat 63 9 = 0 := by simp only [bits]; omega
    have hz' : bits (sreg s.dr (m.toNat + 1)).toNat 63 16 = 0 := by simp only [bits]; omega
    have hgl' : ((sreg s.dr (m.toNat + 1)).toNat != 0 && !inGrant s.dr (sreg s.dr m.toNat).toNat (8 * (sreg s.dr (m.toNat + 1)).toNat)) = false := by
      rcases hgl with h | h <;> simp [h]
    have ho' : ((sreg s.dr (m.toNat + 1)).toNat != 0 && spadOut s) = false := by
      rcases ho with h | h <;> simp [h]
    have hne : ((sreg s.dr (n.toNat + 1)).toNat == 0) = false := by simpa using Nat.ne_of_gt h1
    simp only [stopIf, waitIf, hz, hz', hgl', ho', hne, hg, hb, hl, hc, decide_eq_false (Nat.not_lt.2 h256), decide_eq_false (Nat.not_lt.2 h64),
      decide_eq_false (Nat.not_le.2 h4)]
    rfl
  · refine Eq.subst (motive := Recorded _) ?_ (hx.onFl (f := addScale rc
      { base := sreg s.dr n.toNat, nblk := (sreg s.dr (n.toNat + 1)).toNat, corr := corrList s (sreg s.dr m.toNat).toNat (sreg s.dr (m.toNat + 1)).toNat })
      fun g k => by cases rc <;> rfl).retire
    rw [← hx.corrList, ← hx.sreg, ← hx.sreg, ← hx.sreg, ← hx.sreg]
    rfl

end

/-- Settles O47: the tile instructions share their checks (`tileChk_go`, `matrix_go`), and each runs as its row says. -/
theorem tileIssue : Obligations.TileIssue := by
  intro s t u p v n m r i rc ty et pair k x row base nb list cnt
  refine ⟨fun hn => ⟨fun hr => tileOp_takes rfl hr hn (Nat.mod_one _) rfl,
      fun hr => ⟨tileOp_takes rfl hr hn (Nat.mod_one _) rfl, fun hst het => tileOp_takes rfl hr hn (Nat.mod_one _) ?_⟩,
      fun hp het hr => ?_, fun hr ha hv => tld_takes hn hr ha hv⟩,
    fun hn ht het hr => tileOp_takes (i := .tfold t u 0) rfl hr hn ht (beq_iff_eq.2 het),
    fun hr ha hv hb hs => tst_leaves hr ha hv hb hs, fun hr => trd_does hr, fun hr => twr_leaves hr,
    fun hr h1 h256 h64 hb hl hg hgl ho hc h4 => tscl_leaves rfl rfl hr h1 h256 h64 hb hl hg hgl ho hc h4⟩
  · exact Bool.and_eq_true_iff.2 ⟨hst, het⟩
  · have he : exec (.tfold t u p) s = .next (issue (tileChk s [useT u.toNat false 2 2] t.toNat 1 (modeET s.dr.mode == 0)) s
        fun s => retire (startTile s 3 t.toNat u.toNat p.toNat 1)) := by
      change execTfold t u p s = _
      simp only [execTfold, if_neg hp]
    exact tileOp_takes he hr hn (Nat.mod_one _) (beq_iff_eq.2 het)

end Sys2Proof.Machine

namespace Sys2Proof.Machine

set_option Elab.async false

/-! PROOFS. The matrix engine (10 R208, R211-R215, R221-R226, 16 R356, R357). -/

section
variable {α : Type} {d : α}

theorem mapGet_append_left {m n : List (Nat × α)} {a : Nat} (h : ∀ x ∈ n, x.1 ≠ a) : mapGet d (m ++ n) a = mapGet d m a := by
  induction m with
  | nil =>
    induction n with
    | nil => rfl
    | cons x n ih =>
      exact (if_neg (h x (List.mem_cons_self ..))).trans (ih fun y hy => h y (List.mem_cons_of_mem _ hy))
  | cons x m ih => simp only [List.cons_append, mapGet, ih]

theorem mapGet_append_right {m n : List (Nat × α)} {a : Nat} (h : ∀ x ∈ m, x.1 ≠ a) : mapGet d (m ++ n) a = mapGet d n a := by
  induction m with
  | nil => rfl
  | cons x m ih => exact (if_neg (h x (List.mem_cons_self ..))).trans (ih fun y hy => h y (List.mem_cons_of_mem _ hy))

theorem mapGet_filter {m : List (Nat × α)} {a : Nat} {p : Nat → Bool} (h : p a = true) :
    mapGet d (m.filter fun x => p x.1) a = mapGet d m a := by
  induction m with
  | nil => rfl
  | cons x m ih =>
    obtain ⟨k, y⟩ := x
    by_cases hk : k = a
    · simp [hk, h, mapGet]
    · cases hp : p k <;> simp [hp, mapGet, hk, ih]

/-- The listed places of a function on a range hold its values. -/
theorem mapGet_filterMap {g : Nat → W32} {lo n k : Nat} (hk : k < n) :
    mapGet 0 ((List.range n).filterMap fun k => if g k = 0 then none else some (lo + k, g k)) (lo + k) = g k := by
  induction n with
  | zero => exact absurd hk (Nat.not_lt_zero _)
  | succ n ih =>
    rw [List.range_succ, List.filterMap_append]
    by_cases hn : k = n
    · subst hn
      rw [mapGet_append_right]
      · by_cases h0 : g k = 0
        · simp only [List.filterMap_cons, List.filterMap_nil, h0, if_true, mapGet]
        · simp only [List.filterMap_cons, List.filterMap_nil, if_neg h0, mapGet, if_true]
      · intro x hx
        obtain ⟨j, hj, he⟩ := List.mem_filterMap.1 hx
        split at he
        · exact absurd he (by simp)
        · obtain rfl := Option.some.inj he
          have := List.mem_range.1 hj
          simp only
          omega
    · rw [mapGet_append_left]
      · exact ih (by omega)
      · intro x hx
        obtain ⟨j, hj, he⟩ := List.mem_filterMap.1 hx
        split at he
        · exact absurd he (by simp)
        · obtain rfl := Option.some.inj he
          have := List.mem_singleton.1 hj
          simp only
          omega

end

section
variable {f : Flock} {g : Nat → W32} {t u i j : Nat}

theorem tileFill_keys {x : Nat × W32} {n : Nat}
    (hx : x ∈ (List.range 16384).filterMap fun k => if g k = 0 then none else some (n + k, g k)) : n ≤ x.1 ∧ x.1 < n + 16384 := by
  obtain ⟨k, hk, he⟩ := List.mem_filterMap.1 hx
  split at he
  · exact absurd he (by simp)
  · obtain rfl := Option.some.inj he
    have := List.mem_range.1 hk
    simp only
    omega

theorem tileAt_tileFill (hi : i < 128) (hj : j < 128) : tileAt (tileFill f t g) t i j = g (128 * i + j) := by
  rw [tileAt, tileFill, List.append_assoc, mapGet_append_right, mapGet_append_left, Nat.add_assoc, mapGet_filterMap (by omega)]
  · intro x hx
    have := decide_eq_true_iff.1 (List.mem_filter.1 hx).2
    omega
  · intro x hx
    have := decide_eq_true_iff.1 (List.mem_filter.1 hx).2
    omega

theorem tileAt_tileFill_ne (h : u ≠ t) (hi : i < 128) (hj : j < 128) : tileAt (tileFill f t g) u i j = tileAt f u i j := by
  rw [tileAt, tileFill, tileAt]
  by_cases hlt : u < t
  · rw [mapGet_append_left, mapGet_append_left, mapGet_filter (p := fun a => decide (a < 16384 * t)) (decide_eq_true (by omega))]
    · intro x hx
      have := tileFill_keys hx
      omega
    · intro x hx
      have := decide_eq_true_iff.1 (List.mem_filter.1 hx).2
      omega
  · rw [mapGet_append_right, mapGet_filter (p := fun a => decide (16384 * t + 16384 ≤ a)) (decide_eq_true (by omega))]
    intro x hx
    rcases List.mem_append.1 hx with hx | hx
    · have := decide_eq_true_iff.1 (List.mem_filter.1 hx).2
      omega
    · have := tileFill_keys hx
      omega

theorem tileAt_markT (b : Bool) (n : Nat) : tileAt (markT f n b) t i j = tileAt f t i j := rfl

end

section
variable {p : Pass} {m : Nat → Memory} {f : Flock} {i j : Nat}

theorem place_row (hj : j < 128) : (128 * i + j) / 128 = i ∧ (128 * i + j) % 128 = j := by omega

/-- Element (i, j) of a pass (10 R214, R215). -/
def passAt (p : Pass) (m : Nat → Memory) (f : Flock) (k : Nat) : W32 × W32 :=
  passElem p.opdA p.opdB (m k) (spadBase p.pad) (if p.quad then 4 else 16) (tileAt f p.td (k / 128) (k % 128))
    (if p.pair then tileAt f (p.td + 1) (k / 128) (k % 128) else 0) (k / 128) (k % 128)

theorem passTiles_eq : passTiles p m f =
    if p.pair then markT (tileFill (markT (tileFill f p.td fun k => (passAt p m f k).1) p.td true) (p.td + 1) fun k => (passAt p m f k).2) (p.td + 1) true
    else markT (tileFill f p.td fun k => (passAt p m f k).1) p.td true := rfl

theorem passTiles_main (hi : i < 128) (hj : j < 128) : tileAt (passTiles p m f) p.td i j = (passAt p m f (128 * i + j)).1 := by
  rw [passTiles_eq]
  split
  · rw [tileAt_markT, tileAt_tileFill_ne (Nat.ne_of_lt (Nat.lt_succ_self _)) hi hj, tileAt_markT, tileAt_tileFill hi hj]
  · rw [tileAt_markT, tileAt_tileFill hi hj]

theorem passTiles_residual (hp : p.pair = true) (hi : i < 128) (hj : j < 128) :
    tileAt (passTiles p m f) (p.td + 1) i j = (passAt p m f (128 * i + j)).2 := by
  rw [passTiles_eq, if_pos hp, tileAt_markT, tileAt_tileFill hi hj]

theorem passTiles_other {t : Nat} (ht : t ≠ p.td) (hp : p.pair = true → t ≠ p.td + 1) (hi : i < 128) (hj : j < 128) :
    tileAt (passTiles p m f) t i j = tileAt f t i j := by
  rw [passTiles_eq]
  split
  next h => rw [tileAt_markT, tileAt_tileFill_ne (hp h) hi hj, tileAt_markT, tileAt_tileFill_ne ht hi hj]
  next => rw [tileAt_markT, tileAt_tileFill_ne ht hi hj]

end

section
variable {x : TileOp} {f : Flock} {t i j : Nat}

/-- A tile operation completes on a tile: its elements are written, and it is full and owned (10 R220). -/
def tileDone (f : Flock) (t : Nat) (g : Nat → W32) : Flock :=
  { markT (tileFill f t g) t true with torphan := (tileFill f t g).torphan &&& ~~~(1#16 <<< t) }

theorem tileAt_tileDone {g : Nat → W32} (hi : i < 128) (hj : j < 128) : tileAt (tileDone f t g) t i j = g (128 * i + j) :=
  tileAt_tileFill hi hj

theorem tileAt_tileDone_ne {g : Nat → W32} {u : Nat} (h : u ≠ t) (hi : i < 128) (hj : j < 128) :
    tileAt (tileDone f t g) u i j = tileAt f u i j :=
  tileAt_tileFill_ne h hi hj

/-- Word `k` of source tile `t` of a tile operation. -/
def tileSrc (x : TileOp) (t k : Nat) : W32 := mapGet 0 x.data (16384 * t + k)

/-- The word that a `tmov` puts at place `k` (10 R223). -/
def tmovWord (x : TileOp) (k : Nat) : W32 :=
  match x.sub with
  | 0 => tileSrc x 0 k
  | 1 => tileSrc x 0 (128 * (k % 128) + k / 128)
  | 2 => tileSrc x 0 (128 * (k / 128) + (k % 128 + 64) % 128)
  | _ => tileSrc x 0 (128 * ((k / 128 + 64) % 128) + k % 128)

theorem tileApply_zero (h : x.op = 0) : tileApply x f = tileDone f x.td fun _ => 0 := by
  simp only [tileApply, h]
  rfl

theorem tileApply_mov (h : x.op = 1) : tileApply x f = tileDone f x.td (tmovWord x) := by
  simp only [tileApply, h]
  rfl

theorem tileApply_cvt (h : x.op = 2) : tileApply x f = tileDone f x.td fun k => tcvtWord x.mode (tileSrc x 0 k) := by
  simp only [tileApply, h]
  rfl

theorem tileApply_fold (h : x.op = 3) : tileApply x f =
    if x.sub = 0 then
      tileDone (tileDone f x.td fun k => (foldWords (tileSrc x 0 k) (tileSrc x 1 k)).1) (x.td + 1)
        fun k => (foldWords (tileSrc x 0 k) (tileSrc x 1 k)).2
    else tileDone f x.td fun k => (foldWords (tileSrc x 0 k) (tileSrc x 1 k)).1 := by
  simp only [tileApply, h]
  rfl

theorem tileApply_else (h : 4 ≤ x.op) : tileApply x f = markT f x.td true := by
  unfold tileApply
  split
  case h_5 => rfl
  all_goals omega

theorem tileApply_fold_first (h : x.op = 3) (hi : i < 128) (hj : j < 128) :
    tileAt (tileApply x f) x.td i j = (foldWords (tileSrc x 0 (128 * i + j)) (tileSrc x 1 (128 * i + j))).1 := by
  rw [tileApply_fold h]
  split
  · rw [tileAt_tileDone_ne (Nat.ne_of_lt (Nat.lt_succ_self _)) hi hj, tileAt_tileDone hi hj]
  · rw [tileAt_tileDone hi hj]

theorem tileApply_other (ht : t ≠ x.td) (h3 : x.op = 3 → x.sub = 0 → t ≠ x.td + 1) (hi : i < 128) (hj : j < 128) :
    tileAt (tileApply x f) t i j = tileAt f t i j := by
  rcases Nat.lt_or_ge x.op 4 with h | h
  · have hop : x.op = 0 ∨ x.op = 1 ∨ x.op = 2 ∨ x.op = 3 := by omega
    rcases hop with hop | hop | hop | hop
    · rw [tileApply_zero hop, tileAt_tileDone_ne ht hi hj]
    · rw [tileApply_mov hop, tileAt_tileDone_ne ht hi hj]
    · rw [tileApply_cvt hop, tileAt_tileDone_ne ht hi hj]
    · rw [tileApply_fold hop]
      split
      next hs => rw [tileAt_tileDone_ne (h3 hop hs) hi hj, tileAt_tileDone_ne ht hi hj]
      next => rw [tileAt_tileDone_ne ht hi hj]
  · rw [tileApply_else h, tileAt_markT]

end

/-- The state with other passes. -/
def State.withPasses (s : State) (ps : List Pass) : State := { s with eng := { s.eng with passes := ps } }

section
variable {s : State} {pad k : Nat} {p : Pass}

theorem matrixGrant_first (h : (waitingPasses s pad).find? (fun p => p.id == k) = some p)
    (hn : (runningPasses s pad).length < (if s.eng.mxmode.getLsbD pad then 4 else 1))
    (hb : ∀ q ∈ waitingPasses s pad, q.id ≠ k → grantBefore s.cycle q p = false) :
    exec (.matrixGrant pad k) s = .next (s.withPasses
      (mapIf (fun q => q.id == k) (fun q => { q with granted := true, quad := s.eng.mxmode.getLsbD pad }) s.eng.passes)) := by
  change execMatrixGrant pad k s = _
  have hany : ((waitingPasses s pad).any fun q => q.id != k && grantBefore s.cycle q p) = false := by
    simp only [List.any_eq_false, Bool.and_eq_true, bne_iff_ne, not_and, Bool.not_eq_true]
    exact hb
  simp only [execMatrixGrant, h, hany, Bool.false_eq_true, or_false, if_neg (Nat.not_le.2 hn), State.withPasses]

theorem matrixGrant_posts (h : (waitingPasses s pad).find? (fun p => p.id == k) = none) (hp : nextPosted s pad = some p) (hk : p.id = k)
    (hf : tableFull s pad = false) :
    exec (.matrixGrant pad k) s = .next (s.withPasses
      (mapIf (fun q => q.id == k) (fun q => { q with posted := true, since := s.cycle }) s.eng.passes)) := by
  subst hk
  change execMatrixGrant pad p.id s = _
  simp only [execMatrixGrant, h, postPass, hp, hf, ne_eq, not_true_eq_false, Bool.false_eq_true, or_self, if_false, State.withPasses]

theorem reservationAging_marks : exec (.reservationAging pad k) s = .next (s.withPasses (s.eng.passes.map fun p =>
    if p.pad = pad ∧ p.id = k ∧ p.granted = false then
      { p with aged := max p.aged (if 4096 ≤ s.cycle - p.since then 2 else if 1024 ≤ s.cycle - p.since then 1 else 0) }
    else p)) := by
  change execReservationAging pad k s = _
  simp only [execReservationAging, mapIf, Bool.and_eq_true, beq_iff_eq, Bool.not_eq_true', and_assoc, State.withPasses]

theorem mxmodeApply_applies (hp : s.eng.mxpend.getLsbD pad = true) (hd : detOnPad s pad = false) (he : tableEmpty s pad = true) (h16 : pad < 16) :
    ∃ t, exec (.mxmodeApply pad) s = .next t ∧ t.eng.mxmode.getLsbD pad = s.eng.mxreq.getLsbD pad ∧ t.eng.mxpend.getLsbD pad = false := by
  let m : BitVec 16 := 1#16 <<< pad
  refine ⟨{ s with eng := { s.eng with mxmode := (s.eng.mxmode &&& ~~~m) ||| (s.eng.mxreq &&& m), mxpend := s.eng.mxpend &&& ~~~m } }, ?_, ?_, ?_⟩
  · change execMxmodeApply pad s = _
    simp only [execMxmodeApply, hp, hd, he]
    rfl
  · simp [m, h16]
  · simp [m, h16]

theorem passView_seenless (h : p.seen = []) (m : Memory) (free e : Nat) : passView (p.open m) free m e = m := by
  simp [passView, Pass.open, h]

theorem passComplete_finishes (h : (runningPasses s pad).find? (fun p => p.id == k) = some p) :
    let m := passView (p.open s.mem.spad) s.fresh s.mem.spad
    let n := p.opdA.escapes (m 0) (spadBase pad) + p.opdB.escapes (m 0) (spadBase pad)
    let t := (List.range n).foldl (fun s _ => countLane16 s 0x8D (pad / 4)) { s with fresh := s.fresh + 16384 * (p.open s.mem.spad).length }
    let u := onFlock t p.flock (passTiles p m)
    exec (.passComplete pad k) s =
      .next (finishFlock { u with eng := { u.eng with passes := u.eng.passes.filter fun q => q.id != k } } p.flock) := by
  change execPassComplete pad k s = _
  simp only [execPassComplete, h]

theorem tileOpComplete_finishes {x : TileOp} (h : s.eng.tileOps.find? (fun x => x.id == k) = some x) :
    let u := onFlock s x.flock (tileApply x)
    exec (.tileOpComplete k) s =
      .next (finishFlock { u with eng := { u.eng with tileOps := u.eng.tileOps.filter fun y => y.id != k } } x.flock) := by
  change execTileOpComplete k s = _
  simp only [execTileOpComplete, h]

end

/-- Settles O48: each event of the engine acts on the first pass or operation that its premises name; a tile holds what it was last
filled with (`tileAt_tileFill`). -/
theorem matrixEngine : Obligations.MatrixEngine := by
  intro s pad k withPasses
  refine ⟨fun p h hn hb => matrixGrant_first h hn hb, fun p h hp hk hf => matrixGrant_posts h hp hk hf, reservationAging_marks,
    fun hp hd he h16 => mxmodeApply_applies hp hd he h16, fun p h => ⟨passComplete_finishes h, fun hs e => passView_seenless hs ..⟩,
    fun p m f i j hi hj => ?_, fun x h => tileOpComplete_finishes h, fun x f i j hi hj => ?_⟩
  · obtain ⟨hrow, hcol⟩ := place_row (i := i) hj
    have hx : passAt p m f (128 * i + j) = passElem p.opdA p.opdB (m (128 * i + j)) (spadBase p.pad) (if p.quad then 4 else 16)
        (tileAt f p.td i j) (if p.pair then tileAt f (p.td + 1) i j else 0) i j := by
      simp only [passAt, hrow, hcol]
    exact hx ▸ ⟨passTiles_main hi hj, fun hp => passTiles_residual hp hi hj, fun t ht hp => passTiles_other ht hp hi hj⟩
  · obtain ⟨hrow, hcol⟩ := place_row (i := i) hj
    refine ⟨fun h => ?_, fun h => ?_, fun h => ?_, fun h => ⟨tileApply_fold_first h hi hj, fun hs => ?_⟩,
      fun t ht h3 => tileApply_other ht h3 hi hj⟩
    · exact (congrArg (tileAt · x.td i j) (tileApply_zero h)).trans (tileAt_tileDone hi hj)
    · refine (congrArg (tileAt · x.td i j) (tileApply_mov h)).trans ((tileAt_tileDone hi hj).trans ?_)
      simp only [tmovWord, hrow, hcol] <;> rfl
    · exact (congrArg (tileAt · x.td i j) (tileApply_cvt h)).trans (tileAt_tileDone hi hj)
    · rw [tileApply_fold h, if_pos hs, tileAt_tileDone hi hj]
      rfl

end Sys2Proof.Machine

namespace Sys2Proof.Machine

set_option Elab.async false

/-! PROOFS. Barriers at their issue (11 R229-R231, 19 R407, R412). -/

theorem barrierOf_setBarrier (f : Flock) (n : Nat) (b : Barrier) : barrierOf (setBarrier f n b) n = b := by
  have h : (f.bars.filter fun x => x.1 != n).find? (fun x => x.1 == n) = none := by
    simp [List.find?_eq_none]
  simp [barrierOf, setBarrier, List.find?_append, h]

theorem setBarrier_lastIssue (f : Flock) (n k : Nat) (b : Barrier) :
    setBarrier { f with lastIssue := k } n b = { setBarrier f n b with lastIssue := k } := rfl

theorem barrierOf_lastIssue (f : Flock) (k n : Nat) : barrierOf { f with lastIssue := k } n = barrierOf f n := rfl

namespace Recorded

section
variable {s t : State}

theorem passBarrier (h : Recorded s t) : Recorded (passBarrier s) (passBarrier t) := by
  have ht : (Machine.retire t).dr.tctl = (Machine.retire s).dr.tctl := by
    obtain ⟨o, hd⟩ := h.retire.dr
    rw [hd]
    rfl
  simp only [Machine.passBarrier, ht, h.pc]
  split
  · exact h.retire.onDr fun d o => rfl
  · exact h.retire

theorem acquireDrop (h : Recorded s t) : Recorded (acquireDrop s) (acquireDrop t) := by
  obtain ⟨o, li, fr, ds, ln, ts, du, hd, rfl⟩ := h
  have hc : (s.dr.recorded o).core = s.dr.core := rfl
  cases hs : (s.coh.cores.getD s.dr.core .empty).asleep <;>
    simp only [Machine.acquireDrop, epochSweep, coreOf, hc, hs, Bool.false_eq_true, if_true, if_false] <;>
    exact ⟨o, li, fr, ds, ln, ts, du, hd, rfl⟩

theorem releasedAt (h : Recorded s t) (n : Nat) : releasedAt t n = releasedAt s n := by
  obtain ⟨o, hd⟩ := h.dr
  obtain ⟨k, hf⟩ := h.fl
  rw [Machine.releasedAt, hd, hf]
  rfl

theorem onMeet (h : Recorded s t) (f : WideMeet → WideMeet) : Recorded (onMeet s f) (onMeet t f) := h.onFl fun _ _ => rfl

end

end Recorded

section
variable {s : State} {us : List Use} {n : Nat} {contrib : Option (Nat × Nat)} {sd : Option Nat} {i : Instr}

/-- The release of barrier `n` reaches the drove at index `i` (11 R229). -/
def dropReleased (n i : Nat) (f : Flock) : Flock :=
  setBarrier f n { barrierOf f n with released := (barrierOf f n).released.filter fun x => x.1 != i }

/-- The drove takes the combination of a `barv` (11 R230). -/
def takeBarv (got : Option (Nat × W64 × Bool)) (sd : Option Nat) (s : State) : State :=
  match got, sd with
  | some (_, x, true), some d => onDr s fun r => setS r d x
  | _, _ => s

/-- What a drove does that barrier `n` has released. -/
def leaveBarrier (n : Nat) (sd : Option Nat) (s : State) : State :=
  passBarrier (takeBarv (releasedAt s n) sd (onFl s (dropReleased n s.dr.idx)))

theorem barOp_eq : barOp us n contrib sd s = .next
    (issueIf { uses := us, dog := true } (barVerdict n)
      (if verdict { uses := us, dog := true } s = .go ∧ (releasedAt s n).isNone ∧ !awaits s.fl n s.dr.idx ∧ releasePoint s = .go then
        arriveAt s n (contrib.map fun (op, a) => (op, sreg s.dr a))
      else s) (leaveBarrier n sd)) := rfl

theorem leaveBarrier_recorded {t : State} (h : Recorded s t) (n : Nat) (sd : Option Nat) : Recorded (leaveBarrier n sd s) (leaveBarrier n sd t) := by
  have hi : t.dr.idx = s.dr.idx := by
    obtain ⟨o, hd⟩ := h.dr
    rw [hd]
    rfl
  have hfl : Recorded (onFl s (dropReleased n s.dr.idx)) (onFl t (dropReleased n s.dr.idx)) := h.onFl fun _ _ => rfl
  simp only [leaveBarrier, h.releasedAt, hi, takeBarv]
  split
  · refine (hfl.onDr fun d o => ?_).passBarrier
    simp only [setS]
    split <;> rfl
  · exact hfl.passBarrier

/-- A drove that a barrier has released goes on (11 R229). -/
theorem barOp_released (he : exec i s = barOp us n contrib sd s) (hf : fits s us = true) {got : Nat × W64 × Bool}
    (hg : releasedAt s n = some got) : Leaves i s (leaveBarrier n sd s) := by
  have hno : ¬ (verdict { uses := us, dog := true } s = .go ∧ (releasedAt s n).isNone ∧ !awaits s.fl n s.dr.idx ∧ releasePoint s = .go) := by
    rw [hg]
    exact fun h => Bool.noConfusion h.2.1
  rw [barOp_eq, if_neg hno] at he
  refine leaves_of_go he (verdict_go hf rfl rfl rfl rfl rfl (.inl rfl) (.inl rfl) (.inl rfl)) ?_ fun u hu => leaveBarrier_recorded hu n sd
  simp [barVerdict, hg]

/-- The flock after the drove's arrival (11 R229). -/
def arrived (n i : Nat) (c : Option (Nat × W64)) (f : Flock) : Flock :=
  let b := barrierOf f n
  setBarrier f n { b with
    arrived := if b.arrived.contains i then b.arrived else b.arrived ++ [i]
    left := b.left.filter (· != i)
    contrib := match c with
      | some (op, x) => if b.arrived.contains i then b.contrib else b.contrib ++ [(i, op, x)]
      | none => b.contrib }

theorem arriveAt_eq (c : Option (Nat × W64)) : arriveAt s n c = tryRelease (onFl s (arrived n s.dr.idx c)) n s.dr.lclk := rfl

theorem barrierOf_arrived (f : Flock) (n i : Nat) : barrierOf (arrived n i none f) n =
    { barrierOf f n with arrived := if (barrierOf f n).arrived.contains i then (barrierOf f n).arrived else (barrierOf f n).arrived ++ [i],
                         left := (barrierOf f n).left.filter (· != i) } := barrierOf_setBarrier ..

theorem hold_fixes (w : Wait) (dog : Bool) : (hold s w dog).dr.cond = .waiting w ∧ (hold s w dog).dr.pc = s.dr.pc ∧
    (hold s w dog).dr.s = s.dr.s ∧ (hold s w dog).fl = s.fl := by
  unfold hold
  split
  next h => exact ⟨h, rfl, rfl, rfl⟩
  next h =>
    refine ⟨?_, ?_, ?_, rfl⟩ <;> simp [partGang, onDr, unGang]

theorem tryRelease_waits {n : Nat} {w : W64} (h : ∃ i ∈ members s.fl, (barrierOf s.fl n).arrived.contains i = false) : tryRelease s n w = s := by
  obtain ⟨i, hi, ha⟩ := h
  have hall : ((members s.fl).all fun i => (barrierOf s.fl n).arrived.contains i) = false := by
    rw [List.all_eq_false]
    exact ⟨i, hi, by simpa using ha⟩
  simp only [tryRelease, hall, Bool.not_false, Bool.or_true, if_true]

theorem bar_waits {n : BitVec 4} (hr : releasedAt s n.toNat = none) (ha : (barrierOf s.fl n.toNat).arrived.contains s.dr.idx = false)
    (hp : releasePoint s = .go)
    (hm : ∃ i ∈ members s.fl, i ≠ s.dr.idx ∧ (barrierOf s.fl n.toNat).arrived.contains i = false) :
    ∃ t, exec (.bar n) s = .next t ∧ t.dr.cond = .waiting (.barrier n.toNat) ∧ t.dr.pc = s.dr.pc ∧ t.dr.s = s.dr.s ∧
      (barrierOf t.fl n.toNat).arrived = (barrierOf s.fl n.toNat).arrived ++ [s.dr.idx] := by
  have hgo (s : State) : verdict { uses := [], dog := true } s = .go :=
    verdict_go rfl rfl rfl rfl rfl rfl (.inl rfl) (.inl rfl) (.inl rfl)
  let u := onFl s (arrived n.toNat s.dr.idx none)
  have hb : barrierOf u.fl n.toNat = { barrierOf s.fl n.toNat with
      arrived := (barrierOf s.fl n.toNat).arrived ++ [s.dr.idx], left := (barrierOf s.fl n.toNat).left.filter (· != s.dr.idx) } := by
    have h := barrierOf_arrived s.fl n.toNat s.dr.idx
    rwa [ha] at h
  have hu : tryRelease u n.toNat s.dr.lclk = u := by
    obtain ⟨i, hi, hne, hc⟩ := hm
    refine tryRelease_waits ⟨i, hi, ?_⟩
    rw [hb]
    simpa [hne] using hc
  have hv : barVerdict n.toNat u = .wait (.barrier n.toNat) := by
    have h1 : releasedAt u n.toNat = none := by
      rw [releasedAt, hb]
      exact hr
    have h2 : awaits u.fl n.toNat s.dr.idx = true := by
      rw [awaits, hb]
      simp
    have h3 : u.dr.idx = s.dr.idx := rfl
    simp [barVerdict, h1, h2, h3]
  obtain ⟨hc, hpc, hs, hfl⟩ := hold_fixes (s := u) (.barrier n.toNat) true
  refine ⟨hold u (.barrier n.toNat) true, ?_, hc, hpc, hs, by rw [hfl, hb]⟩
  have haw : awaits s.fl n.toNat s.dr.idx = false := by rw [awaits, ha]; rfl
  have he : exec (.bar n) s = _ := barOp_eq (us := []) (n := n.toNat) (contrib := none) (sd := none)
  rw [if_pos ⟨hgo s, by rw [hr]; rfl, by rw [haw]; rfl, hp⟩, arriveAt_eq, Option.map_none, hu] at he
  rw [he]
  simp only [issueIf, hgo, hv]

/-- The drove at the port is recorded only, and memory is as before. -/
def Stays (s t : State) : Prop := (∃ o, t.dr = s.dr.recorded o) ∧ t.mem = s.mem ∧ t.fl = s.fl

theorem Stays.gangUp (s : State) (ds : List Drove) : Stays s (gangUp s ds) := by
  refine ⟨?_, rfl, rfl⟩
  simp only [Machine.gangUp]
  split
  · exact ⟨{ s.dr.seen with gangWith := _, parted := _ }, rfl⟩
  · exact ⟨s.dr.seen, rfl⟩

theorem Stays.droves {t : State} (h : Stays s t) (ds : List Drove) : Stays s { t with droves := ds } := h

theorem gangUp_uid (s : State) (ds : List Drove) : (gangUp s ds).dr.uid = s.dr.uid := by
  obtain ⟨⟨o, h⟩, -⟩ := Stays.gangUp s ds
  rw [h]
  rfl

theorem Stays.wakes {t : State} (h : Stays s t) {ds : List Drove} (hds : ∀ d ∈ ds, d.uid ≠ s.dr.uid) (w : W64) (f : Wait → Bool) :
    Stays s (ds.foldl (fun s d => wake s d.uid w f) t) := by
  refine List.foldlRecOn (motive := Stays s) _ _ h fun t ht d hd => ?_
  obtain ⟨⟨o, hdr⟩, hm, hfl⟩ := ht
  have hne : ¬ t.dr.uid = d.uid := by
    rw [hdr]
    exact Ne.symm (hds d hd)
  simp only [wake, touchDrove, onDrove, if_neg hne]
  exact ⟨⟨o, hdr⟩, hm, hfl⟩

/-- The drove's entry in the release of barrier `n` (11 R229, R230). -/
def releaseOut (b : Barrier) : List (Nat × W64 × Bool) :=
  (b.arrived.filter (!b.left.contains ·)).map fun i =>
    match b.contrib.find? fun c => c.1 == i with
    | some (_, op, _) => (i, combineBarv op (b.contrib.map fun c => c.2.2), true)
    | none => (i, 0, false)

theorem releaseOut_mem {b : Barrier} {i : Nat} (ha : b.arrived.contains i = true) (hl : b.left.contains i = false) :
    ∃ x ∈ releaseOut b, x.1 = i := by
  have hi : i ∈ b.arrived.filter (!b.left.contains ·) := List.mem_filter.2 ⟨by simpa using ha, by rw [hl]; rfl⟩
  refine ⟨_, List.mem_map_of_mem hi, ?_⟩
  split <;> rfl

theorem tryRelease_releases {n : Nat} {w : W64} (ha : (barrierOf s.fl n).arrived ≠ [])
    (hm : ∀ i ∈ members s.fl, (barrierOf s.fl n).arrived.contains i = true) :
    ∃ t, Stays (onFl s fun f => setBarrier f n
        { arrived := [], contrib := [], released := (barrierOf s.fl n).released ++ releaseOut (barrierOf s.fl n), left := [] }) t ∧
      tryRelease s n w = t := by
  have hall : ((members s.fl).all fun i => (barrierOf s.fl n).arrived.contains i) = true := List.all_eq_true.2 hm
  have hne : (barrierOf s.fl n).arrived.isEmpty = false := by simpa using ha
  refine ⟨_, ?_, rfl⟩
  unfold tryRelease
  simp only [hall, hne, Bool.not_true, Bool.or_self, Bool.false_eq_true, if_false]
  refine ((Stays.gangUp _ _).wakes (fun d hd => ?_) _ _).droves _
  have := (List.mem_filter.1 hd).2
  simp only [Bool.and_eq_true, bne_iff_ne, ne_eq] at this
  exact fun h => this.2 (h.trans (gangUp_uid ..).symm)

theorem passBarrier_dr (s : State) : (passBarrier s).dr.pc = (retire s).dr.pc ∧ (passBarrier s).dr.s = s.dr.s ∧
    (passBarrier s).mem = s.mem ∧ (passBarrier s).fl = { s.fl with lastIssue := s.cycle } := by
  obtain ⟨pc, m, h⟩ := retire_dr s
  have hs : (retire s).dr.s = s.dr.s := by rw [h]; rfl
  simp only [passBarrier]
  split
  · exact ⟨rfl, hs, retire_mem s, retire_fl s⟩
  · exact ⟨rfl, hs, retire_mem s, retire_fl s⟩

theorem leaveBarrier_none (n : Nat) : leaveBarrier n none s = passBarrier (onFl s (dropReleased n s.dr.idx)) := by
  have h (u : State) (got : Option (Nat × W64 × Bool)) : takeBarv got none u = u := by
    unfold takeBarv
    split
    next h => exact absurd h (by simp)
    next => rfl
  rw [leaveBarrier, h]

theorem Stays.retires {t w : State} {n : Nat} (h : Stays s t) (hw : Recorded (leaveBarrier n none t) w) :
    w.dr.pc = (retire s).dr.pc ∧ w.dr.s = s.dr.s ∧ w.mem = s.mem ∧ ∃ k, w.fl = { dropReleased n s.dr.idx s.fl with lastIssue := k } := by
  obtain ⟨⟨o, hdr⟩, hmem, hfl⟩ := h
  rw [leaveBarrier_none] at hw
  obtain ⟨hpc, hs, hm, hf⟩ := passBarrier_dr (onFl t (dropReleased n t.dr.idx))
  obtain ⟨p, hwd⟩ := hw.dr
  obtain ⟨k, hwf⟩ := hw.fl
  obtain ⟨hwm, -⟩ := hw.rest
  refine ⟨?_, ?_, ?_, k, ?_⟩
  · rw [hw.pc, hpc]
    exact retire_pc_recorded hdr
  · rw [hwd]
    exact hs.trans (congrArg Drove.s hdr : t.dr.s = (s.dr.recorded o).s)
  · rw [hwm, hm]
    exact hmem
  · rw [hwf, hf, hdr]
    exact congrArg (fun f => { dropReleased n s.dr.idx f with lastIssue := k }) hfl

theorem bar_passes {n : BitVec 4} (hr : releasedAt s n.toNat = none) (ha : (barrierOf s.fl n.toNat).arrived.contains s.dr.idx = false)
    (hp : releasePoint s = .go) (hm : ∀ i ∈ members s.fl, i ≠ s.dr.idx → (barrierOf s.fl n.toNat).arrived.contains i = true)
    (h0 : (barrierOf s.fl n.toNat).released = []) :
    ∃ t, exec (.bar n) s = .next t ∧ t.dr.pc = (retire s).dr.pc ∧ t.dr.s = s.dr.s ∧ t.mem = s.mem ∧
      (barrierOf t.fl n.toNat).arrived = [] ∧ ∀ i ∈ (barrierOf s.fl n.toNat).arrived, (barrierOf s.fl n.toNat).left.contains i = false →
        ∃ x ∈ (barrierOf t.fl n.toNat).released, x.1 = i := by
  have hgo (s : State) : verdict { uses := [], dog := true } s = .go :=
    verdict_go rfl rfl rfl rfl rfl rfl (.inl rfl) (.inl rfl) (.inl rfl)
  let u := onFl s (arrived n.toNat s.dr.idx none)
  have hb : barrierOf u.fl n.toNat = { barrierOf s.fl n.toNat with
      arrived := (barrierOf s.fl n.toNat).arrived ++ [s.dr.idx], left := (barrierOf s.fl n.toNat).left.filter (· != s.dr.idx) } := by
    have h := barrierOf_arrived s.fl n.toNat s.dr.idx
    rwa [ha] at h
  have hall : ∀ i ∈ members u.fl, (barrierOf u.fl n.toNat).arrived.contains i = true := by
    intro i hi
    rw [hb]
    by_cases he : i = s.dr.idx
    · simp [he]
    · simpa [he] using hm i hi he
  obtain ⟨t, ht, hrel⟩ := tryRelease_releases (w := s.dr.lclk) (by rw [hb]; simp) hall
  rw [hb, h0, List.nil_append] at ht
  generalize hB : ({ barrierOf s.fl n.toNat with arrived := (barrierOf s.fl n.toNat).arrived ++ [s.dr.idx],
                                                 left := (barrierOf s.fl n.toNat).left.filter (· != s.dr.idx) } : Barrier) = B at ht
  have hout (i : Nat) (hi : i ∈ (barrierOf s.fl n.toNat).arrived ++ [s.dr.idx]) (hl : i ∉ (barrierOf s.fl n.toNat).left ∨ i = s.dr.idx) :
      ∃ x ∈ releaseOut B, x.1 = i := by
    subst hB
    refine releaseOut_mem (by simpa using hi) ?_
    rcases hl with hl | hl <;> simp [hl]
  let y := onFl u fun f => setBarrier f n.toNat { arrived := [], contrib := [], released := releaseOut B, left := [] }
  have hy : barrierOf y.fl n.toNat = { arrived := [], contrib := [], released := releaseOut B, left := [] } := barrierOf_setBarrier ..
  have hv : barVerdict n.toNat t = .go := by
    obtain ⟨⟨o, hdr⟩, -, hfl⟩ := ht
    obtain ⟨x, hx, he⟩ := hout s.dr.idx (by simp) (.inr rfl)
    have hsome : (releasedAt t n.toNat).isSome = true := by
      rw [releasedAt, hfl, hdr, hy, List.find?_isSome]
      exact ⟨x, hx, beq_iff_eq.2 he⟩
    simp [barVerdict, hsome]
  have haw : awaits s.fl n.toNat s.dr.idx = false := by rw [awaits, ha]; rfl
  have he : exec (.bar n) s = _ := barOp_eq (us := []) (n := n.toNat) (contrib := none) (sd := none)
  rw [if_pos ⟨hgo s, by rw [hr]; rfl, by rw [haw]; rfl, hp⟩, arriveAt_eq, Option.map_none, hrel, issueIf_go _ (hgo t) hv] at he
  obtain ⟨hpc, hs, hmem, k, hfl⟩ := ht.retires (leaveBarrier_recorded (issued_recorded _ _ _ _) n.toNat none)
  have hw (k : Nat) : barrierOf { dropReleased n.toNat s.dr.idx y.fl with lastIssue := k } n.toNat =
      { arrived := [], contrib := [], released := (releaseOut B).filter fun x => x.1 != s.dr.idx, left := [] } := by
    rw [barrierOf_lastIssue, dropReleased, barrierOf_setBarrier, hy]
  refine ⟨_, he, hpc.trans (retire_pc_congr rfl), hs, hmem, ?_, fun i hi hl => ?_⟩
  · rw [hfl]
    exact congrArg Barrier.arrived (hw k)
  · obtain ⟨x, hx, hxi⟩ := hout i (List.mem_append_left _ hi) (.inl (by simpa using hl))
    refine ⟨x, ?_, hxi⟩
    have hne : i ≠ s.dr.idx := fun h => by simp [← h, hi] at ha
    rw [hfl]
    exact (congrArg (x ∈ Barrier.released ·) (hw k)).mpr (List.mem_filter.2 ⟨hx, by simpa [hxi] using hne⟩)

end

section
variable {s : State} {a b : BitVec 6}

/-- The drove goes on from a wide barrier. -/
def leaveWide (s : State) : State := onMeet s fun m => { m with
  done := m.done.filter (· != s.dr.idx), leave := m.leave.filter (· != s.dr.idx) }

theorem leaveWide_recorded {t : State} (h : Recorded s t) : Recorded (leaveWide s) (leaveWide t) := by
  have hi : t.dr.idx = s.dr.idx := by
    obtain ⟨o, hd⟩ := h.dr
    rw [hd]
    rfl
  simp only [leaveWide, hi]
  exact h.onMeet _

/-- The run of a `barw` that goes. -/
def barwRun (s : State) : State :=
  if (meetOf s.fl).leave.contains s.dr.idx then retire (leaveWide s) else passBarrier (acquireDrop (leaveWide s))

/-- The checks of a `barw`; a drove that has its place in the meeting needs no turn (19 R407). -/
def barwChk (a b : Nat) (inside : Bool) : Chk := { uses := [srcS a, srcS b], sync := !inside, dog := true }

theorem barw_eq (hv : verdict (barwChk a.toNat b.toNat
      (inMeet s || (meetOf s.fl).done.contains s.dr.idx || (meetOf s.fl).leave.contains s.dr.idx)) s = .go)
    (hf : (meetOf (meetStep a.toNat b.toNat s).fl).fail = none ∨ inMeet (meetStep a.toNat b.toNat s) = false) :
    exec (.barw a b) s = .next (issueIf (barwChk a.toNat b.toNat true) (barwVerdict a.toNat b.toNat)
      (meetStep a.toNat b.toNat s) barwRun) := by
  change execBarw a b s = _
  rw [barwChk] at hv
  simp only [execBarw, hv, ne_eq, not_true_eq_false, if_false]
  rcases hf with hf | hf
  · simp only [hf] <;> rfl
  · rw [hf]
    cases (meetOf (meetStep a.toNat b.toNat s).fl).fail <;> rfl

theorem meetStep_stands (hl : (meetOf s.fl).left.contains s.dr.idx = false) (hm : inMeet s = false)
    (hd : (meetOf s.fl).done.contains s.dr.idx = true ∨ (meetOf s.fl).leave.contains s.dr.idx = true) : meetStep a.toNat b.toNat s = s := by
  rcases hd with hd | hd <;>
    simp only [meetStep, hl, hm, hd, Bool.false_eq_true, Bool.or_true, Bool.true_or, if_false, if_true]

/-- A member of a wide barrier whose meeting is over goes on (11 R231). -/
theorem barw_leaves (hf : fits s [srcS a.toNat, srcS b.toNat] = true) (hm : inMeet s = false)
    (hl : (meetOf s.fl).left.contains s.dr.idx = false)
    (hd : (meetOf s.fl).done.contains s.dr.idx = true ∨ (meetOf s.fl).leave.contains s.dr.idx = true) :
    Leaves (.barw a b) s (barwRun s) := by
  have hstep := meetStep_stands (a := a) (b := b) hl hm hd
  have hin : (inMeet s || (meetOf s.fl).done.contains s.dr.idx || (meetOf s.fl).leave.contains s.dr.idx) = true := by
    rcases hd with hd | hd <;> simp only [hd, Bool.or_true, Bool.true_or]
  have he := barw_eq (a := a) (b := b) (s := s)
    (verdict_go hf rfl rfl rfl rfl rfl (.inl rfl) (.inl rfl) (.inl (by rw [hin]; rfl))) (by rw [hstep]; exact .inr hm)
  rw [hstep] at he
  refine leaves_of_go he (verdict_go hf rfl rfl rfl rfl rfl (.inl rfl) (.inl rfl) (.inl rfl)) ?_ fun u hu => ?_
  · rcases hd with hd | hd <;> simp only [barwVerdict, hd, Bool.or_true, Bool.true_or, if_true]
  · have hc : (meetOf u.fl).leave.contains u.dr.idx = (meetOf s.fl).leave.contains s.dr.idx := by
      obtain ⟨o, hdr⟩ := hu.dr
      obtain ⟨k, hfl⟩ := hu.fl
      rw [hdr, hfl]
      rfl
    simp only [barwRun, hc]
    split
    · exact (leaveWide_recorded hu).retire
    · exact (leaveWide_recorded hu).acquireDrop.passBarrier

/-- The drove has joined the meeting, which waits for others. -/
def joined (a b : W64) (s : State) : State :=
  let t := onMeet s fun m => { m with members := m.members ++ [(s.dr.idx, a, b)] }
  partGang (onDr t fun d => { d with cond := .waiting .wide, since := s.cycle, passive := d.det, await := some .wide,
                                     turn := d.turn && (meetOf t.fl).req.isSome }) s.dr.uid

theorem joined_dr (x y : W64) : (joined x y s).dr = unGang { s.dr with
    cond := .waiting .wide, since := s.cycle, passive := s.dr.det, await := some .wide, turn := s.dr.turn && (meetOf s.fl).req.isSome } :=
  partGang_dr (onDr (onMeet s fun m => { m with members := m.members ++ [(s.dr.idx, x, y)] }) fun d => { d with
    cond := .waiting .wide, since := s.cycle, passive := d.det, await := some .wide, turn := d.turn && (meetOf s.fl).req.isSome })

theorem joined_meet (x y : W64) : meetOf (joined x y s).fl = { meetOf s.fl with members := (meetOf s.fl).members ++ [(s.dr.idx, x, y)] } := rfl

theorem joined_fits (x y : W64) (us : List Use) : fits (joined x y s) us = fits s us := by
  simp only [fits, isFull, joined_dr]
  rfl

theorem meetFull_waits (h : ∃ i ∈ members s.fl, ((meetOf s.fl).members.any fun x => x.1 == i) = false) : meetFull s = s := by
  obtain ⟨i, hi, ha⟩ := h
  have hall : ((members s.fl).all fun i => (meetOf s.fl).members.any fun x => x.1 == i) = false := by
    rw [List.all_eq_false]
    exact ⟨i, hi, by rw [ha]; exact Bool.false_ne_true⟩
  simp only [meetFull, hall, Bool.not_false, Bool.true_or, if_true]

theorem barw_joins (hf : fits s [srcS a.toNat, srcS b.toNat] = true) (hm : inMeet s = false)
    (hl : (meetOf s.fl).left.contains s.dr.idx = false) (hlv : (meetOf s.fl).leave.contains s.dr.idx = false)
    (hd : (meetOf s.fl).done.contains s.dr.idx = false) (hg : mayGo s = true) (hfail : (meetOf s.fl).fail = none) (hp : releasePoint s = .go)
    (hb : (sreg s.dr b.toNat).toNat % 2 ^ 32 ≠ 0) (ha : plainFault (sreg s.dr a.toNat).toNat 8 = none)
    (hi : ∃ i ∈ members s.fl, i ≠ s.dr.idx ∧ ((meetOf s.fl).members.any fun x => x.1 == i) = false) :
    exec (.barw a b) s = .next (joined (sreg s.dr a.toNat) (sreg s.dr b.toNat) s) := by
  have hfull : meetFull (onMeet s fun m => { m with members := m.members ++ [(s.dr.idx, sreg s.dr a.toNat, sreg s.dr b.toNat)] }) =
      onMeet s fun m => { m with members := m.members ++ [(s.dr.idx, sreg s.dr a.toNat, sreg s.dr b.toNat)] } := by
    obtain ⟨i, hi, hne, hc⟩ := hi
    refine meetFull_waits ⟨i, hi, ?_⟩
    have hself : (s.dr.idx == i) = false := by simpa using Ne.symm hne
    change ((meetOf s.fl).members ++ [(s.dr.idx, sreg s.dr a.toNat, sreg s.dr b.toNat)]).any _ = false
    rw [List.any_append, hc]
    simp [hself]
  have hstep : meetStep a.toNat b.toNat s = joined (sreg s.dr a.toNat) (sreg s.dr b.toNat) s := by
    have hb' : ((sreg s.dr b.toNat).toNat % 2 ^ 32 == 0) = false := beq_eq_false_iff_ne.2 hb
    simp only [meetStep, hl, hm, hlv, hd, hp, ha, hb', Bool.false_eq_true, if_false, Option.isSome_none, Bool.or_self, bne_self_eq_false]
    simp only [meetJoin, hfull]
    rfl
  have hin : inMeet (joined (sreg s.dr a.toNat) (sreg s.dr b.toNat) s) = true := by
    rw [inMeet, joined_meet, joined_dr]
    simp [unGang]
  have he := barw_eq (a := a) (b := b) (s := s)
    (verdict_go hf rfl rfl rfl rfl rfl (.inl rfl) (.inl rfl) (.inr hg)) (by rw [hstep]; exact .inl hfail)
  rw [hstep] at he
  have hgo : verdict (barwChk a.toNat b.toNat true) (joined (sreg s.dr a.toNat) (sreg s.dr b.toNat) s) = .go :=
    verdict_go ((joined_fits ..).trans hf) rfl rfl rfl rfl rfl (.inl rfl) (.inl rfl) (.inl rfl)
  have hw : barwVerdict a.toNat b.toNat (joined (sreg s.dr a.toNat) (sreg s.dr b.toNat) s) = .wait .wide := by
    have hd' : (meetOf (joined (sreg s.dr a.toNat) (sreg s.dr b.toNat) s).fl).done.contains
        (joined (sreg s.dr a.toNat) (sreg s.dr b.toNat) s).dr.idx = false := by rw [joined_meet, joined_dr]; exact hd
    have hlv' : (meetOf (joined (sreg s.dr a.toNat) (sreg s.dr b.toNat) s).fl).leave.contains
        (joined (sreg s.dr a.toNat) (sreg s.dr b.toNat) s).dr.idx = false := by rw [joined_meet, joined_dr]; exact hlv
    have hfail' : (meetOf (joined (sreg s.dr a.toNat) (sreg s.dr b.toNat) s).fl).fail = none := hfail
    simp only [barwVerdict, hd', hlv', hin, hfail', Bool.or_self, Bool.false_eq_true, if_false, if_true]
  rw [he]
  simp only [issueIf, hgo, hw, hold, joined_dr, unGang, if_true]

end

/-- Settles O49: a released drove goes on (`barOp_released`), the last arrival releases all (`bar_passes`), and the others wait. -/
theorem barrierIssue : Obligations.BarrierIssue := by
  intro s n d a b p bn done m
  refine ⟨fun got hg => ⟨?_, fun hf hv => ?_⟩, fun hr ha hp => ⟨bar_waits hr ha hp, bar_passes hr ha hp⟩, fun hf hm hl => ⟨fun hlv hd => ?_,
    fun hlv => ?_, fun hlv hd hg hfail hp hb hpf hi => ?_⟩⟩
  · rw [← show leaveBarrier n.toNat none s = passBarrier (onFl s done) from leaveBarrier_none _]
    exact barOp_released (us := []) rfl rfl hg
  · have h := barOp_released (i := .barv d a p n) (sd := some d.toNat) rfl hf hg
    obtain ⟨i, x, v⟩ := got
    obtain rfl : v = true := hv
    rw [leaveBarrier, hg] at h
    exact h
  · have h := barw_leaves (a := a) (b := b) hf hm hl (.inl hd)
    rwa [barwRun, hlv] at h
  · have h := barw_leaves (a := a) (b := b) hf hm hl (.inr hlv)
    rwa [barwRun, if_pos hlv] at h
  · refine ⟨_, barw_joins hf hm hl hlv hd hg hfail hp hb hpf hi, ?_, ?_, rfl⟩ <;> rw [joined_dr] <;> rfl

end Sys2Proof.Machine

namespace Sys2Proof.Machine

set_option Elab.async false

/-! PROOFS. Async objects, chutes, the crook and posted events at their issue (11 R233-R240, R243, R254). -/

/-- An instruction that goes takes effect by any function that agrees with what it runs once its issue has been recorded. -/
theorem takes_of_recorded {i : Instr} {s : State} {c : Chk} {dyn : State → Verdict} {run g : State → State}
    (he : exec i s = .next (issueIf c dyn s run)) (hc : c.slots = 1) (hv : verdict c s = .go) (hd : dyn s = .go)
    (hr : ∀ u, Recorded s u → run u = g u) : Takes i s c.uses g := by
  obtain ⟨fit, h⟩ := takes_of_go he hc hv hd
  exact ⟨fit, h.trans (congrArg _ (hr _ (issued_recorded ..)))⟩

/-- The checks of a synchronising instruction that names no masks (19 R406). -/
theorem verdict_sync {s : State} {us : List Use} (hf : fits s us = true) (hg : mayGo s = true) :
    verdict { uses := us, sync := true } s = .go :=
  verdict_go hf rfl rfl rfl rfl rfl (.inl rfl) (.inl rfl) (.inr hg)

theorem verdict_chute {s : State} {us : List Use} {n : Nat} {masks : Bool} (hn : n < s.fl.chutes.length) (hf : fits s us = true)
    (hm : masks = false ∨ masksFull s = true) (hg : mayGo s = true) :
    verdict { uses := us, masks := masks, sync := true, dog := true, bad := decide (s.fl.chutes.length ≤ n) } s = .go :=
  verdict_go hf rfl rfl (decide_eq_false (Nat.not_le.2 hn)) rfl rfl (.inl rfl) hm (.inr hg)

theorem Recorded.chuteOf {s t : State} (h : Recorded s t) (n : Nat) : chuteOf t.fl n = chuteOf s.fl n := by
  obtain ⟨k, hf⟩ := h.fl
  rw [hf]
  rfl

section
variable {s : State} {a b d : BitVec 6} {ea ed : Bool} {v : BitVec 7} {n : BitVec 3}

theorem sendArrival_cycle (s : State) (kind : ReqKind) (dst x : Nat) (init : Option (BitVec 32)) :
    (sendArrival s kind dst x init).cycle = s.cycle := by
  cases h : s.dr.det <;> simp only [sendArrival, takeTurn, h] <;> rfl

theorem abinit_takes (hg : mayGo s = true) (hf : fits s [srcS a.toNat, srcS b.toNat] = true) (ho : objVerdict s.dr (sreg s.dr a.toNat).toNat = .go)
    (h1 : 1 ≤ (sreg s.dr b.toNat).toNat) (h2 : (sreg s.dr b.toNat).toNat < 2 ^ 32) :
    Takes (.abinit a b) s [srcS a.toNat, srcS b.toNat] fun u =>
      onDr (sendArrival u .abinit 0 (sreg s.dr a.toNat).toNat (some ((sreg u.dr b.toNat).setWidth 32))) fun d =>
        { d with cond := .waiting .command, since := u.cycle } := by
  refine takes_of_recorded (i := .abinit a b) rfl rfl (verdict_sync hf hg) ?_ fun u hu => ?_
  · have h : ((sreg s.dr b.toNat).toNat == 0 || decide (2 ^ 32 ≤ (sreg s.dr b.toNat).toNat)) = false := by
      simp only [Bool.or_eq_false_iff, beq_eq_false_iff_ne, decide_eq_false_iff_not]
      omega
    simp only [h, stopIf, ho]
    rfl
  · rw [hu.sreg a.toNat, ← sendArrival_cycle u .abinit 0 (sreg s.dr a.toNat).toNat (some ((sreg u.dr b.toNat).setWidth 32))]

theorem abwait_verdict (hg : mayGo s = true) (hf : fits s [srcS a.toNat, srcS b.toNat] = true) :
    verdict { uses := [srcS a.toNat, srcS b.toNat], sync := !s.dr.passive, dog := true } s = .go :=
  verdict_go hf rfl rfl rfl rfl rfl (.inl rfl) (.inl rfl) (.inr hg)

theorem hold_det (w : Wait) (dog : Bool) : (hold s w dog).dr.det = s.dr.det := by
  unfold hold
  split
  · rfl
  · simp [partGang, onDr, unGang]

theorem abwait_waits (hg : mayGo s = true) (hf : fits s [srcS a.toNat, srcS b.toNat] = true)
    (ho : objVerdict s.dr (sreg s.dr a.toNat).toNat = .go) (hd : s.dr.det = false)
    (hp : objPhase s s.dr.flock (sreg s.dr a.toNat).toNat = (sreg s.dr b.toNat).toNat % 2 ^ 16) (hw : s.dr.waited = false) :
    Waits (.abwait a b) s (.object (sreg s.dr a.toNat).toNat ((sreg s.dr b.toNat).toNat % 2 ^ 16)) := by
  have hv := abwait_verdict hg hf
  change execAbwait a b s = _
  simp only [execAbwait, hv, ho, hd, hp, hw, Bool.false_and, Bool.false_or, beq_self_eq_true, Bool.not_false, and_self, if_true, abwaitHold]
  exact congrArg _ (if_neg (by simp [hold_det, hd]))

theorem abwait_takes (hg : mayGo s = true) (hf : fits s [srcS a.toNat, srcS b.toNat] = true)
    (ho : objVerdict s.dr (sreg s.dr a.toNat).toNat = .go) (hd : s.dr.det = false)
    (h : objPhase s s.dr.flock (sreg s.dr a.toNat).toNat ≠ (sreg s.dr b.toNat).toNat % 2 ^ 16 ∨ s.dr.waited = true) :
    Takes (.abwait a b) s [srcS a.toNat, srcS b.toNat] fun s => retire (acquireDrop s) := by
  have hv := abwait_verdict hg hf
  refine takes_of_go (c := { uses := [srcS a.toNat, srcS b.toNat], sync := !s.dr.passive, dog := true })
    (dyn := fun t => objVerdict t.dr (sreg s.dr a.toNat).toNat) ?_ rfl hv ho
  have hno : ¬ (verdict { uses := [srcS a.toNat, srcS b.toNat], sync := !s.dr.passive, dog := true } s = .go ∧
      objVerdict s.dr (sreg s.dr a.toNat).toNat = .go ∧ (!s.dr.waited) = true ∧
      (objPhase s s.dr.flock (sreg s.dr a.toNat).toNat == (sreg s.dr b.toNat).toNat % 2 ^ 16) = true) := by
    rintro ⟨-, -, hw, hp⟩
    rcases h with h | h
    · exact h (beq_iff_eq.1 hp)
    · simp [h] at hw
  change execAbwait a b s = _
  simp only [execAbwait, hd, Bool.false_and, Bool.false_or, if_neg hno]

theorem evpost_takes (hg : mayGo s = true) (hf : fits s [srcS a.toNat, srcS b.toNat] = true)
    (hp : plainFault (sreg s.dr a.toNat).toNat 64 = none) (hr : releasePoint s = .go) :
    Takes (.evpost a b) s [srcS a.toNat, srcS b.toNat] fun u =>
      startRecord u (Req.fresh u .evpost 64 [Acc.fresh u 0 (sreg s.dr a.toNat).toNat 64 (sreg u.dr b.toNat).toNat false]) := by
  refine takes_of_recorded (i := .evpost a b) rfl rfl (verdict_sync hf hg) ?_ fun u hu => ?_
  · simp only [hp, hr]
    rfl
  · rw [hu.sreg a.toNat]

theorem abarr_takes (hg : mayGo s = true) (hf : fits s [srcS a.toNat, dstS d.toNat] = true)
    (ho : objVerdict s.dr (sreg s.dr a.toNat).toNat = .go) (hr : releasePoint s = .go) :
    Takes (.abarr d a) s [srcS a.toNat, dstS d.toNat] fun u =>
      retire (onDr (sendArrival u .abarr d.toNat (sreg s.dr a.toNat).toNat none) fun r => markS r d.toNat false) := by
  refine takes_of_recorded (i := .abarr d a) rfl rfl (verdict_sync hf hg) ?_ fun u hu => ?_
  · simp only [ho, hr]
    rfl
  · rw [hu.sreg a.toNat]

/-- The VA of the record of an `rtake` (11 R243). -/
def crookVa (a : BitVec 6) (d : Drove) : Nat := if a = 0 then d.crook.toNat else (sreg d a.toNat).toNat

theorem rtake_takes (hg : mayGo s = true)
    (hf : fits s [srcS a.toNat ea, { cls := .scl, base := d.toNat, n := 2, align := 2, dest := true, trap := ed }] = true)
    (hp : plainFault (crookVa a s.dr) 32 = none) (ha : acqPending s = false) :
    Takes (.rtake d a ea ed) s [srcS a.toNat ea, { cls := .scl, base := d.toNat, n := 2, align := 2, dest := true, trap := ed }] fun u =>
      startRecord u { Req.fresh u .rtake 32 [Acc.fresh u 0 (crookVa a s.dr) 32 0 false] with dst := d.toNat, dst2 := true } := by
  refine takes_of_recorded (i := .rtake d a ea ed) rfl rfl (verdict_sync hf hg) ?_ fun u hu => ?_
  · change firstOf [oneVerdict (plainFault (crookVa a s.dr) 32), memWait s] = .go
    rw [hp, memWait_go ha]
    rfl
  · have h : crookVa a u.dr = crookVa a s.dr := by
      obtain ⟨o, hdr⟩ := hu.dr
      rw [hdr]
      rfl
    rw [← h]
    rfl

/-- What a `qallow` does: the drove becomes a producer, or leaves the chute (11 R237). -/
def qallowRun (a n : Nat) (s : State) : State :=
  if sreg s.dr a = 1 then retire (addProducer s n)
  else retire (wakePops (setChute s n (leaveChute (chuteOf s.fl n) s.dr.idx)) n s.dr.lclk)

theorem qallow_eq : exec (.qallow a n) s = .next
    (issueIf { uses := [srcS a.toNat], sync := true, dog := true, bad := decide (s.fl.chutes.length ≤ n.toNat) }
      (fun s => stopIf (decide (1 < (sreg s.dr a.toNat).toNat)) 0x02) s (qallowRun a.toNat n.toNat)) := rfl

theorem qallow_takes (hg : mayGo s = true) (hn : n.toNat < s.fl.chutes.length) (hf : fits s [srcS a.toNat] = true)
    (h1 : (sreg s.dr a.toNat).toNat ≤ 1) {g : State → State} (hr : ∀ u, Recorded s u → qallowRun a.toNat n.toNat u = g u) :
    Takes (.qallow a n) s [srcS a.toNat] g := by
  have hv := verdict_chute (masks := false) hn hf (.inl rfl) hg
  have hd : stopIf (decide (1 < (sreg s.dr a.toNat).toNat)) 0x02 = .go := by
    rw [decide_eq_false (Nat.not_lt.2 h1)]
    rfl
  have h := takes_of_recorded (g := g) (qallow_eq (s := s) (a := a) (n := n)) rfl hv hd
  exact h hr

/-- The lanes' values have room in a chute that is open (11 R238). -/
theorem qpush_takes (hg : mayGo s = true) (hn : n.toNat < s.fl.chutes.length) (hm : masksFull s = true) (hf : fits s [srcV v.toNat] = true)
    (hk : (activeLanes s.dr).length ≤ (chuteOf s.fl n.toNat).cap) (hc : (chuteOf s.fl n.toNat).closed = false) :
    (chuteRoom (chuteOf s.fl n.toNat) (activeLanes s.dr).length = true → Takes (.qpush v n) s [srcV v.toNat] fun s => pushNow s n.toNat v.toNat) ∧
    (chuteRoom (chuteOf s.fl n.toNat) (activeLanes s.dr).length = false → Waits (.qpush v n) s (.push n.toNat v.toNat) true) := by
  have hv := verdict_chute (masks := true) hn hf (.inr hm) hg
  refine ⟨fun hr => takes_of_recorded (i := .qpush v n) rfl rfl hv ?_ fun u _ => rfl, fun hr => ?_⟩
  · simp only [hr, hc, decide_eq_false (Nat.not_lt.2 hk), stopIf, waitIf]
    rfl
  · have hd : firstOf [stopIf (decide ((chuteOf s.fl n.toNat).cap < (activeLanes s.dr).length)) 0x02,
        stopIf (chuteOf s.fl n.toNat).closed 0x24 n.toNat,
        waitIf (!chuteRoom (chuteOf s.fl n.toNat) (activeLanes s.dr).length) (.push n.toNat v.toNat)] = .wait (.push n.toNat v.toNat) := by
      simp only [hr, hc, decide_eq_false (Nat.not_lt.2 hk), stopIf, waitIf]
      rfl
    change Host.Outcome.next (issueIf _ _ s _) = _
    simp only [issueIf, hv, hd]

/-- The drove has joined the pops of chute `n`, and goes on (11 R239). -/
def popJoined (v n : Nat) (s : State) : State :=
  retire (onDr (setChute s n { chuteOf s.fl n with pops := (chuteOf s.fl n).pops ++
      [{ drove := s.dr.uid, vd := v, lanes := activeLanes s.dr, pc := s.dr.pc }] }) fun r =>
    { markV r v false with popped := r.popped ++ [(v, n, r.pc.toNat)] })

theorem qpop_eq : exec (.qpop v n) s = .next
    (issueIf { uses := [dstV v.toNat], masks := true, sync := true, dog := true, bad := decide (s.fl.chutes.length ≤ n.toNat) }
      (fun s => stopIf (decide ((chuteOf s.fl n.toNat).cap < (activeLanes s.dr).length)) 0x02) s fun s =>
      if (popJoined v.toNat n.toNat s).dr.det then
        placeWaiting (serveAll (popJoined v.toNat n.toNat s) n.toNat s.dr.lclk (chuteOf (popJoined v.toNat n.toNat s).fl n.toNat).pops.length)
          n.toNat s.dr.lclk
      else popJoined v.toNat n.toNat s) := rfl

theorem chuteOf_setChute {n : Nat} (hn : n < s.fl.chutes.length) (c : Chute) : chuteOf (setChute s n c).fl n = c := by
  have h : (setChute s n c).fl.chutes = modNth (fun _ => c) s.fl.chutes n := rfl
  rw [chuteOf, h, List.getD_eq_getElem?_getD, modNth_get, List.getElem?_eq_getElem hn]
  rfl

theorem popJoined_lastIssue (u : State) (v n : Nat) : ∃ k, (popJoined v n u).fl =
    { (setChute u n { chuteOf u.fl n with pops := (chuteOf u.fl n).pops ++
      [{ drove := u.dr.uid, vd := v, lanes := activeLanes u.dr, pc := u.dr.pc }] }).fl with lastIssue := k } := ⟨_, retire_fl _⟩

theorem retire_pc_onDr {w : State} {f : Drove → Drove} (hm : (f w.dr).micro = w.dr.micro) (ha : (f w.dr).after = w.dr.after)
    (hp : (f w.dr).pc = w.dr.pc) : (retire (onDr w f)).dr.pc = (retire w).dr.pc := by
  simp only [retire, onDr, hm]
  split <;> simp [onFl, retireDr, ha, hp]

/-- What a pop leaves before anything is served. -/
theorem popJoined_of_recorded {u : State} {n v : Nat} (hn : n < s.fl.chutes.length) (h : Recorded s u) :
    (popJoined v n u).dr.pc = (retire s).dr.pc ∧ (popJoined v n u).dr.v = s.dr.v ∧ (popJoined v n u).dr.s = s.dr.s ∧
    (popJoined v n u).dr.vfull = s.dr.vfull &&& ~~~(1#128 <<< v) ∧ (popJoined v n u).dr.det = s.dr.det ∧ (popJoined v n u).mem = s.mem ∧
    chuteOf (popJoined v n u).fl n = { chuteOf s.fl n with pops := (chuteOf s.fl n).pops ++
      [{ drove := s.dr.uid, vd := v, lanes := activeLanes s.dr, pc := s.dr.pc }] } := by
  obtain ⟨o, hdr⟩ := h.dr
  obtain ⟨k, hfl⟩ := h.fl
  obtain ⟨hmem, -⟩ := h.rest
  obtain ⟨pc, m, hr⟩ := retire_dr (onDr (setChute u n { chuteOf u.fl n with pops := (chuteOf u.fl n).pops ++
      [{ drove := u.dr.uid, vd := v, lanes := activeLanes u.dr, pc := u.dr.pc }] }) fun r =>
    { markV r v false with popped := r.popped ++ [(v, n, r.pc.toNat)] })
  have hn' : n < u.fl.chutes.length := by rw [hfl]; exact hn
  obtain ⟨k, hj⟩ := popJoined_lastIssue u v n
  refine ⟨?_, ?_, ?_, ?_, ?_, (retire_mem _).trans hmem, ?_⟩
  · refine (retire_pc_onDr rfl rfl rfl).trans (retire_pc_recorded hdr)
  · exact (congrArg Drove.v hr).trans (congrArg Drove.v hdr : u.dr.v = (s.dr.recorded o).v)
  · exact (congrArg Drove.s hr).trans (congrArg Drove.s hdr : u.dr.s = (s.dr.recorded o).s)
  · exact (congrArg Drove.vfull hr).trans (congrArg (fun d : Drove => d.vfull &&& ~~~(1#128 <<< v)) hdr : u.dr.vfull &&& ~~~(1#128 <<< v) = _)
  · exact (congrArg Drove.det hr).trans (congrArg Drove.det hdr : u.dr.det = (s.dr.recorded o).det)
  · rw [hj]
    refine (chuteOf_setChute hn' _).trans ?_
    rw [h.chuteOf, hdr]
    rfl

theorem qpop_goes (hg : mayGo s = true) (hn : n.toNat < s.fl.chutes.length) (hm : masksFull s = true) (hf : fits s [dstV v.toNat] = true)
    (hk : (activeLanes s.dr).length ≤ (chuteOf s.fl n.toNat).cap) : ∃ u, Recorded s u ∧ exec (.qpop v n) s = .next
      (if s.dr.det then placeWaiting (serveAll (popJoined v.toNat n.toNat u) n.toNat s.dr.lclk
        (chuteOf (popJoined v.toNat n.toNat u).fl n.toNat).pops.length) n.toNat s.dr.lclk
      else popJoined v.toNat n.toNat u) := by
  have hv := verdict_chute (masks := true) hn hf (.inr hm) hg
  have hd : stopIf (decide ((chuteOf s.fl n.toNat).cap < (activeLanes s.dr).length)) 0x02 = .go := by
    rw [decide_eq_false (Nat.not_lt.2 hk)]
    rfl
  obtain ⟨fit, he⟩ := takes_of_go (qpop_eq (s := s) (v := v) (n := n)) rfl hv hd
  have hu := issued_recorded fit s [dstV v.toNat] 1
  obtain ⟨o, hdr⟩ := hu.dr
  have hl : (issued fit s [dstV v.toNat]).dr.lclk = s.dr.lclk := by rw [hdr]; rfl
  obtain ⟨-, -, -, -, hdet, -⟩ := popJoined_of_recorded (v := v.toNat) hn hu
  simp only [hdet, hl] at he
  exact ⟨_, hu, he⟩

theorem qtry_takes (hg : mayGo s = true) (hn : n.toNat < s.fl.chutes.length) (hm : masksFull s = true)
    (hf : fits s [dstV v.toNat, { cls := .scl, base := d.toNat, n := 2, align := 2, dest := true }] = true) :
    let c := chuteOf s.fl n.toNat
    let k := if c.pops.isEmpty then min (activeLanes s.dr).length c.count else 0
    let m := BitVec.ofNat 64 (total (((activeLanes s.dr).take k).map (2 ^ ·)))
    Takes (.qtry v d n) s [dstV v.toNat, { cls := .scl, base := d.toNat, n := 2, align := 2, dest := true }] fun s' =>
      placeWaiting (retire (onDr (if k = 0 then s' else ringDrop s' n.toNat k) fun r =>
        setS (setS (setVm r v.toNat m fun l => (ringTake s' n.toNat k).getD (((activeLanes s.dr).take k).idxOf l) 0) d.toNat m) (d.toNat + 1)
          (if c.closed then 1 else 0))) n.toNat s'.dr.lclk := by
  have hv := verdict_chute (masks := true) hn hf (.inr hm) hg
  refine takes_of_recorded (i := .qtry v d n) (dyn := fun _ => .go) rfl rfl hv rfl fun u hu => ?_
  have hl : activeLanes u.dr = activeLanes s.dr := by
    obtain ⟨o, hd⟩ := hu.dr
    rw [hd]
    rfl
  simp only [hl, hu.chuteOf]

end

/-- Settles O50: each instruction goes, and its effect reads the operands that the issue leaves as they were. -/
theorem syncIssue : Obligations.SyncIssue := by
  intro s a b d ea ed v n hg x c lanes
  refine ⟨fun hf => ⟨fun ho h1 h2 => abinit_takes hg hf ho h1 h2, fun ho hd => ⟨fun h => abwait_takes hg hf ho hd h,
      fun hp hw => abwait_waits hg hf ho hd hp hw⟩, fun hp hr => evpost_takes hg hf hp hr⟩, fun hf ho hr => abarr_takes hg hf ho hr,
    fun hf hp ha => rtake_takes hg hf hp ha, fun hn => ⟨fun hf => ⟨fun h => ?_, fun h => ?_⟩, fun hm =>
      ⟨fun hf hk hc => (qpush_takes hg hn hm hf hk hc).1, fun hf hk hc => (qpush_takes hg hn hm hf hk hc).2, fun hf hk hd => ?_,
        fun hf hk hd => ?_, fun hf => qtry_takes hg hn hm hf⟩⟩⟩
  · exact qallow_takes hg hn hf (by rw [h]; decide) fun u hu => if_pos (by rw [hu.sreg, h])
  · exact qallow_takes hg hn hf (by rw [h]; decide) fun u hu => if_neg (by rw [hu.sreg, h]; decide)
  · obtain ⟨u, hu, he⟩ := qpop_goes hg hn hm hf hk
    obtain ⟨hpc, -, -, -, -, -, hc⟩ := popJoined_of_recorded (v := v.toNat) hn hu
    rw [if_pos hd] at he
    exact ⟨_, _, he, rfl, hpc, by rw [hc]⟩
  · obtain ⟨u, hu, he⟩ := qpop_goes hg hn hm hf hk
    obtain ⟨hpc, hv, hs, hfull, -, hmem, hc⟩ := popJoined_of_recorded (v := v.toNat) hn hu
    rw [if_neg (by rw [hd]; exact Bool.false_ne_true)] at he
    exact ⟨_, he, hpc, hv, hs, hfull, by rw [hc], by rw [hc], hmem⟩

end Sys2Proof.Machine

namespace Sys2Proof.Machine

set_option Elab.async false

/-! PROOFS. What serves the waits of chapter 11: arrivals on objects, pops, pushes and checksums (11 R235, R238, R239, 19 R407, R412). -/

theorem memBytes_congr {m m' : Memory} {a n : Nat} (h : ∀ c, a ≤ c → c < a + n → memByte m' c = memByte m c) :
    memBytes m' a n = memBytes m a n := by
  induction n generalizing a with
  | zero => rfl
  | succ n ih =>
    rw [memBytes, memBytes, h a (Nat.le_refl _) (by omega), ih fun c h1 h2 => h c (by omega) (by omega)]

theorem memRead_memWrite_ne (m : Memory) {a n b k : Nat} (x : Nat) (h : b + k ≤ a ∨ a + n ≤ b) :
    memRead (memWrite m a n x) b k = memRead m b k := by
  rw [memRead, memRead, memBytes_congr fun c h1 h2 => memByte_memWrite_ne m x (by omega)]

section
variable {s : State} {f a n : Nat} {fl : Flock}

theorem spadRead_of (h : flockOf s f = some fl) (a n : Nat) : spadRead s f a n = memRead s.mem.spad (spadBase (padOf fl.core) + a) n := by
  rw [spadRead, h]

/-- Flock `f` stays resident, and the scratchpads hold `m`. -/
def Holds (s : State) (f : Nat) (fl : Flock) (m : Memory) : Prop := flockOf s f = some fl ∧ s.mem.spad = m

theorem Holds.read {m : Memory} (h : Holds s f fl m) (a n : Nat) : spadRead s f a n = memRead m (spadBase (padOf fl.core) + a) n := by
  rw [spadRead_of h.1, h.2]

theorem Holds.write {m : Memory} (h : Holds s f fl m) (a n x : Nat) :
    Holds (spadWrite s f a n x) f fl (memWrite m (spadBase (padOf fl.core) + a) n x) := by
  obtain ⟨hf, rfl⟩ := h
  simp only [spadWrite, hf]
  exact ⟨hf, rfl⟩

theorem wake_fl (s : State) (u : Nat) (w : W64) (p : Wait → Bool) :
    (wake s u w p).fl = s.fl ∧ (wake s u w p).flocks = s.flocks ∧ (wake s u w p).mem = s.mem := by
  simp only [wake, touchDrove, onDrove]
  split <;> exact ⟨rfl, rfl, rfl⟩

theorem Holds.wake {m : Memory} (h : Holds s f fl m) (u : Nat) (w : W64) (p : Wait → Bool) : Holds (wake s u w p) f fl m := by
  obtain ⟨hfl, hflocks, hmem⟩ := wake_fl s u w p
  refine ⟨?_, hmem ▸ h.2⟩
  rw [flockOf, allFlocks, hfl, hflocks]
  exact h.1

theorem Holds.wakeObject {m : Memory} (h : Holds s f fl m) (g a : Nat) (w : W64) : Holds (wakeObject s g a w) f fl m :=
  foldl_keeps (P := fun t => Holds t f fl m) (fun _ _ ht => ht.wake _ _ _) _ h

/-- The scratchpad after the last arrival of a phase (11 R235). -/
def phaseDone (m : Memory) (o phase pstat : Nat) : Memory :=
  memWrite (memWrite (memWrite (memWrite m (o + 13) 1 pstat) (o + 12) 1 0) (o + 8) 2 (phase + 1)) (o + 4) 4
    (memRead (memWrite (memWrite (memWrite m (o + 13) 1 pstat) (o + 12) 1 0) (o + 8) 2 (phase + 1)) o 4)

theorem memRead_lt (m : Memory) (a n : Nat) : memRead m a n < 256 ^ n := by
  have key (bs : List Byte) : leNat bs < 256 ^ bs.length := by
    induction bs with
    | nil => exact Nat.one_pos
    | cons b bs ih =>
      have := b.isLt
      simp only [leNat, List.length_cons, Nat.pow_succ]
      omega
  have hl : (memBytes m a n).length = n := by
    induction n generalizing a with
    | zero => rfl
    | succ n ih => simp [memBytes, ih]
  exact (key _).trans_eq (by rw [hl])

theorem memRead_phaseDone {m : Memory} (w : m.wf = true) (o phase pstat : Nat) :
    memRead (phaseDone m o phase pstat) (o + 8) 2 = (phase + 1) % 256 ^ 2 ∧
    memRead (phaseDone m o phase pstat) (o + 4) 4 = memRead m o 4 := by
  have w' := memWrite_wf (o + 12) 1 0 (memWrite_wf (o + 13) 1 pstat w)
  have hr : memRead (memWrite (memWrite (memWrite m (o + 13) 1 pstat) (o + 12) 1 0) (o + 8) 2 (phase + 1)) o 4 = memRead m o 4 := by
    rw [memRead_memWrite_ne _ _ (.inl (by omega)), memRead_memWrite_ne _ _ (.inl (by omega)), memRead_memWrite_ne _ _ (.inl (by omega))]
  constructor
  · rw [phaseDone, memRead_memWrite_ne _ _ (.inr (by omega)), memRead_memWrite _ _ _ w']
  · rw [phaseDone, memRead_memWrite _ _ _ (memWrite_wf _ _ _ w'), hr]
    exact Nat.mod_eq_of_lt (memRead_lt m o 4)

theorem objArrive_phase (st : Nat) (w : W64) : (objArrive s f a st w).1 = objPhase s f a := by
  by_cases h : (if spadRead s f (a + 4) 4 = 0 then 2 ^ 32 - 1 else spadRead s f (a + 4) 4 - 1) = 0
  · exact congrArg Prod.fst (if_pos h)
  · exact congrArg Prod.fst (if_neg h)

theorem objArrive_last {st : Nat} {w : W64} (h : flockOf s f = some fl) (hw : s.mem.spad.wf = true) (hp : spadRead s f (a + 4) 4 = 1) :
    objPhase (objArrive s f a st w).2 f a = (objPhase s f a + 1) % 2 ^ 16 ∧ spadRead (objArrive s f a st w).2 f (a + 4) 4 = spadRead s f a 4 := by
  have h0 : Holds s f fl s.mem.spad := ⟨h, rfl⟩
  have h3 := ((h0.write (a + 13) 1 (max (spadRead s f (a + 12) 1) st)).write (a + 12) 1 0).write (a + 8) 2 (objPhase s f a + 1)
  have h4 := (h3.write (a + 4) 4 (spadRead (spadWrite (spadWrite (spadWrite s f (a + 13) 1 (max (spadRead s f (a + 12) 1) st)) f (a + 12) 1 0) f
    (a + 8) 2 (objPhase s f a + 1)) f a 4)).wakeObject f a w
  rw [h3.read] at h4
  simp only [← Nat.add_assoc] at h4
  have he : (objArrive s f a st w).2 = wakeObject (spadWrite (spadWrite (spadWrite (spadWrite s f (a + 13) 1 (max (spadRead s f (a + 12) 1) st))
      f (a + 12) 1 0) f (a + 8) 2 (objPhase s f a + 1)) f (a + 4) 4 (spadRead (spadWrite (spadWrite (spadWrite s f (a + 13) 1
      (max (spadRead s f (a + 12) 1) st)) f (a + 12) 1 0) f (a + 8) 2 (objPhase s f a + 1)) f a 4)) f a w := by
    simp [objArrive, hp]
  rw [h3.read, ← Nat.add_assoc, ← Nat.add_assoc, ← Nat.add_assoc] at he
  obtain ⟨h8, h4'⟩ := memRead_phaseDone hw (spadBase (padOf fl.core) + a) (objPhase s f a) (max (spadRead s f (a + 12) 1) st)
  rw [he]
  constructor
  · rw [objPhase, h4.read, ← Nat.add_assoc]
    exact h8
  · rw [h4.read, ← Nat.add_assoc, spadRead_of h a 4]
    exact h4'

theorem objArrive_other {st : Nat} {w : W64} (h : flockOf s f = some fl) (hw : s.mem.spad.wf = true) (hp : spadRead s f (a + 4) 4 ≠ 1) :
    objPhase (objArrive s f a st w).2 f a = objPhase s f a ∧
    spadRead (objArrive s f a st w).2 f (a + 4) 4 = (if spadRead s f (a + 4) 4 = 0 then 2 ^ 32 - 1 else spadRead s f (a + 4) 4 - 1) := by
  have h0 : Holds s f fl s.mem.spad := ⟨h, rfl⟩
  have h1 := h0.write (a + 12) 1 (max (spadRead s f (a + 12) 1) st)
  have h2 := h1.write (a + 4) 4 (if spadRead s f (a + 4) 4 = 0 then 2 ^ 32 - 1 else spadRead s f (a + 4) 4 - 1)
  have hlt : spadRead s f (a + 4) 4 < 2 ^ 32 := by
    rw [spadRead_of h]
    exact memRead_lt ..
  have hne : (if spadRead s f (a + 4) 4 = 0 then 2 ^ 32 - 1 else spadRead s f (a + 4) 4 - 1) ≠ 0 := by split <;> omega
  have he : (objArrive s f a st w).2 = _ := congrArg Prod.snd (if_neg hne)
  rw [he]
  constructor
  · rw [objPhase, h2.read, memRead_memWrite_ne _ _ (.inr (by omega)), memRead_memWrite_ne _ _ (.inl (by omega)), objPhase, spadRead_of h]
  · rw [h2.read, memRead_memWrite _ _ _ (memWrite_wf _ _ _ hw)]
    exact Nat.mod_eq_of_lt (by split <;> omega)

end

section
variable {s : State} {k u n : Nat} {x : Arrival}

/-- The state without arrival `k`. -/
def State.dropArrival (s : State) (k : Nat) : State := { s with eng := { s.eng with arrivals := s.eng.arrivals.filter fun y => y.id != k } }

/-- What an arrival that may be applied does (11 R235). -/
def applied (s : State) (x : Arrival) : State :=
  match x.init, x.req.bind (reqOf s) with
  | some e, some q => retire (select (dropReq (releaseObject (objInit s x.flock x.obj e.toNat x.lclk) x.flock x.obj) q.id) q.drove)
  | some e, none => releaseObject (objInit s x.flock x.obj e.toNat x.lclk) x.flock x.obj
  | none, some q => releaseObject (onDrove (dropReq (objArrive s x.flock x.obj x.status x.lclk).2 q.id) q.drove fun d =>
      markS (setS d q.dst (BitVec.ofNat 64 (objArrive s x.flock x.obj x.status x.lclk).1)) q.dst true) x.flock x.obj
  | none, none => releaseObject (objArrive s x.flock x.obj x.status x.lclk).2 x.flock x.obj

theorem asyncObjectArrival_applies (hx : s.eng.arrivals.find? (fun x => x.id == k) = some x) (hr : arrivalReady s x = true) :
    exec (.asyncObjectArrival k) s = .next (finishFlock (applied (s.dropArrival k) x) x.flock) := by
  change execAsyncObjectArrival k s = _
  simp only [execAsyncObjectArrival, hx, hr, Bool.not_true, Bool.false_eq_true, if_false]
  rfl

theorem setChute_length (s : State) (n : Nat) (c : Chute) : (setChute s n c).fl.chutes.length = s.fl.chutes.length := modNth_length ..

theorem serveOne_serves {p : Pop} {ps : List Pop} {w : W64} (hn : n < s.fl.chutes.length) (hp : (chuteOf s.fl n).pops = p :: ps)
    (hc : p.lanes.length ≤ (chuteOf s.fl n).count) :
    (chuteOf (serveOne s n w).fl n).pops = ps ∧ (chuteOf (serveOne s n w).fl n).count = (chuteOf s.fl n).count - p.lanes.length ∧
    (serveOne s n w).mem = s.mem := by
  have hdr : chuteOf (ringDrop s n p.lanes.length).fl n = { chuteOf s.fl n with
      count := (chuteOf s.fl n).count - p.lanes.length, head := ((chuteOf s.fl n).head + p.lanes.length) % (chuteOf s.fl n).cap } :=
    chuteOf_setChute hn _
  have hs : chuteOf (setChute (ringDrop s n p.lanes.length) n { chuteOf (ringDrop s n p.lanes.length).fl n with pops := ps }).fl n =
      { chuteOf (ringDrop s n p.lanes.length).fl n with pops := ps } := chuteOf_setChute (by rw [ringDrop, setChute_length]; exact hn) _
  have hw (t : State) (f : Drove → Drove) (v : Wait → Bool) : (wake (onDrove t p.drove f) p.drove w v).fl = t.fl ∧
      (wake (onDrove t p.drove f) p.drove w v).mem = t.mem := by
    obtain ⟨hfl, -, hmem⟩ := wake_fl (onDrove t p.drove f) p.drove w v
    rw [hfl, hmem]
    simp only [onDrove]
    split <;> exact ⟨rfl, rfl⟩
  rw [hdr] at hs
  simp only [serveOne, hp, if_neg (Nat.not_lt.2 hc), (hw _ _ _).1, (hw _ _ _).2, hdr, hs]
  exact ⟨trivial, trivial, rfl⟩

theorem chutePopServed_serves {f : Nat} {d : Drove} (h : (drovesOf s f).head? = some d) :
    exec (.chutePopServed f n) s = .next (serveOne (select s d.uid) n d.lclk) := by
  change execChutePopServed f n s = _
  simp only [execChutePopServed, h]

theorem chutePushRoom_places {va : Nat} (h : (droveOf s u).bind (pushReady s) = some (n, va)) :
    exec (.chutePushRoom u) s = .next (pushNow (account (fun _ => false) (select s u) 1) n va) := by
  change execChutePushRoom u s = _
  simp only [execChutePushRoom, placePush, h]

theorem bellwetherTurn_turns {d : Drove} (h : droveOf s u = some d) (ht : turnReady s d = true) :
    exec (.bellwetherTurn u) s = .next (onDrove s u fun d => { d with turn := true, cond := .ready }) := by
  change execBellwetherTurn u s = _
  simp only [execBellwetherTurn, h, ht, if_true]

section
variable {d : Drove} {pc : W64}

theorem barrierChecksum_eq (h : droveOf s u = some d) (hpc : d.csumPc = some pc) (hp : isParked s u = false) (hs : d.cond ≠ .stopped)
    (hm : mustStop s d = false) (ho : csumOpen s d = true) : exec (.barrierChecksum u) s = .next (match d.csumReq, csumSeq s d with
      | some r, some q => csumWrite (select s u) pc r q
      | _, _ => csumLoad (select s u) pc) := by
  change execBarrierChecksum u s = _
  simp only [execBarrierChecksum, h, hpc, hp, hs, hm, ho, Option.bind_some, Option.map_some, Bool.not_true, Bool.false_eq_true, or_self, if_false] <;>
    rfl

theorem barrierChecksum_reads (h : droveOf s u = some d) (hpc : d.csumPc = some pc) (hp : isParked s u = false) (hs : d.cond ≠ .stopped)
    (hm : mustStop s d = false) (hq : d.csumReq = none) (hr : checksumReady d = true) (hf : plainFault (csumLog (select s u).dr) 4 = none) :
    let t := select s u
    let q := { Req.fresh t (.lds .o) 4 [Acc.fresh t 0 (csumLog t.dr) 4 0 false] with pc := pc, word := 0 }
    exec (.barrierChecksum u) s = .next (onDr (post t q) fun d => { d with csumReq := some q.id }) := by
  rw [barrierChecksum_eq h hpc hp hs hm (by rw [csumOpen, hq]; exact hr), hq]
  simp only [csumLoad, hf]

theorem barrierChecksum_writes (h : droveOf s u = some d) (hpc : d.csumPc = some pc) (hp : isParked s u = false) (hs : d.cond ≠ .stopped)
    (hm : mustStop s d = false) {r q : Nat} (hr : d.csumReq = some r) (hq : csumSeq s d = some q) (hb : sbcnt s d.uid ≤ 11)
    (ht : ((csumStores (select s u).dr pc q).all fun x => !syncStore (select s u) .o x.1) = true ∨ (select s u).dr.turn = true) :
    exec (.barrierChecksum u) s = .next (onDr ((csumStores (select s u).dr pc q).foldl (csumStore pc) (finishReq (select s u) r)) fun d =>
      { d with csumPc := none, csumReq := none, turn := false }) := by
  have ho : csumOpen s d = true := by
    rw [csumOpen, hr, hq]
    exact decide_eq_true (by omega)
  have hw : ((csumStores (select s u).dr pc q).any (fun x => syncStore (select s u) .o x.1) && !(select s u).dr.turn) = false := by
    rcases ht with ht | ht
    · rw [Bool.and_eq_false_iff]
      exact .inl (by simpa [List.any_eq_false] using ht)
    · simp [ht]
  rw [barrierChecksum_eq h hpc hp hs hm ho, hr, hq]
  simp only [csumWrite, hw, Bool.false_eq_true, if_false]

end

end

/-- Settles O51: each event does what its row says to the first that its premises name. -/
theorem syncServes : Obligations.SyncServes := by
  intro s k u n
  refine ⟨fun x hx hr => ⟨fun q hi hq => ?_, fun hi hq => ?_, fun e q hi hq => ?_⟩, fun f fl a st w h hw => ⟨objArrive_phase st w, fun hp => objArrive_last h hw hp,
      fun hp => objArrive_other h hw hp⟩, fun f d h => chutePopServed_serves h, fun p ps w hn hp hc => serveOne_serves hn hp hc,
    fun va h => chutePushRoom_places h, fun d pc h hpc hp hs hm => ⟨fun hq hr hf => barrierChecksum_reads h hpc hp hs hm hq hr hf,
      fun r q hr hq hb ht => barrierChecksum_writes h hpc hp hs hm hr hq hb ht⟩, rfl, fun d h ht => bellwetherTurn_turns h ht⟩
  · rw [asyncObjectArrival_applies hx hr, applied, hi, show x.req.bind (reqOf (s.dropArrival k)) = some q from hq]
    rfl
  · rw [asyncObjectArrival_applies hx hr, applied, hi, hq]
    rfl
  · rw [asyncObjectArrival_applies hx hr, applied, hi, show x.req.bind (reqOf (s.dropArrival k)) = some q from hq]
    rfl

end Sys2Proof.Machine

namespace Sys2Proof.Machine

set_option Elab.async false

/-! PROOFS. Bulk copies and collectives (11 R244-R252, 18 R385-R392). -/

theorem takeTurn_fixes (s : State) (q : Req) : (takeTurn s q).1.dr = s.dr ∧ (takeTurn s q).1.fl = s.fl ∧ (takeTurn s q).1.mem = s.mem ∧
    (takeTurn s q).1.reqs = s.reqs ∧ (takeTurn s q).1.eng = s.eng := by
  cases h : s.dr.det <;> simp only [takeTurn, h] <;> exact ⟨rfl, rfl, rfl, rfl, rfl⟩

/-- The job that a `cpy` hands to its engine (11 R244). -/
def cpyJob (a b : Nat) (s : State) : CopyJob :=
  let x := takeTurn s (Req.fresh s .abarr 16 [])
  { id := x.2.id, flock := x.1.dr.flock, range := x.1.dr.range, ctx := x.1.dr.ctx, core := x.1.dr.core, drove := x.1.dr.uid,
    droveId := x.1.dr.droveId, pc := x.1.dr.pc, lclk := x.1.dr.lclk, d0 := sreg s.dr (a + 0), d1 := sreg s.dr (a + 1),
    d2 := sreg s.dr (a + 2), d3 := sreg s.dr (a + 3), obj := sreg x.1.dr b, spb := x.1.dr.spb.toNat, spl := x.1.dr.spl.toNat, prog := 0,
    parked := false, orphan := false, turnAt := x.2.turnAt }

/-- The state with one more job for the copy engine. -/
def cpyPosted (a b : Nat) (s : State) : State :=
  let t := (takeTurn s (Req.fresh s .abarr 16 [])).1
  { t with uid := t.uid + 1, eng := { t.eng with copies := t.eng.copies ++ [cpyJob a b s] } }

section
variable {s : State} {a b : BitVec 6}

theorem cpy_eq : exec (.cpy a b) s = .next (issueIf { uses := [{ cls := .scl, base := a.toNat, n := 4, align := 4 }, srcS b.toNat], sync := true }
    (copyVerdict a.toNat b.toNat) s fun s => retire (cpyPosted a.toNat b.toNat s)) := rfl

theorem cpy_goes (hf : fits s [{ cls := .scl, base := a.toNat, n := 4, align := 4 }, srcS b.toNat] = true) (hg : mayGo s = true)
    (hv : copyVerdict a.toNat b.toNat s = .go) :
    ∃ (u : State) (c : CopyJob), exec (.cpy a b) s = .next u ∧ u.eng.copies = s.eng.copies ++ [c] ∧ c.d0 = sreg s.dr (a.toNat + 0) ∧
      c.d1 = sreg s.dr (a.toNat + 1) ∧ c.d2 = sreg s.dr (a.toNat + 2) ∧ c.d3 = sreg s.dr (a.toNat + 3) ∧ c.obj = sreg s.dr b.toNat ∧ c.prog = 0 ∧
      c.drove = s.dr.uid ∧ c.pc = s.dr.pc ∧ u.dr.pc = (retire s).dr.pc ∧ u.dr.s = s.dr.s ∧ u.dr.v = s.dr.v ∧ u.mem = s.mem ∧ u.reqs = s.reqs := by
  obtain ⟨fit, he⟩ := takes_of_go cpy_eq rfl (verdict_sync hf hg) hv
  have hu := issued_recorded fit s [{ cls := .scl, base := a.toNat, n := 4, align := 4 }, srcS b.toNat] 1
  generalize issued fit s [{ cls := .scl, base := a.toNat, n := 4, align := 4 }, srcS b.toNat] 1 = u at he hu
  obtain ⟨hdr, -, hmem, hreqs, heng⟩ := takeTurn_fixes u (Req.fresh u .abarr 16 [])
  obtain ⟨o, hd⟩ := hu.dr
  obtain ⟨hmem', -, -, hreqs', -, -, -, -, heng', -⟩ := hu.rest
  have h := (Recorded.refl (retire (cpyPosted a.toNat b.toNat u))).retires (s := s) (hdr.trans hd)
  obtain ⟨hpc, ⟨hs, hv⟩, -, hm, hr, he'⟩ := h
  refine ⟨_, cpyJob a.toNat b.toNat u, he, ?_, hu.sreg _, hu.sreg (a.toNat + 1), hu.sreg (a.toNat + 2), hu.sreg (a.toNat + 3), ?_, rfl, ?_, ?_,
    hpc, hs, hv,
    hm.trans (hmem.trans hmem'), hr.trans (hreqs.trans hreqs')⟩
  · rw [he']
    exact congrArg (fun e : Engines => e.copies ++ [cpyJob a.toNat b.toNat u]) (heng.trans heng')
  · rw [cpyJob, hdr]
    exact hu.sreg _
  · rw [cpyJob, hdr, hd]
    rfl
  · rw [cpyJob, hdr, hd]
    rfl

end

section
variable {s : State} {k : Nat} {c : CopyJob}

theorem copyComplete_ends (hc : s.eng.copies.find? (fun c => c.id == k) = some c) (hr : copyReady s c = true) {u : State} {n : Nat}
    (h : copyRun s c = (u, n, none)) : exec (.copyComplete k) s = .next (endCopy u c 0) := by
  change execCopyComplete k s = _
  simp only [execCopyComplete, hc, hr, h, Bool.not_true, Bool.false_eq_true, if_false]

theorem copyFault_ends (hc : s.eng.copies.find? (fun c => c.id == k) = some c) (hr : copyReady s c = true) {u : State} {n va : Nat}
    {x : BitVec 8} (hx : x ≠ 0x10) (hx' : x ≠ 0x16) (h : copyRun s c = (u, n, some (x, va))) :
    exec (.copyFault k) s = .next (endCopy u c (if x = 0x13 then 5 else 4)) := by
  change execCopyFault k s = _
  simp only [execCopyFault, hc, hr, h, hx, hx', Bool.not_true, Bool.false_eq_true, or_self, if_false]

theorem copyFault_parks (hc : s.eng.copies.find? (fun c => c.id == k) = some c) (hr : copyReady s c = true) {u : State} {n va : Nat}
    {x : BitVec 8} (hx : x = 0x10 ∨ x = 0x16) (h : copyRun s c = (u, n, some (x, va))) : ∃ (v : State) (p : Park),
    exec (.copyFault k) s = .next v ∧ v.sch.parks = u.sch.parks ++ [p] ∧ p.kind = 6 ∧ p.cause = x ∧ p.va = va ∧ p.req = some c.id ∧
      v.mem = u.mem := by
  let t := enterPark u { Park.start 6 x c.ctx va with drove := c.drove, droveId := c.droveId, pc := c.pc, req := some c.id }
  refine ⟨{ t with eng := { t.eng with copies := mapIf (fun y => y.id == k) (fun y => { y with prog := n, parked := true }) t.eng.copies } },
    _, ?_, rfl, rfl, rfl, rfl, rfl, rfl⟩
  change execCopyFault k s = _
  simp only [execCopyFault, hc, hr, h, if_pos hx, Bool.not_true, Bool.false_eq_true, if_false]
  rfl

theorem endCopy_arrives {st : Nat} (h : c.orphan = false) : ∃ x : Arrival, (endCopy s c st).eng.arrivals = s.eng.arrivals ++ [x] ∧
    x.obj = c.obj.toNat ∧ x.status = st ∧ x.flock = c.flock ∧ (endCopy s c st).mem = s.mem := by
  simp only [endCopy, h, Bool.false_eq_true, if_false]
  exact ⟨_, rfl, rfl, rfl, rfl, trivial⟩

end

section
variable {s u : State} {p : CollPacket}

/-- A packet whose sender is not bound cancels its collective; a cancel does nothing (18 R388). -/
theorem packet_unbound (h : packetBound s p = false) :
    exec (.collPhase0Packet p) s = .next (cancelBy (unhold s 0x10 p).2 p) ∧
    exec (.collDataPacket p) s = .next (cancelBy (unhold s 0x11 p).2 p) ∧
    exec (.collResultPacket p) s = .next (cancelBy (unhold s 0x12 p).2 p) ∧
    exec (.collCancelPacket p) s = .next s := by
  refine ⟨?_, ?_, ?_, ?_⟩ <;> change (.next _ : Out) = _ <;>
    simp only [h, Bool.not_false, Bool.false_eq_true, if_true, if_false]

theorem phase0Packet_eq (hb : packetBound s p = true) (hu : (unhold s 0x10 p).2 = u)
    (hr : ∀ m ∈ collMembers u (BitVec.ofNat 16 p.ctx) p.group p.seq, m.2.table ≠ [] → m.2.arg.depth ≠ p.level) :
    exec (.collPhase0Packet p) s = .next (match memberAt u p (p.node / 2 * 2 ^ (p.level + 1)) with
      | none => holdPacket u 0x10 p none
      | some (_, c) =>
        if c.digest ≠ p.digest then mismatch u c.id
        else if c.maxima.any fun x => x.1 == p.level && x.2.1 == p.node then u
        else climb c.id 12 (onColl u c.id fun c' => { c' with maxima := c'.maxima ++ [(p.level, p.node,
          if c.arg.exact then maximaOf c.arg.blocks p.payload else [])] }) 0) := by
  have hroots : ((collMembers u (BitVec.ofNat 16 p.ctx) p.group p.seq).filter fun m => !m.2.table.isEmpty && m.2.arg.depth == p.level).isEmpty = true := by
    rw [List.isEmpty_iff, List.filter_eq_nil_iff]
    intro m hm
    have := hr m hm
    simpa [List.isEmpty_iff] using this
  change execCollPhase0Packet p s = _
  simp only [execCollPhase0Packet, hb, hu, hroots, Bool.not_true, Bool.false_eq_true, and_false, if_false] <;> rfl

theorem dataPacket_takes (hb : packetBound s p = true) {n : Option CollNode} (hu : unhold s 0x11 p = (n, u)) :
    exec (.collDataPacket p) s = .next (takeData u p n) := by
  change execCollDataPacket p s = _
  simp only [execCollDataPacket, hb, hu, if_true]

theorem resultPacket_eq (hb : packetBound s p = true) {n : Option CollNode} (hu : unhold s 0x12 p = (n, u)) {f : Flock} {c : CollOp}
    (hm : memberAt u p (p.node * 2 ^ p.level) = some (f, c)) :
    exec (.collResultPacket p) s = .next (if c.digest ≠ p.digest then countRecord u 0x1A47 0 64
      else takeResult u c.id (n.getD (nodeFromPacket c.arg (c.agreed.getD []) p false)) p.level) := by
  change execCollResultPacket p s = _
  simp only [execCollResultPacket, hb, hu, hm, Bool.not_true, Bool.false_eq_true, if_false]

theorem cancelPacket_held (hb : packetBound s p = true) (hh : s.eng.held.any (fun h => h.ptype == 0x13 && h.pkt == p) = false) :
    ∃ t, exec (.collCancelPacket p) s = .next t ∧
      (collMembers s (BitVec.ofNat 16 p.ctx) p.group p.seq = [] → t = holdPacket s 0x13 p none) := by
  refine ⟨_, rfl, fun hm => ?_⟩
  have hm' : collMembers (holdPacket s 0x13 p none) (BitVec.ofNat 16 p.ctx) p.group p.seq = [] := hm
  simp only [hb, hh, Bool.not_true, Bool.false_eq_true, if_false, hm', List.foldl_nil]

theorem reduceFlockDispatch_raises {k level node chunk : Nat} {f : Flock} {c : CollOp} {n : CollNode} (hc : collOf s k = some (f, c))
    (hr : reduceReady c level node chunk = true) (hn : (kidsOf c level node chunk).bind (combineNode c.arg level node chunk) = some n) :
    exec (.reduceFlockDispatch k level node chunk) s = .next (raiseNode s k n []) := by
  change execReduceFlockDispatch k level node chunk s = _
  simp only [execReduceFlockDispatch, hc, hr, hn, Bool.not_true, Bool.false_eq_true, if_false]

end

/-- The operation that a `coll` begins when no other drove of its flock has issued it (11 R252). -/
def collOp (t a b : Nat) (s : State) : CollOp :=
  let x := takeTurn s (Req.fresh s .abarr 16 [])
  let y := collArgs s.dr t a b
  { id := x.1.uid, group := y.group, seq := (countGroup x.1.fl y.group).1, also := [], args := [(x.1.dr.idx, y)], drove := x.1.dr.uid,
    droveId := x.1.dr.droveId, pc := x.1.dr.pc, started := false, bad := false, table := [], digest := 0, parked := false, contrib := [],
    maxima := [], sentUp := false, agreed := none, nodes := [], results := [], status := none, lclk := x.1.dr.lclk, issued := x.2.turnAt,
    turnAt := 0 }

/-- The flock of a drove that has issued a `coll`: the operation is there, and its tiles are empty. -/
def collFlock (c : CollOp) (y : CollArgs) (f : Flock) : Flock :=
  let g := y.tiles.foldl (fun f x => markT f x false) { (countGroup f y.group).2 with colls := f.colls ++ [c] }
  { g with tileOwner := y.tiles.map (fun x => (x, 0)) ++ g.tileOwner.filter fun (o : Nat × Nat) => !y.tiles.contains o.1 }

def collPosted (t a b : Nat) (s : State) : State :=
  let x := takeTurn s (Req.fresh s .abarr 16 [])
  onFl { x.1 with uid := x.1.uid + 1 } (collFlock (collOp t a b s) (collArgs s.dr t a b))

theorem foldl_markT_empty {y : Nat} (ts : List Nat) {f : Flock} (h : y ∈ ts ∨ f.tfull.getLsbD y = false) :
    (ts.foldl (fun f x => markT f x false) f).tfull.getLsbD y = false := by
  induction ts generalizing f with
  | nil => exact h.resolve_left (List.not_mem_nil)
  | cons x ts ih =>
    refine ih ?_
    by_cases hx : y = x
    · exact .inr (hx ▸ markT_empty f x)
    · rcases h with h | h
      · exact .inl ((List.mem_cons.1 h).resolve_left hx)
      · exact .inr (markT_keeps_empty x h)

theorem foldl_markT_colls (ts : List Nat) (f : Flock) : (ts.foldl (fun f x => markT f x false) f).colls = f.colls := by
  induction ts generalizing f with
  | nil => rfl
  | cons x ts ih => exact ih _

section
variable {s : State} {t : BitVec 4} {a b : BitVec 6}

/-- The checks of a `coll` (11 R251). -/
def collChk (t a b : Nat) (d : Drove) : Chk :=
  { uses := [{ cls := .scl, base := a, n := 4, align := 4 }, srcS b], bad := decide (d.ntiles ≤ t), noShep := true,
    typ := modeET d.mode == 0 || modeET d.mode == 3, conv := true }

theorem coll_takes (hshep : s.dr.shepherd = false) (hf : fits s [{ cls := .scl, base := a.toNat, n := 4, align := 4 }, srcS b.toNat] = true)
    (hm : masksFull s = true) (ha : activeMask s.dr = s.dr.pres) (ht : modeET s.dr.mode = 0 ∨ modeET s.dr.mode = 3) (hn : t.toNat < s.dr.ntiles)
    (hv : collVerdict t.toNat a.toNat b.toNat s = .go) (hj : joinable s.fl s.dr.idx = none) :
    Takes (.coll t a b) s [{ cls := .scl, base := a.toNat, n := 4, align := 4 }, srcS b.toNat] fun u =>
      startColl (retire (collPosted t.toNat a.toNat b.toNat u)) (collOp t.toNat a.toNat b.toNat u).id := by
  have htyp : (modeET s.dr.mode == 0 || modeET s.dr.mode == 3) = true := by rcases ht with ht | ht <;> rw [ht] <;> rfl
  have hgo : verdict (collChk t.toNat a.toNat b.toNat s.dr) s = .go :=
    verdict_go hf (by rw [hshep]; rfl) rfl (decide_eq_false (Nat.not_le.2 hn)) rfl htyp (.inr ⟨hm, ha⟩) (.inl rfl) (.inl rfl)
  refine takes_of_recorded (i := .coll t a b) (c := collChk t.toNat a.toNat b.toNat s.dr) rfl rfl hgo hv fun u hu => ?_
  have hj' : joinable (takeTurn u (Req.fresh u .abarr 16 [])).1.fl (takeTurn u (Req.fresh u .abarr 16 [])).1.dr.idx = none := by
    obtain ⟨hdr, hfl, -⟩ := takeTurn_fixes u (Req.fresh u .abarr 16 [])
    obtain ⟨o, hd⟩ := hu.dr
    obtain ⟨k, hk⟩ := hu.fl
    rw [hdr, hfl, hd, hk]
    exact hj
  simp only [hj']
  rfl

theorem coll_goes (hshep : s.dr.shepherd = false) (hf : fits s [{ cls := .scl, base := a.toNat, n := 4, align := 4 }, srcS b.toNat] = true)
    (hm : masksFull s = true) (ha : activeMask s.dr = s.dr.pres) (ht : modeET s.dr.mode = 0 ∨ modeET s.dr.mode = 3) (hn : t.toNat < s.dr.ntiles)
    (hv : collVerdict t.toNat a.toNat b.toNat s = .go) (hj : joinable s.fl s.dr.idx = none) :
    let x := collArgs s.dr t.toNat a.toNat b.toNat
    ∃ (u : State) (c : CollOp), exec (.coll t a b) s = .next (startColl u c.id) ∧ u.fl.colls = s.fl.colls ++ [c] ∧ c.group = x.group ∧
      c.seq = ((s.fl.collSeq.find? fun y => y.1 == x.group).map (·.2)).getD 0 ∧ c.args = [(s.dr.idx, x)] ∧ c.started = false ∧
      u.dr.pc = (retire s).dr.pc ∧ u.dr.s = s.dr.s ∧ u.mem = s.mem ∧ ∀ y ∈ x.tiles, u.fl.tfull.getLsbD y = false := by
  obtain ⟨fit, he⟩ := coll_takes hshep hf hm ha ht hn hv hj
  have hu := issued_recorded fit s [{ cls := .scl, base := a.toNat, n := 4, align := 4 }, srcS b.toNat] 1
  generalize issued fit s [{ cls := .scl, base := a.toNat, n := 4, align := 4 }, srcS b.toNat] 1 = u at he hu
  obtain ⟨hdr, hfl, hmem, -⟩ := takeTurn_fixes u (Req.fresh u .abarr 16 [])
  obtain ⟨o, hd⟩ := hu.dr
  obtain ⟨k, hk⟩ := hu.fl
  have hx : collArgs u.dr t.toNat a.toNat b.toNat = collArgs s.dr t.toNat a.toNat b.toNat := by rw [hd]; rfl
  obtain ⟨hpc, ⟨hs, -⟩, ⟨n, hn⟩, hm', -, -⟩ :=
    (Recorded.refl (retire (collPosted t.toNat a.toNat b.toNat u))).retires (s := s) (hdr.trans hd)
  have hfl' : (collPosted t.toNat a.toNat b.toNat u).fl =
      collFlock (collOp t.toNat a.toNat b.toNat u) (collArgs s.dr t.toNat a.toNat b.toNat) u.fl := by
    rw [← hx, ← hfl]
    rfl
  refine ⟨_, _, he, ?_, ?_, ?_, ?_, rfl, hpc, hs, hm'.trans (hmem.trans hu.rest.1), fun y hy => ?_⟩
  · rw [hn, hfl', hk]
    exact foldl_markT_colls _ _
  · rw [collOp, hx]
  · rw [collOp, hfl, hk, hx]
    rfl
  · rw [collOp, hdr, hx, hd]
    rfl
  · rw [hn, hfl']
    exact foldl_markT_empty _ (.inl hy)

end

section
variable {s : State}

theorem switchCombine_judges {x y p : CollPacket} (hp : p.srcDev = fabid s ∨ packetBound s p = true) (hr : x.routine ≠ 0)
    (hy : y.node = x.node + 1) (hx : x.node = 2 * p.node)
    (hz : ∀ z ∈ [y, p], z.group = x.group ∧ z.seq = x.seq ∧ z.chunk = x.chunk ∧ z.routine = x.routine ∧ z.digest = x.digest ∧ z.opfld = x.opfld)
    (hl : y.level = x.level) (hpl : p.level = x.level + 1) {c : CollOp} (hc : switchMember s p = some c) :
    exec (.switchCombine x y p) s = .next (if switchPayload c.arg (c.agreed.getD []) x y p = some p.payload then takeData
      { s with dev := { s.dev with packets := s.dev.packets.filter fun z => !(z.2.2 == x || z.2.2 == y) } } p none else s) := by
  obtain ⟨hg, hq, hch, hro, hdi, hop⟩ := hz y (by simp)
  obtain ⟨hg', hq', hch', hro', hdi', hop'⟩ := hz p (by simp)
  have hbound : (p.srcDev == fabid s || packetBound s p) = true := by
    rcases hp with hp | hp <;> simp [hp]
  have hne : (x.routine != 0) = true := bne_iff_ne.2 hr
  change execSwitchCombine x y p s = _
  simp only [execSwitchCombine, hg, hq, hch, hro, hdi, hop, hg', hq', hch', hro', hdi', hop', hl, hpl, hy, ← hx, hbound, hne, hc,
    beq_self_eq_true, Bool.and_self, Bool.true_and, Option.any_some, beq_iff_eq]

/-- A park enters the list as it is, but for its identity and its time (17 R367). -/
theorem enterPark_start (s : State) (x : Park) : ∃ p, (enterPark s x).sch.parks = s.sch.parks ++ [p] ∧ p.kind = x.kind ∧ p.cause = x.cause ∧
    p.va = x.va ∧ p.req = x.req := ⟨_, rfl, rfl, rfl, rfl, rfl⟩

theorem parks_of_sameSide {z s : State} (h : z.sameSide s) : s.sch.parks = z.sch.parks := by
  obtain ⟨-, -, -, -, -, -, hp, -⟩ := h
  exact hp

theorem putImage_parks (s : State) (v : Saved) : (putImage s v).2.sch.parks = s.sch.parks :=
  parks_of_sameSide (vaPut_side s s v.flock.ctx (slotVa s v.flock.ctx v.slot) (imageBytes s v) none (sameSide_refl s))

theorem onSaved_parks (s : State) (u : Nat) (f : Saved → Saved) : (onSaved s u f).sch.parks = s.sch.parks := by
  simp only [onSaved]
  split
  · rfl
  · exact putImage_parks _ _

theorem onColl_parks (s : State) (k : Nat) (f : CollOp → CollOp) : (onColl s k f).sch.parks = s.sch.parks := by
  simp only [onColl]
  split
  · simp only [onAnyFlock]
    split
    · simp only [onFlock]
      split <;> rfl
    · exact onSaved_parks _ _ _
  · rfl

section
variable {k : Nat} {f : Flock} {c : CollOp} {u : State}

theorem collGroupTableFault_eq (hc : collOf s k = some (f, c)) (hs : c.started = true) (ht : c.table = []) (hp : c.parked = false)
    (hb : c.bad = false) : exec (.collGroupTableFault k) s = .next (match readTable s f.ctx c.arg with
      | (.inl _, s) => lastTurn (phase0 s k) k
      | (.inr (cause, va), s) =>
        if cause ≠ 0x10 ∧ cause ≠ 0x12 then lastTurn (mismatch s k) k
        else onColl (enterPark (if cause = 0x12 then countRecord s 0x1A12 0 64 else s) { Park.start 10 cause f.ctx va with
          drove := c.drove, droveId := c.droveId, pc := c.pc, req := some k }) k fun x => { x with parked := true }) := by
  change execCollGroupTableFault k s = _
  simp only [execCollGroupTableFault, hc, hs, ht, hp, hb, List.isEmpty_nil, Bool.not_true, Bool.false_eq_true, or_self, if_false] <;> rfl

theorem collGroupTableFault_reads (hc : collOf s k = some (f, c)) (hs : c.started = true) (ht : c.table = []) (hp : c.parked = false)
    (hb : c.bad = false) :
    (∀ bs, readTable s f.ctx c.arg = (.inl bs, u) → exec (.collGroupTableFault k) s = .next (lastTurn (phase0 u k) k)) ∧
    (∀ x va, x ≠ 0x10 → x ≠ 0x12 → readTable s f.ctx c.arg = (.inr (x, va), u) →
      exec (.collGroupTableFault k) s = .next (lastTurn (mismatch u k) k)) ∧
    (∀ x va, x = 0x10 ∨ x = 0x12 → readTable s f.ctx c.arg = (.inr (x, va), u) → ∃ (v : State) (p : Park),
      exec (.collGroupTableFault k) s = .next v ∧ v.sch.parks = u.sch.parks ++ [p] ∧ p.kind = 10 ∧ p.cause = x ∧ p.va = va ∧ p.req = some k) := by
  have he := collGroupTableFault_eq hc hs ht hp hb
  refine ⟨fun bs h => ?_, fun x va h1 h2 h => ?_, fun x va hx h => ?_⟩ <;> rw [h] at he
  · exact he
  · exact he.trans (congrArg _ (if_pos ⟨h1, h2⟩))
  · have hno : ¬ (x ≠ 0x10 ∧ x ≠ 0x12) := fun ⟨h1, h2⟩ => hx.elim h1 h2
    obtain ⟨p, hp, hk, hcause, hva, hreq⟩ := enterPark_start (if x = 0x12 then countRecord u 0x1A12 0 64 else u)
      { Park.start 10 x f.ctx va with drove := c.drove, droveId := c.droveId, pc := c.pc, req := some k }
    refine ⟨_, p, he.trans (congrArg _ (if_neg hno)), (onColl_parks ..).trans (hp.trans ?_), hk, hcause, hva, hreq⟩
    split <;> rfl

theorem readTable_stops {ctx : BitVec 16} {a : CollArgs} {y : BitVec 8 × Nat} (hr : routeOf (localOf s a.d3.toNat) ≠ 1)
    (h : firstStop s ctx a.d3.toNat (8 * a.ranks) = some y) : readTable s ctx a = (.inr y, s) := by
  simp only [readTable, if_neg hr, h]

end

end

/-- Settles O52: an engine does what its row says of the first job, node or member that the premises name. -/
theorem engineResult : Obligations.EngineResult := by
  intro s a b t k quad r
  refine ⟨fun hf hg hv => cpy_goes hf hg hv, fun hs hf hm ha ht hn hv _ hj => coll_goes hs hf hm ha ht hn hv hj,
    fun c hc hr => ⟨fun u n h => copyComplete_ends hc hr h, fun u n x va h1 h2 h => copyFault_ends hc hr h1 h2 h,
      fun u n x va hx h => copyFault_parks hc hr hx h⟩, fun c st h => endCopy_arrives h, fun p h => packet_unbound h,
    fun p u hb => ⟨fun hu hr => ⟨fun hm => ?_, fun f c hm => ⟨fun hd => ?_, fun hd hx => ?_⟩⟩, fun n hu => dataPacket_takes hb hu,
      fun n hu f c hm => ⟨fun hd => ?_, fun hd => ?_⟩, fun hh => cancelPacket_held hb hh⟩,
    fun level node chunk f c hc hr n hn => reduceFlockDispatch_raises hc hr hn,
    fun x y p hp hr hy hx hz hl hpl c hc => switchCombine_judges hp hr hy hx hz hl hpl hc,
    fun f c u hc hs ht hp hb => ?_⟩
  · rw [phase0Packet_eq hb hu hr, hm]
  · rw [phase0Packet_eq hb hu hr, hm]
    exact congrArg _ (if_pos hd)
  · have hany : (c.maxima.any fun x => x.1 == p.level && x.2.1 == p.node) = false := by
      simpa [List.any_eq_false] using fun a b d hm hl => hx (a, b, d) hm hl
    rw [phase0Packet_eq hb hu hr, hm]
    exact congrArg _ ((if_neg (not_not.2 hd)).trans (if_neg (by rw [hany]; exact Bool.false_ne_true)))
  · rw [resultPacket_eq hb hu hm, if_neg (not_not.2 hd)]
  · rw [resultPacket_eq hb hu hm, if_pos hd]
  · obtain ⟨h1, h2, h3⟩ := collGroupTableFault_reads (u := u) hc hs ht hp hb
    exact ⟨h1, h2, h3, fun y hy h => readTable_stops hy h⟩

end Sys2Proof.Machine

namespace Sys2Proof.Machine

set_option Elab.async false

/-! PROOFS. Writing a control-store slot (11 R258, R259). -/

section
variable {s t u v : State} {h bs : List Byte} {c : BitVec 16} {va slot : Nat} {code : List W64}

/-- The image in memory of a slot's code: its entries, filled up with zeros (11 R259). -/
def slotImage (code : List W64) : List Byte := code.flatMap (fun e => leBytes 8 e.toNat) ++ List.replicate (256 - 8 * code.length) 0

/-- The step entries that the bytes of an image hold. -/
def imageCode (n : Nat) (bs : List Byte) : List W64 := (List.range n).map fun j => BitVec.ofNat 64 (leNat ((bs.drop (8 * j)).take 8))

theorem putSlot_holds (s : State) (c : BitVec 16) (slot : Nat) (code : List W64) :
    ∀ k ∈ (putSlot s c slot code).coh.cores, k.cstore = some c → (k.slots.find? fun y => y.1 == slot) = some (slot, code) := by
  intro k hk hc
  obtain ⟨k', -, rfl⟩ := List.mem_map.1 hk
  by_cases h : k'.cstore = some c
  · simp [if_pos h]
  · simp only [if_neg h] at hc
    exact absurd hc h

theorem loadImage_retires (hc : s.dr.ctx = c)
    (hp : vaPut s c (csbField s c 0x40 8 + 256 * slot) (slotImage code) = (none, t))
    (hr : callRunning (putSlot (setCsbField t c 0 4 (csbField t c 0 4 ||| 2)) c slot code) c slot code = false) :
    loadImage s slot code = retire (putSlot (setCsbField t c 0 4 (csbField t c 0 4 ||| 2)) c slot code) := by
  subst hc
  unfold slotImage at hp
  simp only [loadImage, hp, hr, Bool.false_eq_true, if_false]

theorem findSome_stepCause_none (h : ∀ e ∈ code, stepCause e.toNat = none) :
    (code.zipIdx.findSome? fun x => (stepCause x.1.toNat).map fun c => (c, x.2)) = none := by
  refine List.findSome?_eq_none_iff.2 fun x hx => ?_
  rw [h x.1 (List.fst_mem_of_mem_zipIdx hx), Option.map_none]

/-- An image whose header and steps are in order is loaded (11 R258, R259). -/
theorem takeImage_loads (hh : vaRead s s.dr.ctx va 8 = (.inl h, t)) (hz : leNat h &&& (2 ^ 64 - 1 - 0x1F7F) = 0)
    (hb : vaRead t t.dr.ctx (va + 8) (8 * (bits (leNat h) 12 8 + 1)) = (.inl bs, u))
    (hk : ∀ e ∈ imageCode (bits (leNat h) 12 8 + 1) bs, stepCause e.toNat = none) :
    takeImage s va = loadImage u (bits (leNat h) 6 0) (imageCode (bits (leNat h) 12 8 + 1) bs) := by
  have hn := findSome_stepCause_none hk
  unfold imageCode at hn ⊢
  simp only [takeImage, hh, hz, hb, hn, ne_eq, not_true_eq_false, if_false]

/-- The checks of `mcw` on its drove (11 R258, R259, R440). -/
def mcwChk (a : BitVec 6) : Chk := { uses := [srcS a.toNat], priv := true }

/-- What `mcw` finds before it issues (11 R258, R259, R440). -/
def mcwVerdict (a : BitVec 6) (s : State) : Verdict :=
  match s.dr.cond with
  | .waiting (.calls slot) => waitIf (callRunning s s.dr.ctx slot (imageSlot s s.dr.ctx slot)) (.calls slot)
  | _ => firstOf [stopIf ((sreg s.dr a.toNat).toNat % 8 != 0) 0x14 0 (sreg s.dr a.toNat).toNat, stopIf (csbField s s.dr.ctx 0x40 8 == 0) 0x02]

/-- What `mcw` does once it has issued (11 R259). -/
def mcwRun (a : BitVec 6) (s : State) : State :=
  match s.dr.cond with
  | .waiting (.calls _) => retire s
  | _ => takeImage s (sreg s.dr a.toNat).toNat

theorem mcw_eq (a : BitVec 6) : exec (.mcw a) s = .next (issueIf (mcwChk a) (mcwVerdict a) s (mcwRun a)) := rfl

theorem mcwVerdict_go {a : BitVec 6} (hw : ∀ t, s.dr.cond ≠ .waiting t) (ha : (sreg s.dr a.toNat).toNat % 8 = 0)
    (hc : csbField s s.dr.ctx 0x40 8 ≠ 0) : mcwVerdict a s = .go := by
  have hc' : (csbField s s.dr.ctx 0x40 8 == 0) = false := beq_eq_false_iff_ne.2 hc
  unfold mcwVerdict
  split
  · next h => exact absurd h (hw _)
  · simp only [ha, hc', stopIf]
    rfl

theorem mcwRun_takes {a : BitVec 6} (hw : ∀ t, s.dr.cond ≠ .waiting t) (hu : Recorded s u) :
    mcwRun a u = takeImage u (sreg s.dr a.toNat).toNat := by
  obtain ⟨o, hd⟩ := hu.dr
  have hcond : u.dr.cond = (s.dr.recorded o).cond := congrArg Drove.cond hd
  unfold mcwRun
  split
  · next h => exact absurd (hcond.symm.trans h) (hw _)
  · rw [hu.sreg]

end

/-- Settles O54: the image passes its checks, is stored, and reaches every core that holds the store. -/
theorem controlStoreWrite : Obligations.ControlStoreWrite := by
  intro s a va ctx hf hp hw ha hc
  obtain ⟨fit, he⟩ := takes_of_recorded (mcw_eq a) rfl (verdict_go (c := mcwChk a) hf rfl (by simp [mcwChk, hp]) rfl rfl rfl (.inl rfl) (.inl rfl) (.inl rfl))
    (mcwVerdict_go hw ha hc) (fun u hu => mcwRun_takes hw hu)
  have hu := issued_recorded fit s [srcS a.toNat] 1
  obtain ⟨o, hd⟩ := hu.dr
  have hctx : (issued fit s [srcS a.toNat]).dr.ctx = ctx := (congrArg Drove.ctx hd : _ = (s.dr.recorded o).ctx)
  refine ⟨fit, ?_⟩
  intro h t hh htc hz bs t' n slot code hb hk image t'' hput htc' v hr
  refine ⟨he.trans (congrArg _ ?_), putSlot_holds _ _ _ _⟩
  exact (takeImage_loads (hctx.symm ▸ hh) hz (htc.symm ▸ hb) hk).trans (loadImage_retires htc' hput hr)

end Sys2Proof.Machine

namespace Sys2Proof.Machine

set_option Elab.async false

/-! PROOFS. The return from a stop (11 R256, 17 R363-R366). -/

/-- A drove with the register that PNUM names patched; none where the patch is refused (17 R366). -/
def patchedBy (d : Drove) (fr : Nat) : Option Drove :=
  if recField fr 0x40 1 = 0 then some d
  else if patchable (recField fr 0x40 1) then userWrite d (recField fr 0x40 1) (BitVec.ofNat 64 (recField fr 0x48 8)) else none

/-- A stopped drove goes on at RESUME, as its record `fr` says (17 R365, R366). -/
def resumeBy (s : State) (d : Drove) (st : Stop) (x : Drove) (fr : Nat) : State :=
  let action := recField fr 0x38 8 % 4
  let y := resumeDr x st (BitVec.ofNat 64 (recField fr 0x38 8 / 4 * 4)) action s.cycle
  let v := onAnyDrove s d fun _ => y
  let v := if y.pc = d.pc ∧ y.micro = d.micro then v else onAnyFlock v d.flock fun f => leaveRounds f d.idx
  match st.deliver with
  | some k => settlePark v d k action
  | none => v

/-- The flock of a stopped drove ends, in residence or saved (17 R365). -/
def endBy (s : State) (d : Drove) : State := if (droveOf s d.uid).isSome then terminate s d.flock 2 else terminateSaved s d.flock 2

/-- What `eret` does with the record of the stopped drove (17 R366). -/
def applyRecord (s : State) (h : W64) (d : Drove) (st : Stop) (fr : Nat) : State :=
  if recField fr 6 2 ≠ csbField s d.ctx 4 2 ∨ recField fr 0x0C 4 ≠ h.toNat % 2 ^ 32 ∨ recField fr 0x38 8 % 4 = 3 then stopHere s 0x02 0 0
  else
    match patchedBy d fr with
    | none => stopHere s 0x02 0 0
    | some x => if recField fr 0x38 8 % 4 = 2 then endBy (retire s) d else resumeBy (retire s) d st x fr

/-- What `eret` does once it has issued (11 R256). -/
def eretRun (s : State) : State :=
  match stoppedDrove s (privReg s 0xC2) with
  | none => stopHere s 0x02 0 0
  | some (d, st) => applyRecord (faultRecord s d).2 (privReg s 0xC2) d st (faultRecord s d).1

theorem eret_eq (s : State) : exec .eret s = .next (issue { priv := true } s eretRun) := rfl

section
variable {s t : State} {h : W64} {d x : Drove} {st : Stop} {fr : Nat} {bs : List Byte}

theorem eretRun_none (hs : stoppedDrove s (privReg s 0xC2) = none) : eretRun s = stopHere s 0x02 0 0 := by
  simp only [eretRun, hs]

theorem eretRun_record (hs : stoppedDrove s (privReg s 0xC2) = some (d, st)) (hr : vaRead s d.ctx d.frec.toNat 128 = (.inl bs, t)) :
    eretRun s = applyRecord t (privReg s 0xC2) d st (leNat bs) := by
  simp only [eretRun, hs, faultRecord, hr]

theorem applyRecord_refuses (hb : recField fr 0x38 8 % 4 = 3 ∨ recField fr 0x0C 4 ≠ h.toNat % 2 ^ 32 ∨ recField fr 6 2 ≠ csbField s d.ctx 4 2 ∨
    patchedBy d fr = none) : applyRecord s h d st fr = stopHere s 0x02 0 0 := by
  unfold applyRecord
  split
  · rfl
  · next hg =>
    have hp : patchedBy d fr = none := by
      rcases hb with hb | hb | hb | hb
      · exact absurd (.inr (.inr hb)) hg
      · exact absurd (.inr (.inl hb)) hg
      · exact absurd (.inl hb) hg
      · exact hb
    rw [hp]

theorem applyRecord_fits (hc : recField fr 6 2 = csbField s d.ctx 4 2) (hq : recField fr 0x0C 4 = h.toNat % 2 ^ 32)
    (ha : recField fr 0x38 8 % 4 ≠ 3) (hp : patchedBy d fr = some x) : applyRecord s h d st fr =
      if recField fr 0x38 8 % 4 = 2 then endBy (retire s) d else resumeBy (retire s) d st x fr := by
  simp only [applyRecord, hc, hq, ha, hp, ne_eq, not_true_eq_false, or_self, if_false]

/-- A drove whose instruction has not to be executed again, outside a microprogram, goes on at RESUME (17 R365). -/
theorem resumeDr_goesOn {resume : W64} {action now : Nat} (ha : st.again = false) (hs : st.step = none) :
    (resumeDr d st resume action now).pc = resume ∧ (resumeDr d st resume action now).cond = .ready ∧
      (resumeDr d st resume action now).stop = none ∧ (resumeDr d st resume action now).s = d.s ∧
      (resumeDr d st resume action now).v = d.v ∧ (resumeDr d st resume action now).mode = d.mode := by
  refine ⟨?_, rfl, rfl, rfl, rfl, rfl⟩
  simp [resumeDr, ha, hs]

end

/-- Settles O55: the record is refused, resumes the drove or ends its flock, as its fields say. -/
theorem returnFromStop : Obligations.ReturnFromStop := by
  intro s hp
  have hv : verdict { priv := true } s = .go :=
    verdict_go (c := { priv := true }) rfl rfl (by simp [hp]) rfl rfl rfl (.inl rfl) (.inl rfl) (.inl rfl)
  obtain ⟨fit, he⟩ := takes_of_go (eret_eq s) rfl hv rfl
  refine ⟨fit, ?_⟩
  intro u h
  refine ⟨fun hs => he.trans (congrArg _ (eretRun_none hs)), ?_⟩
  intro d st bs t hs hr fr resume action n patched go
  have he' : exec .eret s = .next (applyRecord t h d st fr) := he.trans (congrArg _ (eretRun_record hs hr))
  refine ⟨fun hb => he'.trans (congrArg _ (applyRecord_refuses hb)), ?_, resumeDr_goesOn⟩
  intro x hc hq hx
  refine ⟨fun ha => ?_, fun ha => ?_⟩
  · have h3 : action ≠ 3 := by omega
    have h2 : action ≠ 2 := by omega
    exact he'.trans (congrArg _ ((applyRecord_fits hc hq h3 hx).trans (if_neg h2)))
  · have h3 : action ≠ 3 := by omega
    exact he'.trans (congrArg _ ((applyRecord_fits hc hq h3 hx).trans (if_pos ha)))

end Sys2Proof.Machine

namespace Sys2Proof.Machine

set_option Elab.async false

/-! PROOFS. Command registers with a record (11 R260, R440, 13 R284-R292, 14 R313-R316, 17 R369, R373). -/

section
variable {s t u : State} {c n size row st : Nat} {x : W64} {d : Drove} {bs : List Byte} {ds : List (Nat × Bool)}

/-- The bytes of a record that can be read and written are those that a read finds. -/
theorem vaRead_of_vaRecord {ctx : BitVec 16} {va : Nat} (h : vaRecord s ctx va n = (.inl (bs, ds), t)) : (vaRead s ctx va n).1 = .inl bs := by
  unfold vaRecord at h
  split at h
  · simp at h
  · next _ bs' u hr =>
    split at h
    · simp at h
    · simp only [Prod.mk.injEq, Sum.inl.injEq] at h
      rw [hr, h.1.1]

section
variable (hd : droveOf s c = some d)
include hd

/-- The row of a map command's OP carries it out (13 R286). -/
theorem mapCommand_runs {run : State → MapRec → MapOut} {r : MapDone} (hp : pendingWrite s c 0x8C = some x)
    (hr : vaRecord s d.ctx x.toNat 64 = (.inl (bs, ds), t)) (he : expanding t (parseMap (leNat bs)).ctx (parseMap (leNat bs)).va = false)
    (ho : mapRow (parseMap (leNat bs)).op = row) (h : run t (parseMap (leNat bs)) = some r) :
    mapCommand s c row run = replied r.s c 0x8C ds [(0x09, [BitVec.ofNat 8 r.spare.1]), (0x20, leBytes 8 r.spare.2), (0x28, leBytes 4 r.status),
      (0x30, leBytes 8 r.old0 ++ leBytes 8 r.old1)] r.status := by
  simp only [mapCommand, hp, hd, hr, he, ho, h, ne_eq, not_true_eq_false, Bool.false_eq_true, or_self, if_false]
  rfl

/-- The row of a VC command's OP carries it out (14 R313). -/
theorem vcCommand_runs (hp : pendingWrite s c 0x90 = some x) (hr : vaRecord s d.ctx x.toNat 64 = (.inl (bs, ds), t))
    (ho : vcRow (parseVc (leNat bs)).op = row) (h : vcRun t (parseVc (leNat bs)) = some (u, st)) :
    vcCommand s c row = replied u c 0x90 ds [(0x28, leBytes 4 st)] st := by
  simp only [vcCommand, hp, hd, hr, ho, h, ne_eq, not_true_eq_false, if_false]
  rfl

/-- A record command that does not wait is carried out and answered (11 R440). -/
theorem recordCommand_runs {run : State → Nat → Option (State × List (Nat × List Byte) × Nat)} {puts : List (Nat × List Byte)}
    (hp : pendingWrite s c n = some x) (hr : vaRecord s d.ctx x.toNat size = (.inl (bs, ds), t)) (h : run t (leNat bs) = some (u, puts, st)) :
    recordCommand s c n size run = replied u c n ds puts st := by
  simp only [recordCommand, hp, hd, hr, h]
  rfl

theorem reply_runs {deliver : Bool} (hp : pendingWrite s c 0xC3 = some x) (hr : vaRecord s d.ctx x.toNat 32 = (.inl (bs, ds), t))
    (ho : (recField (leNat bs) 4 1 == 1) = deliver) : reply s c deliver =
      replied (applyReply t (leNat bs)).1 c 0xC3 ds (applyReply t (leNat bs)).2.1 (applyReply t (leNat bs)).2.2 := by
  refine recordCommand_runs hd hp hr ?_
  rw [ho, beq_self_eq_true, if_pos rfl]

/-- A context command that succeeds leaves STATUS 0 (17 R373). -/
theorem ctxCommand_runs {run : State → Nat → Option (State × List (Nat × List Byte) × Nat)} (hp : pendingWrite s c 0xC4 = some x)
    (hr : vaRecord s d.ctx x.toNat 32 = (.inl (bs, ds), t)) (hm : ctxMalformed (leNat bs) = false) (ho : ctxRow (leNat bs) = row)
    (h : run t (leNat bs) = some (ctxStatus u 0)) :
    ctxCommand s c row run = replied (setPriv u 0xC4 0) c 0xC4 ds [(0x1C, leBytes 4 0)] 0 := by
  refine recordCommand_runs hd hp hr ?_
  simp only [ho, hm, h, ne_eq, not_true_eq_false, Bool.false_eq_true, if_false]
  rfl

end

theorem queryPage_answers {m : MapRec} {p : Page} (hp : pageOf t m.ctx m.va = some p) (hc : mapCommon m p.size = 0) :
    queryPage t m = some { s := t, old0 := p.w0, old1 := p.w1, spare := (m.nspare, m.spare) } := by
  simp only [queryPage, hp, hc, ne_eq, not_true_eq_false, if_false]

/-- A VC command that takes no shares and starts no migration (14 R315). -/
theorem vcRun_performs {m : VcRec} {k : Cdr} (hk : cdrOf t m.vc = some k) (hb : vcBad k m = false) (hp : vcMisplaced m = false)
    (hd : vcDenied t k m = 0) (ho : m.op = 4 ∨ m.op = 5 ∧ k.pinuse ≤ m.pinq ∨ m.op = 7) : vcRun t m = some (vcPerform t k m []) := by
  have h3 : ¬ m.op < 3 := by omega
  have hw : ¬ (m.op = 1 ∨ m.op = 2 ∨ m.op = 3 ∨ m.op = 6) := by omega
  simp only [vcRun, hk, hb, hp, hd, h3, hw, ne_eq, not_true_eq_false, Bool.false_eq_true, false_and, and_false, if_false]
  by_cases h5 : m.op = 5
  · have hq : ¬ m.pinq < k.pinuse := by omega
    simp only [if_pos h5, if_neg hq]
  · have h2 : 2 < m.op := by omega
    simp only [if_neg h5, if_pos h2]

/-- Op 0 has marked the flocks before, and waits no longer (17 R373). -/
theorem preemptStart_none (hd : droveOf s c = some d) (hp : pendingWrite s c 0xC4 = some x)
    (hr : vaRecord s d.ctx x.toNat 32 = (.inl (bs, ds), t)) (hh : (ctxOf s (BitVec.ofNat 16 (recField (leNat bs) 2 2))).any (·.held) = true) :
    preemptStart s c = none := by
  simp only [preemptStart, hp, hd, vaRead_of_vaRecord hr, hh, Bool.true_eq_false, false_and, and_false, if_false]

theorem commandCtx_eq (hd : droveOf s c = some d) (hp : pendingWrite s c 0xC4 = some x)
    (hr : vaRecord s d.ctx x.toNat 32 = (.inl (bs, ds), t)) : commandCtx s c = (flockOf s d.flock).map fun f => (f, leNat bs) := by
  simp only [commandCtx, hp, hd, vaRead_of_vaRecord hr]
  cases flockOf s d.flock <;> rfl

/-- The flocks that op 2 ends before its STATUS: those of the context but the one with identity `own` (17 R373). -/
def endedFlocks (s : State) (k : BitVec 16) (own : Option Nat) : List Nat :=
  (((flocksOf s k).map (·.uid)) ++ ((s.sch.saved.filter fun v => v.flock.ctx == k).map fun v => v.flock.uid)).filter fun f => some f != own

/-- The state after op 1 of a context command (17 R373). -/
def resumed (s : State) (k : BitVec 16) : State :=
  { (newId s).2 with sch := { s.sch with saved := s.sch.saved.map fun v =>
      if v.flock.ctx == k && v.reason == 0x31 && !v.ready then { v with ready := true, order := s.uid } else v } }

section
variable (hd : droveOf s c = some d) (hp : pendingWrite s c 0xC4 = some x) (hr : vaRecord s d.ctx x.toNat 32 = (.inl (bs, ds), t))
  (hm : ctxMalformed (leNat bs) = false)
include hd hp hr hm

omit hd hp hr hm in
theorem ctxRow_of_eq (ho : recField (leNat bs) 0 1 = n) (hn : n ≤ 3) : ctxRow (leNat bs) = n := by
  unfold ctxRow
  rw [ho, if_neg (by omega)]

theorem ctxPreempt_ends (ho : recField (leNat bs) 0 1 = 0) (hh : (ctxOf s (BitVec.ofNat 16 (recField (leNat bs) 2 2))).any (·.held) = true)
    (h : preempt t (leNat bs) = some (ctxStatus u 0)) :
    exec (.ctxPreempt c) s = .next (replied (setPriv u 0xC4 0) c 0xC4 ds [(0x1C, leBytes 4 0)] 0) := by
  change execCtxPreempt c s = _
  simp only [execCtxPreempt, preemptStart_none hd hp hr hh,
    ctxCommand_runs hd hp hr hm (ctxRow_of_eq ho (by decide)) h]

theorem ctxResume_eq (ho : recField (leNat bs) 0 1 = 1) : exec (.ctxResume c) s =
    .next (replied (setPriv (resumed t (BitVec.ofNat 16 (recField (leNat bs) 2 2))) 0xC4 0) c 0xC4 ds [(0x1C, leBytes 4 0)] 0) := by
  change execCtxResume c s = _
  exact congrArg _ (ctxCommand_runs hd hp hr hm (ctxRow_of_eq ho (by decide)) rfl)

theorem ctxTerminate_others (ho : recField (leNat bs) 0 1 = 2)
    (hf : ∀ f, flockOf s d.flock = some f → f.ctx ≠ BitVec.ofNat 16 (recField (leNat bs) 2 2)) : exec (.ctxTerminate c) s =
      .next (replied (setPriv (endAll t (endedFlocks t (BitVec.ofNat 16 (recField (leNat bs) 2 2)) ((flockOf s d.flock).map (·.uid))) 3) 0xC4 0)
        c 0xC4 ds [(0x1C, leBytes 4 0)] 0) := by
  have hrow := ctxRow_of_eq ho (by decide)
  change execCtxTerminate c s = _
  simp only [execCtxTerminate, commandCtx_eq hd hp hr]
  cases hfl : flockOf s d.flock with
  | none => exact congrArg _ (ctxCommand_runs hd hp hr hm hrow rfl)
  | some f =>
    simp only [Option.map_some, hf f hfl, false_and, and_false, if_false]
    exact congrArg _ (ctxCommand_runs hd hp hr hm hrow rfl)

theorem ctxPlaceShepherd_places (ho : recField (leNat bs) 0 1 = 3) {f : Flock} {r : Range} {v : State} (hf : flockOf s d.flock = some f)
    (hs : shepherdRecord s (leNat bs) = (some r, u)) (ht : shepherdRecord t (leNat bs) = (some r, v))
    (hw : (pendingWrite (replied (setPriv v 0xC4 0) c 0xC4 ds [(0x1C, leBytes 4 0)] 0) c 0xC4).isNone = true)
    (hy : (droveOf (replied (setPriv v 0xC4 0) c 0xC4 ds [(0x1C, leBytes 4 0)] 0) c).any (fun d => d.cond == .ready) = true) :
    exec (.ctxPlaceShepherd c) s =
      .next (placeShepherd (replied (setPriv v 0xC4 0) c 0xC4 ds [(0x1C, leBytes 4 0)] 0) r (recField (leNat bs) 1 1)) := by
  have hrow := ctxRow_of_eq ho (by decide)
  have hrun : ctxCommand s c 3 (fun s x => some (ctxStatus (shepherdRecord s x).2 (if (shepherdRecord s x).1.isSome then 0 else 4))) =
      replied (setPriv v 0xC4 0) c 0xC4 ds [(0x1C, leBytes 4 0)] 0 := by
    refine ctxCommand_runs hd hp hr hm hrow ?_
    rw [ht]
    rfl
  change execCtxPlaceShepherd c s = _
  simp only [execCtxPlaceShepherd, commandCtx_eq hd hp hr, hf, Option.map_some, hs, hrun, hrow, hm, hw, hy, and_self, if_true]

end
end

/-- Settles O56: each row carries its own command out, and the answers of the record are written back. -/
theorem recordCommands : Obligations.RecordCommands := by
  intro s t c x d bs ds hd
  refine ⟨fun hp hr => ⟨fun he p hmem ho r h => ?_, fun p hpg hc => queryPage_answers hpg hc⟩, fun hp hr p hmem ho => ⟨fun u st h => ?_, ?_⟩,
    fun hp hr => ⟨fun ho => ?_, fun ho => ?_⟩, ?_⟩
  · fin_cases hmem <;> exact congrArg _ (mapCommand_runs hd hp hr he ho h)
  · fin_cases hmem <;> exact congrArg _ (vcCommand_runs hd hp hr ho h)
  · intro k hk hb hpl hdn
    refine ⟨fun h4 => ?_, fun h5 hq => ?_, fun h7 => ?_⟩
    · rw [vcRun_performs hk hb hpl hdn (.inl h4)]
      simp only [vcPerform, h4]
    · rw [vcRun_performs hk hb hpl hdn (.inr (.inl ⟨h5, hq⟩))]
      simp only [vcPerform, h5]
    · rw [vcRun_performs hk hb hpl hdn (.inr (.inr h7))]
      simp only [vcPerform, h7]
  · exact congrArg _ (reply_runs hd hp hr (beq_eq_false_iff_ne.2 ho))
  · exact congrArg _ (reply_runs hd hp hr (beq_iff_eq.2 ho))
  · intro hp hr y k ok hm
    refine ⟨fun ho hh h => ctxPreempt_ends hd hp hr hm ho hh h, fun ho => ⟨resumed t k, ctxResume_eq hd hp hr hm ho, rfl, rfl, rfl⟩,
      fun ho hf => ctxTerminate_others hd hp hr hm ho hf, fun ho f r u v hf hs ht hw hy => ctxPlaceShepherd_places hd hp hr hm ho hf hs ht hw hy⟩

end Sys2Proof.Machine

namespace Sys2Proof.Machine

set_option Elab.async false

/-! PROOFS. Writes to the registers that have no record (11 R260, 13 R284-R297, 16 R348, R356, 17 R361, R362, 18 R381, R403,
19 R410, R414). -/

/-- A context that is bound, or that nothing is bound to yet, reads as changed. -/
theorem ctxOf_onCtx_getD {s : State} {c : BitVec 16} (f : Ctx → Ctx) (hid : ∀ y, (f y).id = y.id) :
    ctxOf (onCtx s c f) c = some (f ((ctxOf s c).getD (Ctx.new c))) := by
  cases h : ctxOf s c with
  | some x => exact ctxOf_onCtx f h hid
  | none =>
    have hall : ∀ x ∈ s.sch.ctxs, (x.id == c) = false := by
      simpa only [ctxOf, List.find?_eq_none, Bool.not_eq_true] using h
    have hmap : s.sch.ctxs.map (fun x => if (x.id == c) = true then f x else x) = s.sch.ctxs :=
      (List.map_congr_left fun x hx => by rw [hall x hx]; rfl).trans (List.map_id _)
    have hid' : (Ctx.new c).id = c := rfl
    rw [ctxOf, onCtx_sch, h]
    simp only [mapIf, Option.isSome_none, Bool.false_eq_true, if_false, List.map_append, List.map_cons, List.map_nil, hmap]
    rw [List.find?_append, List.find?_eq_none.2 (fun x hx => by simp [hall x hx])]
    simp [hid, hid']

section
variable {s u : State} {c n : Nat} {x : W64}

/-- A command without a refusal is carried out, and its drove goes on (11 R260). -/
theorem command_done {run : State → W64 → State ⊕ BitVec 8 × Nat} (hp : pendingWrite s c n = some x) (h : run s x = .inl u) :
    command s c n run = writeDone u c := by
  simp only [command, hp, h]

theorem writeOf_of_pendingWrite (hp : pendingWrite s c n = some x) : (droveOf s c).bind writeOf = some (n, x) := by
  unfold pendingWrite at hp
  split at hp
  · next m y h =>
    split at hp
    · next hm => rw [h, hm, Option.some.inj hp]
    · simp at hp
  · simp at hp

/-- The state in which a context has been bound to a TCR (13 R285). -/
def bound (s : State) (k : BitVec 16) (x : W64) (p : List Nat × Nat × Nat) : State :=
  let s := onCtx (sweepCtx s k) k fun y => { y with tcr := some x.toNat, roots := p.1, regt := p.2.1, peert := p.2.2 }
  let s := { s with coh := { s.coh with tlb := s.coh.tlb.filter fun t => t.ctx != k } }
  setPriv (reloadRegions s (· == k)) 0x81 0

theorem xtcrBind_malformed (hp : pendingWrite s c 0x81 = some x) (h : readTcr s x.toNat = none) :
    exec (.xtcrBind c) s = .next (writeDone (setPriv s 0x81 (1#64 <<< 63)) c) := by
  change execXtcrBind c s = _
  simp only [execXtcrBind, hp, h]

theorem xtcrBind_binds {p : List Nat × Nat × Nat} (hp : pendingWrite s c 0x81 = some x) (h : readTcr s x.toNat = some p)
    (hq : ctxQuiet s ((privReg s 0x80).setWidth 16) = true) :
    exec (.xtcrBind c) s = .next (writeDone (bound s ((privReg s 0x80).setWidth 16) x p) c) := by
  change execXtcrBind c s = _
  simp only [execXtcrBind, hp, h, hq, Bool.not_true, Bool.false_eq_true, if_false]
  rfl

/-- The context's new bindings (13 R284). -/
def tcrBindings (x : W64) (p : List Nat × Nat × Nat) (y : Ctx) : Ctx :=
  { y with tcr := some x.toNat, roots := p.1, regt := p.2.1, peert := p.2.2 }

theorem bound_ctxs (s : State) (k : BitVec 16) (x : W64) (p : List Nat × Nat × Nat) :
    (bound s k x p).sch = (onCtx (sweepCtx s k) k (tcrBindings x p)).sch := rfl

theorem bound_ctxOf (s : State) (k : BitVec 16) (x : W64) (p : List Nat × Nat × Nat) :
    (ctxOf (bound s k x p) k).any (fun y => y.tcr == some x.toNat && y.roots == p.1 && y.regt == p.2.1 && y.peert == p.2.2) = true := by
  rw [ctxOf, bound_ctxs, ← ctxOf, ctxOf_onCtx_getD (tcrBindings x p) fun _ => rfl]
  simp [tcrBindings]

theorem bound_tlb (s : State) (k : BitVec 16) (x : W64) (p : List Nat × Nat × Nat) : ∀ e ∈ (bound s k x p).coh.tlb, e.ctx ≠ k := by
  intro e he
  obtain ⟨-, h⟩ := List.mem_filter.1 he
  exact bne_iff_ne.1 h

theorem sramwinWrite_refused (hp : pendingWrite s c 0x8F = some x) (h : windowBytes (bits x.toNat 9 8) < (coreOf s (bits x.toNat 5 0)).winuse) :
    exec (.sramwinWrite c) s = .next (writeDone (setPriv s 0x8F (privReg s 0x8F ||| (1#64 <<< 63))) c) := by
  change execSramwinWrite c s = _
  simp only [execSramwinWrite, hp, h, if_true]

/-- A window is set where the core's L1 holds no copy that it would take the way of (13 R292). -/
theorem sramwinWrite_sets (hp : pendingWrite s c 0x8F = some x) (h : (coreOf s (bits x.toNat 5 0)).winuse ≤ windowBytes (bits x.toNat 9 8))
    (hl : ∀ l ∈ s.coh.l1, l.core ≠ bits x.toNat 5 0) : exec (.sramwinWrite c) s =
      .next (writeDone (setPriv (onCore s (bits x.toNat 5 0) fun k => { k with window := bits x.toNat 9 8 }) 0x8F (x &&& 0x33F)) c) := by
  have hnone (q : L1Line → Bool) : s.coh.l1.filter (fun l => l.core == bits x.toNat 5 0 && q l) = [] := by
    refine List.filter_eq_nil_iff.2 fun l hm => ?_
    rw [beq_eq_false_iff_ne.2 (hl l hm), Bool.false_and]
    exact Bool.false_ne_true
  change execSramwinWrite c s = _
  simp only [execSramwinWrite, hp, Nat.not_lt.2 h, hnone, List.all_nil, Bool.not_true, Bool.false_eq_true, if_false, List.foldl_nil]

theorem czoneWrite_sets (hn : 0x84 ≤ n) (hn' : n ≤ 0x87) (hp : pendingWrite s c n = some x) (hz : s.vc.zimages = []) :
    exec (.czoneWrite c) s = .next (writeDone (setPriv s n (x &&& 0x3FFFFFF000001)) c) := by
  have hr : ¬ (n < 0x84 ∨ 0x87 < n) := by omega
  change execCzoneWrite c s = _
  simp only [execCzoneWrite, writeOf_of_pendingWrite hp, if_neg hr, hz, List.any_nil, Bool.and_false, Bool.false_eq_true, if_false]

theorem aetclrWrite_eq (hp : pendingWrite s c 0xC5 = some x) : exec (.aetclrWrite c) s =
    .next (writeDone { s with dev := { s.dev with aet := s.dev.aet.filter fun a => a.1 != granOf x.toNat } } c) := by
  change execAetclrWrite c s = _
  simp only [execAetclrWrite, hp]

/-- The state in which a context has been bound to a CSB (17 R361). -/
def csbBound (s : State) (k : BitVec 16) (x : W64) : State :=
  let s := onCtx (setPriv s 0xC1 (privReg s 0xC1 &&& ~~~(1#64 <<< 63))) k fun y => { y with csb := some x.toNat }
  let s := setCsbField s k 4 2 ((csbField s k 4 2 + 1) % 2 ^ 16)
  let drop (y : CoreSt) : CoreSt := if y.cstore = some k then { y with cstore := none, slots := [] } else y
  { s with coh := { s.coh with cores := s.coh.cores.map drop } }

theorem setCsbField_ctxOf (s : State) (c k : BitVec 16) (off n x : Nat) : ctxOf (setCsbField s c off n x) k = ctxOf s k := by
  unfold setCsbField
  split
  · obtain ⟨-, -, -, -, -, hctxs, -⟩ := homeWrite_side s s _ n x ⟨rfl, rfl, rfl, rfl, rfl, rfl, rfl, rfl⟩
    rw [ctxOf, hctxs]
    rfl
  · rfl

theorem csbBound_ctxOf (s : State) (k : BitVec 16) (x : W64) : (ctxOf (csbBound s k x) k).bind (·.csb) = some x.toNat := by
  let t := onCtx (setPriv s 0xC1 (privReg s 0xC1 &&& ~~~(1#64 <<< 63))) k fun y => { y with csb := some x.toNat }
  have h : ctxOf (csbBound s k x) k = ctxOf t k := setCsbField_ctxOf t k k 4 2 _
  rw [h, ctxOf_onCtx_getD (fun y => { y with csb := some x.toNat }) fun _ => rfl]
  rfl

theorem csbBound_cores (s : State) (k : BitVec 16) (x : W64) : ∀ y ∈ (csbBound s k x).coh.cores, y.cstore ≠ some k := by
  intro y hy
  obtain ⟨z, -, rfl⟩ := List.mem_map.1 hy
  split
  · simp
  · assumption

theorem csbaddrWrite_refused (hp : pendingWrite s c 0xC1 = some x) (h : x.toNat % 128 ≠ 0 ∨ 2 ^ 39 ≤ x.toNat) :
    exec (.csbaddrWrite c) s = .next (writeDone (setPriv s 0xC1 (privReg s 0xC1 ||| (1#64 <<< 63))) c) :=
  congrArg Host.Outcome.next (command_done hp (if_pos h))

theorem csbaddrWrite_binds (hp : pendingWrite s c 0xC1 = some x) (ha : x.toNat % 128 = 0) (hx : x.toNat < 2 ^ 39) :
    exec (.csbaddrWrite c) s = .next (writeDone (csbBound s ((privReg s 0xC0).setWidth 16) x) c) := by
  have h : ¬ (x.toNat % 128 ≠ 0 ∨ 2 ^ 39 ≤ x.toNat) := by omega
  exact congrArg Host.Outcome.next (command_done hp (if_neg h))

/-- LQCFG's bits that a write sets (16 R348). -/
def lqcfgBits (x : W64) : W64 := x &&& 0x80FFFF7FFFFFFFC0

theorem lqcfgWrite_ignored (hp : pendingWrite s c 0xB1 = some x)
    (he : lqEn (queueOf s (privReg s 0xB0).toNat).cfg = true ∧ lqEn (lqcfgBits x) = true) : exec (.lqcfgWrite c) s = .next (writeDone s c) :=
  congrArg Host.Outcome.next (command_done hp (if_pos he))

theorem lqcfgWrite_sets (hp : pendingWrite s c 0xB1 = some x)
    (he : lqEn (queueOf s (privReg s 0xB0).toNat).cfg = false ∨ lqEn (lqcfgBits x) = false) :
    exec (.lqcfgWrite c) s = .next (writeDone (onQueue s (privReg s 0xB0).toNat fun z =>
      { z with cfg := lqcfgBits x, tail := BitVec.ofNat 64 (homeRead s (lqHdr (lqcfgBits x) + 16) 8) }) c) := by
  have h : ¬ (lqEn (queueOf s (privReg s 0xB0).toNat).cfg = true ∧ lqEn (lqcfgBits x) = true) := by
    rintro ⟨h1, h2⟩
    rcases he with he | he
    · exact Bool.false_ne_true (he.symm.trans h1)
    · exact Bool.false_ne_true (he.symm.trans h2)
  exact congrArg Host.Outcome.next (command_done hp (if_neg h))

/-- DBGCMD names the drove (19 R410). -/
def haltNames (x : W64) (d : Drove) : Bool :=
  d.ctx == x.extractLsb' 48 16 && (x.getLsbD 32 || d.droveId == x.setWidth 32) && d.cond != .exited && d.cond != .vacant

/-- The drove asked to halt, if DBGCMD names it. -/
def haltAsked (x : W64) (d : Drove) : Drove := if haltNames x d then { d with haltReq := true } else d

/-- Every drove that DBGCMD names has been asked to halt (19 R410). -/
def halting (s : State) (x : W64) : State :=
  { s with dr := haltAsked x s.dr, droves := s.droves.map (haltAsked x)
           sch := { s.sch with saved := s.sch.saved.map fun v => { v with droves := v.droves.map (haltAsked x) } } }

theorem dbgcmdWrite_eq (hp : pendingWrite s c 0xE8 = some x) : exec (.dbgcmdWrite c) s = .next (writeDone (halting s x) c) :=
  congrArg Host.Outcome.next (command_done hp rfl)

theorem haltAsked_haltReq (d : Drove) (hc : (haltAsked x d).ctx = x.extractLsb' 48 16)
    (hi : x.getLsbD 32 = true ∨ (haltAsked x d).droveId = x.setWidth 32) (he : (haltAsked x d).cond ≠ .exited)
    (hv : (haltAsked x d).cond ≠ .vacant) : (haltAsked x d).haltReq = true := by
  unfold haltAsked at *
  split
  · rfl
  · next h =>
    rw [if_neg h] at hc hi he hv
    refine absurd ?_ h
    simp only [haltNames, Bool.and_eq_true, Bool.or_eq_true, beq_iff_eq, bne_iff_ne]
    exact ⟨⟨⟨hc, hi⟩, he⟩, hv⟩

theorem lcctlClr_clears (hp : pendingWrite s c 0xE0 = some x) (h : x.getLsbD 1 = true) : exec (.lcctlClr c) s =
    .next (writeDone { plainWrite s 0xE0 x with dev := { (plainWrite s 0xE0 x).dev with lanes := [] } } c) := by
  change execLcctlClr c s = _
  simp only [execLcctlClr, hp, h, if_true]

theorem sysregWrite_plain {d : Drove} (hd : droveOf s c = some d) (hw : writeOf d = some (n, x)) (ho : ownRow n x = false) :
    exec (.sysregWrite c) s = .next (writeDone (plainWrite s n x) c) := by
  have h : (droveOf s c).bind writeOf = some (n, x) := by rw [hd, Option.bind_some, hw]
  change execSysregWrite c s = _
  simp only [execSysregWrite, h, ho, Bool.false_eq_true, if_false]

end

/-- Settles O57: each register's write is carried out by its own row, and its drove goes on. -/
theorem registerWrites : Obligations.RegisterWrites := by
  intro s c x
  refine ⟨fun hp => ⟨xtcrBind_malformed hp, fun p h hq => ⟨bound s _ x p, xtcrBind_binds hp h hq, bound_ctxOf s _ x p, bound_tlb s _ x p⟩⟩,
    fun hp => ⟨sramwinWrite_refused hp, sramwinWrite_sets hp⟩, fun n hn hn' hp hz => czoneWrite_sets hn hn' hp hz,
    fun hp => ⟨_, aetclrWrite_eq hp, rfl, fun g => ?_⟩, fun hp => ⟨csbaddrWrite_refused hp, fun ha hx => ?_⟩,
    fun hp => ⟨fun h1 h2 => lqcfgWrite_ignored hp ⟨h1, h2⟩, lqcfgWrite_sets hp⟩, fun hp => ?_, fun hp => ?_,
    fun hp => ⟨halting s x, dbgcmdWrite_eq hp, rfl, fun d hd => ?_⟩, lcctlClr_clears, fun d n hd hw ho => sysregWrite_plain hd hw ho⟩
  · rw [List.mem_filter, bne_iff_ne]
  · exact ⟨_, csbaddrWrite_binds hp ha hx, csbBound_cores s _ x, csbBound_ctxOf s _ x⟩
  · exact congrArg Host.Outcome.next (command_done hp rfl)
  · exact congrArg Host.Outcome.next (command_done hp rfl)
  · obtain ⟨d', -, rfl⟩ := List.mem_map.1 hd
    exact haltAsked_haltReq d'

end Sys2Proof.Machine

namespace Sys2Proof.Machine

set_option Elab.async false

/-! PROOFS. Migrations, retirements and errors of virtual caches (14 R317-R323, 11 R441, 17 R376-R378). -/

section
variable {s t : State} {k die dpa : Nat} {c : Cdr}

theorem vcSweepSet_sweeps (hc : cdrOf s k = some c) (hs : c.state = 2 ∨ c.state = 3) (hd : die < 4) (hl : sweepLeft s c die = true) :
    exec (.vcSweepSet k die) s = .next (onCdr ((setLines s k (migrating c) die (sweepAt c die)).foldl (sweepLine c) s) k fun x =>
      { x with swept := x.swept.map fun y => if y.1 = die then (y.1, y.2 + 1) else y }) := by
  change execVcSweepSet k die s = _
  simp only [execVcSweepSet, hc]
  exact congrArg _ (if_pos ⟨hs, hd, hl⟩)

theorem vcMigrationComplete_ends (hc : cdrOf s k = some c) (hs : c.state = 2) (ho : sweptOut s c = true) :
    exec (.vcMigrationComplete k) s = .next (startRetiring (vcEvent
      (withCommons s fun s => joinRetired (onCdr s k fun x =>
        { x with state := 1, olsz := 0, oways := 0, oshares := [], gen := x.gen + 1, token := 0, swept := [] })
        ((s.vc.retiring.filter fun r => r.stage == 2 && r.vc == k && c.oshares.contains r.share).map (·.share)))
      0x0100 c 0xFFFF c.token ((c.gen + 1).setWidth 64))) := by
  change execVcMigrationComplete k s = _
  simp only [execVcMigrationComplete, hc]
  exact congrArg _ (if_pos ⟨hs, ho⟩)

theorem vcFreeComplete_ends (hc : cdrOf s k = some c) (hs : c.state = 3) (ho : sweptOut s c = true) :
    exec (.vcFreeComplete k) s = .next (startRetiring (vcEvent
      (withCommons s fun s => onCdr s k fun x => { x with state := 0, shares := [], token := 0, swept := [] })
      0x0103 c 0xFFFF c.token (c.gen.setWidth 64))) := by
  change execVcFreeComplete k s = _
  simp only [execVcFreeComplete, hc]
  exact congrArg _ (if_pos ⟨hs, ho⟩)

theorem shareRetireComplete_ends {r : Retire} (hr : s.vc.retiring.find? (fun r => r.share == k) = some r) (hs : r.stage ≠ 0)
    (ho : ownerOf s k = 0) :
    let u := if s.vc.retired.contains k then s else rehouseCommons true s (joinRetired s [k])
    let v : State := { u with vc := { u.vc with retiring := u.vc.retiring.erase r } }
    exec (.shareRetireComplete k) s = .next (match cdrOf v r.vc with
      | some c => vcEvent v 0x0101 c k r.token (c.gen.setWidth 64)
      | none => v) := by
  have h : ¬ (r.stage = 0 ∨ ownerOf s k ≠ 0) := by rintro (h | h); exacts [hs h, h ho]
  intro u v
  change execShareRetireComplete k s = _
  simp only [execShareRetireComplete, hr]
  exact congrArg _ (if_neg h)

theorem joinRetired_marks (s : State) (k : Nat) : (joinRetired s [k]).vc.retired.contains k = true ∧
    (joinRetired s [k]).dev.record = mapSet 0 s.dev.record k (mapGet 0 s.dev.record k ||| (1#64 <<< 48)) := by
  refine ⟨?_, rfl⟩
  by_cases h : k ∈ s.vc.retired <;> simp [joinRetired, h]

/-- An operand from 6144 on is no share: its errors are counted alone (19 R420). -/
theorem correctedError_other (hk : 6144 ≤ k) :
    exec (.correctedError k) s = .next (if k < 0x1900 then countRecord s k 0 32 else s) := by
  have h : ¬ k < 6144 := Nat.not_lt.2 hk
  change execCorrectedError k s = _
  simp only [execCorrectedError, h, false_and, if_false]

theorem correctedError_share (hk : k < 6144) : exec (.correctedError k) s = .next (
    if (privReg s 0x92).toNat % 65536 ≠ 0 ∧
        (privReg s 0x92).toNat % 65536 ≤ (mapGet (0 : W64) (countRecord s k 0 32).dev.record k).toNat % 2 ^ 32 then
      retireShare (countRecord s k 0 32) k
    else countRecord s k 0 32) := by
  have h : k < 0x1900 := by omega
  change execCorrectedError k s = _
  simp only [execCorrectedError, if_pos h, hk, true_and]
  rfl

theorem correctedError_counts (hk : k < 6144) (h : (privReg s 0x92).toNat % 65536 = 0 ∨
    (mapGet (0 : W64) (countRecord s k 0 32).dev.record k).toNat % 2 ^ 32 < (privReg s 0x92).toNat % 65536) :
    exec (.correctedError k) s = .next (countRecord s k 0 32) := by
  rw [correctedError_share hk, if_neg]
  rintro ⟨h0, hn⟩
  exact h.elim h0 (Nat.not_lt.2 hn)

theorem uncorrectableError_hbm (hd : dpa < 2 ^ 39) : exec (.uncorrectableError dpa none) s =
    .next (countRecord (enterAet s (granOf dpa) (BitVec.allOnes 32)) (channelEntry dpa) 32 16) := by
  change execUncorrectableError dpa none s = _
  simp only [execUncorrectableError, if_neg (Nat.not_le.2 hd), Option.any_none, Bool.false_eq_true, if_false]

theorem uncorrectableError_owner (hd : dpa < 2 ^ 39) (c : Nat) :
    exec (.uncorrectableError dpa (some (6144 + c))) s = .next (ownerError s dpa c) := by
  change execUncorrectableError dpa (some (6144 + c)) s = _
  simp only [execUncorrectableError, if_neg (Nat.not_le.2 hd), Option.any_some, Nat.le_add_right, decide_true, if_true, Option.getD_some,
    Nat.add_sub_cancel_left]

/-- The held event at index `k` is gone. -/
def dropEvent (k : Nat) (s : State) : State := { s with sch := { s.sch with events := s.sch.events.eraseIdx k } }

theorem deviceEventPost_posts {e : DevEvent} (he : postable s k = some e) (ht : tryPost s e = .posted t) :
    exec (.deviceEventPost k) s = .next (if e.vcq then startRetiring (dropEvent k t) else dropEvent k t) := by
  change execDeviceEventPost k s = _
  simp only [execDeviceEventPost, he, ht]
  rfl

theorem deviceEventPost_full {e : DevEvent} (he : postable s k = some e) (ht : tryPost s e = .full) :
    exec (.deviceEventPost k) s = .next s := by
  change execDeviceEventPost k s = _
  simp only [execDeviceEventPost, he, ht]

end

/-- Settles O58: each event of a virtual cache, of a share, of an error and of a held record has its effect where it may happen. -/
theorem cacheUnits : Obligations.CacheUnits := by
  intro s k die
  refine ⟨fun c hc => ⟨vcSweepSet_sweeps hc, vcMigrationComplete_ends hc, vcFreeComplete_ends hc⟩,
    fun r hr hs ho => shareRetireComplete_ends hr hs ho, joinRetired_marks s k, correctedError_other, fun hk => ⟨correctedError_counts hk, fun h0 hn => ?_⟩,
    fun dpa hd => ⟨uncorrectableError_hbm hd, uncorrectableError_owner hd⟩, fun e t he ht => deviceEventPost_posts he ht,
    fun e he ht => deviceEventPost_full he ht⟩
  rw [correctedError_share hk, if_pos ⟨h0, hn⟩]

end Sys2Proof.Machine

namespace Sys2Proof.Machine

set_option Elab.async false

/-! PROOFS. Launch queues, the distributors, the clocks of residence, parks and swaps (16 R345-R359, 17 R366-R375, 19 R410). -/

section
variable {s t : State} {k v a : Nat}

theorem doorbell_taken (hk : k < 64) (he : lqEn (queueOf s k).cfg = true) (h1 : (queueOf s k).tail.toNat ≤ v)
    (h2 : v ≤ homeRead s (lqHdr (queueOf s k).cfg + 16) 8 + homeRead s (lqHdr (queueOf s k).cfg + 8) 4) (h3 : v < 2 ^ 64) :
    exec (.launchQueueDoorbell k v) s = .next (onQueue s k fun x => { x with tail := BitVec.ofNat 64 v }) := by
  refine congrArg Host.Outcome.next (if_neg ?_)
  rw [he]
  rintro (h | h | h | h | h)
  · exact Nat.not_lt.2 h hk
  · exact Bool.false_ne_true h
  · exact Nat.not_lt.2 h1 h
  · exact Nat.not_lt.2 h2 h
  · exact Nat.not_lt.2 h h3

theorem doorbell_back (h : v < (queueOf s k).tail.toNat) : exec (.launchQueueDoorbell k v) s = .next (countRecord s 0x1A46 0 64) :=
  congrArg Host.Outcome.next (if_pos (.inr (.inr (.inl h))))

theorem entryWord_home (h : a + 8 ≤ 2 ^ 39) : entryWord s a = (homeRead s a 8, s) := if_pos h

theorem queueEntryTake_refused (ha : queueEntry s k = some a) (h : (entryWord s a).1 % 128 ≠ 0) :
    exec (.launchQueueEntryTake k) s = .next (queueAdvance (entryWord s a).2 k) := by
  change execLaunchQueueEntryTake k s = _
  simp only [execLaunchQueueEntryTake, ha, if_pos h]

theorem queueEntryTake_present {u : State} (ha : queueEntry s k = some a) (h : (entryWord s a).1 % 128 = 0)
    (hp : present (entryWord s a).2 (lqCtx (queueOf (entryWord s a).2 k).cfg) (entryWord s a).1 = (some t, u)) :
    exec (.launchQueueEntryTake k) s = .next (queueAdvance t k) := by
  change execLaunchQueueEntryTake k s = _
  simp only [execLaunchQueueEntryTake, ha, h, hp, ne_eq, not_true_eq_false, if_false]

theorem flockAdmit_one {r : Range} {c core x : Nat} (he : entry s false k = some [c]) (hr : rangeOf s k = some r)
    (hc : chooseCore s (r.need none) = (x, some core)) : exec (.flockAdmit k) s = .next (admitAt s r r.nextFlock core 0 false) := by
  change execFlockAdmit k s = _
  simp only [execFlockAdmit, he, hr, List.zipIdx_cons, List.zipIdx_nil, List.foldl_cons, List.foldl_nil, hc, List.length_cons, List.length_nil,
    Nat.add_zero]

theorem rangeComplete_posts {r : Range} (hr : rangeOf s k = some r) (hd : rangeDone s r = true) (hh : s.eng.held = []) :
    exec (.rangeComplete k) s = .next (postRange { s with sch := { s.sch with ranges := s.sch.ranges.filter fun x => x.uid != k } } r 0x0002
      (r.ended % 2 ^ 32)) := by
  have heng : { s.eng with held := [] } = s.eng := by
    rw [← hh]
  change execRangeComplete k s = _
  simp only [execRangeComplete, hr, hd, if_true, hh, List.filter_nil, heng]

theorem drovePromote_promotes (hu : s.dr.uid = k) (hc : s.dr.cond = .ready) (hs : 128 ≤ s.cycle - s.dr.since) :
    exec (.drovePromote k) s = .next (onDr s fun d => { d with promoted := true }) := by
  change execDrovePromote k s = _
  simp only [execDrovePromote, onDrove, if_pos hu, onDr, if_pos (And.intro hc hs)]

section
variable {f : Flock} (hf : flockOf s k = some f)
include hf

theorem budgetExpiry_swaps (hb : budgetOver s f = true) (hs : slotFor (countRecord s 0x1A30 0 64) f = true) (ht : f.swapTried = false) :
    exec (.budgetExpiry k) s = .next (onFlock (countRecord s 0x1A30 0 64) f.uid fun f => { f with swapDue := some 0x30 }) := by
  change execBudgetExpiry k s = _
  simp only [execBudgetExpiry, hf, hb, ht, swapOrFail, hs, Bool.not_true, Bool.false_eq_true, if_false, if_true]

theorem slowFaultSwapout_swaps {p : Park} (hp : slowPark s f = some p) (hd : f.swapDue = none) (hr : (rangeOf s f.range).any (·.det) = false)
    (hs : slotFor s f = true) : exec (.slowFaultSwapout k) s = .next (onFlock s k fun f => { f with swapDue := some 0x10 }) := by
  change execSlowFaultSwapout k s = _
  simp only [execSlowFaultSwapout, hf, hp, hd, hr, hs, Option.isSome_none, Bool.false_eq_true, or_self, if_false, if_true]

theorem watchdogExpiry_stops (hw : watchdogDue s f = true) : exec (.watchdogExpiry k) s =
    .next (((drovesOf s k).filter watched).foldl (fun s d => stopHere (select s d.uid) 0x30 0 0) s) := by
  change execWatchdogExpiry k s = _
  simp only [execWatchdogExpiry, hf, hw, Bool.not_true, Bool.false_eq_true, if_false]

theorem swapOut_saves {reason : BitVec 8} (hd : f.swapDue = some reason) (hs : saveReady s f = true) :
    exec (.swapOut k) s = .next (saveFlock s f reason) := by
  change execSwapOut k s = _
  simp only [execSwapOut, hf, hd, hs, if_true]

end

section
variable {x : Saved} (hx : s.sch.saved.find? (fun x => x.id == k) = some x)
include hx

/-- A saved Shepherd flock re-enters on its own core (17 R375). -/
theorem flockResume_shepherd (hs : x.flock.shepherd = true) (hr : x.ready = true) (hc : coreFree s x.flock.core = true)
    (hk : s.dev.ckpt = none) : exec (.flockResume k) s = .next (restoreAt s x x.flock.core) := by
  change execFlockResume k s = _
  simp only [execFlockResume, hx, hs, hr, hc, hk, Option.isNone_none, Bool.and_self, if_true]

theorem flockResume_one {core : Nat} (hs : x.flock.shepherd = false) (he : entry s true k = some [core])
    (hd : (rangeOf s x.flock.range).any (·.det) = false) : exec (.flockResume k) s = .next (restoreAt s x core) := by
  change execFlockResume k s = _
  simp only [execFlockResume, hx, hs, he, matesOf, hd, Bool.false_eq_true, if_false, List.zip_cons_cons, List.zip_nil_right, List.foldl_cons,
    List.foldl_nil]

end

/-- An entry takes the slot from every park that held it before (17 R361, R367). -/
def takeSlot (s : State) (c : BitVec 16) (n : Nat) : State :=
  let mine (x : Park) : Bool := x.ctx == c && x.slot == some n
  let parks := (s.sch.parks.filter fun x => !(mine x && x.svc == 4)).map fun x => if mine x then { x with slot := none } else x
  { s with sch := { s.sch with parks := parks } }

theorem faultTableEntryWrite_enters {p : Park} {n : Nat} (hp : s.sch.parks.find? (fun p => p.id == k) = some p) (hs : p.slot = none) (hv : p.svc = 1)
    (hc : p.cause ≠ 0x12) (hn : ftFree s p.ctx = some n)
    (hw : vaPut s p.ctx (ftVa s p.ctx n) (ftBytes p ((ctxOf s p.ctx).elim 0 (·.parkSeq))) = (none, t)) :
    ∃ (u : State) (stamp : Option W64), exec (.faultTableEntryWrite k) s = .next (postFevq (onPark u k fun p => { p with slot := some n }) p.ctx 0x0200
      p.droveId p.pc (BitVec.ofNat 64 (ftVa u p.ctx n)) stamp) := by
  have he : entryFreed s p = false := by simp [entryFreed, hv]
  have hg : ¬ (p.slot.isSome = true ∨ p.svc ≠ 1 ∨ p.cause = 0x12 ∧ p.kind ≠ 10) := by
    rw [hs, hv]
    rintro (h | h | ⟨h, -⟩)
    · exact Bool.false_ne_true h
    · exact h rfl
    · exact hc h
  let u := takeSlot (refill (onCtx t p.ctx fun c => { c with parkSeq := (c.parkSeq + 1) % 2 ^ 32 }) p.ctx) p.ctx n
  refine ⟨u, ((droveOf u p.drove).filter (·.det)).map (·.lclk), ?_⟩
  change execFaultTableEntryWrite k s = _
  simp only [execFaultTableEntryWrite, hp, he, if_neg hg, hn, hw, Bool.false_eq_true, if_false]
  rfl

theorem postFevq_parks (s : State) (c typ : BitVec 16) (id : BitVec 32) (pc pay : W64) (stamp : Option W64) :
    (postFevq s c typ id pc pay stamp).sch.parks = s.sch.parks := by
  obtain ⟨es, h⟩ := postFevq_eq s c typ id pc pay stamp
  rw [h]

theorem onPark_slot {n : Nat} {q : Park} (hq : q ∈ (onPark s k fun p => { p with slot := some n }).sch.parks) (hk : q.id = k) :
    q.slot = some n := by
  obtain ⟨p, -, rfl⟩ := List.mem_map.1 hq
  split
  · rfl
  · next h => exact absurd (beq_iff_eq.2 (by simpa only [if_neg h] using hk)) h

/-- What the stop of a delivered park reports, at the drove at the port (17 R364, R368). -/
def deliveryInfo (t : State) (p : Park) : StopInfo :=
  { cause := p.cause, kind := BitVec.ofNat 8 p.kindNo, addr := p.va, mask := parkMask t p, pc := p.pc, step := t.dr.micro.map (·.step),
    resume := (deliverResume t.dr p.again).1, after := (deliverResume t.dr p.again).2, deliver := some p.id, again := p.again }

theorem parkDelivery_stops {p : Park} {d : Drove} (hp : s.sch.parks.find? (fun p => p.id == k && p.svc == 3) = some p)
    (hd : droveOf s p.drove = some d) (hs : stoppable s d = true) (hl : leaving s d = false) :
    exec (.parkDelivery k) s = .next (takeStop (onDr (select s d.uid) unhelp) (deliveryInfo (onDr (select s d.uid) unhelp) p)) := by
  change execParkDelivery k s = _
  simp only [execParkDelivery, hp, hd, hs, hl, Bool.not_true, Bool.or_self, Bool.false_eq_true, if_false]
  rfl

theorem dbgcmdHalt_stops {d : Drove} (hd : droveOf s k = some d) (hh : d.haltReq = true) (hs : stoppable s d = true)
    (hb : breakpoint (select s k) = none) :
    exec (.dbgcmdHalt k) s = .next (stopHere (onDr (select s k) fun d => { d with haltReq := false }) 0x08 0x200000000 0) := by
  change execDbgcmdHalt k s = _
  simp only [execDbgcmdHalt, hd, hh, hs, hb, Bool.not_true, Bool.false_eq_true, or_self, if_false, Option.isSome_none]

end

/-- Settles O59: each event of the scheduler, where its condition holds, has the effect of its row. -/
theorem schedulerEvents : Obligations.SchedulerEvents := by
  intro s k v
  refine ⟨fun hk he => ⟨doorbell_taken hk he, doorbell_back, fun a ha => ⟨entryWord_home, queueEntryTake_refused ha, fun t u h hp =>
      queueEntryTake_present ha h hp⟩⟩, fun c r core t he hr hc => flockAdmit_one he hr hc, fun r hr hd hh => rangeComplete_posts hr hd hh, ?_,
    fun f hf => ⟨budgetExpiry_swaps hf, fun p hp hd hr hs => slowFaultSwapout_swaps hf hp hd hr hs, watchdogExpiry_stops hf,
      fun reason hd hs => swapOut_saves hf hd hs⟩,
    fun x hx => ⟨flockResume_shepherd hx, fun core hs he hd => flockResume_one hx hs he hd⟩, ?_,
    fun p d hp hd hs hl => parkDelivery_stops hp hd hs hl, fun d hd hh hs hb => dbgcmdHalt_stops hd hh hs hb⟩
  · rintro d rfl hu hc hs
    exact drovePromote_promotes hu hc hs
  · intro p n t hp hs hv hc hn hw
    obtain ⟨u, stamp, h⟩ := faultTableEntryWrite_enters hp hs hv hc hn hw
    refine ⟨_, h, fun q hq hk => ?_⟩
    rw [postFevq_parks] at hq
    exact onPark_slot hq hk

end Sys2Proof.Machine

namespace Sys2Proof.Machine

set_option Elab.async false

/-! PROOFS. Reset, power, links, ports, checkpoints, attestation, the field record and the trace streams (18 R380-R383,
R393-R403, 19 R415-R421). -/

section
variable {s : State}

theorem recoveryImageWrite_eq (bs : List Byte) : exec (.recoveryImageWrite bs) s = .next (
    if 2 ≤ s.dev.bootState ∧ Config.signatureGood bs = true ∧ Config.minVersion.toNat ≤ (Config.imageVersion bs).toNat
    then boot (resetKeeping (commitRecord { s with mem := { s.mem with flash := bs } }) s.mem.hbm) else s) := by
  have h : (s.dev.bootState < 2 ∨ (!Config.signatureGood bs) = true ∨ (Config.imageVersion bs).toNat < Config.minVersion.toNat) ↔
      ¬ (2 ≤ s.dev.bootState ∧ Config.signatureGood bs = true ∧ Config.minVersion.toNat ≤ (Config.imageVersion bs).toNat) := by
    simp only [not_and_or, Nat.not_le, Bool.not_eq_true, Bool.not_eq_eq_eq_not, Bool.not_true]
  change execRecoveryImageWrite bs s = _
  simp only [execRecoveryImageWrite, h, ite_not]
  rfl

theorem thermalClockStep_down (h : s.dev.clockDown + 1 < profileClock s.dev.profCur) :
    ∃ t, exec (.thermalClockStep false) s = .next t ∧ t.dev.clockDown = s.dev.clockDown + 1 := by
  refine ⟨_, rfl, ?_⟩
  simp only [Bool.false_eq_true, if_false, if_neg (Nat.not_le.2 h)]
  split <;> rfl

/-! Links. -/

theorem recentResends_setResends (l : Nat) (ts : List Nat) :
    recentResends (setResends s l ts) l = ts.filter fun t => decide (s.cycle - t ≤ 3600000) := by
  simp [recentResends, setResends]

theorem flitCrcFail_resends {l : Nat} (hl : l < 19) : ∃ t, exec (.flitCrcFail l) s = .next t ∧ s.cycle ∈ recentResends t l := by
  refine ⟨_, congrArg Host.Outcome.next (if_neg (Nat.not_le.2 hl)), ?_⟩
  rw [recentResends_setResends, List.mem_filter]
  exact ⟨List.mem_cons_self, by simp⟩

theorem linkRetrain_retrains {l : Nat} (hl : l < 19) (hr : retraining s l = false) (hn : 64 ≤ (recentResends s l).length) :
    ∃ t, exec (.linkRetrain l) s = .next t ∧ retraining t l = true ∧ recentResends t l = [] := by
  have h : ¬ (linkCount ≤ l ∨ retraining s l = true ∨ (recentResends s l).length < 64) := by
    rw [hr]
    rintro (h | h | h)
    · exact Nat.not_le.2 hl h
    · exact Bool.false_ne_true h
    · exact Nat.not_lt.2 hn h
  refine ⟨_, congrArg Host.Outcome.next (if_neg h), ?_, recentResends_setResends (s := s) l []⟩
  simp [retraining]

theorem linkRetrainEnd_trained (l : Nat) : ∃ t, exec (.linkRetrainEnd l) s = .next t ∧ retraining t l = false := by
  refine ⟨_, rfl, ?_⟩
  simp [retraining]

/-! Ports. -/

theorem portDown_down {p : Nat} (hp : p < 12) :
    ∃ t, exec (.portDown p) s = .next t ∧ t.dev.ports.getLsbD p = false ∧ t.mem = s.mem := by
  refine ⟨_, rfl, ?_, rfl⟩
  simp [hp]

theorem portTrained_up {p : Nat} (hp : p < 12) (hu : (portsOf s.dev.profCur).getLsbD p = true) (hs : s.sch.parks = []) :
    ∃ t, exec (.portTrained p) s = .next t ∧ t.dev.ports.getLsbD p = true := by
  have h : ¬ (12 ≤ p ∨ (!(portsOf s.dev.profCur).getLsbD p) = true) := by
    rw [hu]
    rintro (h | h)
    · exact Nat.not_le.2 hp h
    · exact Bool.false_ne_true h
  let u := portAccs s { s with dev := { s.dev with ports := s.dev.ports ||| (1#12 <<< p) } }
  have hnone : portParks u = [] := (congrArg (List.filter _) hs : _)
  have he : exec (.portTrained p) s = .next (releaseSlow u) := by
    refine (congrArg Host.Outcome.next (if_neg h)).trans (congrArg (fun x => Host.Outcome.next (releaseSlow x)) ?_)
    change (portParks u).foldl _ u = u
    rw [hnone, List.foldl_nil]
  refine ⟨_, he, ?_⟩
  change (s.dev.ports ||| (1#12 <<< p)).getLsbD p = true
  simp [hp]

/-! Attestation. -/

/-- The 256 bytes of an attestation reply that are signed (18 R402). -/
def attestHead (s : State) (a : Nat) : List Byte :=
  padTo 0x100 ((Config.serialNumber ++ List.replicate 16 0).take 16 ++ leBytes 8 s.dev.bootVer.toNat ++
    sha512 s.mem.flash ++ homeBytes s a 64 ++ leBytes 8 (bootCount s) ++ leBytes 4 (retiredIn s.dev.record).length ++ leBytes 4 (fabid s))

/-- An attestation reply (18 R402). -/
def attestReply (s : State) (a : Nat) : List Byte :=
  attestHead s a ++ (Config.attestSignature (attestHead s a) ++ List.replicate 512 0).take 512 ++ List.replicate 256 0

theorem attestReply_nonce (s : State) (a : Nat) : ∃ pre post, attestReply s a = pre ++ homeBytes s a 64 ++ post := by
  have hhead : homeBytes s a 64 <:+: attestHead s a :=
    (List.suffix_append _ _).isInfix.trans ((List.prefix_append _ _).trans <| (List.prefix_append _ _).trans <|
      (List.prefix_append _ _).trans <| List.prefix_append _ _).isInfix
  obtain ⟨pre, post, h⟩ := hhead.trans ((List.prefix_append _ _).trans (List.prefix_append _ _) : attestHead s a <+: attestReply s a).isInfix
  exact ⟨pre, post, h.symm⟩

theorem attestRequest_replies {a : Nat} (ha : a + 72 ≤ 2 ^ 39) (hr : homeRead s (a + 64) 8 + 1024 ≤ 2 ^ 39) :
    exec (.attestRequest a) s =
      .next (homePut { s with dev := { s.dev with attestdb := BitVec.ofNat 64 a } } (homeRead s (a + 64) 8) (attestReply s a)) := by
  have h : ¬ (2 ^ 39 < a + 72 ∨ 2 ^ 39 < homeRead s (a + 64) 8 + 1024) := by omega
  exact congrArg Host.Outcome.next (if_neg h)

theorem fieldRecordCommit_commits (h : 216000000000 ≤ s.cycle - s.dev.committed) :
    ∃ t, exec .fieldRecordCommit s = .next t ∧ t.dev.stored = t.dev.record ∧ t.dev.committed = t.cycle :=
  ⟨_, congrArg Host.Outcome.next (if_neg (Nat.not_lt.2 h)), rfl, rfl⟩

end

/-! What the writes to a record leave as it was: the checkpoint that is in progress. -/

/-- The checkpoint in progress is `o`. -/
def CkptIs (o : Option Ckpt) (s : State) : Prop := s.dev.ckpt = o

section
variable {s : State} {o : Option Ckpt}

theorem CkptIs.keeps (o : Option Ckpt) : HomeKeeps (CkptIs o) :=
  ⟨fun _ _ h => h, fun _ _ h => h, fun _ _ h => h, fun _ _ h => h, fun _ _ h => h, fun _ _ h => h⟩

theorem CkptIs.claimNow (e : DirEntry) (m : BitVec 32) (h : CkptIs o s) : CkptIs o (claimNow s e m) := by
  have hc : CkptIs o (countDie s (homeDie e.g) 1) := (CkptIs.keeps o).priv _ _ h
  unfold Machine.claimNow
  refine (CkptIs.keeps o).setDir _ ?_
  split
  · exact (CkptIs.keeps o).onHbm _ hc
  · split
    · exact hc
    · exact hc

theorem CkptIs.takeWrite (g : Nat) (m : BitVec 32) (nc : Bool) (die : Option Nat) (h : CkptIs o s) : CkptIs o (takeWrite s g m nc die) := by
  cases nc with
  | true => exact (CkptIs.keeps o).takeWrite_nc g m die h
  | false =>
    simp only [Machine.takeWrite, Bool.false_eq_true, if_false]
    split
    · exact h
    · split
      · exact h
      · split
        · split
          · exact h
          · exact h.claimNow _ _
        · exact h

theorem CkptIs.putAt (ds : List (Nat × Bool)) (bs : List Byte) (die : Option Nat) (h : CkptIs o s) : CkptIs o (putAt s ds bs die) :=
  (CkptIs.keeps o).onHbm _ (foldl_keeps (fun _ _ h => h.takeWrite _ _ _ _) _ h)

theorem CkptIs.farPut (a : Nat) (b : Byte) (h : CkptIs o s) : CkptIs o (farPut s a b) := by
  unfold Machine.farPut
  split
  · exact h
  · refine foldl_keeps (fun s x h => ?_) _ h
    dsimp only
    split <;> exact h

theorem CkptIs.putPlaces (ds : List (Nat × Bool)) (bs : List Byte) (die : Option Nat) (h : CkptIs o s) : CkptIs o (putPlaces s ds bs die) :=
  foldl_keeps (fun _ _ h => h.farPut _ _) _ (h.putAt _ _ _)

theorem CkptIs.ckptStatus (ds : List (Nat × Bool)) (n : Nat) (h : CkptIs o s) : CkptIs o (ckptStatus s ds n) :=
  (CkptIs.keeps o).priv _ _ (h.putPlaces _ _ _)

theorem CkptIs.ckptEvent (issuer : Option (BitVec 16 × BitVec 32 × W64)) (token : W64) (h : CkptIs o s) : CkptIs o (ckptEvent s issuer token) := by
  unfold Machine.ckptEvent
  split
  · next _ c id pc =>
    obtain ⟨es, he⟩ := postFevq_eq s c 0x0300 id pc token none
    rw [he]
    exact h
  · exact h

theorem CkptIs.onFlock (f : Nat) (g : Flock → Flock) (h : CkptIs o s) : CkptIs o (onFlock s f g) := by
  unfold Machine.onFlock
  split <;> exact h

theorem checkpointStreamEnd_ends {k : Ckpt} (hk : s.dev.ckpt = some k) (hq : quiesced s = true) :
    ∃ t, exec (.checkpointStreamEnd true) s = .next t ∧ t.dev.ckpt = none := by
  refine ⟨_, rfl, ?_⟩
  simp only [hk, hq, Bool.not_true, Bool.false_eq_true, if_false, if_true]
  exact ((CkptIs.putPlaces _ _ _ rfl).ckptStatus _ _).ckptEvent _ _

end

section
variable {s t : State} {a c x : Nat} {fs : List (Nat × Bool)}

/-- The state in which the record of a checkpoint command at `a` is read (18 R396). -/
def ckptAsked (s : State) (c a : Nat) : State :=
  if c = 0 then { s with dev := { s.dev with ckptdb := BitVec.ofNat 64 a } } else s

theorem ckptCommand_runs {restore : Bool} {run : State → Nat → List (Nat × Bool) → State} (h : ckptRecord (ckptAsked s c a) c a = (some (fs, x), t))
    (hm : ckptMalformed x = false) (hk : t.dev.ckpt = none) (ho : (recField x 0 1 == 1) = restore) :
    ckptCommand s c a restore run = run t x fs := by
  unfold ckptAsked at h
  simp only [ckptCommand, h, ho, bne_self_eq_false, hm, hk, Option.isSome_none, Bool.false_eq_true, if_false]

/-- A save begins: the checkpoint in progress is the record's (18 R397). -/
theorem ckptSave_begins (h : ckptRecord (ckptAsked s c a) c a = (some (fs, x), t)) (hm : ckptMalformed x = false) (hk : t.dev.ckpt = none)
    (ho : recField x 0 1 = 0) (hf : ckptFailing t = none) : ∃ u, exec (.ckptSave c a) s = .next u ∧
      u.dev.ckpt.any (fun k => !k.restore && k.store == recField x 8 8 && k.recAt == fs) = true := by
  refine ⟨_, rfl, ?_⟩
  rw [ckptCommand_runs h hm hk (by rw [ho]; rfl)]
  simp only [hf]
  have hkeep := foldl_keeps (P := CkptIs (ckptBegin t c x fs false).dev.ckpt)
    (f := fun s f => onFlock s f fun f => { f with swapDue := some 0x31 }) (fun s f h => h.onFlock f _)
    (((ckptBegin t c x fs false).dev.ckpt.map (·.flocks)).getD []) rfl
  rw [hkeep]
  simp [ckptBegin]

/-- No copy, no entry and no translation is cached. -/
def NothingCached (s : State) : Prop := s.coh.l1 = [] ∧ s.coh.dir = [] ∧ s.coh.tlb = []

theorem dropCaches_nothingCached (s : State) : NothingCached (dropCaches s) := by
  refine foldl_keeps (P := NothingCached) (fun s a h => ?_) _ ⟨rfl, rfl, rfl⟩
  unfold refuseHost
  split
  · split <;> exact h
  · exact h

theorem ckptRestore_drops (h : ckptRecord (ckptAsked s c a) c a = (some (fs, x), t)) (hm : ckptMalformed x = false) (hk : t.dev.ckpt = none)
    (ho : recField x 0 1 = 1) : ∃ u, exec (.ckptRestore c a) s = .next u ∧ u.coh.l1 = [] ∧ u.coh.dir = [] ∧ u.coh.tlb = [] := by
  refine ⟨_, rfl, ?_⟩
  rw [ckptCommand_runs h hm hk (by rw [ho]; rfl)]
  exact dropCaches_nothingCached _

end

/-! Trace streams. -/

theorem modNth_getD_same {α : Type} (f : α → α) (d : α) (xs : List α) {i : Nat} (h : i < xs.length) :
    (modNth f xs i).getD i d = f (xs.getD i d) := by
  simp only [List.getD_eq_getElem?_getD, modNth_get, List.getElem?_eq_getElem h, Option.map_some, Option.getD_some]

section
variable {s : State} {die : Nat} {d : Drove}

theorem streamOf_onStream (f : TraceStream → TraceStream) (h : die < s.dev.traces.length) :
    streamOf (onStream s die f) die = f (streamOf s die) := modNth_getD_same f _ _ h

theorem traceBrFlush_flushes (h : dueBr s die = some d) : exec (.traceBrFlush die) s = .next (flushAll s die d (unhelp d).pc) := by
  change execTraceBrFlush die s = _
  simp only [execTraceBrFlush, h]

theorem flushAll_single {pc : W64} (h : pendingBrs s die = [d]) : flushAll s die d pc = flushDue s die d pc := by
  simp only [flushAll, h, List.foldl_cons, List.foldl_nil, if_true]

theorem traceForcedSync_flushes (h : dueSync s die = some d) : exec (.traceForcedSync die) s = .next (flushAll s die d (unhelp d).pc) := by
  change execTraceForcedSync die s = _
  simp only [execTraceForcedSync, h]

/-- The state in which a free amount of the stream has drained (19 R418). -/
def streamDrained (s : State) (die : Nat) : State :=
  onStream (draw s).2 die fun t => { t with room := min 65536 (t.room + (draw s).1 % 65537) }

theorem streamOf_drained (hl : die < s.dev.traces.length) : streamOf (streamDrained s die) die =
    { streamOf s die with room := min 65536 ((streamOf s die).room + (draw s).1 % 65537) } :=
  streamOf_onStream (s := (draw s).2) _ hl

/-- A stream with a LOSS packet for the packets that `x` dropped (19 R418). -/
def withLoss (x t : TraceStream) : TraceStream :=
  { t with bytes := t.bytes ++ 0xE0 :: leBytes 2 (min x.dropped 65535), room := t.room - 3, dropped := 0, sinceSync := t.sinceSync + 1 }

/-- A drove of the die, whose next packet follows a SYNC (19 R418). -/
def resyncOn (die : Nat) (d : Drove) : Drove := if dieOfCore d.core = die then { d with trace := { d.trace with resync := true } } else d

/-- The drained stream has written LOSS (19 R418). -/
def lossWritten (s : State) (die : Nat) : State :=
  onStream (onStream (streamDrained s die) die (withLoss (streamOf (streamDrained s die) die))) die fun t =>
    { t with late := t.late.map (resyncOn die) }

/-- The stream with room for LOSS writes it (19 R418). -/
theorem traceLoss_writes (hd : (streamOf s die).dropped ≠ 0) (hr : 4096 ≤ (streamOf s die).room) (hl : die < s.dev.traces.length) :
    ∃ t, exec (.traceLoss die) s = .next t ∧ (streamOf t die).dropped = 0 ∧
      (streamOf t die).bytes = (streamOf s die).bytes ++ 0xE0 :: leBytes 2 (min (streamOf s die).dropped 65535) := by
  have hroom : ¬ (streamOf (streamDrained s die) die).room < 4096 := by
    rw [streamOf_drained hl]
    dsimp only
    omega
  have hul : die < (streamDrained s die).dev.traces.length := (modNth_length ..).symm ▸ hl
  have hul' : die < (onStream (streamDrained s die) die (withLoss (streamOf (streamDrained s die) die))).dev.traces.length :=
    (modNth_length ..).symm ▸ hul
  have he : exec (.traceLoss die) s = _ := congrArg Host.Outcome.next ((if_neg hd).trans (if_neg hroom))
  have hu : streamOf (lossWritten s die) die =
      { withLoss (streamOf s die) (streamOf (streamDrained s die) die) with late := (streamOf s die).late.map (resyncOn die) } := by
    rw [lossWritten, streamOf_onStream _ hul', streamOf_onStream _ hul, streamOf_drained hl]
    rfl
  refine ⟨_, he, ?_⟩
  change (streamOf (lossWritten s die) die).dropped = 0 ∧ (streamOf (lossWritten s die) die).bytes = _
  rw [hu, streamOf_drained hl]
  exact ⟨rfl, rfl⟩

end

/-- Settles O60: each event of the device has the effect of its row. -/
theorem deviceEvents : Obligations.DeviceEvents := by
  intro s
  refine ⟨⟨rfl, fun h => ⟨rfl, rfl, rfl, rfl, rfl, rfl⟩⟩, rfl, recoveryImageWrite_eq, ⟨_, rfl, rfl, rfl, rfl, rfl⟩,
    ⟨⟨_, rfl, rfl⟩, thermalClockStep_down⟩,
    fun l hl => ⟨flitCrcFail_resends hl, linkRetrain_retrains hl, linkRetrainEnd_trained l⟩,
    fun p hp => ⟨portDown_down hp, portTrained_up hp⟩, fun x => ⟨_, rfl, rfl, rfl⟩,
    fun a ha hr => ⟨_, attestReply s a, attestRequest_replies ha hr, rfl, attestReply_nonce s a⟩, ⟨_, rfl, rfl, rfl⟩, fieldRecordCommit_commits,
    fun a x fs c _ t h hm hk => ⟨ckptSave_begins h hm hk, ckptRestore_drops h hm hk⟩, fun k hk hq => checkpointStreamEnd_ends hk hq,
    fun die d h => ⟨traceBrFlush_flushes h, fun hb => ?_⟩, fun die d h => traceForcedSync_flushes h,
    fun die hd hr _ hl => traceLoss_writes hd hr hl, fun h => ?_, fun h => ?_⟩
  · rw [traceBrFlush_flushes h, flushAll_single hb]
  · exact congrArg Host.Outcome.next (if_pos h)
  · exact congrArg Host.Outcome.next (if_neg (by rw [h]; exact Bool.false_ne_true))

end Sys2Proof.Machine

namespace Sys2Proof.Machine

set_option Elab.async false

/-! PROOFS. The system instructions (05 R115-R119, 08 R174, 11 R253-R261, 16 R345), rule by rule. -/

section
variable {s : State} {a b d : BitVec 6} {n : BitVec 8} {c : BitVec 2}

/-- Every user register but DSTAT reads the same after the record of an issue. -/
theorem userRead_recorded {t : State} (h : Recorded s t) {n : Nat} (hn : n ≠ 3) : userRead t n = userRead s n := by
  obtain ⟨o, li, fr, ds, ln, ts, du, hd, rfl⟩ := h
  unfold userRead
  split
  case h_4 => exact absurd rfl hn
  all_goals rfl

theorem sysBad_user {n : Nat} (h : n < 0x14) : sysBad n = false := by
  rw [sysBad, if_pos (by omega), decide_eq_false_iff_not]
  omega

theorem sysBad_priv {n : Nat} (h : privAssigned n = true) : 0x80 ≤ n ∧ sysBad n = false := by
  have h80 : 0x80 ≤ n := by
    simp only [privAssigned, Bool.or_eq_true, Bool.and_eq_true, decide_eq_true_eq] at h
    omega
  refine ⟨h80, ?_⟩
  rw [sysBad, if_neg (by omega), h]
  rfl

/-- The number of a system register that the drove may name: a user register, or a privileged one in privileged mode (11 R260). -/
def mayName (s : State) (n : Nat) : Prop := n < 0x14 ∨ (privAssigned n = true ∧ privileged s = true)

theorem mayName_checks {n : Nat} (h : mayName s n) : (decide (0x80 ≤ n) && !privileged s) = false ∧ sysBad n = false := by
  rcases h with h | ⟨ha, hp⟩
  · exact ⟨by simp only [decide_eq_false (by omega : ¬ 0x80 ≤ n), Bool.false_and], sysBad_user h⟩
  · exact ⟨by simp only [hp, Bool.not_true, Bool.and_false], (sysBad_priv ha).2⟩

/-- The checks of `sysrd` on its drove (11 R260). -/
def sysrdChk (d : BitVec 6) (n : BitVec 8) : Chk := { uses := [dstS d.toNat], priv := decide (0x80 ≤ n.toNat), bad := sysBad n.toNat }

theorem sysrd_go (hf : fits s [dstS d.toNat] = true) (hn : mayName s n.toNat) : verdict (sysrdChk d n) s = .go :=
  verdict_go (c := sysrdChk d n) hf rfl (mayName_checks hn).1 (mayName_checks hn).2 rfl rfl (.inl rfl) (.inl rfl) (.inl rfl)

theorem sysrd_eq : exec (.sysrd d n) s = .next (issueIf (sysrdChk d n) (fun _ => .go) s fun s =>
    if slowSys n.toNat then retire (post (onDr s fun r => markS r d.toNat false)
      { Req.fresh s (.sysrd n.toNat) 8 [] with dst := d.toNat, split := s.dr.lclk })
    else retire (onDr s fun r => setS r d.toNat (userRead s n.toNat))) := rfl

/-- A `sysrd` of a user register other than CYCLE (11 R260); DSTAT reads the GANG of its own issue. -/
theorem sysrd_user (hf : fits s [dstS d.toNat] = true) (hn : n.toNat < 0x14) (h12 : n.toNat ≠ 0x12) :
    ∃ fit, Does (.sysrd d n) s fun r => setS r d.toNat (userRead (issued fit s [dstS d.toNat]) n.toNat) := by
  have hslow : slowSys n.toNat = false := by
    have : ¬ 128 ≤ n.toNat := by omega
    simp [slowSys, h12, this]
  have h := issued_recorded (canGo (sysrdChk d n) (fun _ => .go) s) s [dstS d.toNat] 1
  refine ⟨canGo (sysrdChk d n) (fun _ => .go) s, _, sysrd_eq.trans (congrArg _ (issueIf_go _ (sysrd_go hf (.inl hn)) rfl)), ?_⟩
  simp only [hslow, Bool.false_eq_true, if_false]
  exact h.retire_bare _ fun x o => by simp only [setS]; split <;> rfl

/-- A `sysrd` of CYCLE or of a privileged register leaves as a request. -/
theorem sysrd_slow (hf : fits s [dstS d.toNat] = true) (hn : n.toNat = 0x12 ∨ (privAssigned n.toNat = true ∧ privileged s = true)) :
    Leaves (.sysrd d n) s (retire (post (onDr s fun r => markS r d.toNat false)
        { Req.fresh s (.sysrd n.toNat) 8 [] with dst := d.toNat, split := s.dr.lclk })) := by
  have hslow : slowSys n.toNat = true := by
    rcases hn with h | ⟨h, -⟩
    · simp [slowSys, h]
    · simp [slowSys, (sysBad_priv h).1]
  have hn' : mayName s n.toNat := hn.imp_left (by omega)
  refine leaves_of_go sysrd_eq (sysrd_go hf hn') rfl fun t ht => ?_
  obtain ⟨o, hd⟩ := ht.dr
  simp only [hslow, if_true, ht.reqFresh, hd]
  exact ((ht.onDr (f := fun r => markS r d.toNat false) fun x o => by simp only [markS]; split <;> rfl).post _).retire

/-- The checks of `syswr` on its drove (11 R260). -/
def syswrChk (a : BitVec 6) (n : BitVec 8) : Chk := { uses := [srcS a.toNat], priv := decide (0x80 ≤ n.toNat), bad := sysBad n.toNat }

/-- What `syswr` finds in its value before it issues (11 R260). -/
def syswrVerdict (a : BitVec 6) (n : BitVec 8) (s : State) : Verdict :=
  if n.toNat < 0x80 then stopIf (userWrite s.dr n.toNat (sreg s.dr a.toNat)).isNone 0x02
  else stopIf ((sreg s.dr a.toNat).toNat % recordAlign n.toNat != 0) 0x14 0 (sreg s.dr a.toNat).toNat

/-- What `syswr` does once it has issued (11 R260). -/
def syswrRun (a : BitVec 6) (n : BitVec 8) (s : State) : State :=
  if n.toNat < 0x80 then retire (onDr s fun d => (userWrite d n.toNat (sreg s.dr a.toNat)).getD d)
  else onDr s fun d => { d with cond := .waiting (.write n.toNat (sreg s.dr a.toNat)), since := s.cycle }

theorem syswr_eq : exec (.syswr a n) s = .next (issueIf (syswrChk a n) (syswrVerdict a n) s (syswrRun a n)) := rfl

theorem syswr_go (hf : fits s [srcS a.toNat] = true) (hn : mayName s n.toNat) : verdict (syswrChk a n) s = .go :=
  verdict_go (c := syswrChk a n) hf rfl (mayName_checks hn).1 (mayName_checks hn).2 rfl rfl (.inl rfl) (.inl rfl) (.inl rfl)

theorem userWrite_recorded (d : Drove) (o : Seen) (n : Nat) (x : W64) :
    ((userWrite (d.recorded o) n x).getD (d.recorded o)).bare = ((userWrite d n x).getD d).bare := by
  have h1 : modeOk64 (d.recorded o) x = modeOk64 d x := rfl
  have h2 : (d.recorded o).depth = d.depth := rfl
  unfold userWrite
  rw [h1, h2]
  split
  case h_1 => split <;> rfl
  case h_5 => split <;> rfl
  all_goals rfl

theorem syswr_user (hf : fits s [srcS a.toNat] = true) (hn : n.toNat < 0x14)
    (hw : (userWrite s.dr n.toNat (sreg s.dr a.toNat)).isSome = true) :
    Does (.syswr a n) s fun d => (userWrite d n.toNat (sreg s.dr a.toNat)).getD d := by
  have h80 : n.toNat < 0x80 := by omega
  have hv : syswrVerdict a n s = .go := by
    obtain ⟨w, hw'⟩ := Option.isSome_iff_exists.1 hw
    simp [syswrVerdict, h80, hw', stopIf]
  have h := issued_recorded (canGo (syswrChk a n) (syswrVerdict a n) s) s (syswrChk a n).uses (syswrChk a n).slots
  refine ⟨_, syswr_eq.trans (congrArg _ (issueIf_go _ (syswr_go hf (.inl hn)) hv)), ?_⟩
  simp only [syswrRun, h80, if_true, h.sreg]
  exact h.retire_bare _ fun x o => userWrite_recorded x o _ _

theorem syswr_refused (hf : fits s [srcS a.toNat] = true) (hn : n.toNat < 0x14)
    (hw : userWrite s.dr n.toNat (sreg s.dr a.toNat) = none) : Stops (.syswr a n) s 0x02 0 0 := by
  have h80 : n.toNat < 0x80 := by omega
  have hv : syswrVerdict a n s = .stop 0x02 0 0 := by simp [syswrVerdict, h80, hw, stopIf]
  exact syswr_eq.trans (congrArg _ (issueIf_stop' _ (syswr_go hf (.inl hn)) hv))

theorem syswr_priv (hf : fits s [srcS a.toNat] = true) (hp : privAssigned n.toNat = true) (hs : privileged s = true)
    (ha : (sreg s.dr a.toNat).toNat % recordAlign n.toNat = 0) :
    Takes (.syswr a n) s [srcS a.toNat] fun u => onDr u fun d => { d with cond := .waiting (.write n.toNat (sreg s.dr a.toNat)), since := u.cycle } := by
  have h80 : ¬ n.toNat < 0x80 := by have := (sysBad_priv hp).1; omega
  have hv : syswrVerdict a n s = .go := by simp [syswrVerdict, h80, ha, stopIf]
  refine takes_of_recorded syswr_eq rfl (syswr_go hf (.inr ⟨hp, hs⟩)) hv fun u hu => ?_
  simp only [syswrRun, h80, if_false, hu.sreg]

/-- A privileged instruction stops in user mode. -/
theorem priv_stops {i : Instr} {k : Chk} {dyn : State → Verdict} {run : State → State} (he : exec i s = .next (issueIf k dyn s run))
    (h1 : k.noShep = false) (h2 : k.priv = true) (hp : privileged s = false) : Stops i s 0x0A 0 0 := by
  refine he.trans (congrArg _ ?_)
  have : verdict k s = .stop 0x0A 0 0 := by simp [verdict, h1, h2, hp]
  simp only [issueIf, this]

/-- The checks of `tlbi` on its drove (11 R261). -/
def tlbiChk (a b : BitVec 6) (c : BitVec 2) : Chk := { uses := [srcS a.toNat, srcS b.toNat], priv := true, bad := c == 3 }

theorem tlbi_user (hp : privileged s = false) : Stops (.tlbi a b c) s 0x0A 0 0 := by
  have hv : verdict { uses := [srcS a.toNat, srcS b.toNat], priv := true, bad := c == 3 } s = .stop 0x0A 0 0 := by simp [verdict, hp]
  change execTlbi a b c s = _
  simp only [execTlbi, hv]
  cases s.dr.cond
  case waiting w => cases w <;> simp only [issueIf, hv]
  all_goals simp only [issueIf, hv]

theorem tlbi_go (hf : fits s [srcS a.toNat, srcS b.toNat] = true) (hp : privileged s = true) (hc : c ≠ 3) : verdict (tlbiChk a b c) s = .go :=
  verdict_go (c := tlbiChk a b c) hf rfl (by simp only [hp, Bool.not_true, Bool.and_false]) (by simpa [tlbiChk] using hc) rfl rfl
    (.inl rfl) (.inl rfl) (.inl rfl)

/-- `tlbi` drops the translations that it hits, and loads anew the regions of the contexts that it reaches (11 R261). -/
def tlbiDropped (c : BitVec 2) (va : Nat) (x : W64) (s : State) : State :=
  let t := { s with coh := { s.coh with tlb := s.coh.tlb.filter fun e => !tlbiHits c va x e } }
  if c = 0 then t else reloadRegions t (tlbiCtx c x)

/-- Translations and the cores' regions are all that `tlbi` changes before it issues. -/
theorem tlbiDropped_eq (va : Nat) (x : W64) : ∃ k, tlbiDropped c va x s =
    { s with coh := { s.coh with cores := k, tlb := s.coh.tlb.filter fun e => !tlbiHits c va x e } } := by
  unfold tlbiDropped
  split <;> exact ⟨_, rfl⟩

/-- What `tlbi` waits for once it has dropped them (11 R261). -/
def tlbiVerdict (c : BitVec 2) (va : Nat) (x : W64) (s : State) : Verdict := waitIf (usesOld s s.uid c va x) (.flush s.uid)

theorem tlbi_eq (hw : ∀ t, s.dr.cond ≠ .waiting t) (hv : verdict (tlbiChk a b c) s = .go) (hb : (sreg s.dr b.toNat).toNat < 2 ^ 16) :
    exec (.tlbi a b c) s = .next (issueIf (tlbiChk a b c) (tlbiVerdict c (sreg s.dr a.toNat).toNat (sreg s.dr b.toNat))
      (tlbiDropped c (sreg s.dr a.toNat).toNat (sreg s.dr b.toNat) s) retire) := by
  change execTlbi a b c s = _
  simp only [tlbiChk] at hv
  have hd : stopIf (decide (2 ^ 16 ≤ (sreg s.dr b.toNat).toNat)) 0x02 = .go := by
    rw [stopIf, decide_eq_false (Nat.not_le.2 hb)]
    rfl
  simp only [execTlbi, hv, hd]
  cases hc : s.dr.cond
  case waiting w => exact absurd hc (hw w)
  all_goals rfl

theorem homeRead_of_dir {s t : State} (hm : t.mem = s.mem) (h1 : t.coh.l1 = s.coh.l1) (h2 : t.coh.dir = s.coh.dir) (a n : Nat) :
    homeRead t a n = homeRead s a n := by
  rw [homeRead, homeRead, homeBytes_of_dirs (congrArg Mems.hbm hm) h1 fun g => by unfold dirOf; rw [h2]]

theorem privileged_tlbiDropped (va : Nat) (x : W64) : privileged (tlbiDropped c va x s) = privileged s := by
  obtain ⟨k, hs⟩ := tlbiDropped_eq (s := s) (c := c) va x
  rw [hs]
  simp only [privileged, csbField, ctxOf]
  split
  · rw [homeRead_of_dir] <;> rfl
  · rfl

/-- `tlbi` in privileged mode, when no access may have used a translation that it drops (11 R261). -/
theorem tlbi_takes (hf : fits s [srcS a.toNat, srcS b.toNat] = true) (hp : privileged s = true) (hc : c ≠ 3)
    (hb : (sreg s.dr b.toNat).toNat < 2 ^ 16) (hu : usesOld s s.uid c (sreg s.dr a.toNat).toNat (sreg s.dr b.toNat) = false)
    (hw : ∀ t, s.dr.cond ≠ .waiting t) :
    ∃ t, exec (.tlbi a b c) s = .next t ∧ t.dr.pc = (retire s).dr.pc ∧ t.mem = s.mem ∧
        ∀ e, e ∈ t.coh.tlb ↔ e ∈ s.coh.tlb ∧ tlbiHits c (sreg s.dr a.toNat).toNat (sreg s.dr b.toNat) e = false := by
  have he := tlbi_eq hw (tlbi_go hf hp hc) hb
  have hpu := (privileged_tlbiDropped (s := s) (c := c) (sreg s.dr a.toNat).toNat (sreg s.dr b.toNat)).trans hp
  obtain ⟨k, hu'⟩ := tlbiDropped_eq (s := s) (c := c) (sreg s.dr a.toNat).toNat (sreg s.dr b.toNat)
  generalize tlbiDropped c (sreg s.dr a.toNat).toNat (sreg s.dr b.toNat) s = u at he hpu hu'
  have hgo : verdict (tlbiChk a b c) u = .go := tlbi_go (by rw [hu']; exact hf) hpu hc
  have hold : tlbiVerdict c (sreg s.dr a.toNat).toNat (sreg s.dr b.toNat) u = .go := by
    have : usesOld u u.uid c (sreg s.dr a.toNat).toNat (sreg s.dr b.toNat) = false := by rw [hu']; exact hu
    rw [tlbiVerdict, this]
    rfl
  refine ⟨_, he.trans (congrArg _ (issueIf_go _ hgo hold)), ?_⟩
  have h := issued_recorded (canGo (tlbiChk a b c) (tlbiVerdict c (sreg s.dr a.toNat).toNat (sreg s.dr b.toNat)) u) u
    (tlbiChk a b c).uses (tlbiChk a b c).slots
  obtain ⟨hm, hcoh, -⟩ := h.retire.rest
  obtain ⟨o, hd⟩ := h.dr
  obtain ⟨pc, m, hr⟩ := retire_eq u
  refine ⟨retire_pc_recorded (s := s) (o := o) (hd.trans (by rw [hu'])), hm.trans (by rw [retire_mem, hu']), fun e => ?_⟩
  rw [hcoh, hr, hu']
  simp only [List.mem_filter, Bool.not_eq_true']

end

section
variable {s : State} {a b d : BitVec 6} {n : BitVec 8} {c : BitVec 2} {p va vb : BitVec 7} {k : BitVec 3}

theorem privileged_only (hp : privileged s = false) : ∀ i ∈ ([.mcw a, .tlbi a b c, .eret] : List Instr), Stops i s 0x0A 0 0 := by
  simp only [List.forall_mem_cons, List.not_mem_nil, false_imp_iff, implies_true, and_true]
  refine ⟨priv_stops (mcw_eq a) rfl rfl hp, tlbi_user hp, priv_stops (k := { priv := true }) rfl rfl rfl hp⟩

theorem sys_user_stops (hn : 0x80 ≤ n.toNat) (hp : privileged s = false) : ∀ i ∈ ([.sysrd d n, .syswr a n] : List Instr), Stops i s 0x0A 0 0 := by
  simp only [List.forall_mem_cons, List.not_mem_nil, false_imp_iff, implies_true, and_true]
  exact ⟨priv_stops sysrd_eq rfl (by simp [sysrdChk, hn]) hp, priv_stops syswr_eq rfl (by simp [syswrChk, hn]) hp⟩

/-- What `mcall` does once it has issued (11 R257). -/
def mcallRun (p va vb : BitVec 7) (k : BitVec 3) (s : State) : State :=
  let m : Micro := { slot := p, pa := va, pb := vb, k := k, step := 0, code := slotCode s p.toNat }
  let s := onDr s fun d => retireDr d d.pc (some m) s.cycle
  onFl s fun f => { f with lastIssue := s.cycle }

theorem mcall_eq : exec (.mcall p va vb k) s = .next (issueIf {} (fun s => stopIf (slotCode s p.toNat).isEmpty 0x01) s (mcallRun p va vb k)) := rfl

theorem mcall_stops (h : slotCode s p.toNat = []) : Stops (.mcall p va vb k) s 0x01 0 0 :=
  mcall_eq.trans (congrArg _ (issueIf_stop' _ (verdict_empty_go s) (by rw [h]; rfl)))

/-- `qhelp` and the word that follows it (08 R174). -/
theorem qhelp_takes {w : BitVec 32} {t : State} (h : helpedWord s = (.word w, t)) :
      (helpable w = true → ∃ u, exec .qhelp s = .next u ∧ u.port = true ∧ u.dr.help = true ∧ u.mem = t.mem ∧ u.dr.s = t.dr.s ∧ u.dr.v = t.dr.v ∧
        (t.dr.micro = none → u.dr.pc = t.dr.pc + 4 ∧ u.dr.helpWord = some w) ∧
        ∀ m, t.dr.micro = some m → u.dr.pc = t.dr.pc ∧ u.dr.micro = some { m with step := m.step + 1 }) ∧
      (helpable w = false → exec .qhelp s = .next (stopIssue t 0x02 0 0)) := by
  have he : exec .qhelp s = execQhelp s := rfl
  refine ⟨fun hw => ⟨_, by simp only [he, execQhelp, h, hw, if_true]; rfl, ?_⟩, fun hw => ?_⟩
  · cases hm : t.dr.micro <;> simp [onDr, hm]
  · simp only [he, execQhelp, h, hw, Bool.false_eq_true, if_false]

/-- What `rlaunch` finds before it issues (16 R345). -/
def rlaunchVerdict (a : BitVec 6) (s : State) : Verdict :=
  firstOf [stopIf ((sreg s.dr a.toNat).toNat % 128 != 0) 0x14 0 (sreg s.dr a.toNat).toNat, releasePoint s]

/-- What `rlaunch` does once it has issued (16 R345, R349). -/
def rlaunchRun (a : BitVec 6) (s : State) : State :=
  let va := (sreg s.dr a.toNat).toNat
  match present s s.dr.ctx va with
  | (some s, _) => retire s
  | (none, s) => parkMasked (onDr s fun d => { d with cond := .ready }) 9 0x10 va 0

theorem rlaunch_eq : exec (.rlaunch a) s = .next (issueIf { uses := [srcS a.toNat] } (rlaunchVerdict a) s (rlaunchRun a)) := rfl

theorem rlaunch_takes (hf : fits s [srcS a.toNat] = true) (hx : (sreg s.dr a.toNat).toNat % 128 = 0) (hr : releasePoint s = .go) :
    ∃ fit, ∀ t u, present (issued fit s [srcS a.toNat]) s.dr.ctx (sreg s.dr a.toNat).toNat = (some t, u) →
      exec (.rlaunch a) s = .next (retire t) := by
  have hd : rlaunchVerdict a s = .go := by simp [rlaunchVerdict, hx, hr, stopIf, firstOf]
  obtain ⟨fit, he⟩ := takes_of_go rlaunch_eq rfl (verdict_uses_go hf) hd
  have hi := issued_recorded fit s [srcS a.toNat] 1
  obtain ⟨o, hdr⟩ := hi.dr
  have hc : (issued fit s [srcS a.toNat]).dr.ctx = s.dr.ctx := by rw [hdr]; rfl
  refine ⟨fit, fun t u h => he.trans (congrArg _ ?_)⟩
  simp only [rlaunchRun, hi.sreg, hc, h]

/-- A spill and a fill of the link stack (05 R115, R117). -/
theorem spill_takes {u : Nat} (hu : s.dr.uid = u) (hc : s.dr.cond = .waiting .link) :
      let die := some (dieOfCore s.dr.core)
      (∀ t, 16 ≤ s.dr.links.length →
        vaPut s s.dr.ctx (linkVa s.dr (s.dr.depth - s.dr.links.length)) (leBytes 8 (s.dr.links.getLastD 0).toNat) die = (none, t) →
        exec (.linkStackSpillFill u) s = .next (onDr t fun d => { d with links := d.links.dropLast })) ∧
      (∀ bs t, s.dr.links = [] → 0 < s.dr.depth → vaRead s s.dr.ctx (linkVa s.dr (s.dr.depth - 1)) 8 die = (.inl bs, t) →
        exec (.linkStackSpillFill u) s = .next (onDr t fun d => { d with links := [BitVec.ofNat 64 (leNat bs)] })) := by
  subst hu
  have he : exec (.linkStackSpillFill s.dr.uid) s = execLinkStackSpillFill s.dr.uid s := rfl
  refine ⟨fun t hl hp => ?_, fun bs t hl hd hp => ?_⟩
  · simp only [he, execLinkStackSpillFill, select_port, hc, hl, hp, ne_eq, not_true_eq_false, or_self, if_false, if_true]
  · simp only [he, execLinkStackSpillFill, select_port, hc, hl, hp, ne_eq, not_true_eq_false, or_self, if_false, if_true, hd, and_self,
      List.length_nil, nonpos_iff_eq_zero, OfNat.ofNat_ne_zero]

end

/-! A drove leaves its flock: what each step of that keeps of the drove at the port and of its flock. -/

/-- The drove at the port keeps its place and generation, and its flock its members. -/
def Stay (s t : State) : Prop :=
  t.dr.idx = s.dr.idx ∧ t.dr.gen = s.dr.gen ∧ t.fl.exited = s.fl.exited ∧ t.fl.droves = s.fl.droves ∧ t.fl.colls = s.fl.colls ∧ t.fl.uid = s.fl.uid

namespace Stay

theorem refl (s : State) : Stay s s := ⟨rfl, rfl, rfl, rfl, rfl, rfl⟩

theorem trans {s t u : State} (h : Stay s t) (k : Stay t u) : Stay s u := by
  obtain ⟨a1, a2, a3, a4, a5, a6⟩ := h
  obtain ⟨b1, b2, b3, b4, b5, b6⟩ := k
  exact ⟨b1.trans a1, b2.trans a2, b3.trans a3, b4.trans a4, b5.trans a5, b6.trans a6⟩

theorem of_sameSide {s t : State} (h : s.sameSide t) : Stay s t := by
  obtain ⟨h1, -, h2, -⟩ := h
  simp only [Stay, h1, h2, and_self]

theorem setCsbField (s : State) (c : BitVec 16) (off n x : Nat) : Stay s (Machine.setCsbField s c off n x) := by
  simp only [Machine.setCsbField]
  split
  · exact of_sameSide (homeWrite_side _ _ _ _ _ (sameSide_refl s))
  · exact .refl s

theorem countCsb (s : State) (c : BitVec 16) (off : Nat) : Stay s (Machine.countCsb s c off) :=
  setCsbField s c off 4 _

theorem foldl {α : Type} {f : State → α → State} (hf : ∀ s a, Stay s (f s a)) (l : List α) (s : State) : Stay s (l.foldl f s) :=
  foldl_keeps (P := Stay s) (fun t a h => h.trans (hf t a)) l (.refl s)

theorem dropPark (s : State) (p : Park) : Stay s (Machine.dropPark s p) := by
  simp only [Machine.dropPark]
  split
  · simp only [refill, setFtState]
    exact (of_sameSide (vaPut_side s s _ _ _ _ (sameSide_refl s))).trans (setCsbField _ _ _ _ _)
  · exact .refl s

theorem cancelTlds (s : State) : Stay s (Machine.cancelTlds s) :=
  foldl (fun s r => by exact foldl dropPark (s.sch.parks.filter fun p => p.req == some r.id) s) _ s

theorem wake (s : State) (u : Nat) (w : W64) (p : Wait → Bool) : Stay s (Machine.wake s u w p) := by
  simp only [Machine.wake, touchDrove, onDrove, onDr]
  split
  · simp only [Stay]
    split <;> simp
  · exact .refl s

theorem gangUp (s : State) (ds : List Drove) : Stay s (Machine.gangUp s ds) := by
  obtain ⟨o, hd⟩ := (gangUp_recorded s ds).dr
  obtain ⟨n, hf⟩ := (gangUp_recorded s ds).fl
  simp only [Stay, hd, hf, and_true]
  exact ⟨rfl, rfl⟩

theorem tryRelease (s : State) (n : Nat) (w : W64) : Stay s (Machine.tryRelease s n w) := by
  simp only [Machine.tryRelease]
  split
  · exact .refl s
  · have drop (x : State) (ds : List Drove) (h : Stay s x) : Stay s { x with droves := ds } := h
    refine drop _ _ ?_
    refine Stay.trans ?_ (foldl (fun s (d : Drove) => wake s d.uid w _) _ _)
    refine Stay.trans ?_ (gangUp _ _)
    exact ⟨rfl, rfl, rfl, rfl, rfl, rfl⟩

theorem wakePops (s : State) (n : Nat) (w : W64) : Stay s (Machine.wakePops s n w) := by
  simp only [Machine.wakePops]
  split
  · split
    · exact foldl (fun s (p : Pop) => wake s p.drove w _) _ _
    · exact .refl s
  · exact .refl s

end Stay

/-- Leaving the flock puts the drove among those that have exited. -/
theorem leaveFlock_stays (s : State) : Stay (onFl s fun f => { f with exited := f.exited ++ [s.dr.idx] }) (leaveFlock s) := by
  simp only [leaveFlock]
  refine Stay.trans ?_ (Stay.foldl (fun s n => Stay.wakePops s n _) _ _)
  refine Stay.trans ?_ (Stay.foldl (fun s n => Stay.tryRelease s n _) _ _)
  have h : Stay s (cancelTlds ((s.reqs.filter fun r => r.drove == s.dr.uid && isLoad r).foldl (fun s r => countCsb s r.ctx 0x48)
      { s with reqs := s.reqs.filter fun r => !(r.drove == s.dr.uid && isLoad r) })) :=
    ((Stay.foldl (fun s r => Stay.countCsb s r.ctx 0x48) (s.reqs.filter fun r => r.drove == s.dr.uid && isLoad r)
      { s with reqs := s.reqs.filter fun r => !(r.drove == s.dr.uid && isLoad r) } : Stay s _)).trans (Stay.cancelTlds _)
  obtain ⟨a1, a2, a3, a4, a5, a6⟩ := h
  exact ⟨a1, a2, congrArg (· ++ [s.dr.idx]) a3, a4, a5, a6⟩

/-- A flock with members left has not finished. -/
theorem finishFlock_waits {s : State} (h : members s.fl ≠ []) : finishFlock s s.fl.uid = s := by
  simp only [finishFlock, flockOf, allFlocks]
  by_cases h0 : s.fl.uid = 0
  · have : ((s.fl :: s.flocks).find? fun f => f.uid == s.fl.uid && f.uid != 0) = none := by
      rw [h0, List.find?_eq_none]
      intro f hf
      simp
    rw [this]
  · rw [List.find?_cons_of_pos (by simp [h0])]
    simp [h]

/-- What `exit` does after it has left its flock. -/
def ended (s : State) : State :=
  let s := onDr s fun d => { d with cond := .exited, gen := d.gen + 1 }
  let s := onRange s s.fl.range fun r => { r with retired := r.retired + s.dr.retired }
  let s := s.fl.colls.foldl (fun s c => startColl s c.id) s
  finishFlock s s.fl.uid

/-- What `exit` does once it has issued (05 R118, R119). -/
def exitRun (s : State) : State := ended (retire (leaveFlock s))

theorem exit_eq (s : State) : exec .exit s = .next (issueIf { sync := true } exitVerdict s exitRun) := rfl

theorem ended_of_members {s : State} (hc : s.fl.colls = []) (hm : members s.fl ≠ []) :
    (ended s).dr.cond = .exited ∧ (ended s).dr.gen = s.dr.gen + 1 ∧ (ended s).fl = s.fl := by
  simp only [ended, onRange, onDr, hc, List.foldl_nil]
  have := finishFlock_waits (s := { s with
    dr := { s.dr with cond := .exited, gen := s.dr.gen + 1 }
    sch := { s.sch with ranges := mapIf (fun r => r.uid == s.fl.range) (fun r => { r with retired := r.retired + s.dr.retired }) s.sch.ranges } }) hm
  refine ⟨congrArg (fun t => t.dr.cond) this, congrArg (fun t => t.dr.gen) this, congrArg (fun t => t.fl) this⟩

theorem exitRun_ends {s : State} (hc : s.fl.colls = []) (hm : ∃ i ∈ members s.fl, i ≠ s.dr.idx) :
    (exitRun s).dr.cond = .exited ∧ (exitRun s).dr.gen = s.dr.gen + 1 ∧ (exitRun s).fl.exited = s.fl.exited ++ [s.dr.idx] := by
  have hst := leaveFlock_stays s
  unfold exitRun
  generalize leaveFlock s = u at hst
  obtain ⟨a1, a2, a3, a4, a5, a6⟩ := hst
  obtain ⟨pc, m, hr⟩ := retire_dr u
  have hfl := retire_fl u
  generalize retire u = w at *
  have hne : members w.fl ≠ [] := by
    obtain ⟨i, hi, hne⟩ := hm
    refine List.ne_nil_of_mem (a := i) ?_
    have hx : w.fl.exited = s.fl.exited ++ [s.dr.idx] := by rw [hfl]; exact a3
    have hd : w.fl.droves = s.fl.droves := by rw [hfl]; exact a4
    simp only [members, List.mem_filter, List.mem_range, hx, hd] at hi ⊢
    simp only [Bool.not_eq_true', List.contains_eq_mem, decide_eq_false_iff_not, List.mem_append, List.mem_singleton, not_or] at hi ⊢
    exact ⟨hi.1, hi.2, hne⟩
  obtain ⟨e1, e2, e3⟩ := ended_of_members (s := w) (by rw [hfl]; exact a5.trans hc) hne
  refine ⟨e1, e2.trans ?_, ?_⟩
  · rw [hr]; exact congrArg (· + 1) a2
  · rw [e3, hfl]; exact a3

/-- `exit` of a drove that is not the last of its flock (05 R118, R119). -/
theorem exit_takes {s : State} (hg : mayGo s = true) (hv : exitVerdict s = .go) (hc : s.fl.colls = []) (hm : ∃ i ∈ members s.fl, i ≠ s.dr.idx) :
    ∃ t, exec .exit s = .next t ∧ t.dr.cond = .exited ∧ t.dr.gen = s.dr.gen + 1 ∧ t.fl.exited = s.fl.exited ++ [s.dr.idx] := by
  refine ⟨_, (exit_eq s).trans (congrArg _ (issueIf_go _ (verdict_sync (us := []) rfl hg) hv)), ?_⟩
  have h := issued_recorded (canGo { sync := true } exitVerdict s) s ({ sync := true } : Chk).uses ({ sync := true } : Chk).slots
  change (exitRun (issued _ _ _ _)).dr.cond = _ ∧ (exitRun (issued _ _ _ _)).dr.gen = _ ∧ (exitRun (issued _ _ _ _)).fl.exited = _
  generalize issued (canGo { sync := true } exitVerdict s) s ({ sync := true } : Chk).uses ({ sync := true } : Chk).slots = u at *
  obtain ⟨o, hd⟩ := h.dr
  obtain ⟨n, hf⟩ := h.fl
  have hi : u.dr.idx = s.dr.idx := by rw [hd]; rfl
  have hgen : u.dr.gen = s.dr.gen := by rw [hd]; rfl
  have hx : u.fl.exited = s.fl.exited := by rw [hf]
  have := exitRun_ends (s := u) (by rw [hf]; exact hc) (by rw [hf, hi]; exact hm)
  rwa [hgen, hx, hi] at this

end Sys2Proof.Machine

namespace Sys2Proof.Machine

set_option Elab.async false

/-! PROOFS. What `SystemResult` comes down to, first half. The slot that `mcall` finds is read twice: by its check, and after the record of
its issue, which may draw a free choice (19 R418). Where CSIMG names a peer, the peer's answer is free at each of them (18 R382; assumption
log 2). With peers that go on serving what they have served, both reads find the same. -/

/-- What the checks of a leaf read (13 R283). -/
def SameChecks (s t : State) : Prop := t.vc.cdrs = s.vc.cdrs ∧ t.vc.unhoused = s.vc.unhoused ∧ t.dev = s.dev

section
variable {s t u : State}

theorem SameChecks.recallAll (g : Nat) (h : SameChecks s t) : SameChecks s (recallAll t g) := by
  simp only [Machine.recallAll]
  split <;> exact h

theorem SameChecks.claimNow (e : DirEntry) (m : BitVec 32) (h : SameChecks s t) : SameChecks s (claimNow t e m) := by
  have hc : SameChecks s (countDie t (homeDie e.g) 1) := h
  unfold Machine.claimNow
  have hd (x : State) (e : DirEntry) (hx : SameChecks s x) : SameChecks s (setDir x e) := hx
  refine hd _ _ ?_
  split
  · exact hc
  · split <;> exact hc

theorem SameChecks.takeWrite (g : Nat) (m : BitVec 32) (nc : Bool) (die : Option Nat) (h : SameChecks s t) : SameChecks s (takeWrite t g m nc die) := by
  simp only [Machine.takeWrite]
  split
  · exact h
  · split
    · exact h
    · split
      · split
        · exact h.recallAll g
        · split <;> exact h
      · split
        · split
          · exact h
          · exact h.claimNow _ _
        · exact h

theorem SameChecks.homeWrite (a n x : Nat) (h : SameChecks s t) : SameChecks s (homeWrite t a n x) :=
  foldl_keeps (P := SameChecks s) (fun _ _ h => h.takeWrite _ _ _ _) _ h

theorem SameChecks.translate (s : State) (c : BitVec 16) (va : Nat) {l : Leaf} (h : (translate s c va).1 = .leaf l) : SameChecks s (translate s c va).2 := by
  have hr : SameChecks s s := ⟨rfl, rfl, rfl⟩
  revert h
  simp only [Machine.translate]
  split
  · exact fun _ => hr
  · split
    · exact nofun
    · next l _ =>
      have hw : SameChecks s (if bitAt l.attr.toNat 11 then s else Machine.homeWrite s l.entry 8 (l.attr.toNat + 2 ^ 11)) := by
        split
        · exact hr
        · exact hr.homeWrite _ _ _
      have hcache (x : State) (e : Tlb) (hx : SameChecks s x) : SameChecks s (cacheTlb x e) := by
        simp only [cacheTlb]
        split <;> exact hx
      split
      · exact fun _ => hw
      · exact fun _ => hcache _ _ hw

theorem leafCause_sameChecks (h : SameChecks s t) (c : BitVec 16) (va : Nat) (ask : Ask) (plain : Bool) (l : Leaf) :
    leafCause t c va ask plain l = leafCause s c va ask plain l := by
  obtain ⟨hc, hu, hd⟩ := h
  unfold leafCause vcLive cdrOf isUnhoused inAet aetMeets
  rw [hc, hu, hd]

theorem leafCause_translate {l : Leaf} {c : BitVec 16} {va : Nat} {x : State} (h : translate s c va = (.leaf l, x)) (ask : Ask) (plain : Bool) :
    leafCause x c va ask plain l = leafCause s c va ask plain l := by
  have := leafCause_sameChecks (SameChecks.translate s c va (congrArg Prod.fst h)) c va ask plain l
  rwa [h] at this

theorem Recorded.homeRead (h : Recorded s t) (a n : Nat) : homeRead t a n = homeRead s a n := by
  obtain ⟨hm, hc, -⟩ := h.rest
  exact homeRead_congr hm hc a n

theorem Recorded.walkFrom (h : Recorded s t) (die va fuel table : Nat) : walkFrom t die va fuel table = walkFrom s die va fuel table := by
  have ha (a : Nat) : aetMeets t a 16 = aetMeets s a 16 := by
    obtain ⟨o, li, fr, ds, ln, ts, du, hd, rfl⟩ := h
    rfl
  induction fuel generalizing table with
  | zero => rfl
  | succ fuel ih => simp only [Machine.walkFrom, ih, h.homeRead, ha]

theorem Recorded.translate (h : Recorded s t) (c : BitVec 16) (va : Nat) : (translate t c va).1 = (translate s c va).1 := by
  have hw : walk t c va = walk s c va := by
    simp only [walk, h.walkFrom]
    obtain ⟨o, li, fr, ds, ln, ts, du, hd, rfl⟩ := h
    rfl
  have hl : tlbOf t c va = tlbOf s c va := by
    obtain ⟨o, li, fr, ds, ln, ts, du, hd, rfl⟩ := h
    rfl
  simp only [Machine.translate, hw, hl]
  cases tlbOf s c va with
  | some x => rfl
  | none =>
    cases walk s c va with
    | fail cause bad => rfl
    | leaf l =>
      dsimp only
      split <;> rfl

theorem Recorded.leafCause (h : Recorded s t) (c : BitVec 16) (va : Nat) (ask : Ask) (plain : Bool) (l : Leaf) :
    leafCause t c va ask plain l = leafCause s c va ask plain l := by
  obtain ⟨o, li, fr, ds, ln, ts, du, hd, rfl⟩ := h
  rfl

theorem Recorded.dieAccess (h : Recorded s t) (c : BitVec 16) (va : Nat) (ask : Ask) (bx : Bool) :
    (dieAccess t c va ask bx).1 = (dieAccess s c va ask bx).1 := by
  have hw := h.translate c va
  unfold Machine.dieAccess
  rcases hs : Machine.translate s c va with ⟨w, x⟩
  rcases ht : Machine.translate t c va with ⟨w', y⟩
  obtain rfl : w' = w := by rwa [hs, ht] at hw
  cases w' with
  | fail cause bad => rfl
  | leaf l =>
    simp only [leafCause_translate hs, leafCause_translate ht, h.leafCause]
    cases Machine.leafCause s c va ask bx l <;> rfl

/-- The address of another device at which the peer's own answer decides (18 R382). -/
theorem peerCause_none_iff (s : State) (c : BitVec 16) (i : Nat) : peerCause s c i = none ↔ peerLocal s c i = none ∧ Config.peerAnswer s.fresh % 6 = 0 := by
  unfold peerCause
  cases peerLocal s c i with
  | some x => simp
  | none =>
    have hlt : Config.peerAnswer s.fresh % 6 < 6 := Nat.mod_lt _ (by decide)
    generalize Config.peerAnswer s.fresh % 6 = n at hlt
    interval_cases n <;> simp [peerAnswers]

theorem Recorded.peerLocal (h : Recorded s t) (c : BitVec 16) (i : Nat) : peerLocal t c i = peerLocal s c i := by
  have hr := h.homeRead
  simp only [Machine.peerLocal, peerEntry, hr]
  obtain ⟨o, li, fr, ds, ln, ts, du, hd, rfl⟩ := h
  rfl

/-- A peer that serves an access goes on serving it (18 R382). -/
def PeersSteady : Prop := ∀ n, Config.peerAnswer n % 6 = 0 → Config.peerAnswer (n + 1) % 6 = 0

theorem PeersSteady.later (h : PeersSteady) {m n : Nat} (hmn : m ≤ n) (hm : Config.peerAnswer m % 6 = 0) : Config.peerAnswer n % 6 = 0 :=
  Nat.le_induction hm (fun k _ ih => h k ih) n hmn

theorem devicePlace_later (hp : PeersSteady) (h : Recorded s t) (hf : s.fresh ≤ t.fresh) {c : BitVec 16} {va : Nat} {ask : Ask} {r : Nat × Bool}
    (hr : devicePlace s c va ask = .inl r) : devicePlace t c va ask = .inl r := by
  have hlo : localOf t va = localOf s va := by
    obtain ⟨o, li, fr, ds, ln, ts, du, hd, rfl⟩ := h
    rfl
  have hpc : peerCause s c (bits (localOf s va) 61 52) = none → peerCause t c (bits (localOf s va) 61 52) = none := fun hn =>
    have ⟨h1, h2⟩ := (peerCause_none_iff s c _).1 hn
    (peerCause_none_iff t c _).2 ⟨(h.peerLocal _ _).trans h1, hp.later hf h2⟩
  simp only [devicePlace, hlo, h.dieAccess] at hr ⊢
  generalize routeOf (localOf s va) = route at hr ⊢
  match route, hr with
  | 0, hr => exact hr
  | 1, hr =>
    cases hs : peerCause s c (bits (localOf s va) 61 52) with
    | some x => simp only [hs, reduceCtorEq] at hr
    | none =>
      simp only [hs] at hr
      simp only [hpc hs]
      exact hr
  | 2, hr => exact hr
  | _ + 3, hr => exact hr

theorem deviceDpas_later (hp : PeersSteady) (h : Recorded s t) (hf : s.fresh ≤ t.fresh) {c : BitVec 16} {va n : Nat} {ask : Ask} {ds : List (Nat × Bool)}
    (hr : deviceDpas s c va ask n = .inl ds) : deviceDpas t c va ask n = .inl ds := by
  induction n generalizing va ds with
  | zero => exact hr
  | succ n ih =>
    simp only [deviceDpas] at hr ⊢
    cases hd : devicePlace s c va ask with
    | inr x => simp only [deviceDpa, hd] at hr; exact absurd hr nofun
    | inl d =>
      simp only [deviceDpa, hd, devicePlace_later hp h hf hd] at hr ⊢
      cases hds : deviceDpas s c (va + 1) ask n with
      | inr x => simp only [hds] at hr; exact absurd hr nofun
      | inl ds' =>
        simp only [hds, ih hds] at hr ⊢
        exact hr

theorem Recorded.placeByte (h : Recorded s t) (a : Nat) : placeByte t a = placeByte s a := by
  obtain ⟨hm, hc, -⟩ := h.rest
  simp only [Machine.placeByte, homeByte_congr hm hc, hm]

theorem vaBytes_later (hp : PeersSteady) (h : Recorded s t) (hf : s.fresh ≤ t.fresh) {c : BitVec 16} {va n : Nat} {bs : List Byte}
    (hr : vaBytes s c va n = .inl bs) : vaBytes t c va n = .inl bs := by
  unfold vaBytes at hr ⊢
  cases hd : deviceDpas s c va .read n with
  | inr x => rw [hd] at hr; exact absurd hr nofun
  | inl ds =>
    rw [hd] at hr
    simp only [deviceDpas_later hp h hf hd, h.placeByte]
    exact hr

theorem Recorded.csbField (h : Recorded s t) (c : BitVec 16) (off n : Nat) : csbField t c off n = csbField s c off n := by
  obtain ⟨hm, hc, hs, -⟩ := h.rest
  exact csbField_congr (by rw [hs]) hm hc c off n

theorem Recorded.csDirty (h : Recorded s t) (c : BitVec 16) : csDirty t c = csDirty s c := by
  rw [Machine.csDirty, Machine.csDirty, h.csbField]

theorem imageSlot_later (hp : PeersSteady) (h : Recorded s t) (hf : s.fresh ≤ t.fresh) {c : BitVec 16} {slot : Nat} (hs : imageSlot s c slot ≠ []) :
    imageSlot t c slot = imageSlot s c slot := by
  simp only [imageSlot, h.csbField] at hs ⊢
  cases hv : vaBytes s c (Machine.csbField s c 0x40 8 + 256 * slot) 256 with
  | inr x => exact absurd (by rw [hv]) hs
  | inl bs => rw [vaBytes_later hp h hf hv]

theorem slotCode_later (hp : PeersSteady) (h : Recorded s t) (hf : s.fresh ≤ t.fresh) {slot : Nat} (hs : slotCode s slot ≠ []) :
    slotCode t slot = slotCode s slot := by
  obtain ⟨-, hcoh, -⟩ := h.rest
  obtain ⟨o, hd⟩ := h.dr
  have hc : t.dr.ctx = s.dr.ctx := by rw [hd]; rfl
  have hk : coreOf t t.dr.core = coreOf s s.dr.core := by rw [coreOf, coreOf, hcoh, hd]; rfl
  by_cases hheld : (coreOf s s.dr.core).cstore = some s.dr.ctx
  · simp only [slotCode, hk, hc, hheld, if_true]
  · by_cases hdirty : Machine.csDirty s s.dr.ctx = true
    · simp only [slotCode, hk, hc, hheld, if_false, h.csDirty, hdirty, if_true] at hs ⊢
      exact imageSlot_later hp h hf hs
    · simp only [slotCode, hk, hc, hheld, if_false, h.csDirty, hdirty, Bool.false_eq_true]

end

/-! The choice counter only goes forward, and the record of an issue slot draws at most forward. -/

/-- Between `s` and `t` the choice counter has not gone back. -/
def Ahead (s t : State) : Prop := s.fresh ≤ t.fresh

namespace Ahead

section
variable {s t u : State}

theorem refl (s : State) : Ahead s s := Nat.le_refl _
theorem trans (h : Ahead s t) (k : Ahead t u) : Ahead s u := Nat.le_trans h k
theorem of_eq (h : t.fresh = s.fresh) : Ahead s t := h.ge
theorem draw (s : State) : Ahead s (draw s).2 := Nat.le_succ _
theorem onStream (s : State) (die : Nat) (f : TraceStream → TraceStream) : Ahead s (onStream s die f) := .refl s
theorem onDr (s : State) (f : Drove → Drove) : Ahead s (onDr s f) := .refl s
theorem onFl (s : State) (f : Flock → Flock) : Ahead s (onFl s f) := .refl s

theorem onDrove (s : State) (u : Nat) (f : Drove → Drove) : Ahead s (onDrove s u f) := by
  unfold Machine.onDrove
  split <;> exact .refl s

theorem emit (s : State) (die : Nat) (bs : List Byte) : Ahead s (emit s die bs) := by
  unfold Machine.emit
  by_cases h : (streamOf s die).dropped ≠ 0 ∨ bs.length ≤ (streamOf s die).room
  · simp only [h, if_true]
    split <;> exact .onStream _ _ _
  · simp only [h, if_false]
    split <;> exact (draw s).trans (.onStream _ _ _)

theorem emitSync (s : State) (die : Nat) (d : Drove) (pc : W64) : Ahead s (emitSync s die d pc) :=
  ((emit s die _).trans (.onStream _ _ _)).trans (.onDrove _ _ _)

theorem emitDelta (s : State) (die t : Nat) (d : Drove) : Ahead s (emitDelta s die t d) := by
  unfold Machine.emitDelta
  refine .trans ?_ (.onStream _ _ _)
  split
  · exact .refl s
  · split
    · exact .emit _ _ _
    · split
      · exact .emit _ _ _
      · exact .emitSync _ _ _ _

theorem nameDrove (s : State) (die t : Nat) (d : Drove) : Ahead s (nameDrove s die t d) := by
  unfold Machine.nameDrove
  dsimp only
  split
  · exact .refl s
  · split
    · exact .emitDelta _ _ _ _
    · exact ((emitDelta _ _ _ _).trans (.emit _ _ _)).trans (.onStream _ _ _)

theorem flushBr (s : State) (die : Nat) (d : Drove) : Ahead s (flushBr s die d) := by
  unfold Machine.flushBr
  split
  · exact .refl s
  · refine .trans (.trans (.trans (.trans ?_ (.emitDelta _ _ _ _)) (.emit _ _ _)) (.onStream _ _ _)) (.onDrove _ _ _)
    split
    · exact .emitSync _ _ _ _
    · exact .nameDrove _ _ _ _

theorem flushDue (s : State) (die : Nat) (d : Drove) (pc : W64) : Ahead s (flushDue s die d pc) := by
  unfold Machine.flushDue
  split
  · exact (flushBr _ _ _).trans (.emitSync _ _ _ _)
  · exact .flushBr _ _ _

theorem flushAll (s : State) (die : Nat) (d : Drove) (pc : W64) : Ahead s (flushAll s die d pc) :=
  foldl_keeps (P := Ahead s) (fun _ x h => h.trans (.flushDue _ die x _)) _ (.refl s)

theorem turnTo (s : State) (die t : Nat) (d : Drove) (pc : W64) : Ahead s (turnTo s die t d pc) := by
  unfold Machine.turnTo
  refine .trans (.flushAll s die d pc) ?_
  dsimp only
  split
  · exact .emitSync _ _ _ _
  · exact .nameDrove _ _ _ _

theorem traceIssue (s : State) : Ahead s (traceIssue s) := by
  unfold Machine.traceIssue
  dsimp only
  split
  · exact .refl s
  · split
    · exact .refl s
    · split
      · exact .turnTo _ _ _ _ _
      · exact (((turnTo _ _ _ _ _).trans (.emitDelta _ _ _ _)).trans (.emit _ _ _)).trans (.onDr _ _)

theorem laneAdd (s : State) (die c b n : Nat) : Ahead s (laneAdd s die c b n) := by
  unfold Machine.laneAdd
  split <;> exact .refl s

theorem laneCount (s : State) (idle : Option Nat) : Ahead s (laneCount s idle) := by
  unfold Machine.laneCount
  dsimp only
  split
  · exact .refl s
  · split
    · exact .laneAdd _ _ _ _ _
    · exact (((laneAdd _ _ _ _ _).trans (.laneAdd _ _ _ _ _)).trans (.laneAdd _ _ _ _ _)).trans
        ((laneAdd _ _ _ _ _).trans (.laneAdd _ _ _ _ _))

theorem formGang (fit : Drove → Bool) (s : State) : Ahead s (formGang fit s).2 := by
  unfold Machine.formGang
  split <;> exact .refl s

theorem unpop (s : State) (us : List Use) : Ahead s (unpop s us) := by
  unfold Machine.unpop
  split <;> exact .refl s

theorem issued (fit : Drove → Bool) (s : State) (us : List Use) (n : Nat) : Ahead s (issued fit s us n) :=
  (((unpop s us).trans (formGang fit _)).trans (foldl_keeps (P := Ahead _) (fun _ _ h => h.trans (.laneCount _ _)) _ (.refl _))).trans
    ((traceIssue _).trans (.onFl _ _))

end

end Ahead

/-- With steady peers `mcall` begins the microprogram that its slot holds (11 R257). -/
theorem mcall_takes {s : State} {p va vb : BitVec 7} {k : BitVec 3} (hp : PeersSteady) (hs : slotCode s p.toNat ≠ []) :
    ∃ t, exec (.mcall p va vb k) s = .next t ∧ t.dr.pc = s.dr.after.getD s.dr.pc ∧ t.dr.s = s.dr.s ∧ t.mem = s.mem ∧
      (s.dr.after = none → t.dr.micro = some { slot := p, pa := va, pb := vb, k := k, step := 0, code := slotCode s p.toNat }) := by
  have hd : stopIf (slotCode s p.toNat).isEmpty 0x01 = .go := by
    rw [Bool.eq_false_iff.2 fun h => hs (List.isEmpty_iff.1 h)]
    rfl
  refine ⟨_, mcall_eq.trans (congrArg _ (issueIf_go _ (verdict_empty_go s) hd)), ?_⟩
  have hu := issued_recorded (canGo {} (fun s => stopIf (slotCode s p.toNat).isEmpty 0x01) s) s ({} : Chk).uses ({} : Chk).slots
  have hf := Ahead.issued (canGo {} (fun s => stopIf (slotCode s p.toNat).isEmpty 0x01) s) s ({} : Chk).uses ({} : Chk).slots
  generalize issued (canGo {} (fun s => stopIf (slotCode s p.toNat).isEmpty 0x01) s) s ({} : Chk).uses ({} : Chk).slots = u at hu hf ⊢
  have hcode := slotCode_later hp hu hf hs
  obtain ⟨o, hdr⟩ := hu.dr
  obtain ⟨hm, -⟩ := hu.rest
  simp only [mcallRun, hcode, onDr, onFl, hdr]
  refine ⟨rfl, rfl, hm, fun ha => ?_⟩
  have : (s.dr.recorded o).after = none := ha
  simp only [retireDr, this, Option.isSome_none, Bool.false_eq_true, if_false]

/-- Every clause of `SystemResult` holds when the peers are steady; all but that of `mcall` do not need it. -/
theorem systemResult_of_peersSteady (hp : PeersSteady) : Obligations.SystemResult := by
  intro s a b d n c p va vb k x
  refine ⟨?_, ?_, ?_, ?_, ?_, ?_, ?_, ?_, ?_, ?_, ?_, ?_⟩
  · intro hf hn h12
    obtain ⟨fit, h⟩ := sysrd_user hf hn h12
    refine ⟨fun h3 => ?_, fit, h⟩
    rwa [userRead_recorded (issued_recorded fit s _ 1) h3] at h
  · exact sysrd_slow
  · exact fun hf => ⟨syswr_user hf, syswr_refused hf, syswr_priv hf⟩
  · exact fun i hi hn hpr => sys_user_stops hn hpr i hi
  · exact fun i hi hpr => privileged_only hpr i hi
  · exact tlbi_takes
  · exact mcall_takes hp
  · exact mcall_stops
  · exact fun w t => qhelp_takes
  · exact rlaunch_takes
  · exact exit_takes
  · exact fun u => spill_takes

end Sys2Proof.Machine

namespace Sys2Proof.Machine

set_option Elab.async false

/-! PROOFS. What `SystemResult` comes down to, second half. A drove that is traced, with a trace buffer that has no room, calls a slot of a
control-store image that a peer holds. Its check reads the slot under one free answer of the peer and its issue under the next one. -/

theorem flushAll_none {s : State} {die : Nat} {d : Drove} {pc : W64} (h : (pendingBrs s die).isEmpty = true) : flushAll s die d pc = s := by
  rw [flushAll, List.isEmpty_iff.1 h]
  rfl

/-- A drove that the stream is at needs no packet to be named. -/
theorem turnTo_here {s : State} {die t : Nat} {d : Drove} {pc : W64} (hp : (pendingBrs s die).isEmpty = true)
    (hd : ((droveOf s d.uid).getD d).trace.seen = true) (hr : ((droveOf s d.uid).getD d).trace.resync = false) (hs : syncDue s die = false)
    (hc : ((streamOf s die).current == some d.droveId.toNat) = true) : turnTo s die t d pc = s := by
  simp only [turnTo, flushAll_none hp, hd, hr, hs, Bool.not_true, Bool.or_false, Bool.false_eq_true, if_false, nameDrove, hc, if_true]

theorem emit_draws {s : State} {die : Nat} {bs : List Byte} (hd : (streamOf s die).dropped = 0) (hr : (streamOf s die).room < bs.length) :
    (emit s die bs).fresh = s.fresh + 1 := by
  have h : ¬ ((streamOf s die).dropped ≠ 0 ∨ bs.length ≤ (streamOf s die).room) := by omega
  unfold emit
  simp only [h, if_false]
  split <;> rfl

/-- The state: CSB at 0 with CSDIRTY and CSIMG at the peer 1, whose entry of the peer table at 0x1000 is valid. -/
def peerImage (f : Nat) : State :=
  { State.reset with
    dr := { Drove.vacant with tctl := 1, trace := { TraceSt.start with seen := true } }
    mem := { State.reset.mem with hbm := [(0, 2), (0x46, 0x10), (0x47, 0x40), (0x1008, 1), (0x100F, 0x80)], peer := [(2 ^ 52, 1)] }
    sch := { State.reset.sch with ctxs := [{ Ctx.new 0 with csb := some 0, peert := 0x1000 }] }
    dev := { State.reset.dev with ports := 1, traces := [{ TraceStream.atReset with room := 0, current := some 0 }] }
    fresh := f }

theorem peerImage_recorded (f : Nat) : Recorded (peerImage 0) (peerImage f) :=
  ⟨(peerImage 0).dr.seen, 0, f, [], [], (peerImage 0).dev.traces, [], rfl, rfl⟩

theorem peerImage_field (f : Nat) : csbField (peerImage f) 0 0 4 = 2 ∧ csbField (peerImage f) 0 0x40 8 = 2 ^ 62 + 2 ^ 52 := by
  rw [(peerImage_recorded f).csbField, (peerImage_recorded f).csbField]
  decide +kernel

theorem peerImage_local (f : Nat) : peerLocal (peerImage f) 0 1 = none := by
  rw [(peerImage_recorded f).peerLocal]
  decide +kernel

theorem formGang_alone {s : State} {fit : Drove → Bool} (hg : s.dr.gangDue = false) (hd : s.droves = []) :
    (formGang fit s).2 = onDr { joinGang s [] with due := [] } fun d => { d with gang := false } := by
  simp only [formGang, hg, Bool.false_eq_true, if_false, gangMates, hd, List.filter_nil, List.take_nil]
  rfl

theorem laneCount_off {s : State} {idle : Option Nat} (h : (privReg s 0xE0).toNat % 2 = 0) : laneCount s idle = s := by
  simp only [laneCount, h, true_or, if_true]

/-- The state once its issue slot has been counted. -/
def peerCounted (f : Nat) : State := onDr { joinGang (peerImage f) [] with due := [] } fun d => { d with gang := false }

theorem emitDelta_past {s : State} {die t : Nat} {d : Drove} (h : t ≤ (streamOf s die).clock) :
    emitDelta s die t d = onStream s die fun x => { x with clock := max x.clock t } := by
  simp only [emitDelta, h, if_true]

/-- The mask of a traced drove that the stream is at is one packet; with no room for it a choice says how much has drained. -/
theorem traceIssue_draws {s : State} {die : Nat} {d : Drove} (hu : unhelp s.dr = d) (hdie : dieOfCore d.core = die) (ht : traced d = true)
    (hm : s.dr.trace.mask = none) (hturn : turnTo s die s.cycle d d.pc = s) (hc : s.cycle ≤ (streamOf s die).clock)
    (hd : (streamOf (onStream s die fun x => { x with clock := max x.clock s.cycle }) die).dropped = 0)
    (hr : (streamOf (onStream s die fun x => { x with clock := max x.clock s.cycle }) die).room = 0) :
    (traceIssue s).fresh = s.fresh + 1 := by
  simp only [traceIssue, hu, hdie, ht, Bool.not_true, Bool.false_eq_true, if_false, hm, reduceCtorEq, hturn, emitDelta_past hc]
  refine (emit_draws hd (hr.trans_lt ?_)).trans rfl
  simp

theorem peerCounted_turn (f : Nat) : turnTo (peerCounted f) 0 0 (unhelp (peerCounted f).dr) 0 = peerCounted f :=
  turnTo_here (show (pendingBrs (peerCounted 0) 0).isEmpty = true by decide +kernel)
    (show ((droveOf (peerCounted 0) 0).getD (unhelp (peerCounted 0).dr)).trace.seen = true by decide +kernel)
    (show ((droveOf (peerCounted 0) 0).getD (unhelp (peerCounted 0).dr)).trace.resync = false by decide +kernel)
    (show syncDue (peerCounted 0) 0 = false by decide +kernel)
    (show ((streamOf (peerCounted 0) 0).current == some (unhelp (peerCounted 0).dr).droveId.toNat) = true by decide +kernel)

theorem peerImage_issued (fit : Drove → Bool) (f : Nat) : (issued fit (peerImage f) []).fresh = f + 1 := by
  have hu : unpop (peerImage f) [] = peerImage f := by rfl
  have hg : (formGang fit (peerImage f)).2 = peerCounted f := formGang_alone (by rfl) (by rfl)
  have hl (idle : Option Nat) : laneCount (peerCounted f) idle = peerCounted f :=
    laneCount_off (show (privReg (peerCounted 0) 0xE0).toNat % 2 = 0 by decide +kernel)
  have hc : (peerCounted f).cycle ≤ (streamOf (peerCounted f) 0).clock := Nat.zero_le _
  have h : (traceIssue (peerCounted f)).fresh = (peerCounted f).fresh + 1 := by
    refine traceIssue_draws (d := unhelp (peerCounted f).dr) (die := 0) rfl ?_ ?_ rfl (peerCounted_turn f) hc ?_ ?_
    · exact (show dieOfCore (unhelp (peerCounted 0).dr).core = 0 by decide +kernel)
    · exact (show traced (unhelp (peerCounted 0).dr) = true by decide +kernel)
    · exact (show (streamOf (onStream (peerCounted 0) 0 fun x => { x with clock := max x.clock 0 }) 0).dropped = 0 by decide +kernel)
    · exact (show (streamOf (onStream (peerCounted 0) 0 fun x => { x with clock := max x.clock 0 }) 0).room = 0 by decide +kernel)
  simp only [issued, account, hu, List.range_one, List.foldl_cons, List.foldl_nil, hg, hl]
  exact h

section
variable {t : State} {va : Nat}

/-- Addresses of the peer 1. -/
theorem peerImage_route (h : Recorded (peerImage 0) t) (hlo : 2 ^ 62 + 2 ^ 52 ≤ va) (hhi : va < 2 ^ 62 + 2 * 2 ^ 52) :
    routeOf va = 1 ∧ bits va 61 52 = 1 ∧ localOf t va = va := by
  have hr : routeOf va = 1 := by simp only [routeOf, bits]; omega
  have hb : bits va 61 52 = 1 := by simp only [bits]; omega
  have hf : fabid t = 0 := by
    obtain ⟨-, -, -, -, -, -, -, hp, -⟩ := h.rest
    have : fabid t = fabid (peerImage 0) := by simp only [fabid, privReg, hp]
    exact this.trans (by decide +kernel)
  refine ⟨hr, hb, ?_⟩
  simp [localOf, hr, hb, hf]

theorem peerImage_cause (h : Recorded (peerImage 0) t) : peerCause t 0 1 = none ↔ Config.peerAnswer t.fresh % 6 = 0 := by
  rw [peerCause_none_iff, h.peerLocal, peerImage_local]
  simp

theorem peerImage_place (h : Recorded (peerImage 0) t) (hlo : 2 ^ 62 + 2 ^ 52 ≤ va) (hhi : va < 2 ^ 62 + 2 * 2 ^ 52) :
    (Config.peerAnswer t.fresh % 6 = 0 → deviceDpa t 0 va .read = .inl (va, true)) ∧
    (Config.peerAnswer t.fresh % 6 ≠ 0 → ∃ x, deviceDpa t 0 va .read = .inr x) := by
  obtain ⟨hr, hb, hl⟩ := peerImage_route h hlo hhi
  constructor
  · intro ha
    have hc := (peerImage_cause h).2 ha
    simp only [deviceDpa, devicePlace, hl, hr, hb, hc]
  · intro ha
    obtain ⟨x, hx⟩ := Option.ne_none_iff_exists'.1 fun hn => ha ((peerImage_cause h).1 hn)
    simp only [deviceDpa, devicePlace, hl, hr, hb, hx]
    exact ⟨_, rfl⟩

theorem deviceDpas_run {s : State} {c : BitVec 16} {ask : Ask} {g : Nat → Nat × Bool} {n : Nat} (h : ∀ a, va ≤ a → a < va + n → deviceDpa s c a ask = .inl (g a)) :
    deviceDpas s c va ask n = .inl ((List.range n).map fun k => g (va + k)) := by
  induction n generalizing va with
  | zero => rfl
  | succ n ih =>
    have hs := ih (va := va + 1) fun a h1 h2 => h a (by omega) (by omega)
    simp only [deviceDpas, h va (Nat.le_refl _) (by omega), hs, List.range_succ_eq_map, List.map_cons, List.map_map, Nat.add_zero]
    refine congrArg (fun l => Sum.inl (g va :: l)) (List.map_congr_left fun k _ => ?_)
    simp only [Function.comp, Nat.succ_eq_add_one, Nat.add_assoc, Nat.add_comm 1 k]

/-- The bytes of slot 0 as the peer 1 holds them. -/
def peerSlot : List Byte := (List.range 256).map fun k => memByte [(2 ^ 52, 1)] ((2 ^ 62 + 2 ^ 52 + k) % 2 ^ 62)

theorem peerImage_code (h : Recorded (peerImage 0) t) :
    (Config.peerAnswer t.fresh % 6 = 0 → slotCode t 0 ≠ []) ∧ (Config.peerAnswer t.fresh % 6 ≠ 0 → slotCode t 0 = []) := by
  obtain ⟨hm, hcoh, -⟩ := h.rest
  obtain ⟨o, hd⟩ := h.dr
  have hctx : t.dr.ctx = 0 := by rw [hd]; rfl
  have hk : (coreOf t t.dr.core).cstore = none := by rw [coreOf, hcoh, hd]; exact (show (coreOf (peerImage 0) 0).cstore = none by decide +kernel)
  obtain ⟨h0, h40⟩ := peerImage_field 0
  have hdirty : csDirty t 0 = true := by rw [h.csDirty, csDirty, h0]; rfl
  have hcode : slotCode t 0 = imageSlot t 0 0 := by simp only [slotCode, hk, hctx, hdirty, reduceCtorEq, if_false, if_true]
  rw [hcode, imageSlot, h.csbField, h40, Nat.mul_zero, Nat.add_zero]
  constructor
  · intro ha
    have hds := deviceDpas_run (va := 2 ^ 62 + 2 ^ 52) (n := 256) (g := fun a => (a, true)) fun a h1 h2 =>
      (peerImage_place h h1 (by omega)).1 ha
    have hbytes : vaBytes t 0 (2 ^ 62 + 2 ^ 52) 256 = .inl peerSlot := by
      simp only [vaBytes, hds, List.map_map]
      refine congrArg Sum.inl (List.map_congr_left fun k hk => ?_)
      have hk := List.mem_range.1 hk
      have h1 : placeFar (2 ^ 62 + 2 ^ 52 + k) = true := by simp only [placeFar, decide_eq_true_eq]; omega
      have h2 : 2 ^ 62 + 2 ^ 52 + k < 2 ^ 63 := by omega
      simp only [Function.comp, placeByte, h1, Bool.not_true, Bool.false_eq_true, if_false, h2, if_true, hm]
      rfl
    rw [hbytes]
    decide +kernel
  · intro ha
    obtain ⟨x, hx⟩ := (peerImage_place h (va := 2 ^ 62 + 2 ^ 52) (Nat.le_refl _) (by omega)).2 ha
    simp only [vaBytes, deviceDpas, hx]

end

theorem mcallRun_micro {u : State} {p va vb : BitVec 7} {k : BitVec 3} (h : u.dr.after = none) :
    (mcallRun p va vb k u).dr.micro = some { slot := p, pa := va, pb := vb, k := k, step := 0, code := slotCode u p.toNat } := by
  simp only [mcallRun, onDr, onFl, retireDr, h, Option.isSome_none, Bool.false_eq_true, if_false]

/-- Peers that did not stay steady would refute the clause of `mcall`: it would begin a microprogram with no steps. -/
theorem peersSteady_of_systemResult (h : Obligations.SystemResult) : PeersSteady := by
  intro f hf
  obtain ⟨-, -, -, -, -, -, hcall, -⟩ := h (peerImage f) 0 0 0 0 0 0 0 0 0
  have hs := (peerImage_code (peerImage_recorded f)).1 hf
  obtain ⟨t, ht, -, -, -, hmicro⟩ := hcall hs
  have hd : stopIf (slotCode (peerImage f) 0).isEmpty 0x01 = .go := by
    rw [Bool.eq_false_iff.2 fun h => hs (List.isEmpty_iff.1 h)]
    rfl
  have he : exec (.mcall 0 0 0 0) (peerImage f) = _ := mcall_eq.trans (congrArg _ (issueIf_go _ (verdict_empty_go _) hd))
  have hi := peerImage_issued (canGo {} (fun s => stopIf (slotCode s 0).isEmpty 0x01) (peerImage f)) f
  have hr := issued_recorded (canGo {} (fun s => stopIf (slotCode s 0).isEmpty 0x01) (peerImage f)) (peerImage f) [] 1
  obtain rfl : t = mcallRun 0 0 0 0 (issued (canGo {} (fun s => stopIf (slotCode s 0).isEmpty 0x01) (peerImage f)) (peerImage f) []) := by
    have := ht.symm.trans he
    exact Host.Outcome.next.inj this
  generalize issued (canGo {} (fun s => stopIf (slotCode s 0).isEmpty 0x01) (peerImage f)) (peerImage f) [] = u at *
  by_contra hn
  rw [← hi] at hn
  have hu := (peerImage_code ((peerImage_recorded f).trans hr)).2 hn
  have hm := hmicro rfl
  obtain ⟨o, hdr⟩ := hr.dr
  have hcode := (mcallRun_micro (u := u) (p := 0) (va := 0) (vb := 0) (k := 0) (by rw [hdr]; rfl)).symm.trans hm
  exact hs ((congrArg Micro.code (Option.some.inj hcode)).symm.trans hu)

/-- The clause of `mcall` says that a peer which serves an access serves the next one too. `Config.peerAnswer` is a free value, so the
model decides neither side. -/
theorem systemResult_iff : Obligations.SystemResult ↔ PeersSteady := ⟨peersSteady_of_systemResult, systemResult_of_peersSteady⟩

end Sys2Proof.Machine
